-- ==== Sys2Proof/Word.lean ====
section
/-! DEFINITION. The word and byte types of the Z9 (R7, R9): a byte is 8 bits, a word of a layout table 64 bits,
a command of a tensor core 256 bits (R111). -/

namespace Sys2Proof

/-- A byte (R7). -/
abbrev Byte := BitVec 8

/-- A word of the layout tables, a set-up register, a scalar register (R9, R11, R102). -/
abbrev Word := BitVec 64

/-- A command of a tensor core (R111). -/
abbrev Cmd := BitVec 256

end Sys2Proof
end

