-- ==== Sys2Proof/Syntax.lean ====
section
/-! DEFINITION. The commands that the block takes (spec/opcode_table.json) and the structures that they carry: frames
of the fabric (R347 to R349) and descriptors and lines of the host interface (R537). -/

namespace Sys2Proof

/-- A frame: header words 0 to 7 (R348), payload bytes, and trailer words 0 to 7 when there is a payload (R349). -/
structure Frame where
  hdr : List Word
  payload : List Byte
  trailer : List Word
  deriving DecidableEq, Repr

/-- The commands and events of the table (spec/opcode_table.json), one constructor per row; the rule that
governs each is named. -/
inductive Instr
  /-- REG_WRITE (R15). -/
  | regWrite (off : Nat) (size : Nat) (v : Word) (sets : Nat := 0)
  /-- CONFIG_REQUEST (R562). -/
  | configRequest (early : Bool)
  /-- FLUSH_CLEAR (R61). -/
  | flushClear (n : Nat) (inc : Nat)
  /-- SR_GO (R90). -/
  | srGo (tensor : Nat)
  /-- SR_EVAL_DONE (R90). -/
  | srEvalDone
  /-- LAUNCH_START (R103). -/
  | launchStart (n : Nat)
  /-- UNDEFINED_OPCODE (R118). -/
  | undefinedOpcode (n : Nat)
  /-- MAT_MM (R174). -/
  | matMm (n : Nat)
  /-- MAT_MMP (R182). -/
  | matMmp (n : Nat)
  /-- MAT_MMS (R199). -/
  | matMms (n : Nat)
  /-- MAT_PADD (R181). -/
  | matPadd (n : Nat) (occ : Nat)
  /-- VEC_ADD (R120). -/
  | vecAdd (n : Nat)
  /-- VEC_MUL (R120). -/
  | vecMul (n : Nat)
  /-- VEC_FMA (R120). -/
  | vecFma (n : Nat)
  /-- VEC_MAX (R124). -/
  | vecMax (n : Nat)
  /-- VEC_MIN (R124). -/
  | vecMin (n : Nat)
  /-- VEC_NEG (R58). -/
  | vecNeg (n : Nat)
  /-- VEC_ABS (R58). -/
  | vecAbs (n : Nat)
  /-- VEC_CVT (R57). -/
  | vecCvt (n : Nat)
  /-- VEC_EXP2 (R124). -/
  | vecExp2 (n : Nat)
  /-- VEC_LOG2 (R124). -/
  | vecLog2 (n : Nat)
  /-- VEC_RCP (R124). -/
  | vecRcp (n : Nat)
  /-- VEC_RSQRT (R124). -/
  | vecRsqrt (n : Nat)
  /-- VEC_ROWSUM (R123). -/
  | vecRowsum (n : Nat)
  /-- VEC_ROWMAX (R123). -/
  | vecRowmax (n : Nat)
  /-- VEC_UPD (R208). -/
  | vecUpd (n : Nat)
  /-- MOV_COPY (R251). -/
  | movCopy (n : Nat) (occ : Nat) (errs : List (Nat × Bool))
  /-- MOV_CVT (R54). -/
  | movCvt (n : Nat) (occ : Nat)
  /-- MOV_MXIN (R67). -/
  | movMxin (n : Nat) (occ : Nat)
  /-- MOV_MXOUT (R68). -/
  | movMxout (n : Nat) (occ : Nat)
  /-- MOV_ATOM (R253). -/
  | movAtom (n : Nat) (occ : Nat)
  /-- MOV_STASH (R127). -/
  | movStash (n : Nat)
  /-- STASH_POOL_REPLY (R127). -/
  | stashPoolReply (n : Nat) (cyc : Nat) (occ : Nat)
  /-- MOV_RELEASE (R273). -/
  | movRelease (n : Nat) (occ : Nat)
  /-- MOV_IMLOAD (R145). -/
  | movImload (n : Nat) (occ : Nat)
  /-- SYN_NOP (R118). -/
  | synNop (n : Nat)
  /-- SYN_WAIT (R133). -/
  | synWait (n : Nat)
  /-- WAIT_SATISFIED (R133). -/
  | waitSatisfied (n : Nat) (cyc : Nat)
  /-- WAIT_TIMEOUT (R136). -/
  | waitTimeout (n : Nat) (cyc : Nat)
  /-- SYN_SIGNAL (R118). -/
  | synSignal (n : Nat)
  /-- SYN_RSIGNAL (R137). -/
  | synRsignal (n : Nat) (occ : Nat)
  /-- SYN_SETP (R126). -/
  | synSetp (n : Nat)
  /-- SYN_SKIP (R141). -/
  | synSkip (n : Nat)
  /-- SYN_REPEAT (R143). -/
  | synRepeat (n : Nat)
  /-- SYN_SWAP (R149). -/
  | synSwap (n : Nat)
  /-- SYN_END (R152). -/
  | synEnd (n : Nat)
  /-- SYN_SALU (R126). -/
  | synSalu (n : Nat)
  /-- SYN_SLD (R118). -/
  | synSld (n : Nat)
  /-- SYN_SST (R118). -/
  | synSst (n : Nat)
  /-- SYN_FLAGS (R705). -/
  | synFlags (n : Nat)
  /-- SYN_COLL (R481). -/
  | synColl (n : Nat) (occ : Nat)
  /-- FIXED_WRITEBACK (R132). -/
  | fixedWriteback (n : Nat)
  /-- VAR_COMMAND_COMPLETE (R129). -/
  | varCommandComplete (n : Nat) (f : Nat) (cyc : Nat)
  /-- HALT_LIMIT (R163). -/
  | haltLimit (n : Nat)
  /-- END_DRAIN_DONE (R152). -/
  | endDrainDone (n : Nat)
  /-- HALT_DRAIN_DONE (R153). -/
  | haltDrainDone (n : Nat)
  /-- HALT_DRAIN_TIMEOUT (R153). -/
  | haltDrainTimeout (n : Nat) (cyc : Nat := 0)
  /-- HALT_HOST (R155). -/
  | haltHost (n : Nat) (cyc : Nat)
  /-- CLEAR_HALT (R139). -/
  | clearHalt (n : Nat)
  /-- CORE_RESET (R140). -/
  | coreReset (n : Nat)
  /-- POOL_INIT (R264). -/
  | poolInit
  /-- POOL_INIT_DONE (R265). -/
  | poolInitDone
  /-- MEM_ERR_CLEAR (R258). -/
  | memErrClear (inc : Word)
  /-- REQUEST_TIMEOUT (R256). -/
  | requestTimeout (port : Nat) (tag : Nat)
  /-- PATROL_SCRUB (R703). -/
  | patrolScrub (key : Nat) (found : Nat) (reader : Bool := false)
  /-- FAR_ECC_POLL (R280). -/
  | farEccPoll (p : Nat) (answers : Bool) (errs : List Nat)
  /-- STACK_TEMP_CHANGE (R284). -/
  | stackTempChange (st : Nat) (temp : Nat)
  /-- HDM_READ (R525). -/
  | hdmRead (range : Nat) (off : Nat) (caches : Bool)
  /-- HDM_WRITE (R525). -/
  | hdmWrite (range : Nat) (off : Nat) (data : List Byte) (be : Word) (caches : Bool)
  /-- BISNP_RESPONSE (R524). -/
  | bisnpResponse (line : Nat) (inv : Bool) (data : List Byte) (keep : Bool)
  /-- ENABLE (R320). -/
  | enable (q : Nat) (v : Word) (fw : Bool)
  /-- RETRAIN (R324). -/
  | retrain (q : Nat)
  /-- LNK_CLEAR_CNT (R335). -/
  | lnkClearCnt (q : Nat) (incs : List (Nat × Nat) := [])
  /-- SPARE_NOW (R326). -/
  | spareNow (q : Nat) (lane : Nat) (sub : Nat)
  /-- TRAINING_MARKER (R321). -/
  | trainingMarker (q : Nat) (j : Nat) (inv : Bool) (snr : Nat) (sat : Bool) (w : Word)
  /-- BRINGUP_RETRY (R320). -/
  | bringupRetry (q : Nat)
  /-- EQUALISER_TIMEOUT (R320). -/
  | equaliserTimeout (q : Nat)
  /-- CODEWORD_SEND (R301). -/
  | codewordSend (p : Nat)
  /-- CODEWORD_RECEIVE (R308): the 2,720 levels of a codeword, in five runs of 544. -/
  | codewordReceive (q : Nat) (j : Nat) (r0 r1 r2 r3 r4 : List Nat)
  /-- LCS_IDLE (R304). -/
  | lcsIdle (p : Nat)
  /-- LCS_CTRL (R304). -/
  | lcsCtrl (p : Nat)
  /-- LCS_INIT (R323). -/
  | lcsInit (p : Nat)
  /-- LCS_SPARE (R326). -/
  | lcsSpare (p : Nat)
  /-- ACK_TIMER (R309). -/
  | ackTimer (p : Nat)
  /-- NAK_REPEAT (R308). -/
  | nakRepeat (p : Nat)
  /-- KEEPALIVE_SEND (R315). -/
  | keepaliveSend (p : Nat)
  /-- KA_TIMEOUT (R316). -/
  | kaTimeout (p : Nat)
  /-- FAST_RETRAIN_TIMEOUT (R324). -/
  | fastRetrainTimeout (p : Nat)
  /-- LANE_LOSS_START (R317). -/
  | laneLossStart (q : Nat) (j : Nat) (lol : Bool)
  /-- LANE_LOSS_END (R317). -/
  | laneLossEnd (q : Nat) (j : Nat) (lol : Bool)
  /-- LANE_LOSS_PERSIST (R707). -/
  | laneLossPersist (q : Nat) (j : Nat)
  /-- QUAD_PLL_UNLOCK (R318). -/
  | quadPllUnlock (q : Nat)
  /-- QUAD_PLL_LOCK (R318). -/
  | quadPllLock (q : Nat)
  /-- CLOCK_MISMATCH (R297). -/
  | clockMismatch (q : Nat) (j : Nat)
  /-- SPARE_TRAIN_DONE (R326). -/
  | spareTrainDone (p : Nat) (ok : Bool)
  /-- OPTICS_POLL (R336). -/
  | opticsPoll (c : Nat) (cmis : Bool) (modw : Word) (lanes : List Word) (thr : List Nat)
  /-- OPT_PRESENT_CHANGE (R675). -/
  | optPresentChange (c : Nat) (low : Bool)
  /-- VCC_OPT_OVERCURRENT (R676). -/
  | vccOptOvercurrent (c : Nat)
  /-- VCC_OPT_RETRY (R676). -/
  | vccOptRetry (c : Nat) (ok : Bool)
  /-- FRAME_ARRIVE (R355). -/
  | frameArrive (p : Nat)
  /-- FRAME_TAIL (R369). -/
  | frameTail (p : Nat)
  /-- ADAPTIVE_CHOICE (R358). -/
  | adaptiveChoice (id : Nat)
  /-- OUTPUT_SELECT (R401). -/
  | outputSelect (p : Nat)
  /-- CREDIT_GRANT (R375). -/
  | creditGrant (p : Nat) (v : Nat)
  /-- AGE_CHECK (R385). -/
  | ageCheck
  /-- FENCE (R390). -/
  | fence (p : Nat) (v : Bool) (fw : Bool)
  /-- GMIN_WRITE (R373). -/
  | gminWrite (p : Nat) (v : Word) (fw : Bool)
  /-- SWC_CLEAR_CNT (R377). -/
  | swcClearCnt (incs : List (Nat × Nat) := [])
  /-- RSV_WRITE (R410). -/
  | rsvWrite (r : Nat) (v : Word) (fw : Bool)
  /-- REFILL (R407). -/
  | refill
  /-- POLICER_ACCEPT (R411). -/
  | policerAccept (r : Nat)
  /-- WR (R364). -/
  | wr
  /-- RD (R364). -/
  | rd (errs : List (Nat × Bool))
  /-- RDDATA (R393). -/
  | rddata
  /-- WRACK (R393). -/
  | wrack
  /-- ATOM (R253). -/
  | atom
  /-- ATOMRSP (R393). -/
  | atomrsp
  /-- SIG (R137). -/
  | sig
  /-- SIGACK (R393). -/
  | sigack
  /-- ERR (R256). -/
  | err
  /-- MSG (R366). -/
  | msg
  /-- MSG_DELIVER_RETRY (R366). -/
  | msgDeliverRetry (i : Nat)
  /-- DELIVER_DROP (R366). -/
  | deliverDrop (i : Nat)
  /-- MSGACK (R393). -/
  | msgack
  /-- FLOW (R351). -/
  | flow
  /-- CHUNK (R433). -/
  | chunk (u : Nat)
  /-- STU_SUM (R445). -/
  | stuSum (n : Nat) (ce : Nat) (ue : Option Nat) (wrong : Bool)
  /-- STU_GATHER_FIXED (R449). -/
  | stuGatherFixed (n : Nat) (ce : Nat) (ue : Option Nat) (wrong : Bool)
  /-- STU_GATHER_LANES (R450). -/
  | stuGatherLanes (n : Nat) (ce : Nat) (ue : Option Nat) (wrong : Bool)
  /-- STU_SORT_LOCAL (R464). -/
  | stuSortLocal (n : Nat) (ce : Nat) (ue : Option Nat) (wrong : Bool)
  /-- STU_SORT_MERGE (R465). -/
  | stuSortMerge (n : Nat) (ce : Nat) (ue : Option Nat) (wrong : Bool)
  /-- STU_FILTER (R468). -/
  | stuFilter (n : Nat) (ce : Nat) (ue : Option Nat) (wrong : Bool)
  /-- STU_CLEAR_CNT (R471). -/
  | stuClearCnt (u : Nat) (incs : List (Nat × Nat) := [])
  /-- KCTRL_COMMIT (R459). -/
  | kctrlCommit (v : Word) (fw : Bool)
  /-- KERNEL_INSTALL_DONE (R459). -/
  | kernelInstallDone
  /-- GSET_COMMIT (R476). -/
  | gsetCommit (g : Nat)
  /-- GROUP_COMMIT_DONE (R511). -/
  | groupCommitDone
  /-- RESERVE_RETRY (R495). -/
  | reserveRetry (h : Nat)
  /-- READY (R710). -/
  | ready
  /-- RESULT (R499). -/
  | result
  /-- RESULT_VISIBLE (R501). -/
  | resultVisible (h : Nat) (stripe : Nat) (j : Nat)
  /-- ACK (R501). -/
  | ack
  /-- PACE (R501). -/
  | pace
  /-- RETX (R502). -/
  | retx
  /-- RETX_REPEAT (R502). -/
  | retxRepeat (h : Nat) (stripe : Nat) (j : Nat)
  /-- REPORT (R509). -/
  | report
  /-- END (R505). -/
  | collEnd
  /-- END_REPEAT (R509). -/
  | endRepeat (i : Nat)
  /-- COLL_PROGRESS_TIMEOUT (R506). -/
  | collProgressTimeout (h : Nat)
  /-- COLL_SELF_END (R506). -/
  | collSelfEnd (h : Nat)
  /-- MEMBER_POLL (R507). -/
  | memberPoll (h : Nat)
  /-- RACE_CAS_REPLY (R513). -/
  | raceCasReply (h : Nat)
  /-- RACE_COPY_DONE (R513). -/
  | raceCopyDone (h : Nat)
  /-- DOORBELL_SNOOP (R521). -/
  | doorbellSnoop (k : Nat)
  /-- SNOOP_DATA (R521). -/
  | snoopData (k : Nat)
  /-- DOORBELL_LINE_FILL (R534). -/
  | doorbellLineFill (n : Nat) (tail : Nat) (ok : Bool)
  /-- DESCRIPTOR_FETCH (R536). -/
  | descriptorFetch (n : Nat) (words : List Word) (ok : Bool)
  /-- STAGING_RETRY (R536). -/
  | stagingRetry
  /-- NOP (R714). -/
  | nop
  /-- LAUNCH (R543). -/
  | launch
  /-- PLOAD (R544). -/
  | pload (data : List Byte) (fail : Option Nat)
  /-- COPY (R545). -/
  | copy (data : List Byte) (fail : Option Nat)
  /-- COLL (R546). -/
  | coll
  /-- FLOWSEND (R547). -/
  | flowsend (data : List Byte) (fail : Option Nat)
  /-- CREATE_SQ (R540). -/
  | createSq
  /-- CREATE_CQ (R540). -/
  | createCq
  /-- DELETE_SQ (R540). -/
  | deleteSq
  /-- DELETE_CQ (R540). -/
  | deleteCq
  /-- OPEN_FLOW (R555). -/
  | openFlow
  /-- CLOSE_FLOW (R554). -/
  | closeFlow
  /-- RESET_FLOW (R554). -/
  | resetFlow
  /-- DESCRIPTOR_WORK_DONE (R550). -/
  | descriptorWorkDone (id : Nat)
  /-- CQ_ENTRY_WRITE (R552). -/
  | cqEntryWrite (n : Nat) (masked : Bool) (ok : Bool)
  /-- EVENT_RECORD_WRITE (R556). -/
  | eventRecordWrite (masked : Bool) (ok : Bool) (tail : Bool := true)
  /-- CQ_IRQ_DELAY (R558). -/
  | cqIrqDelay (n : Nat) (masked : Bool)
  /-- EVENT_IRQ_DELAY (R558). -/
  | eventIrqDelay (masked : Bool)
  /-- HOST_LINK_TRAIN (R518). -/
  | hostLinkTrain (width : Nat) (rate : Nat) (tail : Bool := true)
  /-- HOST_FULL_OPERATION_LOSS (R712). -/
  | hostFullOperationLoss
  /-- PERST_N (R559). -/
  | perstN
  /-- PERST_N_DEASSERT (R562). -/
  | perstNDeassert
  /-- HOT_RESET (R559). -/
  | hotReset
  /-- LINK_DISABLE (R559). -/
  | linkDisable
  /-- FUNCTION_LEVEL_RESET (R559). -/
  | functionLevelReset
  /-- HIF_RESET (R559). -/
  | hifReset
  /-- HIF_ENABLE (R569). -/
  | hifEnable (v : Bool) (tail : Bool := true)
  /-- LOCK (R565). -/
  | lock
  /-- REQUEST (R567). -/
  | request
  /-- UNLOCK_AUTH_TIMEOUT (R632). -/
  | unlockAuthTimeout
  /-- TWN_COMMIT (R578). -/
  | twnCommit (step : Word)
  /-- MIRROR_INJECT (R581). -/
  | mirrorInject
  /-- MIRROR (R581). -/
  | mirror
  /-- SEAL (R583). -/
  | twnSeal
  /-- SEAL_VERIFY (R581). -/
  | sealVerify
  /-- MIRRORACK (R581). -/
  | mirrorack
  /-- MIRROR_ACK_TIMEOUT (R582). -/
  | mirrorAckTimeout
  /-- TWN_RESTART (R584). -/
  | twnRestart (c : Word) (errs : List Nat)
  /-- BOUNDARY (R601). -/
  | boundary (errs : List Nat)
  /-- TWN_SWAP (R605). -/
  | twnSwap (l : Nat) (request : Bool)
  /-- FENCE_PORTS (R586). -/
  | fencePorts (via : Nat) (sess : Option Nat) (msg : List Word)
  /-- UNFENCE_PORTS (R586). -/
  | unfencePorts (via : Nat) (sess : Option Nat) (msg : List Word)
  /-- MARK_FENCED (R586). -/
  | markFenced (via : Nat) (sess : Option Nat) (msg : List Word)
  /-- MARK_VALID (R586). -/
  | markValid (via : Nat) (sess : Option Nat) (msg : List Word)
  /-- SOLO_ON (R586). -/
  | soloOn (via : Nat) (sess : Option Nat) (msg : List Word)
  /-- SOLO_OFF (R586). -/
  | soloOff (via : Nat) (sess : Option Nat) (msg : List Word)
  /-- ENTER_TUNGSTEN (R594). -/
  | enterTungsten (via : Nat) (sess : Option Nat) (msg : List Word)
  /-- HEALTH_DECAY (R599). -/
  | healthDecay
  /-- XCHK_SPARE_DONE (R606). -/
  | xchkSpareDone (k : Nat) (bytes : List Byte)
  /-- GO (R609). -/
  | go (slot : Nat) (count : Nat)
  /-- FREE (R608). -/
  | free (slot : Nat)
  /-- REPLAY_HEAT_DONE (R609). -/
  | replayHeatDone
  /-- REPLAY_HEAT_TIMEOUT (R609). -/
  | replayHeatTimeout (temp : Nat) (vdd : Nat)
  /-- REPLAY_RUN_DONE (R609). -/
  | replayRunDone (mism : Nat) (temp : Nat) (vdd : Nat)
  /-- FATAL_CLEAR (R613). -/
  | fatalClear
  /-- EVENT_HANDLE (R612). -/
  | eventHandle
  /-- LOG_WRITE (R655). -/
  | logWrite
  /-- WATCHDOG_STROBE (R597). -/
  | watchdogStrobe
  /-- WATCHDOG_EXPIRE (R597). -/
  | watchdogExpire
  /-- SENSOR_SAMPLE (R651). -/
  | sensorSample (inw : Word) (h0 : Word) (h1 : Word) (slices : Nat := 0xFF) (rom : Bool := true)
  /-- PINS_UPDATE (R698). -/
  | pinsUpdate (twin : Bool) (fab : Bool) (host : Bool)
  /-- ALERT_RESPONSE (R619). -/
  | alertResponse
  /-- MAILBOX_GO (R628). -/
  | mailboxGo
  /-- READ_REG (R622). -/
  | readReg (via : Nat) (sess : Option Nat) (msg : List Word)
  /-- WRITE_REG (R623). -/
  | writeReg (via : Nat) (sess : Option Nat) (msg : List Word)
  /-- PROFILE_WRITE (R646). -/
  | profileWrite (via : Nat) (sess : Option Nat) (msg : List Word)
  /-- PROFILE_ROUTE (R646). -/
  | profileRoute (via : Nat) (sess : Option Nat) (msg : List Word)
  /-- KERNEL_COMMIT (R624). -/
  | kernelCommit (via : Nat) (sess : Option Nat) (msg : List Word)
  /-- THROTTLE_CAP (R622). -/
  | throttleCap (via : Nat) (sess : Option Nat) (msg : List Word)
  /-- LOG_READ (R656). -/
  | logRead (via : Nat) (sess : Option Nat) (msg : List Word)
  /-- SENSOR_READ (R622). -/
  | sensorRead (via : Nat) (sess : Option Nat) (msg : List Word)
  /-- REPAIR_READ (R622). -/
  | repairRead (via : Nat) (sess : Option Nat) (msg : List Word)
  /-- UNLOCK_AUTH (R632). -/
  | unlockAuth (via : Nat) (sess : Option Nat) (msg : List Word)
  /-- MODULE_RESET (R644). -/
  | moduleReset (via : Nat) (sess : Option Nat) (msg : List Word) (fails : List Nat) (bad : List Nat)
  /-- FW_COMMIT_SVN (R637). -/
  | fwCommitSvn (via : Nat) (sess : Option Nat) (msg : List Word)
  /-- FUSE_BLOW_MAP (R630). -/
  | fuseBlowMap (via : Nat) (sess : Option Nat) (msg : List Word)
  /-- FUSE_BLOW_OWNER (R631). -/
  | fuseBlowOwner (via : Nat) (sess : Option Nat) (msg : List Word)
  /-- SET_ENDPOINT_ID (R618). -/
  | setEndpointId (b : Nat) (eid : Nat)
  /-- GET_ENDPOINT_ID (R618). -/
  | getEndpointId (b : Nat)
  /-- GET_MCTP_VERSION_SUPPORT (R618). -/
  | getMctpVersionSupport (b : Nat) (ty : Nat)
  /-- GET_MESSAGE_TYPE_SUPPORT (R618). -/
  | getMessageTypeSupport (b : Nat)
  /-- GET_VENDOR_DEFINED_MESSAGE_SUPPORT (R618). -/
  | getVendorDefinedMessageSupport (b : Nat) (sel : Nat)
  /-- GET_VERSION (R659). -/
  | getVersion (i : Nat)
  /-- GET_CAPABILITIES (R659). -/
  | getCapabilities (i : Nat)
  /-- NEGOTIATE_ALGORITHMS (R659). -/
  | negotiateAlgorithms (i : Nat) (offered : Bool)
  /-- GET_DIGESTS (R660). -/
  | getDigests (i : Nat) (sess : Option Nat)
  /-- GET_CERTIFICATE (R660). -/
  | getCertificate (i : Nat) (sess : Option Nat) (slot : Nat) (off : Nat) (len : Nat)
  /-- CHALLENGE (R659). -/
  | challenge (i : Nat) (slot : Nat) (nonce : List Byte)
  /-- GET_MEASUREMENTS (R663). -/
  | getMeasurements (i : Nat) (sess : Option Nat) (op : Nat) (sign : Bool) (nonce : List Byte) (restarts : Nat)
  /-- KEY_EXCHANGE (R661). -/
  | keyExchange (i : Nat) (mut_ : Bool) (ok : Bool)
  /-- FINISH (R661). -/
  | finish (i : Nat) (id : Nat) (root : List Byte) (ok : Bool)
  /-- HEARTBEAT (R659). -/
  | heartbeat (i : Nat) (id : Nat) (ok : Bool)
  /-- KEY_UPDATE (R659). -/
  | keyUpdate (i : Nat) (id : Nat) (ok : Bool)
  /-- END_SESSION (R659). -/
  | endSession (i : Nat) (id : Nat) (ok : Bool)
  /-- VENDOR_DEFINED_REQUEST (R662). -/
  | vendorDefinedRequest (i : Nat) (sess : Option Nat) (obj : Nat) (data : List Byte)
  /-- K_SET_GO (R662). -/
  | kSetGo (i : Nat) (sess : Option Nat)
  /-- QUERY_DEVICE_IDENTIFIERS (R640). -/
  | queryDeviceIdentifiers
  /-- GET_FIRMWARE_PARAMETERS (R640). -/
  | getFirmwareParameters
  /-- REQUEST_UPDATE (R642). -/
  | requestUpdate
  /-- PASS_COMPONENT_TABLE (R640). -/
  | passComponentTable (id : Nat)
  /-- UPDATE_COMPONENT (R641). -/
  | updateComponent (id : Nat) (size : Nat)
  /-- REQUEST_FIRMWARE_DATA (R641). -/
  | requestFirmwareData (data : List Byte)
  /-- TRANSFER_COMPLETE (R641). -/
  | transferComplete
  /-- VERIFY_COMPLETE (R641). -/
  | verifyComplete
  /-- APPLY_COMPLETE (R641). -/
  | applyComplete
  /-- ACTIVATE_FIRMWARE (R641). -/
  | activateFirmware
  /-- GET_STATUS (R640). -/
  | getStatus
  /-- CANCEL_UPDATE_COMPONENT (R640). -/
  | cancelUpdateComponent
  /-- CANCEL_UPDATE (R640). -/
  | cancelUpdate
  /-- VIN_RISE (R672). -/
  | vinRise (vin : Nat)
  /-- POWER_GOOD (R672). -/
  | powerGood (fails : List Nat) (bad : List Nat)
  /-- POWER_OFF (R673). -/
  | powerOff (vin : Nat)
  /-- AUX_12V_CHANGE (R675). -/
  | aux12vChange (mv : Nat)
  /-- MOD_RESET_N_ASSERT (R696). -/
  | modResetNAssert
  /-- MOD_RESET_N_DEASSERT (R644). -/
  | modResetNDeassert (fails : List Nat) (bad : List Nat)
  /-- BOOT_COMPLETE (R645). -/
  | bootComplete
  /-- TRST_N (R695). -/
  | trstN
  /-- IDCODE (R694). -/
  | idcode
  /-- BYPASS (R694). -/
  | bypass (tdi : List Bool)
  /-- SAMPLE (R694). -/
  | sample (image : List Bool)
  /-- PRELOAD (R694). -/
  | preload (image : List Bool)
  /-- EXTEST (R694). -/
  | extest (tdi : List Bool)
  /-- HEAD_LINE_FILL (R552). -/
  | headLineFill (k : Nat) (head : Nat) (ok : Bool) (masked : Bool)
  /-- HOST_INTERFACE_ISLAND_FAILS (R594). -/
  | hostInterfaceIslandFails
  deriving DecidableEq, Repr

end Sys2Proof
end

