-- ==== Sys2Proof/Machine/Bits.lean ====
section
/-! DEFINITION. Bit fields, sign extension, byte order and the checks that the spec lays down over bits: little-endian
words (R7), fields [msb:lsb] (R8), CRC-32C (R303), CRC-16 (R319). -/

namespace Sys2Proof.Machine

/-- Field [hi:lo] of a number (R8). -/
def bitsN (n hi lo : Nat) : Nat := (n >>> lo) % 2 ^ (hi + 1 - lo)

/-- Field [hi:lo] of a word. -/
def fld {w : Nat} (v : BitVec w) (hi lo : Nat) : Nat := bitsN v.toNat hi lo

/-- Bit i of a word. -/
def bit {w : Nat} (v : BitVec w) (i : Nat) : Bool := v.getLsbD i

/-- The word with field [hi:lo] set to n. -/
def setFld (v : Word) (hi lo n : Nat) : Word :=
  let mask : Word := BitVec.ofNat 64 ((2 ^ (hi + 1 - lo) - 1) <<< lo)
  (v &&& ~~~mask) ||| (BitVec.ofNat 64 (n <<< lo) &&& mask)

/-- The word with bit i set to b. -/
def setBit (v : Word) (i : Nat) (b : Bool) : Word := setFld v i i b.toNat

/-- An n-bit code read as two's complement. -/
def sextN (width n : Nat) : Int := if n < 2 ^ (width - 1) then (n : Int) else (n : Int) - (2 : Int) ^ width

/-- Two's complement code of an integer. -/
def toCode (width : Nat) (i : Int) : Nat := (i % (2 : Int) ^ width).toNat

/-- Saturating addition at a largest value. -/
def satAdd (top n k : Nat) : Nat := min top (n + k)

/-- A little-endian number of len bytes, byte i being f i (R7). -/
def leNat (f : Nat → Byte) : Nat → Nat
  | 0 => 0
  | len + 1 => leNat f len + (f len).toNat <<< (8 * len)

/-- The bytes of a number, least significant first (R7). -/
def leBytes : Nat → Nat → List Byte
  | 0, _ => []
  | len + 1, n => BitVec.ofNat 8 n :: leBytes len (n >>> 8)

/-- The number that little-endian bytes spell. -/
def ofBytes : List Byte → Nat
  | [] => 0
  | b :: t => b.toNat + ofBytes t <<< 8

/-- Bytes of words, in order. -/
def wordsBytes : List Word → List Byte
  | [] => []
  | w :: t => leBytes 8 w.toNat ++ wordsBytes t

/-- n consecutive numbers from k. -/
def upFrom (k : Nat) : Nat → List Nat
  | 0 => []
  | n + 1 => k :: upFrom (k + 1) n

/-- ceil(a / b), with b taken as at least 1. -/
def ceilDiv (a b : Nat) : Nat := (a + (b - 1)) / b

/-- One bit of the reflected CRC-32C (polynomial 0x1EDC_6F41, R303). -/
def crc32cBit (c : BitVec 32) : BitVec 32 :=
  if c.getLsbD 0 then (c >>> 1) ^^^ 0x82F63B78#32 else c >>> 1

/-- One byte of CRC-32C. -/
def crc32cByte (c : BitVec 32) (b : Byte) : BitVec 32 :=
  let x := c ^^^ b.setWidth 32
  crc32cBit (crc32cBit (crc32cBit (crc32cBit (crc32cBit (crc32cBit (crc32cBit (crc32cBit x)))))))

/-- CRC-32C with initial value and final XOR 0xFFFF_FFFF (R303). -/
def crc32c (bs : List Byte) : BitVec 32 := bs.foldl crc32cByte 0xFFFFFFFF#32 ^^^ 0xFFFFFFFF#32

/-- CRC-16 with polynomial 0x1021 and initial value 0xFFFF over n bits of v from bit 0 up, the order in which a
marker's bits are sent (R319; log 8, DEDUCED). -/
def crc16 (v : Nat) : Nat → BitVec 16 → BitVec 16
  | 0, c => c
  | n + 1, c =>
    let fb := c.getLsbD 15 != v.testBit 0
    crc16 (v >>> 1) n (if fb then (c <<< 1) ^^^ 0x1021#16 else c <<< 1)

end Sys2Proof.Machine
end

