-- ==== Sys2Proof/Machine/Frames.lean ====
section
/-! DEFINITION. Frames of the fabric: their length (R347), header and trailer fields (R348, R349), checks, types
(R351), virtual channels (R306) and classes (R398). -/

namespace Sys2Proof.Machine

def hw (f : Frame) (i : Nat) : Word := f.hdr.getD i 0
def tw (f : Frame) (i : Nat) : Word := f.trailer.getD i 0

def fDst (f : Frame) : Nat := fld (hw f 0) 15 0
def fSrc (f : Frame) : Nat := fld (hw f 0) 31 16
def fTc (f : Frame) : Nat := fld (hw f 0) 34 32
def fVc (f : Frame) : Nat := fld (hw f 0) 37 35
def fType (f : Frame) : Nat := fld (hw f 0) 43 38
def fMcast (f : Frame) : Bool := bit (hw f 0) 44
def fMcDim (f : Frame) : Nat := fld (hw f 0) 46 45
def fRes (f : Frame) : Nat := fld (hw f 0) 63 48
def fPlen (f : Frame) : Nat := fld (hw f 1) 12 0
def fFlow (f : Frame) : Nat := fld (hw f 1) 31 16
def fTag (f : Frame) : Nat := fld (hw f 1) 47 32
def fHops (f : Frame) : Nat := fld (hw f 1) 52 48
def fAddr (f : Frame) : Word := hw f 2
def fMcMask (f : Frame) : Nat := fld (hw f 3) 31 0
def fAux (f : Frame) : Nat := fld (hw f 3) 63 32
def fArg (f : Frame) (i : Nat) : Word := hw f (4 + i)
def fStomp (f : Frame) : Bool := bit (tw f 0) 32
def fTarg (f : Frame) (i : Nat) : Word := tw f (1 + i)

/-- Frame types (R351; the collective types are those of R433 to R510). -/
def tyWR : Nat := 0x01
def tyRD : Nat := 0x02
def tyRDDATA : Nat := 0x03
def tyWRACK : Nat := 0x04
def tyATOM : Nat := 0x05
def tyATOMRSP : Nat := 0x06
def tySIG : Nat := 0x07
def tySIGACK : Nat := 0x08
def tyERR : Nat := 0x09
def tyMSG : Nat := 0x0A
def tyMSGACK : Nat := 0x0B
def tyMIRROR : Nat := 0x18
def tyMIRRORACK : Nat := 0x19
def tyFLOW : Nat := 0x1C
def tyMGMT : Nat := 0x20

/-- Virtual channels, in the order of R306. -/
def vcGUAR : Nat := 0
def vcCOLL : Nat := 1
def vcREQ : Nat := 2
def vcRSP : Nat := 3
def vcREQE : Nat := 4
def vcRSPE : Nat := 5

/-- Frame length in bytes (R347). -/
def frameLen (plen : Nat) : Nat := if plen = 0 then 64 else 256 * ceilDiv (plen + 128) 256

/-- Buffer cells of a frame (R372). -/
def frameCells (plen : Nat) : Nat := ceilDiv (frameLen plen) 256

/-- HCRC of a header (R349): over bytes 0 to 55 with VC, RES and HOPS as 0. -/
def hcrcOf (hdr : List Word) : BitVec 32 :=
  let w0 := setFld (setFld (hdr.getD 0 0) 37 35 0) 63 48 0
  let w1 := setFld (hdr.getD 1 0) 52 48 0
  crc32c (wordsBytes (w0 :: w1 :: (hdr.drop 2).take 5))

def hcrcGood (f : Frame) : Bool := decide (fld (hw f 7) 31 0 = (hcrcOf f.hdr).toNat)

/-- PCRC of a payload (R349). -/
def pcrcOf (p : List Byte) : BitVec 32 := crc32c p

def pcrcGood (f : Frame) : Bool :=
  f.payload.isEmpty || decide (fld (tw f 0) 31 0 = (pcrcOf f.payload).toNat)

/-- What a sender fills in of a frame. -/
structure FrameSpec where
  dst : Nat
  src : Nat
  tc : Nat
  vc : Nat
  ty : Nat
  flow : Nat
  tag : Nat
  addr : Word
  mcast : Bool := false
  mcDim : Nat := 0
  mcMask : Nat := 0
  aux : Nat := 0
  arg0 : Word := 0
  arg1 : Word := 0
  arg2 : Word := 0
  targ0 : Word := 0
  targ1 : Word := 0
  targ2 : Word := 0
  payload : List Byte := []

/-- Header words 0 to 6 of a frame at its source, RES and HOPS being 0. -/
def hdr7 (x : FrameSpec) : List Word :=
  [ BitVec.ofNat 64 (x.dst % 2 ^ 16 + (x.src % 2 ^ 16) <<< 16 + (x.tc % 8) <<< 32 + (x.vc % 8) <<< 35 +
      (x.ty % 64) <<< 38 + x.mcast.toNat <<< 44 + (x.mcDim % 4) <<< 45),
    BitVec.ofNat 64 (x.payload.length % 2 ^ 13 + (x.flow % 2 ^ 16) <<< 16 + (x.tag % 2 ^ 16) <<< 32),
    x.addr,
    BitVec.ofNat 64 (x.mcMask % 2 ^ 32 + (x.aux % 2 ^ 32) <<< 32),
    x.arg0, x.arg1, x.arg2 ]

/-- The frame, with both checks. -/
def mkFrame (x : FrameSpec) : Frame :=
  let h := hdr7 x
  { hdr := h ++ [(hcrcOf h).setWidth 64]
    payload := x.payload
    trailer := if x.payload.isEmpty then []
      else [(pcrcOf x.payload).setWidth 64, x.targ0, x.targ1, x.targ2, 0, 0, 0, 0] }

/-- Class of a reply (R399). -/
def replyTc (tc : Nat) : Nat := if tc ≥ 6 then tc else tc + 1

/-- The frame with one header field changed: RES, HOPS, VC (R350). -/
def withHdr (f : Frame) (i : Nat) (w : Word) : Frame := { f with hdr := f.hdr.set i w }
def withVc (f : Frame) (v : Nat) : Frame := withHdr f 0 (setFld (hw f 0) 37 35 v)
def withRes (f : Frame) (r : Nat) : Frame := withHdr f 0 (setFld (hw f 0) 63 48 r)
def withHops (f : Frame) (h : Nat) : Frame := withHdr f 1 (setFld (hw f 1) 52 48 h)
def withStomp (f : Frame) : Frame := { f with trailer := f.trailer.set 0 (setFld (tw f 0) 32 32 1) }

end Sys2Proof.Machine
end

