-- ==== Sys2Proof/Config.lean ====
section
/-! DEFINITION. What one implementation fixes, and the free values: constants with no body that stand where the
spec states no value. Nothing can evaluate them, so every statement holds whatever they are. -/

namespace Sys2Proof

/-- DESIGN CHOICE (log 4). The accumulator image (bits [33:0] of R43) of a rounded finite value outside the
accumulator's range of R42, sign and value m x 2^e, for which no rule states a result. -/
opaque Config.accOut : Bool → Nat → Int → BitVec 34

/-- DESIGN CHOICE (log 5). The n-th free 64-bit value: each use advances State.freeCtr, so every use is fresh. -/
opaque Config.freeWord : Nat → BitVec 64

/-- DESIGN CHOICE (log 5). The n-th free command word, for the commands that a failed PLOAD leaves undefined (R544). -/
opaque Config.freeCmd : Nat → BitVec 256

/-- DESIGN CHOICE (log 6). SHA-384 of FIPS 180-4, which the spec names and does not lay down (R636, R663). -/
opaque Config.sha384 : List (BitVec 8) → BitVec 384

/-- DESIGN CHOICE (log 6). ECDSA P-384 verification of FIPS 186-5: public key, message bytes, r and s (R636). -/
opaque Config.ecdsaVerify : List (BitVec 8) → List (BitVec 8) → List (BitVec 8) → List (BitVec 8) → Bool

/-- DESIGN CHOICE (log 6). A signature by the device private key, which never leaves the key unit (R660). -/
opaque Config.deviceSign : List (BitVec 8) → List (BitVec 8)

/-- DESIGN CHOICE (log 7). The manufacturer field [11:1] of IDCODE, given in a file outside the spec (R694). -/
opaque Config.jtagManufacturer : BitVec 11

/-- DESIGN CHOICE (log 6). Byte i of what AES-256-GCM makes of a message, at the n-th use (R659). -/
opaque Config.cipherByte : Nat → List (BitVec 8) → Nat → BitVec 8

/-- DESIGN CHOICE (log 100). What AES-256-GCM under the keys of a session, by its number and how often they were updated, makes
of a secured frame: the type byte and the message (R620, R659). -/
opaque Config.opened : Nat → Nat → List (BitVec 8) → List (BitVec 8)

/-- DESIGN CHOICE (log 51). The boot ROM, the release that the module ships with and its VERSION, and the certificate chain of
slot 0, none of whose bytes the spec gives (R616, R660, R700). -/
opaque Config.romBytes : List (BitVec 8)
opaque Config.shipBytes : List (BitVec 8)
opaque Config.shipVersion : BitVec 32
opaque Config.certChain : List (BitVec 8)

/-- DESIGN CHOICE (log 97). What a byte of a stack that has lost its retention reads: the loss, numbered, and the key (R286). -/
opaque Config.lostByte : Nat → Nat → BitVec 8

/-- DESIGN CHOICE (log 12). The row of a stack or of Pewter, and the stack channel, that hold a memory key; the spec
names rows and channels (R283, R600) and does not lay them out. -/
opaque Config.rowOf : Nat → Nat
opaque Config.channelOf : Nat → Nat

end Sys2Proof
end

