-- ==== Sys2Proof/Machine/Number.lean ====
section
/-! DEFINITION. Exact values, the accumulator and the rounding routines (R42, R53, R54, R174, R214): every result is
formed exactly and rounded once. -/

namespace Sys2Proof.Machine

/-- A value before rounding: a zero with its sign, a finite non-zero value (-1)^neg x m x 2^e (m > 0), an infinity
or a NaN. NaNs carry nothing, since no payload is kept (R69.5). -/
inductive XVal
  | zero (neg : Bool)
  | fin (neg : Bool) (m : Nat) (e : Int)
  | inf (neg : Bool)
  | nan
  deriving DecidableEq, Repr

/-- Number flags raised by a piece of work: SAT, INVALID and the count of non-zero values written as zero (R61). -/
structure NFlags where
  sat : Bool
  invalid : Bool
  flush : Nat
  deriving DecidableEq, Repr

def noFlags : NFlags := ⟨false, false, 0⟩

def addFlags (a b : NFlags) : NFlags := ⟨a.sat || b.sat, a.invalid || b.invalid, a.flush + b.flush⟩

/-- The value of an integer times 2^e; the exact zero is +0 (R58). -/
def xOfInt (i : Int) (e : Int) : XVal :=
  if i = 0 then .zero false else .fin (decide (i < 0)) i.natAbs e

/-- Signed integer of a finite value in units of 2^q, for q not above its exponent. -/
def xUnits (neg : Bool) (m : Nat) (e q : Int) : Int :=
  let k : Int := ((m <<< (e - q).toNat : Nat) : Int)
  if neg then -k else k

def xNeg : XVal → XVal
  | .zero s => .zero (!s)
  | .fin s m e => .fin (!s) m e
  | .inf s => .inf (!s)
  | .nan => .nan

/-- The magnitude; a zero is +0 (R58). -/
def xAbs : XVal → XVal
  | .zero _ => .zero false
  | .fin _ m e => .fin false m e
  | .inf _ => .inf false
  | .nan => .nan

/-- The exact sum (R59, R120); an exact zero is +0 (R58). -/
def xAdd : XVal → XVal → XVal
  | .nan, _ => .nan
  | _, .nan => .nan
  | .inf s, .inf t => if s = t then .inf s else .nan
  | .inf s, _ => .inf s
  | _, .inf t => .inf t
  | .zero _, .zero _ => .zero false
  | .zero _, .fin s m e => .fin s m e
  | .fin s m e, .zero _ => .fin s m e
  | .fin s m e, .fin t n f =>
    let q := min e f
    xOfInt (xUnits s m e q + xUnits t n f q) q

/-- The exact product (R59); a zero product is +0 (R58). -/
def xMul : XVal → XVal → XVal
  | .nan, _ => .nan
  | _, .nan => .nan
  | .inf _, .zero _ => .nan
  | .zero _, .inf _ => .nan
  | .inf s, .inf t => .inf (s != t)
  | .inf s, .fin t _ _ => .inf (s != t)
  | .fin s _ _, .inf t => .inf (s != t)
  | .zero _, _ => .zero false
  | _, .zero _ => .zero false
  | .fin s m e, .fin t n f => .fin (s != t) (m * n) (e + f)

/-- x times 2^k. -/
def xScale (k : Int) : XVal → XVal
  | .fin s m e => .fin s m (e + k)
  | v => v

/-- Whether the first value orders below the second; -0 orders below +0 (R124), a NaN below nothing. -/
def xLt : XVal → XVal → Bool
  | .nan, _ => false
  | _, .nan => false
  | .inf s, .inf t => s && !t
  | .inf s, _ => s
  | _, .inf t => !t
  | .zero s, .zero t => s && !t
  | .zero _, .fin t _ _ => !t
  | .fin s _ _, .zero _ => s
  | .fin s m e, .fin t n f =>
    let q := min e f
    decide (xUnits s m e q < xUnits t n f q)

/-- maximumNumber of IEEE 754-2019 (R124). -/
def xMax : XVal → XVal → XVal
  | .nan, b => b
  | a, .nan => a
  | a, b => if xLt a b then b else a

/-- minimumNumber of IEEE 754-2019 (R124). -/
def xMin : XVal → XVal → XVal
  | .nan, b => b
  | a, .nan => a
  | a, b => if xLt b a then b else a

/-- A result of arithmetic that is exactly zero is +0 (R58). -/
def plusZero : XVal → XVal
  | .zero _ => .zero false
  | v => v

def xFinite : XVal → Bool
  | .zero _ => true
  | .fin _ _ _ => true
  | _ => false

/-- A finite value below zero, minus infinity included. -/
def xNegative : XVal → Bool
  | .fin s _ _ => s
  | .inf s => s
  | _ => false

/-- Rounding mode: RNE, or SR with the random word u (R52, R53). -/
inductive RMode
  | rne
  | sr (u : Nat)
  deriving DecidableEq, Repr

/-- round_significand of R53: the kept part and whether it rounds up. -/
def roundSignificand (m : Nat) (e q : Int) (mode : RMode) : Nat × Nat :=
  if q ≤ e then (m <<< (e - q).toNat, 0)
  else
    let sh := (q - e).toNat
    let k := m >>> sh
    let rem := m % 2 ^ sh
    match mode with
    | .rne =>
      let half := 2 ^ (sh - 1)
      (k, if rem > half ∨ (rem = half ∧ k % 2 = 1) then 1 else 0)
    | .sr u =>
      let t := (rem <<< 32) >>> sh
      (k, if t + u ≥ 2 ^ 32 then 1 else 0)

/-- Parameters of a float format for round_float (the table of R53). -/
structure FloatFmt where
  M : Nat
  emin : Int
  emax : Int
  maxk : Nat
  bias : Int
  sub : Bool
  expBits : Nat
  deriving DecidableEq, Repr

/-- round_float of R53: sign-less code (exponent and mantissa fields) of the rounded value, with its flags; the
sign is dropped when the result is +0. -/
def roundFloat (s : Bool) (m : Nat) (e X : Int) (F : FloatFmt) (mode : RMode) : Nat × NFlags :=
  let e := e - X
  let p : Int := (Nat.log2 m : Nat)
  let q := max (p + e) F.emin - (F.M : Int)
  let (k0, up) := roundSignificand m e q mode
  let k1 := k0 + up
  let (k2, q2) := if k1 = 2 ^ (F.M + 1) then (2 ^ F.M, q + 1) else (k1, q)
  let ovf := decide (q2 > F.emax - F.M) || (decide (q2 = F.emax - F.M) && decide (k2 > F.maxk))
  let (k3, q3) := if ovf then (F.maxk, F.emax - (F.M : Int)) else (k2, q2)
  let k4 := if k3 < 2 ^ F.M ∧ F.sub = false then 0 else k3
  if k4 = 0 then (0, ⟨ovf, false, 1⟩)
  else
    let sgn := if s then 2 ^ (F.M + F.expBits) else 0
    if k4 < 2 ^ F.M then (sgn + k4, ⟨ovf, false, 0⟩)
    else (sgn + (((q3 + F.M + F.bias).toNat) <<< F.M) + (k4 - 2 ^ F.M), ⟨ovf, false, 0⟩)

/-- Parameters of an integer format for round_int (the table of R54). -/
structure IntFmt where
  N : Nat
  maxi : Nat
  wrap : Bool
  deriving DecidableEq, Repr

/-- round_int of R54: the N-bit two's complement code, with its flags. -/
def roundInt (s : Bool) (m : Nat) (e X : Int) (I : IntFmt) (mode : RMode) (wrapMode : Bool) : Nat × NFlags :=
  let q := X
  let (k0, up) := if e - q ≥ 64 then (2 ^ 64, 0) else roundSignificand m e q mode
  let k := k0 + up
  let fl : Nat := if k = 0 then 1 else 0
  let v : Int := if s then -(k : Int) else (k : Int)
  if wrapMode && I.wrap then (toCode I.N v, ⟨false, false, fl⟩)
  else if v > (I.maxi : Int) then (I.maxi, ⟨true, false, fl⟩)
  else if v < -(I.maxi : Int) then (toCode I.N (-(I.maxi : Int)), ⟨true, false, fl⟩)
  else (toCode I.N v, ⟨false, false, fl⟩)

/-- The accumulator image of R42 and R43 as a value. -/
def decodeAcc (b : Nat) : XVal :=
  let s := b.testBit 33
  let ex := bitsN b 32 23
  let fr := bitsN b 22 0
  if ex = 0 then .zero s
  else if ex = 1023 then (if fr = 0 then .inf s else .nan)
  else .fin s (2 ^ 23 + fr) ((ex : Int) - 511 - 23)

/-- The canonical accumulator NaN (R42). -/
def accNan : Nat := 0x1FFC00000

/-- A finite value rounded in RNE to 24 significant bits: kept part of 24 bits and its exponent. -/
def round24 (m : Nat) (e : Int) : Nat × Int :=
  let p : Int := (Nat.log2 m : Nat)
  let q := p + e - 23
  let (k0, up) := roundSignificand m e q .rne
  let k := k0 + up
  if k = 2 ^ 24 then (2 ^ 23, q + 1) else (k, q)

/-- The image of R43 of a rounded finite value within the accumulator's range. -/
def accField (s : Bool) (k : Nat) (q : Int) : Nat :=
  (if s then 2 ^ 33 else 0) + ((q + 23 + 511).toNat <<< 23) + (k - 2 ^ 23)

/-- Whether a 24-bit significand at exponent q lies in the accumulator's normal range (R42). -/
def accInRange (q : Int) : Bool := decide (q + 23 ≤ 511) && decide (-510 ≤ q + 23)

/-- round_acc of R174 as an image; a rounded value outside the accumulator's range, for which no rule states a
result, is a free value (log 4). -/
def accImage : XVal → Nat
  | .zero s => if s then 2 ^ 33 else 0
  | .inf s => (if s then 2 ^ 33 else 0) + 0x1FF800000
  | .nan => accNan
  | .fin s m e =>
    let (k, q) := round24 m e
    if accInRange q then accField s k q else (Config.accOut s k q).toNat

/-- round_acc of R174 as a value; an exact zero is +0. -/
def roundAcc (v : XVal) : XVal := decodeAcc (accImage (plusZero v))

/-- The image of a magnitude for an amax (R125): rounded by round_acc, and above the largest finite value that
value; infinities and NaN give 0, as does zero. -/
def amaxImage : XVal → Nat
  | .fin _ m e =>
    let (k, q) := round24 m e
    if q + 23 > 511 then accField false (2 ^ 24 - 1) (511 - 23)
    else if accInRange q then accField false k q else (Config.accOut false k q).toNat
  | _ => 0

/-! Correctly rounded roots, quotients, powers and logarithms (R122, R214). -/

/-- The largest r with r x r ≤ n, by bits from bit i down. -/
def isqrtGo (n : Nat) : Nat → Nat → Nat
  | 0, r => r
  | i + 1, r => let t := r + 2 ^ i; isqrtGo n i (if t * t ≤ n then t else r)

/-- Integer square root. -/
def isqrt (n : Nat) : Nat := isqrtGo n (Nat.log2 n / 2 + 1) 0

/-- A value given by a truncated significand and whether anything was cut off: enough bits are kept that one more
bit for the rest rounds as the whole value does. -/
def sticky (s : Bool) (m : Nat) (rest : Bool) (e : Int) : XVal := .fin s (2 * m + rest.toNat) (e - 1)

/-- The quotient, correctly rounded to the accumulator (R214, R122). -/
def xDiv : XVal → XVal → XVal
  | .nan, _ => .nan
  | _, .nan => .nan
  | .inf _, .inf _ => .nan
  | .zero _, .zero _ => .nan
  | .inf s, .zero t => .inf (s != t)
  | .inf s, .fin t _ _ => .inf (s != t)
  | .zero _, _ => .zero false
  | .fin s _ _, .zero t => .inf (s != t)
  | .fin _ _ _, .inf _ => .zero false
  | .fin s m e, .fin t n f =>
    let sh := Nat.log2 n + 64
    let num := m <<< sh
    roundAcc (sticky (s != t) (num / n) (decide (num % n ≠ 0)) (e - f - (sh : Int)))

/-- The square root, correctly rounded to the accumulator (R214). -/
def xSqrt : XVal → XVal
  | .nan => .nan
  | .zero _ => .zero false
  | .inf s => if s then .nan else .inf false
  | .fin true _ _ => .nan
  | .fin false m e =>
    let sh := 128 + (e % 2).toNat
    let n := m <<< sh
    let r := isqrt n
    roundAcc (sticky false r (decide (r * r ≠ n)) ((e - (sh : Int)) / 2))

/-- 1 / sqrt, correctly rounded to the accumulator (R122, R124); the domain edges are the caller's. -/
def xRsqrtFin (m : Nat) (e : Int) : XVal :=
  -- 1/sqrt(m 2^e) = sqrt(2^(2g) / (m 2^e)) 2^-g, with an even exponent under the root
  let sh := 2 * Nat.log2 m + 160 + (e % 2).toNat
  let n := (2 ^ sh) / m
  let r := isqrt n
  roundAcc (sticky false r (decide (r * r * m ≠ 2 ^ sh)) ((-e - (sh : Int)) / 2))

/-- Sum of the Taylor series of exp at z / 2^n, from term k on, term being the one before, in units of 2^-n. -/
def expSeries (n z : Nat) : Nat → Nat → Nat → Nat
  | 0, _, _ => 0
  | fuel + 1, k, term =>
    let t := (term * z) >>> n
    let t := t / k
    t + expSeries n z fuel (k + 1) t

/-- Sum of t^(2k+1) / (2k+1) in units of 2^-n; pw is the power of t so far and t2 its square. -/
def atanhSeries (n t2 : Nat) : Nat → Nat → Nat → Nat
  | 0, _, _ => 0
  | fuel + 1, k, pw => pw / (2 * k + 1) + atanhSeries n t2 fuel (k + 1) ((pw * t2) >>> n)

/-- ln 2 in units of 2^-n, cut off: 2 atanh(1/3). -/
def ln2Fix (n : Nat) : Nat :=
  let t := 2 ^ n / 3
  2 * atanhSeries n (2 ^ n / 9) n 0 t

/-- A value known to lie from lo to hi in units of 2^e, rounded to the accumulator when both ends round alike. -/
def roundBetween (lo hi : Nat) (e : Int) : Option (Nat × Int) :=
  let a := round24 lo e
  if a = round24 hi e then some a else none

/-- 2^(f / 2^n) for 0 < f < 2^n, between two integers in units of 2^-n: the series' truncation errors are each below
one unit and their number is below 4n. -/
def exp2Between (n f : Nat) : Nat × Nat :=
  let z := (f * ln2Fix n) >>> n
  let y := 2 ^ n + expSeries n z n 1 (2 ^ n)
  (y, y + 16 * n)

/-- Precisions tried for a correctly rounded result, in bits. -/
def precisions : List Nat := [128, 256, 640]

/-- The fraction f / 2^n of a value's fractional part, cut off to n bits. -/
def fracBits (k : Nat) (e : Int) (n : Nat) : Nat :=
  if e + (n : Int) ≥ 0 then k <<< (e + n).toNat else k >>> (-(e + (n : Int))).toNat

/-- 2^(I + m x 2^e) for a fractional part m x 2^e strictly between 0 and 1, correctly rounded to 24 bits. -/
def exp2Round (m : Nat) (e : Int) (I : Int) : List Nat → Nat × Int
  | [] => round24 1 I
  | n :: t =>
    let (lo, hi) := exp2Between n (fracBits m e n)
    match roundBetween lo hi (I - (n : Int)) with
    | some r => r
    | none => exp2Round m e I t

/-- 2^x, correctly rounded to the accumulator, with the range ends of R124. -/
def xExp2 : XVal → XVal × NFlags
  | .nan => (.nan, noFlags)
  | .inf s => (if s then .zero false else .inf false, noFlags)
  | .zero _ => (.fin false 1 0, noFlags)
  | .fin s m e =>
    let top : XVal := .fin false (2 ^ 24 - 1) (511 - 23)
    if xLt (.fin s m e) (.fin true 510 0) then (.zero false, ⟨false, false, 1⟩)
    else if xLt (.fin false 511 0) (.fin s m e) && !xLt (.fin s m e) (.fin false 512 0) then (top, noFlags)
    else
      let v : Int := xUnits s m e (min e 0)
      let den : Int := (2 : Int) ^ (-(min e 0)).toNat
      let I := v / den
      let f := (v % den).toNat
      if f = 0 then (.fin false 1 I, noFlags)
      else
        let (k, q) := exp2Round f (min e 0) I precisions
        if q + 23 > 511 then (top, noFlags)
        else if q + 23 < -510 then (.zero false, ⟨false, false, 1⟩)
        else (.fin false k q, noFlags)

/-- ln(1 + m / 2^n) for 0 < m < 2^n between two integers in units of 2^-p. -/
def ln1Between (m n p : Nat) : Nat × Nat :=
  let t := (m <<< p) / (2 ^ (n + 1) + m)
  let y := 2 * atanhSeries p ((t * t) >>> p) p 0 t
  (y, y + 16 * p)

/-- log2(1 + m / 2^n) between two integers in units of 2^-p. -/
def log2Between (m n p : Nat) : Nat × Nat :=
  let (lo, hi) := ln1Between m n p
  let l := ln2Fix p
  ((lo <<< p) / (l + 16 * p), (hi <<< p) / l + 1)

/-- |I + log2(1 + m / 2^n)| correctly rounded to 24 bits, with its sign, for a value that is not an integer. -/
def log2Round (m n : Nat) (I : Int) : List Nat → XVal
  | [] => .nan
  | p :: t =>
    let p := p + n
    let (lo, hi) := log2Between m n p
    let a : Int := I * (2 : Int) ^ p + lo
    let b : Int := I * (2 : Int) ^ p + hi
    if a > 0 then
      match roundBetween a.toNat b.toNat (-(p : Int)) with
      | some (k, q) => .fin false k q
      | none => log2Round m n I t
    else if b < 0 then
      match roundBetween (-b).toNat (-a).toNat (-(p : Int)) with
      | some (k, q) => .fin true k q
      | none => log2Round m n I t
    else log2Round m n I t

/-- log2 x, correctly rounded to the accumulator, with the domain ends of R124; of -infinity it is NaN (R59) and sets INVALID
(DESIGN CHOICE, log 101). -/
def xLog2 : XVal → XVal × NFlags
  | .nan => (.nan, noFlags)
  | .zero _ => (.inf true, noFlags)
  | .inf s => if s then (.nan, ⟨false, true, 0⟩) else (.inf false, noFlags)
  | .fin true _ _ => (.nan, ⟨false, true, 0⟩)
  | .fin false m e =>
    let n := Nat.log2 m
    let I : Int := (n : Int) + e
    if m = 2 ^ n then (xOfInt I 0, noFlags)
    else (log2Round (m - 2 ^ n) n I precisions, noFlags)

/-- 1 / x, correctly rounded to the accumulator, with R124 at zero. -/
def xRcp (v : XVal) : XVal := plusZero (xDiv (.fin false 1 0) v)

/-- 1 / sqrt x, correctly rounded to the accumulator, with R124 at zero and below; of -infinity it is NaN (R59) and sets INVALID
(DESIGN CHOICE, log 101). -/
def xRsqrt : XVal → XVal × NFlags
  | .nan => (.nan, noFlags)
  | .zero s => (.inf s, noFlags)
  | .inf s => if s then (.nan, ⟨false, true, 0⟩) else (.zero false, noFlags)
  | .fin true _ _ => (.nan, ⟨false, true, 0⟩)
  | .fin false m e => (xRsqrtFin m e, noFlags)

/-- One accumulator operation of the update routines: x times y plus z, formed exactly and rounded once (R214). -/
def accFma (x y z : XVal) : XVal := roundAcc (xAdd (xMul x y) z)

def accMul (x y : XVal) : XVal := roundAcc (xMul x y)

def accAdd (x y : XVal) : XVal := roundAcc (xAdd x y)

def accSub (x y : XVal) : XVal := roundAcc (xAdd x (xNeg y))

end Sys2Proof.Machine
end

