-- ==== Sys2Proof/Machine/Flags.lean ====
section
/-! DEFINITION. The number formats (R32 to R41, R115), reading an element, converting a value with its flags (R52 to
R60), choosing a square's scale (R49 to R51), and the core's number flags (R61 to R63). -/

namespace Sys2Proof.Machine

/-- The format codes of R115. -/
inductive Fmt
  | q4 | q6 | q8e | q8w | qi8 | qi4 | bf16 | hf16 | uf16 | i32 | e24 | e40 | acc | raw | rsvE | rsvF
  deriving DecidableEq, Repr

/-- The FMT field (R115). -/
def fmtOf : Nat → Fmt
  | 0 => .q4 | 1 => .q6 | 2 => .q8e | 3 => .q8w | 4 => .qi8 | 5 => .qi4 | 6 => .bf16 | 7 => .hf16
  | 8 => .uf16 | 9 => .i32 | 10 => .e24 | 11 => .e40 | 12 => .acc | 13 => .raw | 14 => .rsvE | _ => .rsvF

/-- The square-block formats (R119). -/
def isSquare : Fmt → Bool
  | .q4 | .q6 | .q8e | .q8w | .qi8 | .qi4 => true
  | _ => false

/-- The typed formats (R119). -/
def isTyped : Fmt → Bool
  | .q4 | .q6 | .q8e | .q8w | .qi8 | .qi4 | .bf16 | .hf16 | .uf16 | .i32 | .acc => true
  | _ => false

/-- Bytes of a square, B of R46. -/
def squareBytes : Fmt → Nat
  | .q4 | .qi4 => 128
  | .q6 => 192
  | _ => 256

/-- Bytes of an element of a row-major format (R41, R43). -/
def elemBytes : Fmt → Nat
  | .bf16 | .hf16 | .uf16 => 2
  | .i32 => 4
  | .e24 => 3
  | .e40 => 5
  | .acc => 8
  | _ => 1

/-- The float parameters of R53; None for a format that round_float does not serve. -/
def floatFmt : Fmt → Option FloatFmt
  | .q4 => some ⟨1, 0, 2, 3, 1, true, 2⟩
  | .q6 => some ⟨2, -2, 4, 7, 3, true, 3⟩
  | .q8e => some ⟨3, -6, 8, 15, 7, true, 4⟩
  | .q8w => some ⟨2, -14, 16, 7, 15, true, 5⟩
  | .bf16 => some ⟨7, -126, 127, 255, 127, false, 8⟩
  | .hf16 => some ⟨10, -14, 15, 2047, 15, true, 5⟩
  | .uf16 => some ⟨8, -126, 128, 511, 127, true, 8⟩
  | _ => none

/-- The integer parameters of R54. -/
def intFmt : Fmt → Option IntFmt
  | .qi8 => some ⟨8, 127, true⟩
  | .qi4 => some ⟨4, 7, true⟩
  | .i32 => some ⟨32, 2 ^ 31 - 1, true⟩
  | .e24 => some ⟨24, 2 ^ 23 - 1, false⟩
  | .e40 => some ⟨40, 2 ^ 39 - 1, false⟩
  | _ => none

/-- A code of a float format as a value times 2^X (R33, R34, R37): an all-ones exponent field is infinity or NaN in
BF16 and HF16 only, a negative zero of the narrow formats reads as zero, a BF16 subnormal as a zero of its sign. -/
def decodeFloat (f : Fmt) (F : FloatFmt) (b : Nat) (X : Int) : XVal :=
  let mant := b % 2 ^ F.M
  let ex := (b >>> F.M) % 2 ^ F.expBits
  let s := f ≠ .uf16 && b.testBit (F.M + F.expBits)
  let special := f = .bf16 || f = .hf16
  if special && ex = 2 ^ F.expBits - 1 then (if mant = 0 then .inf s else .nan)
  else if ex = 0 then
    if mant = 0 then .zero (special && s)
    else if f = .bf16 then .zero s
    else .fin s mant (1 - F.bias - F.M + X)
  else .fin s (2 ^ F.M + mant) ((ex : Int) - F.bias - F.M + X)

/-- The exact value of an element code, X being the scale exponent of its square, the chunk exponent of an E24 or E40
element, and 0 for the others (R120). -/
def decodeElem (f : Fmt) (b : Nat) (X : Int) : XVal :=
  match floatFmt f with
  | some F => decodeFloat f F b X
  | none =>
    match f with
    | .acc => decodeAcc b
    | .qi8 => xOfInt (sextN 8 b) X
    | .qi4 => xOfInt (sextN 4 b) X
    | .i32 => xOfInt (sextN 32 b) X
    | .e24 => xOfInt (sextN 24 b) X
    | .e40 => xOfInt (sextN 40 b) X
    | _ => .zero false

/-- Largest finite code of a float format with a sign. -/
def floatMax (F : FloatFmt) (s : Bool) : Nat :=
  let k := (((F.emax + F.bias).toNat) <<< F.M) + (F.maxk - 2 ^ F.M)
  if s then 2 ^ (F.M + F.expBits) + k else k

/-- The conversion of a value to a format: one rounding (R53, R54), and the table of R57 for zeros, infinities and
NaN. X is the scale, chunk or output exponent of the destination. An infinity under WRAP becomes +-MAXI and sets SAT, as R57 has it
and R55 does not (DESIGN CHOICE, log 102). -/
def convElem (f : Fmt) (v : XVal) (X : Int) (mode : RMode) (wrapMode : Bool) : Nat × NFlags :=
  match floatFmt f with
  | some F =>
    let wide := f = .bf16 || f = .hf16
    match v with
    | .zero s => (if wide && s then 2 ^ (F.M + F.expBits) else 0, noFlags)
    | .nan => if f = .bf16 then (0x7FC0, noFlags) else if f = .hf16 then (0x7E00, noFlags) else (0, ⟨false, true, 0⟩)
    | .inf s =>
      if wide then ((if s then 2 ^ (F.M + F.expBits) else 0) + ((2 ^ F.expBits - 1) <<< F.M), noFlags)
      else if f = .uf16 then (if s then (0, ⟨false, true, 0⟩) else (0xFFFF, ⟨true, false, 0⟩))
      else (floatMax F s, ⟨true, false, 0⟩)
    | .fin s m e => if f = .uf16 && s then (0, ⟨false, true, 0⟩) else roundFloat s m e X F mode
  | none =>
    match intFmt f with
    | some I =>
      match v with
      | .zero _ => (0, noFlags)
      | .nan => (0, ⟨false, true, 0⟩)
      | .inf s => (if s then toCode I.N (-(I.maxi : Int)) else I.maxi, ⟨true, false, 0⟩)
      | .fin s m e => roundInt s m e X I mode wrapMode
    | none => (accImage v, noFlags)

/-- floor_log2 of a finite magnitude. -/
def xLog (m : Nat) (e : Int) : Int := (Nat.log2 m : Nat) + e

/-- The larger of a magnitude so far and a value's magnitude; infinities and NaN take no part (R51, R125). -/
def amaxStep (a : XVal) : XVal → XVal
  | .fin _ m e => if xLt a (.fin false m e) then .fin false m e else a
  | _ => a

/-- The largest finite magnitude of a list of values. -/
def amaxOf (l : List XVal) : XVal := l.foldl amaxStep (.zero false)

/-- EMAXE of R49. -/
def emaxe : Fmt → Int
  | .q4 => 2 | .q6 => 4 | .q8e => 8 | .q8w => 16 | .qi8 => 6 | .qi4 => 2
  | _ => 0

def clampInt (lo hi v : Int) : Int := max lo (min hi v)

/-- square_scale of R49: the scale byte that AMAX chooses. -/
def squareScale (f : Fmt) (a : XVal) : Nat :=
  match a with
  | .fin _ m e => (clampInt (-127) 127 (xLog m e - emaxe f) + 127).toNat
  | _ => 0

/-- A core's number flags (R61). -/
structure NumFlags where
  sat : Bool
  invalid : Bool
  flushOvf : Bool
  flushCount : BitVec 32
  deriving DecidableEq, Repr

def numFlagsReset : NumFlags := ⟨false, false, false, 0⟩

/-- Flags raised by a command added to the core's (R61): SAT and INVALID stick, FLUSH_COUNT saturates and sets
FLUSH_OVF when it does. -/
def raiseNum (n : NumFlags) (f : NFlags) : NumFlags :=
  let t := n.flushCount.toNat + f.flush
  { sat := n.sat || f.sat
    invalid := n.invalid || f.invalid
    flushOvf := n.flushOvf || decide (t > 0xFFFFFFFF)
    flushCount := BitVec.ofNat 32 (min t 0xFFFFFFFF) }

/-- The image of CORE_NUM_STATUS (R61). -/
def numImage (n : NumFlags) : Word :=
  BitVec.ofNat 64 (n.sat.toNat + 2 * n.invalid.toNat + 4 * n.flushOvf.toNat + n.flushCount.toNat <<< 16)

end Sys2Proof.Machine
end

