-- ==== Sys2Proof/Machine/Operands.lean ====
section
/-! DEFINITION. The command word and its operands (R111 to R118): fields, which fields each opcode uses, where an
element lies in memory (R46, R48, R113, R114, R246 to R248), reading and placing elements. -/

namespace Sys2Proof.Machine

/-- Bytes of a core's Pewter (R102). -/
def pewterBytes : Nat := 6291456

/-! Fields of the command word (R111). -/

def cOpcode (w : Cmd) : Nat := fld w 7 0
def cPred (w : Cmd) : Nat := fld w 11 8
def cSense (w : Cmd) : Bool := bit w 12
def cDelay (w : Cmd) : Nat := fld w 31 16
def cSigSem (w : Cmd) : Nat := fld w 37 32
def cSigEn (w : Cmd) : Bool := bit w 38
def cScaleFixed (w : Cmd) : Bool := bit w 40
def cRoundSr (w : Cmd) : Bool := bit w 41
def cWrap (w : Cmd) : Bool := bit w 42
def cAccum (w : Cmd) : Bool := bit w 43
def cFixedScale (w : Cmd) : Nat := fld w 55 48
def cAmaxS (w : Cmd) : Nat := fld w 60 56
def cSubop (w : Cmd) : Nat := fld w 63 61
def cDim0 (w : Cmd) : Nat := fld w 127 112
def cDim1 (w : Cmd) : Nat := fld w 191 176
def cDim2 (w : Cmd) : Nat := fld w 255 240

/-! Fields of a SYN command (R116). -/

def cSD (w : Cmd) : Nat := fld w 68 64
def cSA (w : Cmd) : Nat := fld w 132 128
def cSB (w : Cmd) : Nat := fld w 137 133
def cImm (w : Cmd) : Nat := fld w 239 192

/-- IMM sign-extended to 64 bits (R116). -/
def cImmW (w : Cmd) : Word := BitVec.ofInt 64 (sextN 48 (cImm w))

/-- The raw 48-bit operand fields, D, A and B being operands 1, 2 and 3, as their DETAIL numbers them (R155). -/
def cOpd (w : Cmd) (k : Nat) : Nat := fld w (64 * k + 47) (64 * k)

/-- The operand field of R112. -/
structure OpdField where
  ebase : Nat
  sbase : Nat
  fmt : Fmt
  trans : Bool
  fabric : Bool
  eoff : Nat
  ld : Nat
  deriving DecidableEq, Repr

def opdField (n : Nat) : OpdField :=
  { ebase := bitsN n 4 0, sbase := bitsN n 9 5, fmt := fmtOf (bitsN n 13 10), trans := n.testBit 14
    fabric := n.testBit 15, eoff := bitsN n 39 16, ld := bitsN n 44 40 }

/-- The engine of an opcode, from its bits [7:6] (R111). -/
inductive Engine
  | mat | vec | mov | syn
  deriving DecidableEq, Repr

def engineOf (op : Nat) : Engine :=
  match bitsN op 7 6 with
  | 0 => .mat | 1 => .vec | 2 => .mov | _ => .syn

/-- The opcodes of R118. -/
def opcodeListed (op : Nat) : Bool :=
  (1 ≤ op && op ≤ 4) || (0x40 ≤ op && op ≤ 0x4D) || op = 0x50 || (0x80 ≤ op && op ≤ 0x87) || (0xC0 ≤ op && op ≤ 0xCD)

/-- A run of ones over [hi:lo]. -/
def ones (hi lo : Nat) : Nat := (2 ^ (hi + 1 - lo) - 1) <<< lo

/-- PRED, SENSE, START_DELAY, SIG_SEM, SIG_EN and the opcode, which every opcode uses (R118). -/
def useCommon : Nat := ones 12 0 ||| ones 38 16

/-- SCALE_MODE, FIXED_SCALE and INTMODE. -/
def useScale : Nat := ones 40 40 ||| ones 42 42 ||| ones 55 48

/-- An operand's 45 used bits, with TRANS only where R112 allows it. -/
def useOpd (k : Nat) (trans : Bool) : Nat :=
  (if trans then ones 44 0 else ones 13 0 ||| ones 44 15) <<< (64 * k)

def useDims (n : Nat) : Nat :=
  (if n ≥ 1 then ones 127 112 else 0) ||| (if n ≥ 2 then ones 191 176 else 0) ||| (if n ≥ 3 then ones 255 240 else 0)

def useSubop : Nat := ones 63 61
def useAmax : Nat := ones 60 56

/-- The bits of a command that its opcode uses (R117, R118); every other bit is 0 in a legal command. -/
def usedBits (w : Cmd) : Nat :=
  let op := cOpcode w
  let i32 := (opdField (cOpd w 1)).fmt = .i32
  useCommon |||
  (if op = 1 ∨ op = 2 ∨ op = 3 then
      useOpd 1 false ||| useOpd 2 true ||| useOpd 3 true ||| useDims 3 ||| useScale ||| ones 43 43 ||| useAmax
   else if op = 4 then useOpd 1 false ||| useOpd 2 true ||| useDims 2
   else if 0x40 ≤ op ∧ op ≤ 0x44 then
      useOpd 1 false ||| useOpd 2 false ||| useOpd 3 false ||| useDims 2 ||| useScale ||| useAmax |||
      (if op = 0x42 then ones 43 43 else 0)
   else if op = 0x45 ∨ op = 0x46 then
      useOpd 1 false ||| useOpd 2 false ||| useDims 2 ||| useAmax ||| (if i32 then ones 55 48 else 0)
   else if 0x47 ≤ op ∧ op ≤ 0x4B then
      useOpd 1 false ||| useOpd 2 false ||| useDims 2 ||| useScale ||| useAmax
   else if op = 0x4C ∨ op = 0x4D then
      useOpd 1 false ||| useOpd 2 false ||| useDims 2 ||| (if i32 then ones 55 48 else 0)
   else if op = 0x50 then
      useOpd 1 false ||| useOpd 2 false ||| useOpd 3 false ||| useDims 2 ||| ones 41 41 ||| useSubop
   else if op = 0x80 then useOpd 1 false ||| useOpd 2 true ||| useDims 2
   else if op = 0x81 then useOpd 1 false ||| useOpd 2 false ||| useDims 2 ||| useScale ||| useAmax
   else if op = 0x82 ∨ op = 0x83 then useOpd 1 false ||| useOpd 2 false ||| useDims 2 ||| useSubop
   else if op = 0x84 then useOpd 1 false ||| ones 4 0 <<< 128 ||| ones 4 0 <<< 192 ||| useSubop
   else if op = 0x85 then ones 4 0 <<< 64 ||| useOpd 2 false ||| useDims 2 ||| useSubop
   else if op = 0x86 then ones 4 0 <<< 128
   else if op = 0x87 then useOpd 2 false ||| useDims 2
   else if op = 0xC1 ∨ op = 0xC2 then ones 21 0 <<< 192
   else if op = 0xC3 then ones 4 0 <<< 128 ||| ones 21 6 <<< 192
   else if op = 0xC4 then ones 3 0 <<< 64 ||| ones 9 0 <<< 128 ||| ones 47 0 <<< 192 ||| useSubop
   else if op = 0xC5 ∨ op = 0xC7 then ones 10 0 <<< 192
   else if op = 0xC6 then ones 31 0 <<< 64 ||| ones 31 0 <<< 128 ||| ones 31 0 <<< 192 ||| useDims 1
   else if op = 0xC8 then ones 31 0 <<< 192
   else if op = 0xC9 then ones 4 0 <<< 64 ||| ones 9 0 <<< 128 ||| ones 47 0 <<< 192 ||| useSubop
   else if op = 0xCA then ones 4 0 <<< 64 ||| ones 4 0 <<< 128 ||| ones 47 0 <<< 192
   else if op = 0xCB then ones 9 0 <<< 128 ||| ones 47 0 <<< 192
   else if op = 0xCC then ones 4 0 <<< 64 ||| ones 0 0 <<< 192
   else if op = 0xCD then ones 4 0 <<< 64 ||| ones 4 0 <<< 128 ||| ones 47 0 <<< 192
   else 0)

/-- A reserved SUBOP (R126, R208). -/
def subopBad (w : Cmd) : Bool :=
  let op := cOpcode w
  let k := cSubop w
  (op = 0x50 && k ≥ 6) || (op = 0x84 && k ≥ 5) || (op = 0x82 && k ≥ 6) || (op = 0x83 && (k ≥ 6 || k = 3)) ||
  (op = 0x85 && k ≥ 3)

/-- Count of WAIT, SIGNAL and RSIGNAL, IMM[21:6]. -/
def cCount (w : Cmd) : Nat := bitsN (cImm w) 21 6

/-- A count outside the range that R118 gives. -/
def countBad (w : Cmd) : Bool :=
  let op := cOpcode w
  ((op = 0xC1 || op = 0xC2) && cCount w = 0) || (op = 0xC5 && bitsN (cImm w) 10 0 = 0) || (op = 0xC6 && cDim0 w = 0)

/-- The conditions of HALT_ILLEGAL that the command word alone decides, the conditions of R144 on the next command
apart (R109, R117, R155, R210, R208). -/
def wordIllegal (w : Cmd) (free : Bool) : Bool :=
  !opcodeListed (cOpcode w) || (w.toNat &&& usedBits w) ≠ w.toNat || subopBad w || countBad w ||
  (cOpcode w = 4 && !free) ||
  (cOpcode w = 0x50 && cRoundSr w && cSubop w ≥ 4) ||
  (cOpcode w = 0x50 && cSubop w = 5 && cOpd w 2 ≠ 0)

/-! Where an operand lies. -/

/-- An operand resolved at issue: its format and orientation, the memory keys at which its element and scale planes
start, its row pitch (R114), and the chunk exponent that S[SBASE] holds for E24 and E40 (R120). -/
structure Opd where
  fmt : Fmt
  trans : Bool
  eKey : Nat
  sKey : Nat
  pitch : Nat
  chunkE : Int
  deriving DecidableEq, Repr

/-- Read view of memory: a byte for each memory key. -/
abbrev View := Nat → Byte

/-- The code of an element of a square (R46), i being its number in the square and k the key of the square. -/
def squareCode (f : Fmt) (rd : View) (k i : Nat) : Nat :=
  match f with
  | .q4 | .qi4 => let b := (rd (k + i / 2)).toNat; if i % 2 = 0 then b % 16 else b / 16
  | .q6 => bitsN (leNat (fun j => rd (k + 3 * (i / 4) + j)) 3) (6 * (i % 4) + 5) (6 * (i % 4))
  | _ => (rd (k + i)).toNat

/-- Where logical element (r, c) lies in the stored tensor (R48). -/
def stored (o : Opd) (r c : Nat) : Nat × Nat := if o.trans then (c, r) else (r, c)

/-- Number of the square that holds stored element (r, c), planes being counted with the pitch (R46, R114). -/
def squareNo (o : Opd) (r c : Nat) : Nat := (r / 16) * o.pitch + c / 16

/-- The scale byte of the square of logical element (r, c). -/
def scaleByte (rd : View) (o : Opd) (r c : Nat) : Nat :=
  let (r, c) := stored o r c
  (rd (o.sKey + squareNo o r c)).toNat

/-- The code of logical element (r, c). -/
def elemCode (rd : View) (o : Opd) (r c : Nat) : Nat :=
  let (r, c) := stored o r c
  if isSquare o.fmt then
    squareCode o.fmt rd (o.eKey + squareNo o r c * squareBytes o.fmt) (16 * (r % 16) + c % 16)
  else
    leNat (fun j => rd (o.eKey + (r * o.pitch + c) * elemBytes o.fmt + j)) (elemBytes o.fmt)

/-- The exact value of logical element (r, c) (R120). -/
def elemVal (rd : View) (o : Opd) (r c : Nat) : XVal :=
  let X : Int :=
    if isSquare o.fmt then (scaleByte rd o r c : Int) - 127
    else if o.fmt = .e24 ∨ o.fmt = .e40 then o.chunkE else 0
  decodeElem o.fmt (elemCode rd o r c) X

/-- A write of bytes to memory keys. -/
abbrev Writes := List (Nat × Byte)

/-- The bytes of a number placed from key k on. -/
def placeAt (k : Nat) (bs : List Byte) : Writes :=
  match bs with
  | [] => []
  | b :: t => (k, b) :: placeAt (k + 1) t

/-- The packed element bytes of one square from its 256 codes (R46). -/
def packSquare (f : Fmt) (codes : List Nat) : List Byte :=
  let wd := match f with | .q4 | .qi4 => 4 | .q6 => 6 | _ => 8
  leBytes (squareBytes f) (codes.foldr (fun c a => c % 2 ^ wd + a <<< wd) 0)

/-- The rows of a rectangle, each with its columns, in row-major order. -/
def rowMajor (rows cols : Nat) : List (Nat × Nat) :=
  (upFrom 0 rows).flatMap fun r => (upFrom 0 cols).map fun c => (r, c)

/-- How results are written: scale mode, fixed scale or output exponent, rounding of integers (R49 to R55, R172). -/
structure WriteMode where
  fixed : Bool
  fixedScale : Nat
  wrapMode : Bool
  deriving DecidableEq, Repr

/-- Writes of one square (p, q): its scale byte and its packed elements, with the flags raised. -/
def writeSquare (o : Opd) (wm : WriteMode) (val : Nat → Nat → XVal) (p q : Nat) : Writes × NFlags :=
  let vals := (rowMajor 16 16).map fun (r, c) => val (16 * p + r) (16 * q + c)
  let S := if wm.fixed then wm.fixedScale else squareScale o.fmt (amaxOf vals)
  let res := vals.map fun v => convElem o.fmt v ((S : Int) - 127) .rne wm.wrapMode
  let n := p * o.pitch + q
  ((o.sKey + n, BitVec.ofNat 8 S) ::
      placeAt (o.eKey + n * squareBytes o.fmt) (packSquare o.fmt (res.map (·.1))),
    res.foldl (fun a x => addFlags a x.2) noFlags)

/-- Writes of a rows x cols result to its destination, converted once each (R53, R54, R57, R172, R173), with the
flags raised. -/
def writeTensor (o : Opd) (wm : WriteMode) (rows cols : Nat) (val : Nat → Nat → XVal) : Writes × NFlags :=
  if isSquare o.fmt then
    ((rowMajor (rows / 16) (cols / 16)).map fun (p, q) => writeSquare o wm val p q).foldr
      (fun a b => (a.1 ++ b.1, addFlags a.2 b.2)) ([], noFlags)
  else
    let X : Int := if o.fmt = .i32 then (wm.fixedScale : Int) - 127
      else if o.fmt = .e24 ∨ o.fmt = .e40 then o.chunkE else 0
    ((rowMajor rows cols).map fun (r, c) =>
      let (b, fl) := convElem o.fmt (val r c) X .rne wm.wrapMode
      (placeAt (o.eKey + (r * o.pitch + c) * elemBytes o.fmt) (leBytes (elemBytes o.fmt) b), fl)).foldr
      (fun a b => (a.1 ++ b.1, addFlags a.2 b.2)) ([], noFlags)

/-- Extent in bytes of an operand's element plane and scale plane, for a stored tensor of rows x cols. -/
def planeExtent (f : Fmt) (pitch rows cols : Nat) : Nat × Nat :=
  if isSquare f then
    let n := (rows / 16 - 1) * pitch + cols / 16
    (n * squareBytes f, n)
  else (((rows - 1) * pitch + cols) * elemBytes f, 0)

/-- A view with writes laid over it, later ones above earlier ones. -/
def overlay (rd : View) (ws : Writes) : View := fun k =>
  match ws.reverse.find? (fun x => x.1 == k) with
  | some x => x.2
  | none => rd k

end Sys2Proof.Machine
end

