-- ==== Sys2Proof/Machine/Sparse.lean ====
section
/-! DEFINITION. Sparse tables as plain data: a list of (key, value) pairs with strictly rising keys and no pair
equal to what an unlisted key reads as. Memory, the set-up registers and every numbered resource of the module
are such tables, so equal contents are equal lists. -/

namespace Sys2Proof.Machine

/-- A sparse table of α, keyed by number. -/
abbrev Tab (α : Type) := List (Nat × α)

/-- What key k reads as; an unlisted key reads as d k. -/
def tabGet {α : Type} (d : Nat → α) : Tab α → Nat → α
  | [], k => d k
  | (i, v) :: t, k => if k = i then v else tabGet d t k

/-- The table with key k holding v; holding what an unlisted key reads as is not being listed. -/
def tabSet {α : Type} [DecidableEq α] (d : Nat → α) : Tab α → Nat → α → Tab α
  | [], k, v => if v = d k then [] else [(k, v)]
  | (i, w) :: t, k, v =>
    if k < i then (if v = d k then (i, w) :: t else (k, v) :: (i, w) :: t)
    else if k = i then (if v = d k then t else (k, v) :: t)
    else (i, w) :: tabSet d t k v

/-- The canonical form: keys at or above lo, strictly rising, and no entry equal to what it reads as unlisted. -/
def tabWfFrom {α : Type} [DecidableEq α] (d : Nat → α) : Nat → Tab α → Bool
  | _, [] => true
  | lo, (i, v) :: t => decide (lo ≤ i) && decide (v ≠ d i) && tabWfFrom d (i + 1) t

/-- The canonical form of a whole table. -/
def tabWf {α : Type} [DecidableEq α] (d : Nat → α) (t : Tab α) : Bool := tabWfFrom d 0 t

end Sys2Proof.Machine
end

