-- ==== Sys2Proof/Machine/CoreTypes.lean ====
section
/-! DEFINITION. The types of one tensor core's state (R102, R139): commands in flight, the hazard tracker, what
blocks issue, and the core itself. -/

namespace Sys2Proof.Machine

/-- CORE_STATUS.STATE (R139). -/
inductive CoreMode
  | idle | running | draining | halted
  deriving DecidableEq, Repr

/-- A resource of the hazard tracker (R159). A plane is rows of rowLen bytes, pitch bytes apart, from key base. -/
inductive Res
  | scalar (n : Nat)
  | pred (n : Nat)
  | plane (scale : Bool) (base rows rowLen pitch : Nat)
  | flags
  deriving DecidableEq, Repr

/-- An access that a command makes: its resource, whether it writes, and whether its window is its issue cycle alone
(R705, R127). -/
structure Acc where
  res : Res
  wr : Bool
  atIssue : Bool
  deriving DecidableEq, Repr

/-- A pending entry of the hazard tracker (R160, R161): cycles lo to hi for a fixed-latency command, without end (hi
none) for a variable-latency one until it is done and a WAIT on its semaphore has since ended. -/
structure Pend where
  res : Res
  wr : Bool
  lo : Nat
  hi : Option Nat
  flight : Nat
  sem : Option Nat
  done : Bool
  deriving DecidableEq, Repr

/-- A load of commands in progress (R145, R147): the bank, the first index and the number of its commands, how many have
reached the bank or been dropped, and the index of the first dropped with the number dropped. -/
structure Load where
  bank : Nat
  first : Nat
  count : Nat
  done : Nat := 0
  dropAt : Nat := 0
  dropped : Nat := 0
  deriving DecidableEq, Repr

/-- A command in flight: issued and not yet complete. Its writes, scalar writes, amax image and flags land when it
completes. -/
structure Flight where
  id : Nat
  op : Nat
  bank : Nat
  idx : Nat
  vlat : Bool
  wv : Nat
  sig : Option Nat
  writes : Writes
  scalars : List (Nat × Word)
  preds : List (Nat × Bool)
  amax : Option (Nat × Nat)
  flags : NFlags
  semAdd : List (Nat × Nat)
  -- a variable-latency command evaluated after its issue: its word, effective offsets and the scalars it named
  cmd : Cmd
  offs : List Int
  named : Tab Word
  -- requests not yet answered, bytes that answers brought, and whether its result has been formed
  waiting : Nat
  got : Tab Byte
  formed : Bool
  -- the buffer a STASH was given
  buffer : Word
  load : Option Load
  deriving DecidableEq, Repr

/-- What blocks issue (R133, R127). -/
inductive Block
  | none
  | wait (sem count idx since : Nat)
  | stash (flight : Nat)
  | coll (flight : Nat)
  deriving DecidableEq, Repr

/-- REPEAT in progress (R143): repetition j of count, with its strides. -/
structure Rep where
  j : Nat
  count : Nat
  dD : Int
  dA : Int
  dB : Int
  deriving DecidableEq, Repr

/-- The launch a core runs: the work it belongs to, its FLOW, logical core, bank, entry, order (free: FREE) and
arguments (R103, R543). -/
structure Launch where
  work : Nat
  flow : Nat
  logical : Nat
  bank : Nat
  entry : Nat
  free : Bool
  args : List Word
  deriving DecidableEq, Repr

/-- One tensor core (R102, R139). -/
structure Core where
  mode : CoreMode
  bank0 : Tab Cmd
  bank1 : Tab Cmd
  active : Bool
  index : Nat
  scalars : Tab Word
  preds : Tab Bool
  sems : Tab Nat
  num : NumFlags
  launch : Option Launch
  order : Bool
  check : Bool
  limit : Nat
  issued : Nat
  -- t(p) of R106, the swap gate, and the cycle on which each engine's occupancy ends
  tp : Nat
  swapGate : Nat
  matEnd : Nat
  vecEnd : Nat
  movEnd : Nat
  synEnd : Nat
  rep : Option Rep
  block : Block
  flights : List Flight
  nextFlight : Nat
  pends : List Pend
  -- END in progress: its end code
  ending : Option Nat
  haltCode : Nat
  haltDetail : Nat
  haltBank : Bool
  haltIndex : Nat
  second : Nat
  haltCycle : Nat
  haltSeq : Nat
  deriving DecidableEq, Repr

/-- A core after module reset (R139); bank contents are DESIGN CHOICE (log 9): zero. -/
def coreReset : Core :=
  { mode := .idle, bank0 := [], bank1 := [], active := false, index := 0, scalars := [], preds := [], sems := []
    num := numFlagsReset, launch := none, order := false, check := false, limit := 0, issued := 0, tp := 0
    swapGate := 0, matEnd := 0, vecEnd := 0, movEnd := 0, synEnd := 0, rep := none, block := .none, flights := []
    nextFlight := 0, pends := [], ending := none, haltCode := 0, haltDetail := 0, haltBank := false, haltIndex := 0
    second := 0, haltCycle := 0, haltSeq := 0 }

end Sys2Proof.Machine
end

