-- ==== Sys2Proof/Machine/SysTypes.lean ====
section
/-! DEFINITION. The types of the parts that every block of the module uses: event latches (R611, R612), buffer pools
(R262, R270), outstanding requests (R393), completion entries due (R549). -/

namespace Sys2Proof.Machine

/-- A latched event (R611, R614): its payload is the 32 bytes of words 4 to 7. -/
structure Latched where
  code : Nat
  sev : Nat
  seq : Nat
  uptime : Nat
  step : Word
  payload : List Byte
  suppressed : Nat
  -- raised while the event ring was not running: counted in EV_LOST, not written to it (R557)
  off : Bool
  deriving DecidableEq, Repr

/-- Event latches in raise order, the next SEQ, and the handlings in progress (R612). -/
structure EventSt where
  latches : List Latched
  nextSeq : Nat
  handling : List Latched
  deriving DecidableEq, Repr

def eventReset : EventSt := ⟨[], 0, []⟩

/-- A buffer pool as the last INIT built it (R262 to R270): BASE, COUNT taken as 0 when the pool failed its check, the
fabric address at the head of its free list, FREE, BROKEN and FAILS. -/
structure Pool where
  base : Nat
  count : Nat
  head : Nat
  free : Nat
  broken : Bool
  fails : Nat
  deriving DecidableEq, Repr

def poolReset : Pool := ⟨0, 0, 0, 0, false, 0⟩

/-- Who waits for a reply: a core's command in flight, the work of a host descriptor, a collective's race, or a
far-tier hold write. -/
inductive Requester
  | core (n flight detail : Nat)
  | work (id : Nat)
  | coll (h : Nat)
  deriving DecidableEq, Repr

/-- The kind of an outstanding request. -/
inductive ReqKind
  | rd | wr | atom | sig | msg
  deriving DecidableEq, Repr

/-- An entry of an injection port's outstanding-request table (R393): the place where the reply goes is the key dst in
the requester's own buffer. -/
structure Req where
  port : Nat
  tag : Nat
  kind : ReqKind
  who : Requester
  target : Nat
  dst : Nat
  len : Nat
  deriving DecidableEq, Repr

/-- A flow context (R554): state 0 CLOSED, 1 OPEN, 2 ERROR, 3 CLOSING; its reservation; its work outstanding. -/
structure Flow where
  st : Nat
  rsv : Nat
  work : Nat
  deriving DecidableEq, Repr

/-- Flow 0 is always OPEN; the others start CLOSED (R554). -/
def flowReset (k : Nat) : Flow := if k = 0 then ⟨1, 0, 0⟩ else ⟨0, 0, 0⟩

/-- A descriptor that has started and not completed (R542, R549): its SQ, the descriptor's words, replies it waits for
and the bytes they brought, and whether its sources are in. -/
structure Work where
  id : Nat
  sq : Nat
  desc : List Word
  waiting : Nat
  got : Tab Byte
  formed : Bool
  -- source bytes, from host memory or once formed; whether they wait for a staging buffer (R536); the offset at which an
  -- access to host memory fails
  bytes : List Byte
  wantsBuf : Bool
  hostFail : Option Nat
  -- started before a host-interface reset (R560)
  cut : Bool
  -- the load of a PLOAD
  load : Option Load := none
  deriving DecidableEq, Repr

/-- Descriptor fields common to every operation (R537). -/
def wkOp (d : List Word) : Nat := fld (d.getD 0 0) 7 0

/-- A request that waits for a free entry of its port's table or for a throttle to end (R393, R417). -/
structure Unsent where
  req : Req
  frame : Frame
  deriving DecidableEq, Repr

/-- A repair that waits for a step boundary (R602): the KIND of R647, the physical part, and WHERE. -/
structure Repair where
  kind : Nat
  old : Nat
  loc : Nat
  deriving DecidableEq, Repr

/-- A repair record in flash (R647). -/
structure RepairRec where
  kind : Nat
  old : Nat
  new : Nat
  logical : Nat
  loc : Word
  step : Word
  boots : Nat
  deriving DecidableEq, Repr

/-- A sampled cross-check (R606, R608): the sampled core and command, the spares used, what the sampled core writes
to D, whether the first spare differed, and whether the slot is kept after a mismatch. result holds the captured
result of the first spare. -/
structure Capture where
  phys : Nat
  logical : Nat
  check1 : Nat
  check2 : Nat
  bank : Nat
  idx : Nat
  cmd : Cmd
  offs : List Int
  dims : List Nat
  expect : Writes
  result : Writes
  verdict : Nat
  kept : Bool
  deriving DecidableEq, Repr

/-- A completion entry that is due (R549 to R552): the SQ, its CQ, TAG and FLOW of its descriptor, STATUS, RESULT,
DETAIL. -/
structure Due where
  sq : Nat
  cq : Nat
  -- SQ_HEAD, once the SQ is deleted
  head : Option Nat
  tag : Nat
  flow : Nat
  status : Nat
  result : Word
  detail : Nat
  deriving DecidableEq, Repr

/-- A fetched descriptor in staging (R534, R536): its words and its buffer's address. -/
structure Staged where
  desc : List Word
  buf : Nat
  deriving DecidableEq, Repr

/-- A submission ring (R529 to R537): its registration, the last TAIL read, the fetch index, the error state, fetched
descriptors not started, one that waits for a staging buffer, and the CREATE_SQ and DELETE_SQ not yet complete. -/
structure Sq where
  n : Nat
  base : Nat
  log2 : Nat
  line : Nat
  cq : Nat
  tail : Nat
  fetch : Nat
  err : Bool
  staged : List Staged
  stall : Option (List Word)
  creator : Option Nat
  deleting : Option Nat
  deriving DecidableEq, Repr

/-- A completion ring (R552, R558): its registration, the next index, the last HEAD read, and the entries written since
its last signal. -/
structure Cq where
  n : Nat
  base : Nat
  log2 : Nat
  line : Nat
  irq : Bool
  delay : Nat
  count : Nat
  index : Nat
  head : Nat
  unsig : Nat
  deriving DecidableEq, Repr

/-- The event ring (R556, R557): its registration, indices, whether a record is not yet signalled, and, while events go
unwritten, the SEQ of the first and the counts by severity and by source. -/
structure EvRing where
  started : Bool
  base : Nat
  log2 : Nat
  headLine : Nat
  tailLine : Nat
  tail : Nat
  head : Nat
  unsig : Bool
  lost : Option (Nat × List Nat)
  deriving DecidableEq, Repr

def evRingReset : EvRing := ⟨false, 0, 6, 0, 0, 0, 0, false, none⟩

end Sys2Proof.Machine
end

