-- ==== Sys2Proof/Machine/CollTypes.lean ====
section
/-! DEFINITION. The types of the stream units and the collective controller: slots and their state (R431), groups
(R473), collectives in flight (R479 to R513). -/

namespace Sys2Proof.Machine

/-- Slot operators (R431). -/
inductive SlotOp
  | sum | gatherFixed | gatherLanes | sortLocal | sortMerge | filter
  deriving DecidableEq, Repr

/-- Where an output goes (R431): not yet known, RESULT delivery to the own controller, or a slot of a module. -/
inductive OutTo
  | unset
  | result
  | slot (id n rank : Nat)
  deriving DecidableEq, Repr

/-- One input of a sort or gather slot: records held, as the order of their key and their bytes; records seen; whether
LAST has come; the key last seen; and, for a gather, the kept chunks and the dropped records of kept chunks, each as a
record index in the lane and a check (R451). -/
structure StreamIn where
  recs : List (Int × List Byte)
  seen : Nat
  ended : Bool
  prev : Option Int
  parts : List (Nat × Nat)
  drops : List (Nat × Nat)
  deriving DecidableEq, Repr

def streamInReset : StreamIn := ⟨[], 0, false, none, [], []⟩

/-- One output of a sort or filter slot: records that wait to fill a chunk, records and chunks sent. -/
structure StreamOut where
  recs : List (List Byte)
  sent : Nat
  chunks : Nat
  deriving DecidableEq, Repr

/-- A chunk that a SUM slot holds: chunk number, input rank, frame, whether it is well formed, and whether its input
test failed (R444, R445). -/
structure SumIn where
  j : Nat
  rank : Nat
  frame : Frame
  good : Bool
  clash : Bool
  deriving DecidableEq, Repr

/-- A reserved slot: its parameters (R431), the collective it serves, and its state. -/
structure Slot where
  op : SlotOp
  coll : Nat
  h : Nat
  nin : Nat
  src : List Nat
  outs : List OutTo
  w : Nat
  base : List Nat
  cap : Nat
  final : Nat
  stage : Nat
  counts : Nat
  kernel : Nat
  keyType : Nat
  desc : Bool
  ps : List Word
  pages : Nat
  -- word 6 of the frames it sends (R498), their stripe and their FLOW
  arg2 : Word
  stripe : Nat
  flow : Nat
  -- chunks accepted and not yet processed, each with its place in the order of arrival (R434)
  inbox : List (Nat × Frame)
  -- SUM: lowest chunk number not sent, those above it that are sent, chunks held, chunk numbers with a damaged page
  low : Nat
  sentUp : List Nat
  held : List SumIn
  badAt : List Nat
  -- streams: record length in words, inputs, outputs, BAD from now on, records dropped, record checks in and out
  recw : Option Nat
  ins : List StreamIn
  bufs : List StreamOut
  bad : Bool
  dropped : Nat
  lostCheck : Nat
  chkIn : Nat
  chkOut : Nat
  finished : Bool
  deriving DecidableEq, Repr

/-- A group entry (R473), as read: PRESENT is the number whose bit r is that of rank r. -/
structure Group where
  gen : Nat
  list : Bool
  d0 : Nat
  d1 : Nat
  d2 : Nat
  xs : List Nat
  ys : List Nat
  zs : List Nat
  present : Nat
  ids : List Nat
  deriving DecidableEq, Repr

/-- A slot that a member is to host, or hosts (R490, R493): level 0 row, 1 column, 2 plane, 3 GATHER_LANES, 4
SORT_LOCAL, 5 FILTER. -/
structure Role where
  stripe : Nat
  level : Nat
  out : OutTo
  slot : Option Nat
  deriving DecidableEq, Repr

/-- A chunk that a node keeps in RETAIN (R499): stripe, chunk number, E, elements, OFFSET, CONTRIB, CHECK. -/
structure Kept where
  s : Nat
  j : Nat
  e : Int
  nelem : Nat
  off : Nat
  contrib : Nat
  check : Nat
  deriving DecidableEq, Repr

/-- A collective in flight on this module. -/
structure Coll where
  h : Nat
  who : Requester
  flow : Nat
  desc : List Word
  -- memory key of the completion record
  record : Nat
  grp : Group
  -- own rank
  me : Nat
  attempt : Nat
  retried : Bool
  roles : List Role
  -- the slots that the member's own contribution, or output j of its FILTER, feeds, by stripe or j
  feeds : List (Nat × OutTo)
  -- by stripe: chunks injected, 1 + the highest PACE, chunks acknowledged upward
  sent : Tab Nat
  paced : Tab Nat
  up : Tab Nat
  -- by 65,536 x stripe + rank of a child: 1 + the highest ACK
  acks : Tab Nat
  -- chunks passed, those whose writes are visible, and those kept, as (stripe, chunk)
  passed : List (Nat × Nat)
  visible : List (Nat × Nat)
  kept : List Kept
  -- chunks re-requested and failed copies of each
  misses : List ((Nat × Nat) × Nat)
  doneSent : Bool
  -- coordinator: ranks that have reported DONE, and whether a FAIL of the attempt has been acted on
  dones : List Nat
  failed : Bool
  -- DISPATCH: the parts of this member that are done
  gathered : Bool
  filtered : Bool
  -- completion record
  sat : Bool
  invalid : Bool
  flush : Nat
  retx : Nat
  amax : Nat
  dropped : Nat
  won : Bool
  -- RACE: replies awaited, and the old value of the race word once it is known
  waiting : Nat
  old : Option Word
  deriving DecidableEq, Repr

/-- A launch that waits for an entry of the table (R483). -/
structure CollWait where
  who : Requester
  flow : Nat
  key : Nat
  phys : Nat
  deriving DecidableEq, Repr

/-- An END still to be sent again (R509). -/
structure EndJob where
  id : Nat
  left : Nat
  frames : List Frame
  port : Nat
  deriving DecidableEq, Repr

end Sys2Proof.Machine
end

