-- ==== Sys2Proof/Machine/NetTypes.lean ====
section
/-! DEFINITION. The types of the links (ch. "Psioz links"), the switch and the schedulers: lanes, codewords, one link,
frames held in the packet buffer, cells, output schedulers, reservations. -/

namespace Sys2Proof.Machine

/-- A codeword's control field and slots (R298 to R300). -/
structure Codeword where
  seq : Nat
  map : Nat
  slots : List (List Word)
  deriving DecidableEq, Repr

/-- Where a link stands: DOWN; full bring-up, locking the transmit PLL (R320 step 1), sending markers (steps 2 and 3) or exchanging INIT slots (steps 4
and 5); in service; fast retrain, sending markers or exchanging INIT slots (R324). -/
inductive LinkPhase
  | down | lock | mark | init | live | fmark | finit
  deriving DecidableEq, Repr

/-- A sparing in progress (R326): the logical lane within the link, SWITCH_SEQ, the data-bearing codewords still to be
sent before it, whether this end asked for it, whether the peer has accepted, whether the spare has trained; once this end
sends on the spare, the old and the new physical lane; and whether it receives on it. -/
structure Sparing where
  lane : Nat
  seq : Nat
  left : Nat
  mine : Bool
  accepted : Bool
  trained : Bool
  moved : Option (Nat × Nat)
  took : Bool
  deriving DecidableEq, Repr

/-- A frame being sent on a link: its entry in the buffer, its header as it leaves, the slots sent and their number. -/
structure TxItem where
  id : Nat
  hdr : List Word
  pos : Nat
  len : Nat
  deriving DecidableEq, Repr

/-- One link (R289, R290), by its port number. -/
structure Link where
  phase : LinkPhase
  -- DOWN until the configuration changes or RETRAIN is written (R323)
  blocked : Bool
  degraded : Bool
  -- a full bring-up has completed since module reset, failed fast retrains in a row, cause of the one in progress
  trained : Bool
  failed : Nat
  cause : Nat
  -- quad and physical lanes, old and new, of the unplanned sparings in progress (R328), and whether the fast retrain in
  -- progress is to a reduced width (R330); whether the link has kept its sequence state through the last bring-up (R324)
  unplanned : List (Nat × Nat × Nat)
  narrowing : Bool
  resumed : Bool
  -- transmitter: next SEQ, codewords kept, codewords to resend, NAKs in a row for one ACK_SEQ, frame being sent
  txSeq : Nat
  kept : List Codeword
  resend : List Codeword
  nakSeq : Option Nat
  nakRun : Nat
  tx : Option TxItem
  -- CREDv received and cells consumed, by VC
  cred : Tab Nat
  used : Tab Nat
  -- receiver: SEQ expected, whether one was accepted, one not yet acknowledged, a bad codeword not yet made good, a NAK
  -- to be sent in the next control slot
  rxSeq : Nat
  rxAny : Bool
  unacked : Bool
  naking : Bool
  nakDue : Bool
  -- data slots accepted and not yet taken, the frame they belong to, slots of a sunk frame still to come, control slots
  rxSlots : List (List Word)
  cur : Option Nat
  skip : Nat
  lcs : List (List Word)
  -- control slots due: an acknowledgement, NAK or keepalive; and INIT and SPARE slots, as their KIND and word 4
  lcsDue : Bool
  lcsOut : List (Nat × Word)
  sparing : Option Sparing
  -- peer's SERIAL
  peerSerial : Word
  deriving DecidableEq, Repr

def linkReset : Link :=
  { phase := .down, blocked := false, degraded := false, trained := false, failed := 0, cause := 0, unplanned := []
    narrowing := false, resumed := false, txSeq := 0, kept := [], resend := [], nakSeq := none, nakRun := 0, tx := none, cred := [], used := []
    rxSeq := 0, rxAny := false, unacked := false, naking := false, nakDue := false, rxSlots := [], cur := none, skip := 0
    lcs := [], lcsDue := false, lcsOut := [], sparing := none, peerSerial := 0 }

/-- One physical lane in training (R319 to R322): the PLANE last decoded, the lanes that the peer reports condemned, this
receiver's and the peer's READY, whether it counts as condemned for this bring-up, and the logical lane of the quad
that its receiver carries, 4 being the spare. Beyond training: whether its clock recovery is unlocked, codewords in a row
that failed to decode (R317), whether it has been in loss for 10 us (R707), whether a sparing is owed to it (R599), and the
last level sent and received (R293). -/
structure Lane where
  plane : Option Nat
  peerCond : Nat
  sat : Bool
  peerReady : Bool
  bringCond : Bool
  rxLog : Option Nat
  cdr : Bool := false
  miss : Nat := 0
  gone : Bool := false
  owed : Bool := false
  txLast : Nat := 0
  rxLast : Nat := 0
  deriving DecidableEq, Repr

def laneReset : Lane := { plane := none, peerCond := 0, sat := false, peerReady := false, bringCond := false, rxLog := none }

/-- Where a copy of a frame is to go: an adaptive frame's port not yet chosen, or a port of R341. -/
inductive Dest
  | adaptive
  | port (p : Nat)
  deriving DecidableEq, Repr

/-- A copy of a frame that waits: its destination, the VC on which it leaves, its place in the order of joining, and the cycle
in which it joined. -/
structure Copy where
  dest : Dest
  vc : Nat
  join : Nat
  cycle : Nat
  deriving DecidableEq, Repr

/-- A frame in the packet buffer (R372): the port and VC it is charged to, its cells and those of them that are shared,
the cycle its header was taken, its slots as they arrive, whether its tail has passed, whether its payload is bad, and
the copies that wait. -/
structure Held where
  id : Nat
  inPort : Nat
  inVc : Nat
  cells : Nat
  shared : Nat
  at_ : Nat
  slots : List (List Word)
  need : Nat
  whole : Bool
  bad : Bool
  -- copies being sent on links, or delivered beside others and not yet acted on
  sending : Nat
  copies : List Copy
  deriving DecidableEq, Repr

/-- A frame delivered to its part and not yet acted on; its cells are held until then: its own, or as one copy of the frame
of_ in the buffer. since is the cycle of a MSG's first try (R366), at_ and res the cycle its header was taken and its RES
then (R383). -/
structure Delivered where
  frame : Frame
  port : Nat
  inPort : Nat
  inVc : Nat
  cells : Nat
  shared : Nat
  of_ : Option Nat
  since : Option Nat
  at_ : Nat
  res : Nat
  deriving DecidableEq, Repr

/-- Cells of a port and VC (R375): held, of them shared, granted and not consumed, of them shared, and CREDv. -/
structure Cells where
  o : Nat
  osh : Nat
  g : Nat
  gsh : Nat
  cred : Nat
  deriving DecidableEq, Repr

def cellsReset : Cells := ⟨0, 0, 0, 0, 0⟩

/-- The scheduler of an output port (R403, R405 to R408): V, F and active by class, SWC_PORT_WFQ as in effect, and the
two shapers as in effect with their token counts. -/
structure Sched where
  v : Nat
  f : Tab Nat
  active : Tab Bool
  wfq : Word
  shA : Word
  shB : Word
  tokA : Int
  tokB : Int
  deriving DecidableEq, Repr

/-- A reservation as in effect (R410, R411): its register, its tokens, and the frames that wait, each with the port that
injects it and the FLOWSEND that asked for it. -/
structure Rsv where
  reg : Word
  tokens : Nat
  queue : List (Nat × Frame × Option Nat)
  deriving DecidableEq, Repr

def rsvReset : Rsv := ⟨0, 0, []⟩

end Sys2Proof.Machine
end

