-- ==== Sys2Proof/Machine/MgmtTypes.lean ====
section
/-! DEFINITION. The types of the twin mirror (R581 to R583), the management core (ch. "Management, security and
start-up"), the supplies and the pins. -/

namespace Sys2Proof.Machine

/-- The mirror engine's place in a commit (R581): the region and the byte of its bank to be sent next, the check of that
region so far, the checks and lengths of the regions sent, and whether the SEAL has gone. -/
structure MirrorTx where
  step : Word
  region : Nat
  off : Nat
  sum : Nat
  manifest : List (Nat × Nat)
  done : Bool
  deriving DecidableEq, Repr

/-- What a twin has received of a step (R581, R583): its checks by region, whether a frame left the hold area, the
manifest once the SEAL has come, and who sent it. -/
structure TwinRx where
  step : Word
  bank : Nat
  checks : Tab Nat
  bounds : Bool
  manifest : Option (List Byte)
  src : Nat
  deriving DecidableEq, Repr

/-- A copy of the slot directory (R634); good: its CRC is good. -/
structure Dir where
  good : Bool
  count : Nat
  active : Nat
  trial : Nat
  tries : Nat
  deriving DecidableEq, Repr

/-- A firmware slot (R635): erased, the release that the module ships with (R700), of which the spec gives no bytes, or
what an update has written: its header, erased until it is written, and its body. -/
inductive FwSlot
  | erased
  | shipped
  | image (hdr : Option (List Byte)) (body : List Byte)
  deriving DecidableEq, Repr

/-- A boot profile (R646): its pairs of offset and value, and the entries of its route image that have been set. -/
structure Profile where
  pairs : List (Nat × Word)
  routes : List (Nat × Word)
  deriving DecidableEq, Repr

/-- A secure session (R661): its interface, whether mutual authentication was asked for, whether FINISH has come, whether
it is an owner session, and how often its keys were updated. -/
structure Session where
  id : Nat
  iface : Nat
  mutAuth : Bool
  est : Bool
  owner : Bool
  gen : Nat
  deriving DecidableEq, Repr

/-- The update through PLDM (R640 to R642): idle, components awaited, ready for the image, download, verification,
application, activation; the length of the image, what has come of it, and whether ActivateFirmware has come since
module reset. -/
structure Pldm where
  st : Nat
  len : Nat
  data : List Byte
  activated : Bool
  deriving DecidableEq, Repr

/-- The boundary-scan port (R694): the instruction in effect, the bypass bit and the boundary register. -/
structure Jtag where
  ir : Nat
  bypass : Bool
  boundary : List Bool
  deriving DecidableEq, Repr

/-- The supplies and the pins: the 42 V input in mV and whether the power-up sequence has started and power is good,
MOD_RESET_N asserted, TWIN_PRESENT_N low, the two reference clocks present, AUX_12V in mV, and by connector, as bits: a
cable or module fitted, VCC_OPT on, an over-current hold. -/
structure Pins where
  vin : Nat
  rising : Bool
  good : Bool
  modRst : Bool
  twin : Bool
  fabClk : Bool
  hostClk : Bool
  auxMv : Nat
  fitted : Nat
  optOn : Nat
  optHold : Nat
  -- connectors whose module has been released from low power (R337)
  optUp : Nat
  deriving DecidableEq, Repr

/-- Throttling (R651, R654), clocks in units of 50 MHz. By 3 x half + demand, demands being 0 temperature, 1 peak and 2
average power: the ceiling that the demand sets, 38 when it asks for nothing, and the ms since it last moved. Whether the
peak demand held in the last sample; by half the lowest clock and its cause since the last THROTTLE, and 1 + the ms since
it; whether VIN is on an excursion (R653); what the module held in the last sample of the parts of R595: two lane quads up,
its switch slices as bits, and its ROM. -/
structure Throttle where
  lvl : Tab Nat
  ms : Tab Nat
  peakOn : Bool
  low : Tab (Nat × Nat)
  told : Tab Nat
  out : Bool
  served : Bool
  slices : Nat
  rom : Bool
  deriving DecidableEq, Repr

def throttleReset : Throttle := ⟨[], [], false, [], [], false, false, 0xFF, true⟩

/-- What the management core holds, and what lies in flash. -/
structure Mgmt where
  mirror : Option MirrorTx
  twinIn : Option TwinRx
  -- the last watchdog strobe (R597), ALERT_N asserted (R619)
  strobeAt : Nat
  alert : Bool
  -- the event log: records from number logGone on, the second in which records were last written, how many, and those
  -- beyond 4,096 a second by severity (R655 to R657)
  log : List Latched
  -- records handled and not yet in the log
  logWait : List Latched
  logGone : Nat
  logSec : Nat
  logIn : Nat
  logLost : List Nat
  -- optics by connector (R340): 1 + the clock of the last complete read, and the ten alarm thresholds read at insertion
  optAt : Tab Nat
  optThr : Tab (List Nat)
  -- measurement block 7 as taken at the last set or clear of LOCKED (R663): LOCKED and the RWL words
  block7 : Bool × List (Nat × Word)
  -- the repair records replayed at boot (R663)
  replayed : List RepairRec
  -- the half whose arithmetic clock a replay has set, and the clock that it restores (R609)
  replayHalf : Nat
  replayClk : Nat
  -- the sr_word probe's result on its way (R90)
  srJob : Option Word
  -- the message of the host mailbox in hand (R628), and the frames that had come before it (R626)
  mbx : Option (List Word)
  mbxAfter : List Delivered
  -- the two copies of the boot profile in flash, the copy in use since the last module reset, whether the other one becomes
  -- the profile at the next, and the one being built (R633, R646)
  profile0 : Option Profile
  profile1 : Option Profile
  profUse : Nat
  profNew : Bool
  building : Option Profile
  -- slot directory, slots, the slot that runs (R633 to R639)
  dir0 : Dir
  dir1 : Dir
  fw0 : FwSlot
  fw1 : FwSlot
  running : Nat
  -- the step of R644 that has been reached, and whether the ROM is in recovery (R638)
  bootStep : Nat
  recovery : Bool
  -- the module's state when MOD_RESET_N was asserted (R591)
  modeWas : Nat
  -- MCTP endpoint IDs by binding, 0 SMBUS and 1 HOST (R618); SPDM by interface: 1 version, 2 capabilities, 3 algorithms
  eids : Tab Nat
  spdm : Tab Nat
  sessions : List Session
  nextSession : Nat
  -- CXL IDE keys programmed, and in effect (R662)
  ideNext : List Byte
  ideLive : List Byte
  pldm : Pldm
  jtag : Jtag
  pins : Pins
  thr : Throttle
  deriving DecidableEq, Repr

/-- A copy of the boot profile; the one in force, in the copy in use; and the one that the next module reset puts in force
(R646). -/
def Mgmt.profCopy (m : Mgmt) (k : Nat) : Option Profile := if k = 0 then m.profile0 else m.profile1
def Mgmt.inForce (m : Mgmt) : Option Profile := m.profCopy m.profUse
def Mgmt.profile (m : Mgmt) : Option Profile := m.profCopy (if m.profNew then 1 - m.profUse else m.profUse)

/-- A profile is written to the copy not in use (R646). -/
def Mgmt.putProfile (m : Mgmt) (p : Profile) : Mgmt :=
  if m.profUse = 0 then { m with profile1 := some p, profNew := true } else { m with profile0 := some p, profNew := true }

/-! The module flash (R633): offset and size of each region. -/

/-- 0 the slot directory, 1 and 2 the firmware slots, 3 the boot profile, 4 the repair records, 5 the event log, 6 reserved. -/
def flashRegion : Nat → Nat × Nat
  | 0 => (0x00000000, 2 ^ 20)
  | 1 => (0x00100000, 32 * 2 ^ 20)
  | 2 => (0x02100000, 32 * 2 ^ 20)
  | 3 => (0x04100000, 4 * 2 ^ 20)
  | 4 => (0x04500000, 16 * 2 ^ 20)
  | 5 => (0x05500000, 128 * 2 ^ 20)
  | _ => (0x0D500000, 299 * 2 ^ 20)

/-- Copy c of the slot directory, of the boot profile, and of repair record i (R633, R647). -/
def flashDirAt (c : Nat) : Nat := (flashRegion 0).1 + 0x10000 * c
def flashProfileAt (c : Nat) : Nat := (flashRegion 3).1 + 2 * 2 ^ 20 * c
def flashRecordAt (c i : Nat) : Nat := (flashRegion 4).1 + 8 * 2 ^ 20 * c + 32 * i

/-- A firmware slot, and record n of the event log, whose ring fills its region (R633, R635, R656). -/
def flashSlotAt (k : Nat) : Nat := (flashRegion (1 + k)).1
def logPlaces : Nat := (flashRegion 5).2 / 64
def flashLogAt (n : Nat) : Nat := (flashRegion 5).1 + 64 * (n % logPlaces)

/-- The longest image body: what a slot holds after its header (R635). -/
def slotBodyMax : Nat := (flashRegion 1).2 - 512

/-- The management core right after module reset; the pins as they stand with power good, MOD_RESET_N deasserted and
nothing else connected; flash as the module ships (R700). -/
def mgmtReset : Mgmt :=
  { mirror := none, twinIn := none, strobeAt := 0, alert := false, log := [], logWait := [], logGone := 0, logSec := 0, logIn := 0, logLost := []
    optAt := [], optThr := [], block7 := (false, []), replayed := []
    replayHalf := 0, replayClk := 38, srJob := none, mbx := none, mbxAfter := []
    profile0 := none, profile1 := none, profUse := 0, profNew := false, building := none
    dir0 := ⟨true, 1, 0, 0, 0⟩, dir1 := ⟨false, 0, 0, 0, 0⟩, fw0 := .shipped, fw1 := .erased, running := 0
    bootStep := 1, recovery := false, modeWas := 0, eids := [], spdm := [], sessions := [], nextSession := 0, ideNext := [], ideLive := []
    pldm := ⟨0, 0, [], false⟩, jtag := ⟨0, false, []⟩
    pins := { vin := 42000, rising := true, good := true, modRst := false, twin := false, fabClk := true, hostClk := true, auxMv := 0
              fitted := 0, optOn := 0, optHold := 0, optUp := 0 }
    thr := throttleReset }

end Sys2Proof.Machine
end

