-- ==== Sys2Proof/Machine/RegTable.lean ====
section
/-! DEFINITION. The set-up registers (R11): where each lies in the set-up window, which of its bits are RW, RWL and
RW1C (R15), and its value after module reset. Bits in none of the three are RO, WO or reserved. -/

namespace Sys2Proof.Machine

/-- A register or an array of registers: dims are (count, stride) pairs from the widest stride down. -/
structure RegRow where
  name : String
  base : Nat
  dims : List (Nat × Nat)
  rw : Nat
  rwl : Nat
  w1c : Nat
  reset : Nat
  deriving DecidableEq, Repr

/-- Whether offset d from a row's base is that of one of its registers. -/
def dimsHit : List (Nat × Nat) → Nat → Bool
  | [], d => d == 0
  | (n, st) :: t, d => decide (d / st < n) && dimsHit t (d % st)

def rowHit (r : RegRow) (off : Nat) : Bool := decide (r.base ≤ off) && dimsHit r.dims (off - r.base)

/-- All bits [hi:lo]. -/
def bits (hi lo : Nat) : Nat := (2 ^ (hi + 1 - lo) - 1) <<< lo

namespace Reg

def fusePartId : Nat := 0x800000
def coreNumStatus (i0 : Nat) : Nat := 0x510100 + 0x1000 * i0
def coreSrSeed : Nat := 0x500800
def coreSrStep : Nat := 0x500808
def coreSrIndex : Nat := 0x500810
def coreSrCtrl : Nat := 0x500818
def coreSrOut : Nat := 0x500820
def coreDumpBase : Nat := 0x500000
def coreDumpSlot : Nat := 0x500008
def coreSemTimeout : Nat := 0x500010
def coreIssueReg (i0 : Nat) : Nat := 0x510000 + 0x1000 * i0
def coreCmdLimit (i0 : Nat) : Nat := 0x510008 + 0x1000 * i0
def coreStatus (i0 : Nat) : Nat := 0x510010 + 0x1000 * i0
def coreHaltReg (i0 : Nat) : Nat := 0x510018 + 0x1000 * i0
def coreCtrl (i0 : Nat) : Nat := 0x510020 + 0x1000 * i0
def coreDumpRange (i0 : Nat) (i1 : Nat) : Nat := 0x510040 + 0x1000 * i0 + 0x8 * i1
def coreSem (i0 : Nat) (i1 : Nat) : Nat := 0x510800 + 0x1000 * i0 + 0x8 * i1
def memReqTimeout : Nat := 0x600000
def memPoolCtrl : Nat := 0x600008
def memScrubCtrl : Nat := 0x600010
def memErrStatus : Nat := 0x600018
def memStackStatus (i0 : Nat) : Nat := 0x601000 + 0x8 * i0
def memPpoolCfg (i0 : Nat) (i1 : Nat) : Nat := 0x610000 + 0x40 * i0 + 0x8 * i1
def memNpoolCfg (i0 : Nat) (i1 : Nat) : Nat := 0x620000 + 0x40 * i0 + 0x8 * i1
def memPpoolStat (i0 : Nat) (i1 : Nat) : Nat := 0x630000 + 0x40 * i0 + 0x8 * i1
def memNpoolStat (i0 : Nat) (i1 : Nat) : Nat := 0x640000 + 0x40 * i0 + 0x8 * i1
def lnkGlobal : Nat := 0x200000
def lnkQcfg (i0 : Nat) : Nat := 0x201000 + 0x200 * i0
def lnkQmap (i0 : Nat) : Nat := 0x201008 + 0x200 * i0
def lnkQctrl (i0 : Nat) : Nat := 0x201010 + 0x200 * i0
def lnkLstat (i0 : Nat) (i1 : Nat) : Nat := 0x201040 + 0x200 * i0 + 0x8 * i1
def lnkLcnt (i0 : Nat) (i1 : Nat) : Nat := 0x201080 + 0x200 * i0 + 0x8 * i1
def lnkPcnt0 (i0 : Nat) (i1 : Nat) : Nat := 0x201100 + 0x200 * i0 + 0x10 * i1
def lnkPcnt1 (i0 : Nat) (i1 : Nat) : Nat := 0x201108 + 0x200 * i0 + 0x10 * i1
def lnkOptMod (i0 : Nat) : Nat := 0x208000 + 0x100 * i0
def lnkOptLane (i0 : Nat) (i1 : Nat) : Nat := 0x208008 + 0x100 * i0 + 0x8 * i1
def swcId : Nat := 0x300000
def swcRoute (i0 : Nat) : Nat := 0x380000 + 0x8 * i0
def swcDimLink (i0 : Nat) (i1 : Nat) : Nat := 0x300100 + 0x20 * i0 + 0x8 * i1
def swcCtrl : Nat := 0x300008
def swcBufStat : Nat := 0x300020
def swcDropStat0 : Nat := 0x300028
def swcDropStat1 : Nat := 0x300030
def swcPortCfg (i0 : Nat) : Nat := 0x301000 + 0x40 * i0
def swcPortGmin (i0 : Nat) : Nat := 0x301008 + 0x40 * i0
def swcPortOcc (i0 : Nat) : Nat := 0x301010 + 0x40 * i0
def swcPortStat0 (i0 : Nat) : Nat := 0x301018 + 0x40 * i0
def swcPortStat1 (i0 : Nat) : Nat := 0x301020 + 0x40 * i0
def swcAgeLimit0 : Nat := 0x300010
def swcAgeLimit1 : Nat := 0x300018
def swcSchedCtrl : Nat := 0x300038
def swcPortWfq (i0 : Nat) : Nat := 0x301028 + 0x40 * i0
def swcShapeA (i0 : Nat) : Nat := 0x301030 + 0x40 * i0
def swcShapeB (i0 : Nat) : Nat := 0x301038 + 0x40 * i0
def swcRsv (i0 : Nat) : Nat := 0x300200 + 0x8 * i0
def swcRsvStat : Nat := 0x300048
def swcInjCtrl : Nat := 0x300040
def stuKctrl : Nat := 0x400000
def stuKvalid (i0 : Nat) : Nat := 0x400008 + 0x8 * i0
def stuKstage (i0 : Nat) : Nat := 0x400100 + 0x8 * i0
def stuKimage (i0 : Nat) (i1 : Nat) : Nat := 0x410000 + 0x100 * i0 + 0x8 * i1
def stuUnitStat (i0 : Nat) : Nat := 0x401000 + 0x20 * i0
def stuUnitDrop (i0 : Nat) : Nat := 0x401008 + 0x20 * i0
def stuUnitChunks (i0 : Nat) : Nat := 0x401010 + 0x20 * i0
def stuUnitCtrl (i0 : Nat) : Nat := 0x401018 + 0x20 * i0
def stuCollGbase : Nat := 0x400800
def stuCollGset : Nat := 0x400808
def stuCollStat : Nat := 0x400810
def hifSetupLock : Nat := 0x0
def hifSetupUnlock : Nat := 0x8
def hifCtrl : Nat := 0x10
def hifStatus : Nat := 0x18
def hifErr : Nat := 0x20
def twnRgnBase (i0 : Nat) : Nat := 0x701000 + 0x10 * i0
def twnRgnSize (i0 : Nat) : Nat := 0x701008 + 0x10 * i0
def twnCfg : Nat := 0x700000
def twnHoldBase : Nat := 0x700008
def twnHoldPages : Nat := 0x700010
def twnCommit : Nat := 0x700018
def twnRestart : Nat := 0x700020
def twnStatus : Nat := 0x700028
def twnCommitted : Nat := 0x700030
def twnHeld (i0 : Nat) : Nat := 0x700038 + 0x8 * i0
def twnFence : Nat := 0x700048
def twnHpCfg : Nat := 0x700050
def twnSpares : Nat := 0x700058
def twnHpLane (i0 : Nat) : Nat := 0x702000 + 0x8 * i0
def twnHpPort (i0 : Nat) : Nat := 0x702800 + 0x8 * i0
def twnHpCore (i0 : Nat) : Nat := 0x703000 + 0x8 * i0
def twnHpStack (i0 : Nat) : Nat := 0x703800 + 0x8 * i0
def twnHpStu (i0 : Nat) : Nat := 0x703A00 + 0x8 * i0
def twnCtrl : Nat := 0x700060
def twnSwap : Nat := 0x700068
def twnCoreMap (i0 : Nat) : Nat := 0x704000 + 0x8 * i0
def twnXchkCfg : Nat := 0x700070
def twnXchkStat : Nat := 0x700078
def twnReplay : Nat := 0x700080
def twnFatal0 : Nat := 0x700088
def twnFatal1 : Nat := 0x700090
def twnEvtCount : Nat := 0x700098
def mgtMbxCtrl : Nat := 0x100000
def mgtMbxReq (i0 : Nat) : Nat := 0x100100 + 0x8 * i0
def mgtMbxRsp (i0 : Nat) : Nat := 0x100300 + 0x8 * i0
def fuseSerial : Nat := 0x800008
def fuseSec : Nat := 0x800010
def fuseKeyHash (i0 : Nat) (i1 : Nat) : Nat := 0x800100 + 0x40 * i0 + 0x8 * i1
def fuseOwnerHash (i0 : Nat) : Nat := 0x800200 + 0x8 * i0
def mgtSensIn : Nat := 0x100018
def mgtSensH (i0 : Nat) : Nat := 0x100020 + 0x8 * i0
def mgtThrottle : Nat := 0x100010
def mgtPins : Nat := 0x100030
def hifAsqBase : Nat := 0x100
def hifAsqDb : Nat := 0x108
def hifAcqBase : Nat := 0x110
def hifAcqHead : Nat := 0x118
def hifEvrBase : Nat := 0x120
def hifEvrHead : Nat := 0x128
def hifEvrTail : Nat := 0x130

end Reg

/-- Registers, part 0. -/
def regRows0 : List RegRow :=
  [ ⟨"fusePartId", 0x800000, [], 0x0, 0x0, 0x0, 0x5A090CB40A01⟩,
    ⟨"coreNumStatus", 0x510100, [(192, 0x1000)], 0x0, 0x0, 0x7, 0x0⟩,
    ⟨"coreSrSeed", 0x500800, [], 0x0, 0xFFFFFFFFFFFFFFFF, 0x0, 0x0⟩,
    ⟨"coreSrStep", 0x500808, [], 0x0, 0xFFFFFFFFFFFFFFFF, 0x0, 0x0⟩,
    ⟨"coreSrIndex", 0x500810, [], 0x0, 0xFFFFFFFFFFFFFFFF, 0x0, 0x0⟩,
    ⟨"coreSrCtrl", 0x500818, [], 0x0, 0x1FFFFFFFF, 0x0, 0x200000000⟩,
    ⟨"coreSrOut", 0x500820, [], 0x0, 0x0, 0x0, 0x0⟩,
    ⟨"coreDumpBase", 0x500000, [], 0x0, 0xFFFFFFFFFFFFFFC1, 0x0, 0x0⟩,
    ⟨"coreDumpSlot", 0x500008, [], 0x0, 0xFFFFFFFF, 0x0, 0x10000⟩,
    ⟨"coreSemTimeout", 0x500010, [], 0x0, 0xFFFFFFFF, 0x0, 0x2710⟩,
    ⟨"coreIssueReg", 0x510000, [(192, 0x1000)], 0x0, 0x1, 0x0, 0x0⟩,
    ⟨"coreCmdLimit", 0x510008, [(192, 0x1000)], 0x0, 0xFFFFFFFF, 0x0, 0x0⟩,
    ⟨"coreStatus", 0x510010, [(192, 0x1000)], 0x0, 0x0, 0x0, 0xFF00⟩,
    ⟨"coreHaltReg", 0x510018, [(192, 0x1000)], 0x0, 0x0, 0x0, 0x0⟩,
    ⟨"coreCtrl", 0x510020, [(192, 0x1000)], 0x0, 0x0, 0x0, 0x0⟩,
    ⟨"coreDumpRange", 0x510040, [(192, 0x1000), (4, 0x8)], 0x0, 0xFFFFFFFFFFFF, 0x0, 0x0⟩,
    ⟨"coreSem", 0x510800, [(192, 0x1000), (64, 0x8)], 0x0, 0x0, 0x0, 0x0⟩,
    ⟨"memReqTimeout", 0x600000, [], 0x0, 0xFFFFFFFF, 0x0, 0x1F4⟩,
    ⟨"memPoolCtrl", 0x600008, [], 0x0, 0x0, 0x0, 0x0⟩,
    ⟨"memScrubCtrl", 0x600010, [], 0x0, 0xFFFFFF01, 0x0, 0x641801⟩,
    ⟨"memErrStatus", 0x600018, [], 0x0, 0x0, 0x0, 0x0⟩,
    ⟨"memStackStatus", 0x601000, [(32, 0x8)], 0x0, 0x0, 0x0, 0x4000100⟩,
    ⟨"memPpoolCfg", 0x610000, [(192, 0x40), (5, 0x8)], 0x0, 0xFFFFFFFFFFFFFFFF, 0x0, 0x0⟩,
    ⟨"memNpoolCfg", 0x620000, [(16, 0x40), (5, 0x8)], 0x0, 0xFFFFFFFFFFFFFFFF, 0x0, 0x0⟩ ]

/-- Registers, part 1. -/
def regRows1 : List RegRow :=
  [ ⟨"memPpoolStat", 0x630000, [(192, 0x40), (5, 0x8)], 0x0, 0x0, 0x0, 0x0⟩,
    ⟨"memNpoolStat", 0x640000, [(16, 0x40), (5, 0x8)], 0x0, 0x0, 0x0, 0x0⟩,
    ⟨"lnkGlobal", 0x200000, [], 0x0, 0xFFFF00FFFF01, 0x0, 0x3E800080A00⟩,
    ⟨"lnkQcfg", 0x201000, [(32, 0x200)], 0x0, 0x1F, 0x0, 0x10⟩,
    ⟨"lnkQmap", 0x201008, [(32, 0x200)], 0x0, 0x0, 0x0, 0x4688⟩,
    ⟨"lnkQctrl", 0x201010, [(32, 0x200)], 0x0, 0x0, 0x0, 0x0⟩,
    ⟨"lnkLstat", 0x201040, [(32, 0x200), (4, 0x8)], 0x0, 0x0, 0x0, 0x0⟩,
    ⟨"lnkLcnt", 0x201080, [(32, 0x200), (4, 0x8)], 0x0, 0x0, 0x0, 0x0⟩,
    ⟨"lnkPcnt0", 0x201100, [(32, 0x200), (5, 0x10)], 0x0, 0x0, 0x0, 0x0⟩,
    ⟨"lnkPcnt1", 0x201108, [(32, 0x200), (5, 0x10)], 0x0, 0x0, 0x0, 0x0⟩,
    ⟨"lnkOptMod", 0x208000, [(8, 0x100)], 0x0, 0x0, 0x20, 0xFFFF00000000⟩,
    ⟨"lnkOptLane", 0x208008, [(8, 0x100), (20, 0x8)], 0x0, 0x0, 0x0, 0x0⟩,
    ⟨"swcId", 0x300000, [], 0x0, 0x1FFFF, 0x0, 0xFFFF⟩,
    ⟨"swcRoute", 0x380000, [(65536, 0x8)], 0x0, 0x3FFFFFFFFFF, 0x0, 0xFFFFFFFFFF⟩,
    ⟨"swcDimLink", 0x300100, [(3, 0x20), (4, 0x8)], 0x0, 0xFFFFFFFFFFFFFFFF, 0x0, 0xFFFFFFFFFFFFFFFF⟩,
    ⟨"swcCtrl", 0x300008, [], 0x0, 0xFFFF071F, 0x0, 0x640410⟩,
    ⟨"swcBufStat", 0x300020, [], 0x0, 0x0, 0x4000000000, 0x1350026A00⟩,
    ⟨"swcDropStat0", 0x300028, [], 0x0, 0x0, 0x0, 0x0⟩,
    ⟨"swcDropStat1", 0x300030, [], 0x0, 0x0, 0x0, 0x0⟩,
    ⟨"swcPortCfg", 0x301000, [(208, 0x40)], 0x0, 0x3, 0x0, 0x0⟩,
    ⟨"swcPortGmin", 0x301008, [(208, 0x40)], 0x0, 0xFFFFFFFFFFFFFFF, 0x0, 0x80202008020040⟩,
    ⟨"swcPortOcc", 0x301010, [(208, 0x40)], 0x0, 0x0, 0x0, 0x0⟩,
    ⟨"swcPortStat0", 0x301018, [(208, 0x40)], 0x0, 0x0, 0x0, 0x0⟩,
    ⟨"swcPortStat1", 0x301020, [(208, 0x40)], 0x0, 0x0, 0x0, 0x0⟩ ]

/-- Registers, part 2. -/
def regRows2 : List RegRow :=
  [ ⟨"swcAgeLimit0", 0x300010, [], 0x0, 0xFFFFFFFFFFFFFFFF, 0x0, 0x3D093D093D09015E⟩,
    ⟨"swcAgeLimit1", 0x300018, [], 0x0, 0xFFFFFFFFFFFFFFFF, 0x0, 0x3D093D093D09⟩,
    ⟨"swcSchedCtrl", 0x300038, [], 0x0, 0xFFFFFF3F, 0x0, 0x10000000⟩,
    ⟨"swcPortWfq", 0x301028, [(208, 0x40)], 0x0, 0x3FFFFFFFFFFFFFFF, 0x0, 0x4081010101040⟩,
    ⟨"swcShapeA", 0x301030, [(208, 0x40)], 0x0, 0xFFFFFFFF07, 0x0, 0x0⟩,
    ⟨"swcShapeB", 0x301038, [(208, 0x40)], 0x0, 0xFFFFFFFF07, 0x0, 0x0⟩,
    ⟨"swcRsv", 0x300200, [(64, 0x8)], 0x0, 0x1FFFFFFFFFFF01, 0x0, 0x400000000000⟩,
    ⟨"swcRsvStat", 0x300048, [], 0x0, 0x0, 0x0, 0x0⟩,
    ⟨"swcInjCtrl", 0x300040, [], 0x0, 0xFF0FFF0FFF, 0x0, 0x400800040⟩,
    ⟨"stuKctrl", 0x400000, [], 0x0, 0x7FFF, 0x0, 0x0⟩,
    ⟨"stuKvalid", 0x400008, [(4, 0x8)], 0x0, 0x0, 0x0, 0x0⟩,
    ⟨"stuKstage", 0x400100, [(32, 0x8)], 0x0, 0xFFFFFFFFFFFFFFFF, 0x0, 0x0⟩,
    ⟨"stuKimage", 0x410000, [(256, 0x100), (32, 0x8)], 0x0, 0x0, 0x0, 0x0⟩,
    ⟨"stuUnitStat", 0x401000, [(64, 0x20)], 0x0, 0x0, 0x0, 0x8000FF00⟩,
    ⟨"stuUnitDrop", 0x401008, [(64, 0x20)], 0x0, 0x0, 0x0, 0x0⟩,
    ⟨"stuUnitChunks", 0x401010, [(64, 0x20)], 0x0, 0x0, 0x0, 0x0⟩,
    ⟨"stuUnitCtrl", 0x401018, [(64, 0x20)], 0x0, 0x0, 0x0, 0x0⟩,
    ⟨"stuCollGbase", 0x400800, [], 0x0, 0xFFFFFFFFFFFFF000, 0x0, 0x0⟩,
    ⟨"stuCollGset", 0x400808, [], 0x0, 0x0, 0x0, 0x0⟩,
    ⟨"stuCollStat", 0x400810, [], 0x0, 0x0, 0x0, 0x0⟩,
    ⟨"hifSetupLock", 0x0, [], 0x0, 0x0, 0x0, 0x0⟩,
    ⟨"hifSetupUnlock", 0x8, [], 0x0, 0x0, 0x0, 0x0⟩,
    ⟨"hifCtrl", 0x10, [], 0x1, 0x0, 0x0, 0x0⟩,
    ⟨"hifStatus", 0x18, [], 0x0, 0x0, 0x0, 0x0⟩ ]

/-- Registers, part 3. -/
def regRows3 : List RegRow :=
  [ ⟨"hifErr", 0x20, [], 0x0, 0x0, 0x1F, 0x0⟩,
    ⟨"twnRgnBase", 0x701000, [(256, 0x10)], 0xFFFFFFFFFFFFF000, 0x0, 0x0, 0x0⟩,
    ⟨"twnRgnSize", 0x701008, [(256, 0x10)], 0xFFFFFFFFFFFFFF, 0x0, 0x0, 0x0⟩,
    ⟨"twnCfg", 0x700000, [], 0x0, 0xFFFF0001FF07, 0x0, 0x6400000000⟩,
    ⟨"twnHoldBase", 0x700008, [], 0x0, 0xFFFFFFF000, 0x0, 0x0⟩,
    ⟨"twnHoldPages", 0x700010, [], 0x0, 0x1FFFFFFF, 0x0, 0x0⟩,
    ⟨"twnCommit", 0x700018, [], 0x0, 0x0, 0x0, 0x0⟩,
    ⟨"twnRestart", 0x700020, [], 0x0, 0x0, 0x0, 0x0⟩,
    ⟨"twnStatus", 0x700028, [], 0x0, 0x0, 0x400, 0x0⟩,
    ⟨"twnCommitted", 0x700030, [], 0x0, 0x0, 0x0, 0xFFFFFFFFFFFFFFFF⟩,
    ⟨"twnHeld", 0x700038, [(2, 0x8)], 0x0, 0x0, 0x0, 0xFFFFFFFFFFFFFFFF⟩,
    ⟨"twnFence", 0x700048, [], 0x0, 0x0, 0x0, 0x0⟩,
    ⟨"twnHpCfg", 0x700050, [], 0x0, 0xFFFFFFFFFFFF, 0x0, 0x3C03E800FA⟩,
    ⟨"twnSpares", 0x700058, [], 0x0, 0x0, 0x0, 0x2044200C⟩,
    ⟨"twnHpLane", 0x702000, [(160, 0x8)], 0x0, 0x0, 0x0, 0x0⟩,
    ⟨"twnHpPort", 0x702800, [(121, 0x8)], 0x0, 0x0, 0x0, 0x0⟩,
    ⟨"twnHpCore", 0x703000, [(192, 0x8)], 0x0, 0x0, 0x0, 0x0⟩,
    ⟨"twnHpStack", 0x703800, [(32, 0x8)], 0x0, 0x0, 0x0, 0x0⟩,
    ⟨"twnHpStu", 0x703A00, [(64, 0x8)], 0x0, 0x0, 0x0, 0x0⟩,
    ⟨"twnCtrl", 0x700060, [], 0x0, 0x0, 0x0, 0x0⟩,
    ⟨"twnSwap", 0x700068, [], 0x0, 0x0, 0x0, 0x0⟩,
    ⟨"twnCoreMap", 0x704000, [(192, 0x8)], 0x0, 0x0, 0x0, 0x0⟩,
    ⟨"twnXchkCfg", 0x700070, [], 0x0, 0xFFFFFFFFFFFFF03F, 0x0, 0x21⟩,
    ⟨"twnXchkStat", 0x700078, [], 0x0, 0x0, 0x0, 0x0⟩ ]

/-- Registers, part 4. -/
def regRows4 : List RegRow :=
  [ ⟨"twnReplay", 0x700080, [], 0xFFFFF, 0x0, 0x0, 0x0⟩,
    ⟨"twnFatal0", 0x700088, [], 0x0, 0x0, 0x0, 0x0⟩,
    ⟨"twnFatal1", 0x700090, [], 0x0, 0x0, 0x0, 0x0⟩,
    ⟨"twnEvtCount", 0x700098, [], 0x0, 0x0, 0x0, 0x0⟩,
    ⟨"mgtMbxCtrl", 0x100000, [], 0x0, 0x0, 0x4, 0x0⟩,
    ⟨"mgtMbxReq", 0x100100, [(64, 0x8)], 0xFFFFFFFFFFFFFFFF, 0x0, 0x0, 0x0⟩,
    ⟨"mgtMbxRsp", 0x100300, [(64, 0x8)], 0x0, 0x0, 0x0, 0x0⟩,
    ⟨"fuseSerial", 0x800008, [], 0x0, 0x0, 0x0, 0x0⟩,
    ⟨"fuseSec", 0x800010, [], 0x0, 0x0, 0x0, 0x0⟩,
    ⟨"fuseKeyHash", 0x800100, [(4, 0x40), (6, 0x8)], 0x0, 0x0, 0x0, 0x0⟩,
    ⟨"fuseOwnerHash", 0x800200, [(6, 0x8)], 0x0, 0x0, 0x0, 0x0⟩,
    ⟨"mgtSensIn", 0x100018, [], 0x0, 0x0, 0x0, 0x0⟩,
    ⟨"mgtSensH", 0x100020, [(2, 0x8)], 0x0, 0x0, 0x0, 0x0⟩,
    ⟨"mgtThrottle", 0x100010, [], 0xFFF, 0x0, 0x0, 0x9A69A6⟩,
    ⟨"mgtPins", 0x100030, [], 0x0, 0x0, 0x0, 0x0⟩,
    ⟨"hifAsqBase", 0x100, [], 0xFFFFFFFFFFFFF01F, 0x0, 0x0, 0x6⟩,
    ⟨"hifAsqDb", 0x108, [], 0xFFFFFFFFFFFFFFC0, 0x0, 0x0, 0x0⟩,
    ⟨"hifAcqBase", 0x110, [], 0xFFFFFFFFFFFFF01F, 0x0, 0x0, 0x6⟩,
    ⟨"hifAcqHead", 0x118, [], 0xFFFFFFFFFFFFFFC0, 0x0, 0x0, 0x0⟩,
    ⟨"hifEvrBase", 0x120, [], 0xFFFFFFFFFFFFF01F, 0x0, 0x0, 0x6⟩,
    ⟨"hifEvrHead", 0x128, [], 0xFFFFFFFFFFFFFFC0, 0x0, 0x0, 0x0⟩,
    ⟨"hifEvrTail", 0x130, [], 0xFFFFFFFFFFFFFFC0, 0x0, 0x0, 0x0⟩ ]

/-- Every set-up register. -/
def regRows : List RegRow := regRows0 ++ regRows1 ++ regRows2 ++ regRows3 ++ regRows4

/-- The row of a register offset. -/
def regRow (off : Nat) : Option RegRow := regRows.find? (fun r => rowHit r off)

/-- Offsets of the port numbers that R341 reserves, 123 to 127, hold no register (R378). -/
def portHole (off : Nat) : Bool := decide (0x301000 + 0x40 * 123 ≤ off) && decide (off < 0x301000 + 0x40 * 128)

/-- Cores in service at shipment: logical core l is physical core l, and the 12 cores 180 to 191 are spare
(R4, R576; log 10): grade A's, which the reset
state is; the boot of a grade B part makes its 162 and 30 (State.fuseCores). -/
def fusedCores : Nat := 180

/-- Spare stream units at shipment: the last four of each half (log 10). -/
def fusedSpareUnit (u : Nat) : Bool := decide (28 ≤ u % 32)

/-- The registers that reset to what the fuses hold, one value for each part (R605, R600; log 10). -/
def fusedReset (off : Nat) : Option Nat :=
  if 0x704000 ≤ off ∧ off < 0x704600 then
    some (if (off - 0x704000) / 8 < fusedCores then (off - 0x704000) / 8 else 0xFF)
  else if 0x703000 ≤ off ∧ off < 0x703600 ∧ fusedCores ≤ (off - 0x703000) / 8 then some (2 ^ 34)
  else if 0x703A00 ≤ off ∧ off < 0x703C00 ∧ fusedSpareUnit ((off - 0x703A00) / 8) then some (2 ^ 34)
  else if 0x702000 ≤ off ∧ off < 0x702500 ∧ (off - 0x702000) / 8 % 5 = 4 then some (2 ^ 34)
  else none

/-- What a register reads after module reset. -/
def regReset (off : Nat) : Word :=
  match regRow off with
  | some r => BitVec.ofNat 64 ((fusedReset off).getD r.reset)
  | none => 0

end Sys2Proof.Machine
end

