-- ==== Sys2Proof/Machine/Wire.lean ====
section
/-! DEFINITION. A codeword on its lane (R292, R293, R298, R299): the 20-bit control field, the 5,140 message bits, the code
RS(544,514) over 10-bit symbols with up to 15 corrections, and PAM4 with Gray mapping, the 1/(1+D) precoder and polarity.
The field polynomial, the roots of the generator, the order of bits in a symbol, the Gray map and the precoder are those of
IEEE 802.3, which the spec names and does not lay down (PRESUMED, log 98). -/

namespace Sys2Proof.Machine

/-! The control field and the message (R298, R299). -/

/-- The control field: CTRLMAP in [9:0], SEQ in [19:10]. -/
def Codeword.control (c : Codeword) : Nat := c.map % 1024 + (c.seq % 1024) <<< 10

/-- The n low bits of v, bit 0 first. -/
def bitsOf (n v : Nat) : List Bool := (upFrom 0 n).map v.testBit

/-- The number whose bits, bit 0 first, are those of a list. -/
def ofBits (l : List Bool) : Nat := l.foldr (fun b a => b.toNat + 2 * a) 0

/-- The message bits: the control field, bit 0 first, then payload bytes 0 to 639, each least significant bit first. -/
def Codeword.message (c : Codeword) : List Bool :=
  bitsOf 20 c.control ++ c.slots.flatMap fun w => (wordsBytes w).flatMap fun b => bitsOf 8 b.toNat

/-- Cuts a list into n pieces of k. -/
def piecesL {α : Type} (k : Nat) : Nat → List α → List (List α)
  | 0, _ => []
  | n + 1, l => l.take k :: piecesL k n (l.drop k)

/-- The codeword that message bits spell. -/
def ofMessage (bs : List Bool) : Codeword :=
  let c := ofBits (bs.take 20)
  let words := (piecesL 64 80 (bs.drop 20)).map fun w => BitVec.ofNat 64 (ofBits w)
  ⟨bitsN c 19 10, bitsN c 9 0, piecesL 8 10 words⟩

/-! The field of 1,024 elements, by x^10 + x^3 + 1. -/

def gfShift (a : Nat) : Nat := if 512 ≤ a then (2 * a) ^^^ 1033 else 2 * a

def gfMulGo : Nat → Nat → Nat → Nat
  | 0, _, _ => 0
  | n + 1, a, b => (if b % 2 = 1 then a else 0) ^^^ gfMulGo n (gfShift a) (b / 2)

def gfMul (a b : Nat) : Nat := if a = 0 ∨ b = 0 then 0 else gfMulGo 10 a b

/-- Powers of the primitive element x, from the 0th on. -/
def gfPowers : Nat → Nat → List Nat
  | 0, _ => []
  | n + 1, a => a :: gfPowers n (gfShift a)

/-- The inverse: the power 1,022. -/
def gfInv (a : Nat) : Nat :=
  let sq (x : Nat) : Nat := gfMul x x
  let a2 := sq a
  let a3 := gfMul a2 a
  let a7 := gfMul (sq a3) a
  let a15 := gfMul (sq a7) a
  let a31 := gfMul (sq a15) a
  let a63 := gfMul (sq a31) a
  let a127 := gfMul (sq a63) a
  let a255 := gfMul (sq a127) a
  sq (gfMul (sq a255) a)

/-! The code. -/

/-- Sum of two coefficient lists, lowest coefficient first. -/
def polyAdd : List Nat → List Nat → List Nat
  | [], q => q
  | p, [] => p
  | a :: p, b :: q => (a ^^^ b) :: polyAdd p q

def polyScale (k : Nat) (p : List Nat) : List Nat := p.map (gfMul k)

/-- The value of a polynomial at x. -/
def polyAt (p : List Nat) (x : Nat) : Nat := p.foldr (fun a v => a ^^^ gfMul v x) 0

/-- The generator, lowest coefficient first, its leading 1 apart: its roots are the powers 0 to 29 of the primitive
element. -/
def rsGen : List Nat :=
  [523, 834, 128, 158, 185, 127, 392, 193, 610, 788, 361, 883, 503, 942, 385, 495, 720, 94, 132, 593, 249, 282, 565, 108,
    1, 552, 230, 187, 552, 575]

/-- One step of the division by the generator; the remainder is kept highest coefficient last. -/
def rsStep (rem : List Nat) (m : Nat) : List Nat :=
  let fb := m ^^^ rem.getLastD 0
  polyAdd (0 :: rem.dropLast) (polyScale fb rsGen)

/-- The 544 symbols of 514 message symbols: the message, then the 30 parity symbols, the highest coefficient first. -/
def rsEncode (m : List Nat) : List Nat := m ++ (m.foldl rsStep (List.replicate 30 0)).reverse

/-- The syndromes of received symbols. -/
def rsSyndromes (r : List Nat) : List Nat := (gfPowers 30 1).map fun a => r.foldl (fun v x => gfMul v a ^^^ x) 0

/-- One step of Berlekamp and Massey: the locator, its length, the last locator that changed the length with its
discrepancy and the steps since. -/
structure BmState where
  c : List Nat
  len : Nat
  b : List Nat
  d : Nat
  m : Nat

def bmStep (syn : List Nat) (x : BmState) (i : Nat) : BmState :=
  let disc := (upFrom 0 (x.len + 1)).foldl (fun v j => v ^^^ gfMul (x.c.getD j 0) (if j ≤ i then syn.getD (i - j) 0 else 0)) 0
  if disc = 0 then { x with m := x.m + 1 }
  else
    let c := polyAdd x.c (List.replicate x.m 0 ++ polyScale (gfMul disc (gfInv x.d)) x.b)
    if 2 * x.len ≤ i then ⟨c, i + 1 - x.len, x.c, disc, 1⟩ else { x with c := c, m := x.m + 1 }

/-- The symbols in error, as position from the last symbol and value; none when they are more than 15. -/
def rsErrors (syn : List Nat) : Option (List (Nat × Nat)) :=
  let x := (upFrom 0 30).foldl (bmStep syn) ⟨[1], 0, [1], 1, 1⟩
  if 15 < x.len then none else
  let omega := (upFrom 0 x.len).map fun i =>
    (upFrom 0 (i + 1)).foldl (fun v j => v ^^^ gfMul (x.c.getD j 0) (syn.getD (i - j) 0)) 0
  let at_ := ((upFrom 0 544).zip (gfPowers 544 1)).filterMap fun y =>
    let inv := gfInv y.2
    if polyAt x.c inv = 0 then
      let slope := polyAt ((upFrom 0 (x.len + 1)).map fun i => if i % 2 = 0 then x.c.getD (i + 1) 0 else 0) inv
      some (y.1, gfMul (gfMul y.2 (polyAt omega inv)) (gfInv slope))
    else none
  if at_.length = x.len then some at_ else none

/-- Decodes 544 received symbols: how many were corrected, and the 514 message symbols; none when the code does not decode
them. -/
def rsDecode (r : List Nat) : Option (Nat × List Nat) :=
  let syn := rsSyndromes r
  if syn.all (· == 0) then some (0, r.take 514)
  else
    match rsErrors syn with
    | none => none
    | some es =>
      let fixed := ((upFrom 0 544).zip r).map fun y =>
        match es.find? (fun e => e.1 == 543 - y.1) with | some e => y.2 ^^^ e.2 | none => y.2
      if (rsSyndromes fixed).all (· == 0) then some (es.length, fixed.take 514) else none

/-- The 544 symbols of a codeword. -/
def Codeword.symbols (c : Codeword) : List Nat := rsEncode ((piecesL 10 514 c.message).map ofBits)

/-! The lane. -/

/-- Gray mapping of two bits, the earlier first. -/
def grayLevel (a b : Bool) : Nat := if a then (if b then 2 else 3) else (if b then 1 else 0)

def grayBits (l : Nat) : List Bool :=
  match l with
  | 0 => [false, false]
  | 1 => [false, true]
  | 2 => [true, true]
  | _ => [true, false]

def pairLevels : List Bool → List Nat
  | a :: b :: t => grayLevel a b :: pairLevels t
  | _ => []

/-- The 1/(1+D) precoder, modulo 4, after level p. -/
def precodeGo : Nat → List Nat → List Nat
  | _, [] => []
  | p, g :: t => let x := (g + 4 - p % 4) % 4; x :: precodeGo x t

/-- Its inverse. -/
def unprecodeGo : Nat → List Nat → List Nat
  | _, [] => []
  | p, x :: t => (x + p) % 4 :: unprecodeGo x t

/-- The 2,720 PAM4 levels of a codeword on a lane whose last level was p. -/
def Codeword.levels (c : Codeword) (precode : Bool) (p : Nat) : List Nat :=
  let g := pairLevels (c.symbols.flatMap (bitsOf 10))
  if precode then precodeGo p g else g

/-- The symbols that received levels spell, on a lane that is inverted or not and whose last level, as corrected for its
polarity, was p. -/
def levelSymbols (precode invert : Bool) (p : Nat) (ls : List Nat) : List Nat :=
  let ls := if invert then ls.map (3 - ·) else ls
  let g := if precode then unprecodeGo p ls else ls
  (piecesL 10 544 (g.flatMap grayBits)).map ofBits

/-- The CTRLMAP bits as received, of a codeword that the code does not decode. -/
def receivedMap (precode invert : Bool) (p : Nat) (ls : List Nat) : Nat := (levelSymbols precode invert p ls).headD 0

/-- What arrives on a lane as 2,720 levels: the symbols corrected and the codeword, or none where it does not decode. -/
def receiveLevels (precode invert : Bool) (p : Nat) (ls : List Nat) : Option (Nat × Codeword) :=
  (rsDecode (levelSymbols precode invert p ls)).map fun x => (x.1, ofMessage (x.2.flatMap (bitsOf 10)))

end Sys2Proof.Machine
end

