-- ==== Sys2Proof/Machine/State.lean ====
section
/-! DEFINITION. The state of one module, as plain data, its reasons to stop, and its reset. -/

namespace Sys2Proof.Machine

/-- Nothing in the spec stops the block as a whole: an error of a program, a frame, a link or a message has an effect
that the spec gives (a halt, a drop, an answer). The machine therefore raises no fault. -/
inductive Fault
  deriving DecidableEq, Repr

/-- Why a command has no meaning. -/
inductive Refusal
  /-- Raised by the dispatch alone, for a row of the table not yet modelled (safe: nothing is claimed of it). -/
  | notModelled (mnemonic : String)
  deriving DecidableEq, Repr

/-- CXL.cache requests of the device (R520). -/
inductive CacheReq
  | rdShared | rdCurr | itoMWr | wOWrInv | wOWrInvF | cleanEvictNoData
  deriving DecidableEq, Repr

/-- What leaves the module at its edges. -/
inductive Output
  /-- A codeword on a logical lane of a link, as its PAM4 levels (R292, R293, R301). -/
  | codeword (port lane : Nat) (levels : List Nat)
  /-- A training marker on a physical lane of a quad (R319). -/
  | marker (quad lane : Nat) (payload : Word)
  /-- A CXL.cache request for a host address (R520). -/
  | cacheReq (op : CacheReq) (a : Nat)
  /-- The answer to a snoop of a line of R522: kept as RspSHitSE, or dropped as RspIHitSE (R521). -/
  | snoopRsp (line : Nat) (keep : Bool)
  /-- An MSI-X message (R558). -/
  | msix (vector : Nat)
  /-- A CXL.mem read response (R525). -/
  | memData (data : List Byte)
  /-- A back-invalidation snoop of an HDM line: BISnpInv, or BISnpData (R524). -/
  | biSnp (line : Nat) (inv : Bool)
  /-- The completion of a configuration request, with Retry Status or not (R562, R644). -/
  | cfgCpl (retry : Bool)
  /-- The response to a management message on SMBUS (0) or the VDM path of HOST (1), in a secure session or not (R621). -/
  | mgmtRsp (iface : Nat) (sess : Option Nat) (bytes : List Byte)
  /-- The MGMT frame that answers MODULE_RESET on FABRIC, which leaves before the reset takes effect (R620, R622). -/
  | mgmtFrame (f : Frame)
  /-- The response to an MCTP control message on a binding, 0 SMBUS and 1 HOST: command and body (R618). -/
  | mctpRsp (binding cmd : Nat) (body : List Byte)
  /-- An SPDM response on SMBUS or HOST, in a secure session or not (R659). -/
  | spdmRsp (iface : Nat) (sess : Option Nat) (bytes : List Byte)
  /-- A PLDM response or request of the device on SMBUS: command, completion code and body (R640). -/
  | pldmMsg (cmd cc : Nat) (body : List Byte)
  /-- OPT_RESET_N of a connector is driven low for 10 us (R687). -/
  | optReset (c : Nat)
  /-- Firmware releases the module of a connector from low power (R337). -/
  | cmisRelease (c : Nat)
  /-- Firmware deactivates or reactivates lane i of a bank of a connector's module, through Page 10h (R337). -/
  | cmisLane (c bank i : Nat) (on : Bool)
  /-- Bits shifted out on TDO (R694). -/
  | tdo (bits : List Bool)
  /-- EXTEST drives the pins with the boundary register (R694). -/
  | drive (bits : List Bool)
  deriving DecidableEq, Repr

/-- The module. -/
structure State where
  pending : List Instr
  -- cycles of the switch island since module reset (R24); an idle step is one cycle (log 11)
  clock : Nat
  -- free values drawn so far (log 5)
  freeCtr : Nat
  -- set-up registers by offset (R11)
  regs : Tab Word
  -- bytes of the three tiers, by key (R247); stored words with an uncorrectable error, by the key of their first byte
  mem : Tab Byte
  memBad : Tab Bool
  -- by stack: 1 + the number of the loss of its retention, 0 none; the bytes of such stacks written since (R286)
  gone : Tab Nat
  kept : Tab Bool
  -- corrected errors since module reset, by tier (R278)
  corrected : Tab Nat
  cores : Tab Core
  pools : Tab Pool
  -- outstanding requests (R393), requests waiting to be sent, frames handed to each internal port
  reqs : List Req
  unsent : List Unsent
  inj : Tab (List Frame)
  -- injection holds of R417: keys 2p (class 6) and 2p + 1 (all but classes 0 and 7)
  injHold : Tab Bool
  works : List Work
  nextWork : Nat
  due : List Due
  -- rings in ascending number, the SQ served last (R538), lines of R522 held and asked for: keys 0 to 255 the doorbell
  -- lines, 256 + n the head line of CQ n, 512 that of the event ring
  sqs : List Sq
  cqs : List Cq
  evr : EvRing
  lastSq : Nat
  lines : Tab Bool
  wants : Tab Bool
  -- the MSI-X vectors' pending bits, and their mask bits as last told; event records that wait for the ring, PERST_N
  msix : Tab Bool
  vmask : Tab Bool
  evq : List Latched
  perst : Bool
  -- the admin pair and the event ring have been started since ENABLE was written 1 (R712)
  ringsUp : Bool
  -- the snoop filter, oldest line first, each with whether the host has answered a BISnpData since it last took the line;
  -- back-invalidation snoops not answered; HDM_LOST by range: accesses since, and 1 + the clock of, the last (R524, R528)
  snoops : List (Nat × Bool)
  biWait : List (Nat × Bool)
  hdmLost : Tab (Nat × Nat)
  -- parts lost (R364, R594): 0 to 31 stacks, 32 to 47 far-tier packages, 48 the host interface, 49 and 50 the arithmetic
  -- islands of H0 and H1
  lost : Tab Bool
  nextTag : Nat
  flows : Tab Flow
  hostMem : Tab Byte
  launchQ : Tab (List Launch)
  ev : EventSt
  mirrorStep : Word
  repairs : List Repair
  -- MAT.MM and MAT.MMP commands issued since module reset, and capture slots in use (R606)
  xchkCount : Nat
  caps : Tab (Option Capture)
  rowHits : List (Nat × Nat)
  -- links by port number, physical lanes by 5 q + j
  links : Tab Link
  lanes : Tab Lane
  -- quads whose transmit PLL is unlocked, and by quad 1 + the clock of the last CLOCK_MISMATCH (R297, R318)
  pllLol : Tab Bool
  quadMis : Tab Nat
  -- repair records in flash and the boot count (R647)
  recs : List RepairRec
  boots : Nat
  -- the packet buffer, cells by 8 p + v, shared cells held or granted, guaranteed minima in effect (R373)
  buf : List Held
  nextFrame : Nat
  nextJoin : Nat
  cells : Tab Cells
  sharedUsed : Nat
  gminEff : Tab Word
  -- link ports whose fence is in effect (R390)
  fences : Tab Bool
  -- output schedulers by port, reservations, frames delivered to their parts, MSG frames that wait for a buffer
  sched : Tab Sched
  rsv : Tab Rsv
  deliv : List Delivered
  msgWait : List Delivered
  -- occurrences of each cause of R370, by 256 x cause + port, since module reset or CLEAR_CNT
  causes : Tab Nat
  -- stream slots by number, drops by 4 x unit + cause since reset or CLEAR_CNT, the kernel being installed and its length (R459, R472)
  slots : Tab (Option Slot)
  stuDrops : Tab Nat
  kernelJob : Option (Nat × Nat)
  -- group table, the group being committed and what its check found (R476)
  groups : Tab (Option Group)
  groupPend : Option (Nat × Option Group)
  -- collectives in flight, the next handle, launches that wait, READY frames held with their arrival, ENDs to repeat
  colls : List Coll
  nextColl : Nat
  collWaits : List CollWait
  readies : List (Nat × Frame)
  endJobs : List EndJob
  mg : Mgmt
  out : List Output
  deriving DecidableEq, Repr

def State.reset : State :=
  { pending := [], clock := 0, freeCtr := 0, regs := [], mem := [], memBad := [], gone := [], kept := [], corrected := [], cores := [], pools := [], reqs := [], unsent := [], inj := [], injHold := [],
    works := [], nextWork := 0, due := [], sqs := [], cqs := [], evr := evRingReset, lastSq := 0, lines := [], wants := [], msix := [], vmask := [], evq := [], perst := false, ringsUp := false
    snoops := [], biWait := [], hdmLost := [], lost := [], nextTag := 0
    flows := [], hostMem := [], launchQ := [], ev := eventReset, mirrorStep := 0, repairs := [], xchkCount := 0, caps := [], rowHits := [], links := [], lanes := [], pllLol := [], quadMis := [], recs := [], boots := 0
    buf := [], nextFrame := 0, nextJoin := 0, cells := [], sharedUsed := 0, gminEff := [], fences := [], sched := [], rsv := [], deliv := [], msgWait := [], causes := []
    slots := [], stuDrops := [], kernelJob := none, groups := [], groupPend := none, colls := [], nextColl := 0, collWaits := [], readies := [], endJobs := []
    mg := mgmtReset, out := [] }

end Sys2Proof.Machine
end

