-- ==== Sys2Proof/Machine/Ops.lean ====
section
/-! DEFINITION. The named operations over registers, memory, addresses, events, health points, completions and
requests that the meanings share. -/

namespace Sys2Proof.Machine

/-! Set-up registers. -/

def State.rget (s : State) (off : Nat) : Word := tabGet regReset s.regs off

def State.rput (s : State) (off : Nat) (v : Word) : State := { s with regs := tabSet regReset s.regs off v }

/-- Field [hi:lo] of a register. -/
def State.rfld (s : State) (off hi lo : Nat) : Nat := fld (s.rget off) hi lo

def State.rsetFld (s : State) (off hi lo n : Nat) : State := s.rput off (setFld (s.rget off) hi lo n)

def State.rbit (s : State) (off i : Nat) : Bool := bit (s.rget off) i

def State.rsetBit (s : State) (off i : Nat) (b : Bool) : State := s.rsetFld off i i b.toNat

/-- A counter field that saturates at all ones (R15). -/
def State.rcount (s : State) (off hi lo k : Nat) : State :=
  s.rsetFld off hi lo (satAdd (2 ^ (hi + 1 - lo) - 1) (s.rfld off hi lo) k)

/-- Counter fields, each register's offset with the mask of its fields, are cleared; a counter that is incremented in the
same cycle ends at the increments made in it, as incs gives them in their places, by offset (R62). -/
def State.clearCounters (s : State) (fields : List (Nat × Nat)) (incs : List (Nat × Nat)) : State :=
  fields.foldl (fun s x =>
    let m : Word := BitVec.ofNat 64 x.2
    let inc : Word := BitVec.ofNat 64 (((incs.find? fun y => y.1 == x.1).map (·.2)).getD 0)
    s.rput x.1 ((s.rget x.1 &&& ~~~m) ||| (inc &&& m))) s

/-! Free values. -/

/-- The next free word (log 5) and the state that has drawn it. -/
def State.draw (s : State) : Word × State := (Config.freeWord s.freeCtr, { s with freeCtr := s.freeCtr + 1 })

/-! Memory. Keys: Pewter by physical core, n x 2^23 + B; near 2^46 + OFFSET; far 2^47 + OFFSET (R247). -/

/-- What a byte reads that nothing has written (log 1). -/
def memDefault (_ : Nat) : Byte := 0

/-- The tier of a key. -/
def keyTier (k : Nat) : Nat := if k < 2 ^ 46 then 0 else if k < 2 ^ 47 then 1 else 2

/-- Stack of a near key (R247). -/
def keyStack (k : Nat) : Nat := let o := k - 2 ^ 46; 2 * bitsN o 37 34 + bitsN o 12 12

/-- Whether a byte of a stack has not been written since the stack lost its retention (R286). -/
def State.stale (s : State) (k : Nat) : Bool :=
  !s.gone.isEmpty && keyTier k == 1 && tabGet (fun _ => 0) s.gone (keyStack k) != 0 && !tabGet (fun _ => false) s.kept k

/-- What a byte reads; one whose retention was lost and that nothing has written since is a free value (log 97). -/
def State.mget (s : State) (k : Nat) : Byte :=
  if s.stale k then Config.lostByte (tabGet (fun _ => 0) s.gone (keyStack k)) k else tabGet memDefault s.mem k

/-- The first key of the protected word that holds a key: 8 B of Pewter, 32 B of the other tiers (R277). -/
def granule (k : Nat) : Nat := if k < 2 ^ 46 then k - k % 8 else k - k % 32

/-- A write of one byte; the word written carries a good code again. -/
def State.mput (s : State) (k : Nat) (b : Byte) : State :=
  { s with
    mem := tabSet memDefault s.mem k b
    memBad := tabSet (fun _ => false) s.memBad (granule k) false
    kept := if s.stale k then tabSet (fun _ => false) s.kept k true else s.kept }

def State.mputs (s : State) : Writes → State
  | [] => s
  | (k, b) :: t => (s.mput k b).mputs t

def State.mbytes (s : State) (k len : Nat) : List Byte := (upFrom k len).map s.mget

def State.mnat (s : State) (k len : Nat) : Nat := leNat (fun i => s.mget (k + i)) len

def State.mword (s : State) (k : Nat) : Word := BitVec.ofNat 64 (s.mnat k 8)

def State.mputBytes (s : State) (k : Nat) (bs : List Byte) : State := s.mputs (placeAt k bs)

def State.mputWord (s : State) (k : Nat) (w : Word) : State := s.mputBytes k (leBytes 8 w.toNat)

/-! Host memory, as far as the device has written it; what the device reads comes with the command that brings it. -/

def State.hputBytes (s : State) (k : Nat) (bs : List Byte) : State :=
  { s with hostMem := (placeAt k bs).foldl (fun m x => tabSet memDefault m x.1 x.2) s.hostMem }

/-! Identity, the core map and addresses. -/

/-- SWC_ID.FLAT_ID (R343). -/
def State.flatId (s : State) : Nat := s.rfld Reg.swcId 15 0

def State.coresEnabled (s : State) : Nat := s.rfld Reg.fusePartId 23 16

/-- Physical core of a logical core (R605). -/
def State.physOf (s : State) (l : Nat) : Nat := s.rfld (Reg.twnCoreMap l) 7 0

/-- Logical core of a physical core; 0xFF when it is spare or disabled (R139). -/
def State.logicalOf (s : State) (n : Nat) : Nat :=
  ((upFrom 0 192).find? (fun l => decide (l < s.coresEnabled) && s.physOf l == n)).getD 0xFF

/-- Stack group of a physical core (R245). -/
def groupOf (n : Nat) : Nat := 8 * (n / 96) + 2 * (n % 96 / 8 / 3) + n % 8 / 4

/-- Injection port of a physical core (R713). -/
def corePort (n : Nat) : Nat := 128 + groupOf n

def pewKey (n b : Nat) : Nat := n * 2 ^ 23 + b

def addrId (a : Nat) : Nat := bitsN a 63 48
def addrTier (a : Nat) : Nat := bitsN a 47 46
def addrOff (a : Nat) : Nat := bitsN a 45 0

/-- Bounds of R247 and R248 that an address shows without its module's core count: zero bits, tier and extent. -/
def addrShape (a len : Nat) : Bool :=
  let o := addrOff a
  match addrTier a with
  | 0 => decide (bitsN o 45 31 = 0) && decide (bitsN o 22 0 + len ≤ pewterBytes)
  | 1 => decide (bitsN o 45 38 = 0) && decide (bitsN o 33 0 + len ≤ 2 ^ 34)
  | 2 => decide (bitsN o 45 40 = 0) && decide (bitsN o 38 0 + len ≤ 2 ^ 39)
  | _ => false

/-- The memory key of an address of this module, its ID apart, when its extent lies within its tier (R247, R248). -/
def State.localKey (s : State) (a len : Nat) : Option Nat :=
  if addrShape a len then
    let o := addrOff a
    match addrTier a with
    | 0 =>
      let l := bitsN o 30 23
      if l < s.coresEnabled ∧ s.physOf l < 192 then some (pewKey (s.physOf l) (bitsN o 22 0)) else none
    | 1 => some (2 ^ 46 + o)
    | _ => some (2 ^ 47 + o)
  else none

/-- Fabric address of a memory key of this module; a spare core's Pewter, which no address reaches, gives its offset
with L = 0xFF. -/
def State.keyAddr (s : State) (k : Nat) : Nat :=
  s.flatId <<< 48 + (if k < 2 ^ 46 then (s.logicalOf (k / 2 ^ 23)) <<< 23 + k % 2 ^ 23 else k)

/-! Time. -/

/-- Microseconds since module reset: the switch island runs at 1.6 GHz (R24). -/
def State.uptime (s : State) : Nat := s.clock / 1600

/-- Something leaves the module. -/
def State.emit (s : State) (o : Output) : State := { s with out := s.out ++ [o] }

/-- The line that host address a lies in. -/
def hostLine (a : Nat) : Nat := a - a % 64

/-- How many lines of host memory a run of bytes touches. -/
def hostLines (a len : Nat) : Nat := if len = 0 then 0 else (a + len - 1) / 64 - a / 64 + 1

/-- The request that writes the part of line i of a run (R520): ItoMWr for a whole line, where WOWrInvF would do as well
(DESIGN CHOICE, log 94), WOWrInv for part of one. -/
def hostWriteReq (a len i : Nat) : Output :=
  let l := hostLine a + 64 * i
  if a ≤ l ∧ l + 64 ≤ a + len then .cacheReq .itoMWr l else .cacheReq .wOWrInv (max a l)

/-- Writes a run of host memory, line by line (R520). -/
def State.hostWrite (s : State) (a : Nat) (bs : List Byte) : State :=
  (upFrom 0 (hostLines a bs.length)).foldl (fun s i => s.emit (hostWriteReq a bs.length i)) (s.hputBytes a bs)

/-- Reads a run of host memory, line by line (R520); what it holds comes with the command. -/
def State.hostRead (s : State) (a len : Nat) : State :=
  (upFrom 0 (hostLines a len)).foldl (fun s i => s.emit (.cacheReq .rdCurr (hostLine a + 64 * i))) s

/-! Events. -/

/-- Items of a payload, as (width in bits, value), each aligned to its own width from byte pos on (R614). -/
def packItems : List (Nat × Nat) → Nat → List Byte
  | [], _ => []
  | (w, v) :: t, pos =>
    let n := w / 8
    let pad := (n - pos % n) % n
    List.replicate pad 0 ++ leBytes n v ++ packItems t (pos + pad + n)

/-- The 32 payload bytes. -/
def payloadOf (items : List (Nat × Nat)) : List Byte :=
  let b := (packItems items 0).take 32
  b ++ List.replicate (32 - b.length) 0

/-- Event codes (R615). -/
def evHOST_LINK_DEGRADED : Nat := 0x0001
def evRING_ERROR : Nat := 0x0002
def evHDM_LOST : Nat := 0x0003
def evSETUP_UNLOCKED : Nat := 0x0004
def evLINK_RETRAIN : Nat := 0x0201
def evLINK_DOWN : Nat := 0x0202
def evLINK_DEGRADED : Nat := 0x0203
def evLANE_SPARED : Nat := 0x0204
def evLINK_CONFIG_MISMATCH : Nat := 0x0205
def evCLOCK_MISMATCH : Nat := 0x0206
def evOPTICS_ALARM : Nat := 0x0207
def evFRAME_ERROR : Nat := 0x0301
def evROUTE_DROP : Nat := 0x0302
def evDELIVERY_DROP : Nat := 0x0303
def evGUAR_VIOLATION : Nat := 0x0304
def evAGE_DISCARD : Nat := 0x0305
def evGUAR_REFUSED : Nat := 0x0306
def evSTU_MISMATCH : Nat := 0x0401
def evSTU_MEM_UE : Nat := 0x0402
def evSTU_DROP : Nat := 0x0403
def evCORE_HALT : Nat := 0x0501
def evIMEM_ACTIVE_WRITE : Nat := 0x0502
def evSCALE_REBUILT : Nat := 0x0503
def evPRECOND_HOLD : Nat := 0x0504
def evUPDATE_WATCH : Nat := 0x0505
def evMEM_CORRECTED : Nat := 0x0601
def evMEM_UNCORRECTABLE : Nat := 0x0602
def evSTACK_OVERTEMP : Nat := 0x0603
def evPOOL_DOUBLE_FREE : Nat := 0x0604
def evPOOL_BROKEN : Nat := 0x0605
def evEVENT_LOSS : Nat := 0x0701
def evCOMMIT_REFUSED : Nat := 0x0702
def evMIRROR_FAILED : Nat := 0x0703
def evMODULE_STATE : Nat := 0x0704
def evFENCE_APPLIED : Nat := 0x0705
def evFENCE_REJECTED : Nat := 0x0706
def evHEALTH_WARN : Nat := 0x0707
def evCONDEMNED : Nat := 0x0708
def evSPARE_IN : Nat := 0x0709
def evSPARE_EXHAUSTED : Nat := 0x070A
def evPORT_UNHEALTHY : Nat := 0x070B
def evXCHK_MISMATCH : Nat := 0x070C
def evREPLAY_DONE : Nat := 0x070D
def evREPAIR_PENDING : Nat := 0x070E

/-- Severities (R610). -/
def sevINFO : Nat := 0
def sevCORRECTED : Nat := 1
def sevCONTAINED : Nat := 2
def sevFATAL : Nat := 3

/-- The event ring runs (R557, R712). -/
def State.evRunning (s : State) : Bool := s.evr.started && s.rbit Reg.hifStatus 5

/-- Raising an event: its latch fills, or counts when it is full (R611); TWN_EVT_COUNT counts every event and the
first FATAL one is kept in TWN_FATAL0 and TWN_FATAL1 (R613). Immediate actions are the caller's. -/
def State.raise (s : State) (code sev : Nat) (items : List (Nat × Nat)) : State :=
  let s := s.rcount Reg.twnEvtCount (16 * sev + 15) (16 * sev) 1
  let off := !s.evRunning
  let s := if off then s.rcount Reg.hifStatus 47 32 1 else s
  if s.ev.latches.any (fun l => l.code == code) then
    { s with ev := { s.ev with latches := s.ev.latches.map fun l =>
        if l.code = code then { l with suppressed := satAdd 0xFFFF l.suppressed 1 } else l } }
  else
    let l : Latched := { code := code, sev := sev, seq := s.ev.nextSeq, uptime := s.uptime,
                         step := s.rget Reg.twnCommitted, payload := payloadOf items, suppressed := 0, off := off }
    let s := if sev = sevFATAL ∧ s.rfld Reg.twnFatal0 15 0 = 0 then
        (s.rput Reg.twnFatal0 (BitVec.ofNat 64 (code + s.ev.nextSeq <<< 32))).rput Reg.twnFatal1
          (BitVec.ofNat 64 (ofBytes (l.payload.take 8)))
      else s
    { s with ev := { s.ev with latches := s.ev.latches ++ [l], nextSeq := (s.ev.nextSeq + 1) % 2 ^ 32 } }

/-! DIRTY and pending repairs. -/

/-- DIRTY becomes 1; a mirror in progress ends REFUSED with REASON DIRTY (R580, R582). -/
def State.setDirty (s : State) : State :=
  let s := s.rsetBit Reg.twnStatus 3 true
  if s.rfld Reg.twnStatus 2 0 = 1 then
    ((s.rsetFld Reg.twnStatus 2 0 3).rsetFld Reg.twnStatus 7 4 1).raise evCOMMIT_REFUSED sevCONTAINED
      [(64, s.mirrorStep.toNat), (8, 1)]
  else s

/-- A mirror in progress ends FAILED with a reason (R582). -/
def State.mirrorFail (s : State) (reason : Nat) : State :=
  if s.rfld Reg.twnStatus 2 0 = 1 then
    ((s.rsetFld Reg.twnStatus 2 0 4).rsetFld Reg.twnStatus 7 4 reason).raise evMIRROR_FAILED sevCONTAINED
      [(64, s.mirrorStep.toNat), (8, reason)]
  else s

/-- A repair record is written to flash (R647, R648). -/
def State.record (s : State) (kind old new logical : Nat) (loc : Word) : State :=
  { s with recs := s.recs ++ [⟨kind, old, new, logical, loc, s.rget Reg.twnCommitted, s.boots⟩] }

/-- A write through CXL.io reaches an RWL field only while the set-up is not locked; firmware always (R566). -/
def State.rwlOpen (s : State) (fw : Bool) : Bool := fw || !s.rbit Reg.hifSetupLock 1

/-- A repair becomes pending; REPAIR_PENDING is raised when the bit first becomes 1 (R615). -/
def State.addRepair (s : State) (r : Repair) : State :=
  let was := s.rbit Reg.twnStatus 8
  let s := { s with repairs := if s.repairs.contains r then s.repairs else s.repairs ++ [r] }
  let s := s.rsetBit Reg.twnStatus 8 true
  if was then s else s.raise evREPAIR_PENDING sevINFO []

/-- One fewer spare in a field of TWN_SPARES. -/
def State.useSpare (s : State) (hi lo : Nat) : State := s.rsetFld Reg.twnSpares hi lo (s.rfld Reg.twnSpares hi lo - 1)

/-- A spare part, whose health register is at off, is condemned before it serves: no spare any more (R600). -/
def State.loseSpare (s : State) (off hi lo : Nat) : State := (s.rsetBit off 34 false).useSpare hi lo

/-! Health points (R598, R599): parts are lanes, link ports, cores, stacks and stream units. -/

inductive Part
  | lane (j : Nat)
  | port (p : Nat)
  | core (n : Nat)
  | stack (k : Nat)
  | unit (u : Nat)
  deriving DecidableEq, Repr

def hpReg : Part → Nat
  | .lane j => Reg.twnHpLane j
  | .port p => Reg.twnHpPort p
  | .core n => Reg.twnHpCore n
  | .stack k => Reg.twnHpStack k
  | .unit u => Reg.twnHpStu u

/-- What condemning a part brings (R599): a core or a unit waits for a boundary, or is kept with SPARE_EXHAUSTED, and
one that is a spare is none any more; a port raises PORT_UNHEALTHY; a stack's worst channel waits for its spare channel. A lane's sparing is started by the
link that it serves. -/
def State.condemn (s : State) : Part → State
  | .lane _ => s
  | .port _ => s.raise evPORT_UNHEALTHY sevINFO []
  | .core n =>
    if s.rbit (Reg.twnHpCore n) 34 then s.loseSpare (Reg.twnHpCore n) 7 0
    else if s.rfld Reg.twnSpares 7 0 = 0 then s.raise evSPARE_EXHAUSTED sevCONTAINED []
    else s.addRepair ⟨1, n, 0⟩
  | .unit u =>
    let left := if u < 32 then s.rfld Reg.twnSpares 19 16 else s.rfld Reg.twnSpares 23 20
    if s.rbit (Reg.twnHpStu u) 34 then (if u < 32 then s.loseSpare (Reg.twnHpStu u) 19 16 else s.loseSpare (Reg.twnHpStu u) 23 20)
    else if left = 0 then s.raise evSPARE_EXHAUSTED sevCONTAINED [] else s.addRepair ⟨2, u, 0⟩
  | .stack k => s.addRepair ⟨4, k, Config.channelOf k⟩

/-- Points added to a part's score, with HEALTH_WARN and CONDEMNED when it reaches WARN and CONDEMN (R598, R599). -/
def State.addPoints (s : State) (p : Part) (k : Nat) : State :=
  let off := hpReg p
  let s := s.rcount off 31 0 k
  let pts := s.rfld off 31 0
  let st := s.rfld off 33 32
  if st ≥ 2 then s
  else
    let s := if st = 0 ∧ pts ≥ s.rfld Reg.twnHpCfg 15 0 then
        (s.rsetFld off 33 32 1).raise evHEALTH_WARN sevINFO []
      else s
    if pts ≥ s.rfld Reg.twnHpCfg 31 16 then
      ((s.rsetFld off 33 32 2).raise evCONDEMNED sevINFO []).condemn p
    else s

/-! Memory errors (R278, R282, R703, R600). -/

/-- The part that an error of a key concerns: core, stack, or package (R282). -/
def keyPart (k : Nat) : Nat :=
  match keyTier k with
  | 0 => k / 2 ^ 23
  | 1 => keyStack k
  | _ => let o := k - 2 ^ 47; 8 * bitsN o 39 39 + bitsN o 10 8

/-- A row is condemned by two corrected errors within 24 h or one uncorrectable error (R600), scores for its stack once
(R598), and waits for a step boundary (R283); 86,400 s of 1.6 GHz cycles. -/
def State.rowError (s : State) (k : Nat) (ue : Bool) : State :=
  if keyTier k = 2 then s
  else
    let row := Config.rowOf k
    let day := 86400 * 1600000000
    let recent := s.rowHits.any fun x => x.1 == row && decide (s.clock < x.2 + day)
    let s := { s with rowHits := (row, s.clock) :: s.rowHits.filter (fun x => x.1 != row) }
    let r : Repair := ⟨if keyTier k = 1 then 3 else 5, keyPart k, row⟩
    if (ue || recent) && !s.repairs.contains r then
      (if keyTier k = 1 then s.addPoints (.stack (keyStack k)) 20 else s).addRepair r
    else s

/-- The row that a spare row replaces has met its errors; the spare row has met none. -/
def State.freshRow (s : State) (row : Nat) : State := { s with rowHits := s.rowHits.filter (fun x => x.1 != row) }

/-- Corrections counted under i: 0 and 1 those of the tiers, 2 + k those of stack k; neither saturation nor a clear of the
registers touches these counts. -/
def State.corrections (s : State) (i : Nat) : Nat := tabGet (fun _ => 0) s.corrected i

/-- One more correction under i. -/
def State.countCorrected (s : State) (i : Nat) : State :=
  { s with corrected := tabSet (fun _ => 0) s.corrected i (s.corrections i + 1) }

/-- MEM_CORRECTED is raised for every 256 corrections in a tier (R278). -/
def State.tellCorrected (s : State) (t k : Nat) : State :=
  let s := s.countCorrected t
  if s.corrections t % 256 = 0 then s.raise evMEM_CORRECTED sevCORRECTED [(8, t), (8, keyPart k), (64, s.keyAddr k)] else s

/-- A corrected error (R278): the counts, MEM_CORRECTED, and the points of R598. -/
def State.memCorrected (s : State) (k : Nat) : State :=
  match keyTier k with
  | 0 => (((s.rcount Reg.memErrStatus 15 0 1).addPoints (.core (keyPart k)) 2).tellCorrected 0 k).rowError k false
  | 1 =>
    let n := keyStack k
    let s := ((s.rcount Reg.memErrStatus 31 16 1).rcount (Reg.memStackStatus n) 63 32 1).countCorrected (2 + n)
    let s := if s.corrections (2 + n) % 256 = 0 then s.addPoints (.stack n) 1 else s
    (s.tellCorrected 1 k).rowError k false
  | _ => s

/-- MEM_UNCORRECTABLE and the refusal of the commit (R282); the count, the points, and the row. -/
def State.memUncorrectable (s : State) (k : Nat) : State :=
  let t := keyTier k
  let s := match t with
    | 0 => (s.rcount Reg.memErrStatus 39 32 1).addPoints (.core (keyPart k)) 1000
    | 1 => (s.rcount Reg.memErrStatus 47 40 1).addPoints (.stack (keyStack k)) 300
    | _ => s.rcount Reg.memErrStatus 55 48 1
  let s := s.raise evMEM_UNCORRECTABLE sevCONTAINED [(8, t), (8, keyPart k), (64, s.keyAddr k)]
  (s.setDirty).rowError k true

/-- Errors that a reader meets, as (key, uncorrectable); an uncorrectable word stays bad until it is written. -/
def State.meet (s : State) : List (Nat × Bool) → State
  | [] => s
  | (k, ue) :: t =>
    let g := granule k
    let s := if ue then { s.memUncorrectable g with memBad := tabSet (fun _ => false) s.memBad g true }
      else s.memCorrected g
    s.meet t

/-- Known bad words within [k, k + len), which a reader meets again (R703). -/
def State.badIn (s : State) (k len : Nat) : List (Nat × Bool) :=
  (s.memBad.filter fun x => x.2 && decide (granule k ≤ x.1) && decide (x.1 < k + len)).map fun x => (x.1, true)

/-! Completions (R549 to R552) and flows (R554). -/

def State.flow (s : State) (f : Nat) : Flow := tabGet flowReset s.flows f

def State.setFlow (s : State) (f : Nat) (v : Flow) : State := { s with flows := tabSet flowReset s.flows f v }

/-- CQE statuses (R551). -/
def stOK : Nat := 0x00
def stBAD_DESC : Nat := 0x01
def stBAD_FLOW : Nat := 0x02
def stFLOW_ERROR : Nat := 0x03
def stHALTED : Nat := 0x04
def stIMEM_DROPPED : Nat := 0x05
def stCOLL_FAILED : Nat := 0x06
def stGUAR_REFUSED : Nat := 0x07
def stBOUNDS : Nat := 0x08
def stABORTED : Nat := 0x09
def stNOT_READY : Nat := 0x0A
def stRING_ERROR : Nat := 0x0B

/-- A completion's effect on its flow (R554, R714): a failure moves OPEN to ERROR; when the last outstanding work of a
CLOSING flow completes it is CLOSED. -/
def flowAfter (f : Flow) (zero : Bool) (status : Nat) (counted : Bool) : Flow :=
  let w := if counted then f.work - 1 else f.work
  let st := if zero then f.st
    else if f.st = 1 ∧ status ≠ stOK ∧ status ≠ stFLOW_ERROR ∧ status ≠ stABORTED then 2 else f.st
  if st = 3 ∧ w = 0 then { f with st := 0, work := 0, rsv := 0 } else { f with st := st, work := w }

/-- Fields of word 0 of a descriptor (R539). -/
def wkNocomp (d : List Word) : Bool := bit (d.getD 0 0) 8
def wkBarrier (d : List Word) : Bool := bit (d.getD 0 0) 9
def wkFlow (d : List Word) : Nat := fld (d.getD 0 0) 47 32
def wkTag (d : List Word) : Nat := fld (d.getD 0 0) 63 48

/-- What a completion on an SQ does to its descriptor's flow; the flow of a NOP or of an admin operation on SQ 0 is not touched
(R554, R714). counted: it was outstanding work of its flow. -/
def State.completeFlow (s : State) (sq : Nat) (d : List Word) (status : Nat) (counted : Bool) : State :=
  let fl := wkFlow d
  if (1 ≤ wkOp d ∧ wkOp d ≤ 5) ∨ (sq ≠ 0 ∧ wkOp d ≠ 0) then s.setFlow fl (flowAfter (s.flow fl) (fl == 0) status counted) else s

/-- The CQ to which an SQ is bound. -/
def State.sqCq (s : State) (n : Nat) : Nat := match s.sqs.find? (fun q => q.n == n) with | some q => q.cq | none => 0

/-- A descriptor of an SQ completes with STATUS, RESULT and DETAIL; NOCOMP suppresses an OK entry only (R552). -/
def State.complete (s : State) (sq : Nat) (d : List Word) (status : Nat) (result : Word) (detail : Nat)
    (counted : Bool) : State :=
  let s := s.completeFlow sq d status counted
  if wkNocomp d && status == stOK then s
  else { s with due := s.due ++ [⟨sq, s.sqCq sq, none, wkTag d, wkFlow d, status, result, detail⟩] }

def State.work (s : State) (id : Nat) : Option Work := s.works.find? (fun w => w.id == id)

def State.setWork (s : State) (w : Work) : State :=
  { s with works := s.works.map fun x => if x.id = w.id then w else x }

/-- Work in progress completes and is no longer outstanding; the entry of work that a host-interface reset has cut off
is discarded and counted (R560). -/
def State.finishWork (s : State) (id status : Nat) (result : Word) (detail : Nat) : State :=
  match s.work id with
  | none => s
  | some w =>
    let s := { s with works := s.works.filter (fun x => x.id != id) }
    if w.cut then
      let s := s.completeFlow w.sq w.desc status true
      if wkNocomp w.desc && status == stOK then s else s.rcount Reg.hifStatus 31 16 1
    else s.complete w.sq w.desc status result detail true

/-! Requests (R393, R417). -/

/-- Frames handed to an internal port, oldest first. -/
def State.injQ (s : State) (p : Nat) : List Frame := tabGet (fun _ => []) s.inj p

def State.inject (s : State) (p : Nat) (f : Frame) : State :=
  { s with inj := tabSet (fun _ => []) s.inj p (s.injQ p ++ [f]) }

/-- Whether a throttle of port p holds a request of a class (R417). -/
def State.held (s : State) (p tc : Nat) : Bool :=
  (tc == 6 && tabGet (fun _ => false) s.injHold (2 * p)) ||
  (tc != 0 && tc != 7 && tabGet (fun _ => false) s.injHold (2 * p + 1))

/-- Whether a port's table has a free entry. -/
def State.entryFree (s : State) (p : Nat) : Bool := decide ((s.reqs.filter (fun r => r.port == p)).length < 4096)

/-- The first TAG from t on, modulo 65,536, that no outstanding request of the module carries (log 13). -/
def freeTag (reqs : List Req) : Nat → Nat → Option Nat
  | 0, _ => none
  | n + 1, t => if reqs.any (fun r => r.tag == t) then freeTag reqs n ((t + 1) % 65536) else some t

/-- Sends the waiting requests that have an entry and no hold, in order per port and class: a
hold of one class holds no other (R417). -/
def pumpGo (s : State) : List Unsent → State
  | [] => s
  | u :: t =>
    let blocked := s.unsent.any (fun x => x.req.port == u.req.port && fTc x.frame == fTc u.frame)
    match (if blocked || s.held u.req.port (fTc u.frame) || !s.entryFree u.req.port then none
           else freeTag s.reqs 65536 s.nextTag) with
    | none => pumpGo { s with unsent := s.unsent ++ [u] } t
    | some tag =>
      let h := setFld (hw u.frame 1) 47 32 tag
      let hdr := (u.frame.hdr.set 1 h).take 7
      let f := { u.frame with hdr := hdr ++ [(hcrcOf hdr).setWidth 64] }
      pumpGo ({ s with reqs := s.reqs ++ [{ u.req with tag := tag }], nextTag := (tag + 1) % 65536 }.inject u.req.port f) t

def State.pump (s : State) : State := pumpGo { s with unsent := [] } s.unsent

/-- Sends a request, or has it wait (R393). -/
def State.sendReq (s : State) (u : Unsent) : State := { s with unsent := s.unsent ++ [u] }.pump

/-- Frees an entry. -/
def State.dropReq (s : State) (tag : Nat) : State := { s with reqs := s.reqs.filter (fun r => r.tag != tag) }.pump

/-- Whether the local route table lets a request to a flat ID be sent (R256, R355): the module itself, or an entry
that is VALID, with coordinates in COORD mode. -/
def State.routeOpen (s : State) (id : Nat) : Bool :=
  id == s.flatId ||
  (s.rfld (Reg.swcRoute id) 41 40 == 1 && !(s.rbit Reg.swcId 16 && !s.rbit Reg.swcId 15 && id.testBit 15))

/-- The module's state (HIF_STATUS.MODULE): 0 BOOT, 1 READY, 2 ISOLATED, 3 TUNGSTEN. -/
def State.modState (s : State) : Nat := s.rfld Reg.hifStatus 9 8

end Sys2Proof.Machine
end

