-- ==== Sys2Proof/Machine/CoreOps.lean ====
section
/-! DEFINITION. One tensor core: reading and writing it, semaphores, halts, landing what a command writes, and issue
(R102 to R166). -/

namespace Sys2Proof.Machine

def State.core (s : State) (n : Nat) : Core := tabGet (fun _ => coreReset) s.cores n

def State.setCore (s : State) (n : Nat) (c : Core) : State :=
  { s with cores := tabSet (fun _ => coreReset) s.cores n c }

/-- Scalar S[k]; S0 reads 0 (R102). -/
def cS (c : Core) (k : Nat) : Word := if k = 0 then 0 else tabGet (fun _ => 0) c.scalars k

/-- A write of S[k]; a write of S0 is discarded. -/
def cSetS (c : Core) (k : Nat) (v : Word) : Core :=
  if k = 0 then c else { c with scalars := tabSet (fun _ => 0) c.scalars k v }

/-- Predicate P[k]; P0 reads 1 (R102). -/
def cP (c : Core) (k : Nat) : Bool := if k = 0 then true else tabGet (fun _ => false) c.preds k

def cSetP (c : Core) (k : Nat) (b : Bool) : Core :=
  if k = 0 then c else { c with preds := tabSet (fun _ => false) c.preds k b }

def cSem (c : Core) (k : Nat) : Nat := tabGet (fun _ => 0) c.sems k

def cSetSem (c : Core) (k v : Nat) : Core := { c with sems := tabSet (fun _ => 0) c.sems k v }

/-- Command i of bank b. -/
def cFetch (c : Core) (b : Bool) (i : Nat) : Cmd := tabGet (fun _ => 0) (if b then c.bank1 else c.bank0) i

def cSetCmd (c : Core) (b : Bool) (i : Nat) (w : Cmd) : Core :=
  if b then { c with bank1 := tabSet (fun _ => 0) c.bank1 i w } else { c with bank0 := tabSet (fun _ => 0) c.bank0 i w }

/-- Image of CORE_HALT (R139). -/
def haltImage (c : Core) : Word :=
  BitVec.ofNat 64 (c.haltCode + c.haltDetail <<< 8 + c.haltBank.toNat <<< 16 + (c.haltIndex % 2048) <<< 17 +
    c.second <<< 32)

def modeCode : CoreMode → Nat
  | .idle => 0 | .running => 1 | .draining => 2 | .halted => 3

/-- Image of CORE_STATUS (R139), l being the core's logical number. -/
def statusImage (c : Core) (l : Nat) : Word :=
  BitVec.ofNat 64 (modeCode c.mode + c.active.toNat <<< 2 + l <<< 8 + (c.index % 2048) <<< 16 +
    (min c.issued 0xFFFFFFFF) <<< 32)

/-! Halts (R152 to R156). -/

/-- A halt condition: a running core, or one draining after END (log 22), stops issue and drains, with CODE recorded
(R153); a further condition met while draining on a later cycle sets only SECOND_CODE, the first of them (R156). -/
def haltCore (s : State) (n code detail : Nat) (bank : Bool) (idx cyc : Nat) : State :=
  let c := s.core n
  if c.mode = .running ∨ (c.mode = .draining ∧ c.ending.isSome = true) then
    let block := match c.block with
      | .stash f => Block.stash f
      | .coll f => Block.coll f
      | _ => Block.none
    s.setCore n { c with
      mode := .draining, haltCode := code, haltDetail := detail, haltBank := bank, haltIndex := idx
      haltCycle := cyc, haltSeq := c.haltSeq + 1, rep := none, block := block, ending := none }
  else if c.mode = .draining ∧ c.second = 0 ∧ c.haltCycle ≠ cyc then s.setCore n { c with second := code }
  else s

/-- The cycle on which a condition reaches the core from outside: no rule ties it to the core's own cycles, so that for a
core that is not draining it is a free value, no earlier than its last issue; one that reaches a draining core comes on a
later cycle than the halt (R156, R165; log 87). -/
def State.outsideCycle (s : State) (n : Nat) : Nat × State :=
  let c := s.core n
  if c.mode = .draining then (c.haltCycle + 1, s)
  else
    let (w, s) := s.draw
    (c.tp + w.toNat, s)

/-- A halt condition from outside. -/
def haltOutside (s : State) (n code detail : Nat) (bank : Bool) (idx : Nat) : State :=
  let (cyc, s) := s.outsideCycle n
  haltCore s n code detail bank idx cyc

/-- A semaphore increment (R105, R135): discarded unless the core is RUNNING or DRAINING; one that would pass 65,535
leaves the semaphore and halts the core, recorded against the command named. -/
def semAdd (s : State) (n sem k : Nat) (bank : Bool) (idx cyc : Nat) : State :=
  let c := s.core n
  if c.mode = .running ∨ c.mode = .draining then
    if cSem c sem + k > 65535 then haltCore s n 0x06 sem bank idx cyc
    else s.setCore n (cSetSem c sem (cSem c sem + k))
  else s

/-- An increment from outside the core names the next command to issue (R135). -/
def semAddOutside (s : State) (n sem k : Nat) : State :=
  let c := s.core n
  if c.mode = .running ∨ c.mode = .draining then
    if cSem c sem + k > 65535 then haltOutside s n 0x06 sem c.active c.index
    else s.setCore n (cSetSem c sem (cSem c sem + k))
  else s

/-! Landing a command's results (R129, R132). -/

/-- What a command in flight writes becomes visible: memory, scalars, predicates, amax (R125), number flags (R61). -/
def landWrites (s : State) (n : Nat) (f : Flight) : State :=
  let s := s.mputs f.writes
  let c := s.core n
  let c := f.scalars.foldl (fun c x => cSetS c x.1 x.2) c
  let c := f.preds.foldl (fun c x => cSetP c x.1 x.2) c
  let c := match f.amax with
    | some (k, m) => cSetS c k (BitVec.ofNat 64 (max m (cS c k).toNat))
    | none => c
  let c := { c with num := raiseNum c.num f.flags }
  s.setCore n c

/-- A command completes: its results land, a fixed-latency one's all at WV (DESIGN CHOICE, log 89), its own increments and SIG_SEM are applied, and it leaves the core. -/
def completeFlight (s : State) (n : Nat) (f : Flight) (cyc : Nat) : State :=
  let s := landWrites s n f
  let c := s.core n
  let s := s.setCore n { c with
    flights := c.flights.filter (fun x => x.id != f.id)
    pends := c.pends.map fun p => if p.flight = f.id then { p with done := true } else p }
  let b := decide (f.bank = 1)
  let s := f.semAdd.foldl (fun s x => semAdd s n x.1 x.2 b f.idx cyc) s
  match f.sig with
  | some q => semAdd s n q 1 b f.idx cyc
  | none => s

/-- The fixed-latency command in flight with the earliest WV, among those of WV up to t. -/
def nextFixed (c : Core) (t : Nat) : Option Flight :=
  c.flights.foldl (fun a f =>
    if f.vlat || decide (f.wv > t) then a
    else match a with
      | none => some f
      | some g => if f.wv < g.wv then some f else a) none

/-- Every fixed-latency command of WV up to t completes, earliest first. -/
def landFixed (s : State) (n t : Nat) : Nat → State
  | 0 => s
  | k + 1 =>
    match nextFixed (s.core n) t with
    | some f => landFixed (completeFlight s n f f.wv) n t k
    | none => s

def landUpTo (s : State) (n t : Nat) : State := landFixed s n t (s.core n).flights.length

/-! Issue (R106 to R109). -/

/-- What comes of a core reaching its next command. -/
inductive Issue
  | nothing
  | ended (s : State)
  | go (s : State) (t : Nat) (w : Cmd) (offs : List Int)

/-- The issue cycle of R106. -/
def issueCycle (c : Core) (w : Cmd) : Nat :=
  let eng := match engineOf (cOpcode w) with
    | .mat => c.matEnd | .vec => c.vecEnd | .mov => c.movEnd | .syn => c.synEnd
  max (max (c.tp + max 1 (cDelay w)) eng) c.swapGate

/-- Effective element offsets of operands D, A and B: EOFF, with the strides of a REPEAT added (R143). -/
def effOffs (c : Core) (w : Cmd) : List Int :=
  let e (k : Nat) : Int := ((opdField (cOpd w k)).eoff : Int)
  match c.rep with
  | some r => [e 1 + r.j * r.dD, e 2 + r.j * r.dA, e 3 + r.j * r.dB]
  | none => [e 1, e 2, e 3]

/-- The core moves past the command it has issued: to the next repetition, or to the next index (R143). -/
def advance (c : Core) : Core :=
  match c.rep with
  | some r => if r.j + 1 < r.count then { c with rep := some { r with j := r.j + 1 } }
              else { c with rep := none, index := c.index + 1 }
  | none => { c with index := c.index + 1 }

/-- Whether the conditions of R144 on the next command, or R72 or R117, make the word illegal. -/
def illegalHere (c : Core) (w : Cmd) : Bool :=
  wordIllegal w c.order ||
  (cOpcode w == 0xC6 &&
    (decide (c.index ≥ 2047) ||
      (let o := cOpcode (cFetch c c.active (c.index + 1)); o == 0xC5 || o == 0xC6 || o == 0xC7 || o == 0xC8 || o == 0xC1)))

/-- Whether a command in flight still has source reads out: its engine stays occupied until the last has been taken
(R129). An atomic reads no source but its scalars. -/
def Flight.reading (f : Flight) : Bool := f.vlat && !f.formed && decide (0 < f.waiting) && f.op != 0x84

/-- Whether the engine of the next command is held by one whose source reads are out. -/
def engineHeld (c : Core) : Bool :=
  decide (c.index < 2048) &&
  c.flights.any fun f => f.reading && decide (engineOf f.op = engineOf (cOpcode (cFetch c c.active c.index)))

/-- Whether what blocks a core holds up its next command: a SYN.COLL that waits for an entry keeps SYN alone occupied
(R483), and source reads that are out keep their engine occupied (R129). -/
def blocked (c : Core) : Bool :=
  match c.block with
  | .none => engineHeld c
  | .coll _ => engineHeld c ||
    (c.index < 2048 && (match engineOf (cOpcode (cFetch c c.active c.index)) with | .syn => true | _ => false))
  | _ => true

/-- A core reaches its next command, of which want tells whether this row is its row: nothing occurs when it does not
issue now; past the bank's end it halts (R151), on the cycle after the last issue (log 88); at the limit only HALT_LIMIT occurs (R163); an illegal word halts
whatever its predicate; a predicate that does not hold makes it a no-op (R109). -/
def issueCmd (s : State) (n : Nat) (want : Nat → Bool) : Issue :=
  let c := s.core n
  if c.mode ≠ .running ∨ blocked c = true then .nothing
  else if c.index ≥ 2048 then
    let s := landUpTo s n (c.tp + 1)
    .ended (if (s.core n).mode = .running then haltCore s n 0x01 0 c.active 2047 (c.tp + 1) else s)
  else if c.limit ≠ 0 ∧ c.limit ≤ c.issued then .nothing
  else
    let w := cFetch c c.active c.index
    if !want (cOpcode w) then .nothing
    else
      let t := issueCycle c w
      let s := landUpTo s n t
      let c := s.core n
      if c.mode ≠ .running then .ended s
      else if illegalHere c w then .ended (haltCore s n 0x01 0 c.active c.index t)
      else if cP c (cPred w) ≠ cSense w then
        let c := { c with issued := c.issued + 1, tp := t }
        .ended (s.setCore n (if cOpcode w = 0xC6 then { c with index := c.index + 1, rep := none } else advance c))
      else .go s t w (effOffs c w)

/-! The hazard tracker (R159 to R161, R705). -/

/-- Whether two runs of rows share a byte. -/
def planesMeet (b1 r1 l1 p1 b2 r2 l2 p2 : Nat) : Bool :=
  (upFrom 0 r1).any fun i => (upFrom 0 r2).any fun j =>
    let x := b1 + i * p1
    let y := b2 + j * p2
    decide (x < y + l2) && decide (y < x + l1)

/-- Whether two accesses name a common resource, and its DETAIL as the second names it (R159). -/
def resMeet : Res → Res → Option Nat
  | .scalar a, .scalar b => if a = b ∧ a ≠ 0 then some b else none
  | .pred a, .pred b => if a = b ∧ a ≠ 0 then some (0x20 + b) else none
  | .plane _ b1 r1 l1 p1, .plane sc b2 r2 l2 p2 =>
    if planesMeet b1 r1 l1 p1 b2 r2 l2 p2 then some (if sc then 0x41 else 0x40) else none
  | .flags, .flags => some 0x42
  | _, _ => none

/-- The cycles of an access of a command issued at t: reads from 0 to RD, writes from WS to WV - 1, which are none where
WS is WV; without end for a variable-latency command (R160); the issue cycle alone for SYN.FLAGS (R705) and for what a
STASH gives the next command (R127). -/
def accWindow (t rd ws wv : Nat) (vlat : Bool) (a : Acc) : Nat × Option Nat :=
  if a.atIssue then (t, some t)
  else if vlat then (t, none)
  else if a.wr then (t + ws, some (t + wv - 1))
  else (t, some (t + rd))

/-- Whether a window holds any cycle. -/
def windowSome (lo : Nat) (hi : Option Nat) : Bool := match hi with | some h => decide (lo ≤ h) | none => true

/-- Whether two windows share a cycle. -/
def windowsMeet (lo : Nat) (hi : Option Nat) (lo' : Nat) (hi' : Option Nat) : Bool :=
  windowSome lo hi && windowSome lo' hi' && windowSome lo' hi && windowSome lo hi'

/-- The DETAIL of a command's hazards with the pending entries (R159): of several, the lowest (DESIGN CHOICE, log 14);
only SYN.FLAGS meets a pending write of the flags (R705). -/
def hazardOf (pends : List Pend) (accs : List Acc) (win : Acc → Nat × Option Nat) (isFlags : Bool) : Option Nat :=
  let ds := accs.flatMap fun a => pends.filterMap fun p =>
    if (a.wr || p.wr) && windowsMeet p.lo p.hi (win a).1 (win a).2 then
      match resMeet p.res a.res with
      | some 0x42 => if isFlags && p.wr then some 0x42 else none
      | x => x
    else none
  ds.foldl (fun (a : Option Nat) d => match a with | none => some d | some e => some (min d e)) none

/-! A command that issues. -/

/-- What a command does when it issues: the halt conditions it meets as (CODE, DETAIL), its accesses, its latencies,
and what it leaves in flight. -/
structure Plan where
  faults : List (Nat × Nat)
  accs : List Acc
  occ : Nat
  rd : Nat
  ws : Nat
  wv : Nat
  vlat : Bool
  writes : Writes := []
  scalars : List (Nat × Word) := []
  preds : List (Nat × Bool) := []
  amax : Option (Nat × Nat) := none
  flags : NFlags := noFlags
  semAdd : List (Nat × Nat) := []
  waiting : Nat := 0
  formed : Bool := true
  load : Option Load := none

/-- The recorded condition of several of one command: the lowest CODE (R156), then the lowest DETAIL (log 14). -/
def lowestFault : List (Nat × Nat) → Option (Nat × Nat)
  | [] => none
  | x :: t =>
    match lowestFault t with
    | none => some x
    | some y => if x.1 < y.1 ∨ (x.1 = y.1 ∧ x.2 ≤ y.2) then some x else some y

/-- Scalars that a flight keeps from its issue cycle (R108). -/
def namedScalars (c : Core) : Tab Word := c.scalars

/-- The pending entries of a command that issues. -/
def pendsOf (p : Plan) (t id : Nat) (sem : Option Nat) (accs : List Acc) : List Pend :=
  (accs.filter fun a => !a.atIssue && windowSome (accWindow t p.rd p.ws p.wv p.vlat a).1 (accWindow t p.rd p.ws p.wv p.vlat a).2).map fun a =>
    let w := accWindow t p.rd p.ws p.wv p.vlat a
    ⟨a.res, a.wr, w.1, w.2, id, sem, false⟩

/-- Whether a pending entry is still pending at cycle t. -/
def stillPending (t : Nat) (p : Pend) : Bool :=
  match p.hi with
  | some h => decide (t ≤ h)
  | none => true

def engineSet (c : Core) (op t occ : Nat) : Core :=
  match engineOf op with
  | .mat => { c with matEnd := t + occ }
  | .vec => { c with vecEnd := t + occ }
  | .mov => { c with movEnd := t + occ }
  | .syn => { c with synEnd := t + occ }

/-- The last source read of a command of opcode op is taken at cycle t: its engine is free from then on (R129). -/
def engineFree (c : Core) (op t : Nat) : Core :=
  match engineOf op with
  | .mat => { c with matEnd := max c.matEnd t }
  | .vec => { c with vecEnd := max c.vecEnd t }
  | .mov => { c with movEnd := max c.movEnd t }
  | .syn => { c with synEnd := max c.synEnd t }

/-- The flight of a command that issues. -/
def flightOf (c : Core) (p : Plan) (t : Nat) (w : Cmd) (offs : List Int) : Flight :=
  { id := c.nextFlight, op := cOpcode w, bank := c.active.toNat, idx := c.index, vlat := p.vlat, wv := t + p.wv
    sig := if cSigEn w then some (cSigSem w) else none
    writes := p.writes, scalars := p.scalars, preds := p.preds, amax := p.amax, flags := p.flags, semAdd := p.semAdd
    cmd := w, offs := offs, named := namedScalars c, waiting := p.waiting, got := []
    formed := p.formed, buffer := 0, load := p.load }

/-- Issues a command: a halt condition stops it (operand and word conditions, then in CHECK mode hazards and a full
tracker, by lowest CODE); otherwise it occupies its engine and is in flight. Answers whether it issued. -/
def issuePlan (s : State) (n t : Nat) (w : Cmd) (offs : List Int) (p : Plan) : Bool × State :=
  let c := s.core n
  let pends := c.pends.filter (stillPending t)
  let isFlags := cOpcode w == 0xCC
  let accs := p.accs ++ (if cPred w = 0 then [] else [⟨.pred (cPred w), false, false⟩])
  let mine := pendsOf p t c.nextFlight (if cSigEn w then some (cSigSem w) else none) accs
  let haz := if c.check then
      (match hazardOf pends accs (accWindow t p.rd p.ws p.wv p.vlat) isFlags with
       | some d => [(0x03, d)]
       | none => if pends.length + mine.length > 256 then [(0x03, 0xFF)] else [])
    else []
  match lowestFault (p.faults ++ haz) with
  | some (code, detail) => (false, haltCore s n code detail c.active c.index t)
  | none =>
    let c' := engineSet (advance { c with issued := c.issued + 1, tp := t }) (cOpcode w) t p.occ
    (true, s.setCore n { c' with
      flights := c'.flights ++ [flightOf c p t w offs]
      nextFlight := c.nextFlight + 1
      pends := if c.check then pends ++ mine else [] })

/-! Loads of commands (R145 to R148). -/

/-- The next m commands of a load reach its bank; those that would land in the active bank of a running or draining core
are dropped (R147). -/
def landLoad (s : State) (n m : Nat) (l : Load) (cmds : List Cmd) : Load × State :=
  let c := s.core n
  let m := min m (l.count - l.done)
  let at_ := l.first + l.done
  if m = 0 then (l, s)
  else if (c.mode = .running ∨ c.mode = .draining) ∧ c.active.toNat = l.bank then
    ({ l with done := l.done + m, dropAt := if l.dropped = 0 then at_ else l.dropAt, dropped := l.dropped + m }, s)
  else
    let ws := (cmds.drop l.done).take m
    ({ l with done := l.done + m },
      s.setCore n ((ws.foldl (fun (x : Nat × Core) w => (x.1 + 1, cSetCmd x.2 (l.bank == 1) x.1 w)) (at_, c)).2))

/-- One IMEM_ACTIVE_WRITE tells of the writes that a load had dropped (R147). -/
def loadTold (s : State) (n : Nat) (l : Load) : State :=
  if l.dropped = 0 then s
  else s.raise evIMEM_ACTIVE_WRITE sevCONTAINED [(8, n), (8, l.bank), (16, l.dropAt), (16, l.dropped)]

/-- Commands from bytes, 32 B each (R111). -/
def commandsAt (rd : View) (k count : Nat) : List Cmd :=
  (upFrom 0 count).map fun i => BitVec.ofNat 256 (leNat (fun j => rd (k + 32 * i + j)) 32)

/-! Draining and warm reset (R140, R152, R153). -/

/-- Each byte that an abandoned command has not written lands or not, as a free value says (R140, R153). -/
def abandonWrites (s : State) : Writes → State
  | [] => s
  | (k, b) :: t =>
    let (w, s) := s.draw
    abandonWrites (if bit w 0 then s.mput k b else s) t

/-- Every command in flight is abandoned; replies to its requests will be discarded. -/
def abandonAll (s : State) (n : Nat) : State :=
  let c := s.core n
  let s := c.flights.foldl (fun s f => abandonWrites s f.writes) s
  let mine (r : Req) : Bool := match r.who with | .core m _ _ => m == n | _ => false
  let s := s.setCore n { s.core n with flights := [], block := .none }
  { s with reqs := s.reqs.filter (fun r => !mine r), unsent := s.unsent.filter (fun u => !mine u.req) }.pump

/-- A warm reset (R140) of a core whose commands have been abandoned: core state is zeroed, banks are kept, and the core enters IDLE. The
work of the launch it ran completes with NOT_READY (log 15). -/
def warmReset (s : State) (n : Nat) : State :=
  let c := s.core n
  let s := s.setCore n { coreReset with
    bank0 := c.bank0, bank1 := c.bank1, active := c.active, index := c.index, haltSeq := c.haltSeq, nextFlight := c.nextFlight
    issued := c.issued }
  match c.launch with
  | some l => s.finishWork l.work stNOT_READY (BitVec.ofNat 64 s.modState) 0
  | none => s

end Sys2Proof.Machine
end

