-- ==== Sys2Proof/Machine/Resolve.lean ====
section
/-! DEFINITION. Resolving a command's operands at issue (R112 to R114, R47, R119, R120, R155): where each lies, which
halt conditions it meets, and the bytes it covers. -/

namespace Sys2Proof.Machine

/-- A run of rows of bytes at a memory key: whether it is a scale plane, its base, rows, row length and pitch. -/
structure Plane where
  scale : Bool
  base : Nat
  rows : Nat
  len : Nat
  pitch : Nat
  deriving DecidableEq, Repr

/-- Whether a plane lies on another module: its keys are remote ones. -/
def Plane.remote (p : Plane) : Bool := decide (2 ^ 64 ≤ p.base)

/-- An operand resolved: its faults, its place, its planes (none where one leaves its bounds), and its FABRIC bit. -/
structure Got where
  faults : List (Nat × Nat)
  opd : Opd
  planes : List Plane
  fabric : Bool
  deriving DecidableEq, Repr

/-- Whether any plane of an operand lies on another module: the element plane and the scale plane need not be on one
(R112, R249). -/
def Got.remote (g : Got) : Bool := g.planes.any Plane.remote

/-- The first key of remote addresses in a view: address a of another module is key 2^64 + a. -/
def remoteKey (a : Nat) : Nat := 2 ^ 64 + a

/-- The key of an operand plane that starts at base + off and covers len bytes, or none when it leaves its bounds:
an own-Pewter offset (R168), an address of this module (R247, R248), or one of another, of which only the shape shows
at issue. -/
def planeKey (s : State) (n : Nat) (fabric : Bool) (base : Nat) (off : Int) (len : Nat) : Option Nat :=
  if fabric then
    let a := (((base : Int) + off) % (2 : Int) ^ 64).toNat
    if addrId a = s.flatId then s.localKey a len
    else if addrShape a len then some (remoteKey a) else none
  else
    let e : Int := (base : Int) + off
    if 0 ≤ e ∧ e + len ≤ (pewterBytes : Int) then some (pewKey n e.toNat) else none

/-- Rows of an element plane and of a scale plane, in bytes (R46, R113, R114): (rows, row length, pitch). -/
def elemRows (f : Fmt) (pitch rows cols : Nat) : Nat × Nat × Nat :=
  if isSquare f then (rows / 16, cols / 16 * squareBytes f, pitch * squareBytes f)
  else (rows, cols * elemBytes f, pitch * elemBytes f)

def spanOf (rows len pitch : Nat) : Nat := (rows - 1) * pitch + len

/-- Resolves operand k (1 D, 2 A, 3 B) of a command, rows x cols being its logical shape; trans exchanges it for the
stored one. -/
def resolve (s : State) (c : Core) (n : Nat) (w : Cmd) (offs : List Int) (k rows cols : Nat) : Got :=
  let f := opdField (cOpd w k)
  let off := offs.getD (k - 1) 0
  let (rows, cols) := if f.trans then (cols, rows) else (rows, cols)
  let sq := isSquare f.fmt
  let eb := (cS c f.ebase).toNat
  let sb := (cS c f.sbase).toNat
  let B := squareBytes f.fmt
  let pitch := if f.ld = 0 then (if sq then cols / 16 else cols) else (cS c f.ld).toNat
  let (er, el, ep) := elemRows f.fmt pitch rows cols
  let ek := planeKey s n f.fabric eb off (spanOf er el ep)
  let sk := if sq then planeKey s n f.fabric sb (off / B) (spanOf (rows / 16) (cols / 16) pitch) else some 0
  let wide := f.fmt = .e24 ∨ f.fmt = .e40
  let chunk := sextN 64 sb
  let shapeBad := decide (rows = 0) || decide (cols = 0) || (sq && (decide (rows % 16 ≠ 0) || decide (cols % 16 ≠ 0)))
  let faults :=
    (if shapeBad then [(0x02, 0x00)] else []) ++
    (if sq && (decide (eb % 64 ≠ 0) || decide (sb % 64 ≠ 0) || decide (off % B ≠ 0)) then [(0x02, k)] else []) ++
    (if wide ∧ (chunk < -160 ∨ chunk > 104) then [(0x02, k)] else []) ++
    (if (ek.isNone || sk.isNone) && !shapeBad then [(0x05, k)] else [])
  { faults := faults
    opd := { fmt := f.fmt, trans := f.trans, eKey := ek.getD 0, sKey := sk.getD 0, pitch := pitch, chunkE := chunk }
    planes := match ek, sk with
      | some ek, some sk => ⟨false, ek, er, el, ep⟩ :: (if sq then [⟨true, sk, rows / 16, cols / 16, pitch⟩] else [])
      | _, _ => []
    fabric := f.fabric }

/-- Whether a source square's scale byte reads 0xFF (R39). -/
def badScale (rd : View) (g : Got) : Bool :=
  g.planes.any fun p => p.scale && (upFrom 0 p.rows).any fun r => (upFrom 0 p.len).any fun q =>
    rd (p.base + r * p.pitch + q) == 0xFF

/-- The own-memory view of the module. -/
def State.view (s : State) : View := s.mget

/-- The view of a command whose remote bytes have been brought. -/
def viewWith (s : State) (got : Tab Byte) : View := fun k =>
  if got.isEmpty || decide (k < 2 ^ 64) then s.mget k else tabGet memDefault got k

/-- Accesses of an operand's planes within the core's own Pewter, which alone CHECK watches (R162). -/
def planeAccs (n : Nat) (g : Got) (wr : Bool) : List Acc :=
  (g.planes.filter (fun p => p.base / 2 ^ 23 == n && decide (p.base < 2 ^ 46))).map fun p =>
    ⟨.plane p.scale p.base p.rows p.len p.pitch, wr, false⟩

/-- The scalars that an operand names (R159). -/
def opdScalars (w : Cmd) (k : Nat) : List Acc :=
  let f := opdField (cOpd w k)
  [f.ebase, f.sbase, f.ld].filter (· ≠ 0) |>.map fun x => ⟨.scalar x, false, false⟩

/-- The amax scalar and the number flags that a command writes (R125, R705). -/
def sideAccs (w : Cmd) : List Acc :=
  (if cAmaxS w = 0 then [] else [⟨.scalar (cAmaxS w), true, false⟩]) ++ [⟨.flags, true, false⟩]

/-- How a command writes (R111). -/
def cWriteMode (w : Cmd) : WriteMode := ⟨cScaleFixed w, cFixedScale w, cWrap w⟩

/-- A FIXED_SCALE of 0xFF in use: FIXED on a square-block D, or any I32 D (R50, R120, R172). -/
def fixedBad (w : Cmd) : List (Nat × Nat) :=
  let f := (opdField (cOpd w 1)).fmt
  if cFixedScale w = 0xFF ∧ ((isSquare f ∧ cScaleFixed w) ∨ f = .i32) then [(0x02, 0x01)] else []

/-- A format outside those an opcode takes (R119, R167). -/
def fmtBad (ok : Fmt → Bool) (w : Cmd) (k : Nat) : List (Nat × Nat) :=
  if ok (opdField (cOpd w k)).fmt then [] else [(0x02, k)]

/-- A fabric operand of an engine that reaches own Pewter only (R169, R209, R704). -/
def fabricBad (w : Cmd) (k : Nat) : List (Nat × Nat) :=
  if (opdField (cOpd w k)).fabric then [(0x05, k)] else []

/-- Known bad words that a command's sources cover, which it meets (R703). -/
def meetGot (s : State) (gs : List Got) : List (Nat × Bool) :=
  if s.memBad = [] then []
  else gs.flatMap fun g => (g.planes.filter fun p => !p.remote).flatMap fun p =>
    (upFrom 0 p.rows).flatMap fun r => s.badIn (p.base + r * p.pitch) p.len

end Sys2Proof.Machine
end

