-- ==== Sys2Proof/Machine/Mat.lean ====
section
/-! DEFINITION. MAT.MM, MAT.MMP and MAT.PADD (R167 to R184), and the sampling of MAT commands (R606). -/

namespace Sys2Proof.Machine

/-! Sampled cross-checks (R606). -/

def State.capture (s : State) (k : Nat) : Option Capture := tabGet (fun _ => none) s.caps k

def State.setCapture (s : State) (k : Nat) (c : Option Capture) : State :=
  { s with caps := tabSet (fun _ => none) s.caps k c }

/-- Whether physical core n is a free spare that is not condemned. -/
def State.spareFree (s : State) (n : Nat) : Bool :=
  s.rbit (Reg.twnHpCore n) 34 && decide (s.rfld (Reg.twnHpCore n) 33 32 < 2) &&
  (upFrom 0 16).all fun k =>
    match s.capture k with
    | some c => c.kept || (c.check1 != n && c.check2 != n)
    | none => true

def State.freeSpare (s : State) : Option Nat := (upFrom 0 192).find? s.spareFree

/-- Size of a capture slot: 4 MiB and a 4 KiB record page (R608). -/
def captureSlot : Nat := 4 * 2 ^ 20 + 4096

/-- Key of capture slot k, when TWN_XCHK_CFG.AREA names the own near tier. -/
def State.captureKey (s : State) (k : Nat) : Option Nat :=
  let a := s.rfld Reg.twnXchkCfg 63 12 <<< 12
  if a ≠ 0 ∧ addrId a = s.flatId ∧ addrTier a = 1 then s.localKey (a + k * captureSlot) captureSlot else none

/-- Bytes of an operand's planes, row by row. -/
def gotBytes (s : State) (g : Got) : List (Nat × Byte) :=
  g.planes.flatMap fun p => (upFrom 0 p.rows).flatMap fun r =>
    (upFrom (p.base + r * p.pitch) p.len).map fun k => (k, s.mget k)

/-- Bytes of D beside the sources; with ACCUM it is among them. -/
def destBytes (w : Cmd) (dsts : List Got) : Nat :=
  if cAccum w then 0 else (dsts.map fun g => (g.planes.map fun p => p.rows * p.len).sum).sum

/-- Samples one in every 2^PERIOD commands (R606): the sources are copied to the slot and, at their own offsets, to
the spare's Pewter. -/
def xchkSample (s : State) (n : Nat) (w : Cmd) (offs : List Int) (dims : List Nat) (srcs dsts : List Got)
    (bank idx : Nat) (writes : Writes) : State :=
  let period := max 8 (s.rfld Reg.twnXchkCfg 5 1)
  let cnt := s.xchkCount + 1
  let s := { s with xchkCount := cnt }
  let bytes := srcs.flatMap (gotBytes s)
  let size := bytes.length + destBytes w dsts
  if !s.rbit Reg.twnXchkCfg 0 || cnt % 2 ^ period != 0 || decide (size > 4 * 2 ^ 20) then s
  else
    match s.captureKey 0 with
    | none => s
    | some _ =>
      match (upFrom 0 16).find? (fun k => (s.capture k).isNone), s.freeSpare with
      | some k, some sp =>
        match s.captureKey k with
        | none => s
        | some key =>
          let s := s.rcount Reg.twnXchkStat 31 0 1
          let s := s.mputBytes key (bytes.map (·.2))
          let s := s.mputs (bytes.map fun x => (pewKey sp (x.1 % 2 ^ 23), x.2))
          s.setCapture k (some { phys := n, logical := s.logicalOf n, check1 := sp, check2 := 0xFF, bank := bank, idx := idx
                                 cmd := w, offs := offs, dims := dims, expect := writes, result := [], verdict := 0, kept := false })
      | _, _ => s.rcount Reg.twnXchkStat 63 48 1

/-! Products. -/

/-- Sources of MAT (R167). -/
def isMatSrc (f : Fmt) : Bool := isSquare f || f == .bf16 || f == .hf16 || f == .uf16

/-- Destinations of MAT.MM (R167). -/
def isMatDst (f : Fmt) : Bool := isSquare f || f == .acc || f == .bf16 || f == .hf16 || f == .i32

def isPairDst (f : Fmt) : Bool := f == .bf16 || f == .hf16

/-- One step of the loop of R174: the exact sum of sixteen products, rounded once into the accumulator; infinities
and NaN as in IEEE 754 (R175). -/
def matStep (a b : Nat → XVal) (acc : XVal) (step : Nat) : XVal :=
  let t := (upFrom (16 * step) 16).foldl (fun t k => xAdd t (xMul (a k) (b k))) (.zero false)
  roundAcc (xAdd acc t)

/-- mat_element of R174 over the steps given, from init. -/
def matElement (a b : Nat → XVal) (steps : List Nat) (init : XVal) : XVal := steps.foldl (matStep a b) init

/-- Occupancy of MAT.MM and MAT.MMP (R128). -/
def matOcc (fa fb : Fmt) (m n k : Nat) : Nat :=
  let four (f : Fmt) : Bool := f == .q4 || f == .qi4
  let wide (f : Fmt) : Bool := f == .bf16 || f == .hf16 || f == .uf16
  let t := if four fa && four fb then ceilDiv m 4 else if wide fa || wide fb then 4 * m else m
  16 + ceilDiv k 128 * ceilDiv n 128 * max 16 t

/-- The lo part of a pair destination: at S[SBASE] + EOFF, with hi's format and pitch (R182). -/
def resolveLo (s : State) (c : Core) (n : Nat) (w : Cmd) (offs : List Int) (hi : Got) : Got :=
  let f := opdField (cOpd w 1)
  match hi.planes with
  | p :: _ =>
    match planeKey s n f.fabric (cS c f.sbase).toNat (offs.getD 0 0) (spanOf p.rows p.len p.pitch) with
    | some k => { hi with faults := [], opd := { hi.opd with eKey := k }, planes := [{ p with base := k }] }
    | none => { hi with faults := [(0x05, 0x01)], planes := [] }
  | [] => hi

/-- What MAT.MM writes: the accumulator values converted once (R172 to R174). -/
def mmWrites (rd : View) (w : Cmd) (d a b : Opd) : Writes × NFlags × XVal :=
  let m := 16 * cDim0 w
  let nn := 16 * cDim1 w
  let vals := fun i j => matElement (elemVal rd a i) (fun k => elemVal rd b k j) (upFrom 0 (cDim2 w))
    (if cAccum w then elemVal rd d i j else .zero false)
  let (ws, fl) := writeTensor d (cWriteMode w) m nn vals
  (ws, fl, amaxOf ((rowMajor m nn).map fun x => vals x.1 x.2))

/-- hi and lo of an accumulator value (R182), with the flags they raise. -/
def pairOf (f : Fmt) (v : XVal) : Nat × Nat × NFlags :=
  let (hi, fl) := convElem f v 0 .rne false
  if fl.sat || !xFinite v then (hi, 0, fl)
  else
    let rest := plusZero (xAdd v (xNeg (decodeElem f hi 0)))
    let (lo, fl') := convElem f rest 0 .rne false
    (hi, lo, addFlags fl fl')

/-- What MAT.MMP writes (R182, R183). -/
def mmpWrites (rd : View) (w : Cmd) (d l a b : Opd) : Writes × NFlags × XVal :=
  let m := 16 * cDim0 w
  let nn := 16 * cDim1 w
  let vals := fun i j => matElement (elemVal rd a i) (fun k => elemVal rd b k j) (upFrom 0 (cDim2 w))
    (if cAccum w then roundAcc (xAdd (elemVal rd d i j) (elemVal rd l i j)) else .zero false)
  let parts := (rowMajor m nn).map fun x =>
    let (hi, lo, fl) := pairOf d.fmt (vals x.1 x.2)
    let off := (x.1 * d.pitch + x.2) * 2
    (placeAt (d.eKey + off) (leBytes 2 hi) ++ placeAt (l.eKey + off) (leBytes 2 lo), fl)
  (parts.flatMap (·.1), parts.foldl (fun a x => addFlags a x.2) noFlags,
    amaxOf ((rowMajor m nn).map fun x => vals x.1 x.2))

/-- The operands of a product: A, B and D, and the lo part of a pair. -/
structure MatOpds where
  a : Got
  b : Got
  d : Got
  l : Got

/-- The operands of MAT.MM (pair false) or MAT.MMP (pair true). -/
def matOperands (s : State) (n : Nat) (w : Cmd) (offs : List Int) (pair : Bool) : MatOpds :=
  let c := s.core n
  let m := 16 * cDim0 w
  let nn := 16 * cDim1 w
  let kk := 16 * cDim2 w
  let gD := resolve s c n w offs 1 m nn
  { a := resolve s c n w offs 2 m kk, b := resolve s c n w offs 3 kk nn, d := gD
    l := if pair then resolveLo s c n w offs gD else gD }

/-- Their halt conditions (R155, R167 to R169, R172); scale bytes as in VEC commands (log 105). -/
def matFaults (s : State) (n : Nat) (w : Cmd) (offs : List Int) (pair : Bool) : List (Nat × Nat) :=
  let g := matOperands s n w offs pair
  let dFmt := (opdField (cOpd w 1)).fmt
  let static :=
    (if cDim0 w = 0 ∨ cDim1 w = 0 ∨ cDim2 w = 0 then [(0x02, 0x00)] else []) ++
    fmtBad (if pair then isPairDst else isMatDst) w 1 ++ fmtBad isMatSrc w 2 ++ fmtBad isMatSrc w 3 ++
    (if cAccum w && !pair && !(dFmt == .acc || dFmt == .bf16 || dFmt == .hf16) then [(0x02, 0x01)] else []) ++
    (if pair then [] else fixedBad w) ++ fabricBad w 1 ++ fabricBad w 2 ++ fabricBad w 3 ++
    g.d.faults ++ g.a.faults ++ g.b.faults ++ (if pair then g.l.faults else [])
  if static ≠ [] then static
  else (if badScale s.view g.a then [(0x02, 0x02)] else []) ++ (if badScale s.view g.b then [(0x02, 0x03)] else [])

/-- The plan of MAT.MM or MAT.MMP, which reads every source byte on its issue cycle (DESIGN CHOICE, log 89). -/
def matPlan (s : State) (n : Nat) (w : Cmd) (offs : List Int) (pair : Bool) : Plan :=
  let g := matOperands s n w offs pair
  let faults := matFaults s n w offs pair
  let o := matOcc (opdField (cOpd w 2)).fmt (opdField (cOpd w 3)).fmt (16 * cDim0 w) (16 * cDim1 w) (16 * cDim2 w)
  let dsts := if pair then [g.d, g.l] else [g.d]
  let r := if faults ≠ [] then ([], noFlags, XVal.zero false)
    else if pair then mmpWrites s.view w g.d.opd g.l.opd g.a.opd g.b.opd else mmWrites s.view w g.d.opd g.a.opd g.b.opd
  { faults := faults
    accs := opdScalars w 1 ++ opdScalars w 2 ++ opdScalars w 3 ++ planeAccs n g.a false ++ planeAccs n g.b false ++
      (if cAccum w then dsts.flatMap (planeAccs n · false) else []) ++ dsts.flatMap (planeAccs n · true) ++ sideAccs w
    occ := o, rd := o, ws := 40, wv := o + (if pair then 48 else 32), vlat := false
    writes := r.1, flags := r.2.1
    amax := if cAmaxS w = 0 then none else some (cAmaxS w, amaxImage r.2.2) }

/-- Issues MAT.MM (pair false) or MAT.MMP (pair true). -/
def matIssue (s : State) (n op : Nat) (pair : Bool) : Host.Outcome State Fault Refusal :=
  match issueCmd s n (· == op) with
  | .nothing => .next s
  | .ended s => .next s
  | .go s t w offs =>
    let c := s.core n
    let p := matPlan s n w offs pair
    let (ok, s') := issuePlan s n t w offs p
    if ok then
      let g := matOperands s n w offs pair
      let dsts := if pair then [g.d, g.l] else [g.d]
      let srcs := [g.a, g.b] ++ (if cAccum w then dsts else [])
      .next ((xchkSample s' n w offs [cDim0 w, cDim1 w, cDim2 w] srcs dsts c.active.toNat c.index p.writes).meet (meetGot s srcs))
    else .next s'

/-- MAT.MM (R167 to R176). -/
def execMatMm (n : Nat) (s : State) : Host.Outcome State Fault Refusal := matIssue s n 0x01 false

/-- MAT.MMP (R182, R183). -/
def execMatMmp (n : Nat) (s : State) : Host.Outcome State Fault Refusal := matIssue s n 0x02 true

end Sys2Proof.Machine
end

