-- ==== Sys2Proof/Machine/Snoop.lean ====
section
/-! DEFINITION. The snoop filter (R524): device-side accesses of cores, stream units, the twin mirror and frames of other
modules wait for the back-invalidation of lines that the host may hold. -/

namespace Sys2Proof.Machine

/-- HDM lines of a run of own memory that the filter shows as host-held, for a write, or for a read that the host has not
yet answered. -/
def State.heldLines (s : State) (k len : Nat) (wr : Bool) : List Nat :=
  (s.snoops.filter fun x => decide (k < x.1 + 64) && decide (x.1 < k + len) && (wr || !x.2)).map (·.1)

/-- Sends a back-invalidation snoop, once. -/
def State.biSend (s : State) (line : Nat) (inv : Bool) : State :=
  if s.biWait.contains (line, inv) then s else { s with biWait := s.biWait ++ [(line, inv)] }.emit (.biSnp line inv)

/-- A device-side access waits for the host's answers: the state with the snoops sent, or none when it may go on. -/
def State.biGate (s : State) (rd wr : List (Nat × Nat)) : Option State :=
  let w := wr.flatMap fun x => s.heldLines x.1 x.2 true
  let r := rd.flatMap fun x => s.heldLines x.1 x.2 false
  if w.isEmpty && r.isEmpty then none
  else some (r.foldl (fun s l => if w.contains l then s else s.biSend l false) (w.foldl (fun s l => s.biSend l true) s))

/-- A row whose device-side accesses, as (key, bytes), wait until no line that the host may hold is in their way
(R524). -/
def gated (s : State) (rd wr : List (Nat × Nat)) (go : Host.Outcome State Fault Refusal) : Host.Outcome State Fault Refusal :=
  if s.snoops.isEmpty then go else match s.biGate rd wr with | some s' => .next s' | none => go

/-- Extents of an operand's planes of this module. -/
def gotRuns (g : Got) : List (Nat × Nat) :=
  (g.planes.filter fun p => !p.remote).map fun p => (p.base, (p.rows - 1) * p.pitch + p.len)

/-- The keys of some writes, each as an extent. -/
def writeRuns (ws : Writes) : List (Nat × Nat) := ws.map fun x => (x.1, 1)

end Sys2Proof.Machine
end

