-- ==== Sys2Proof/Machine/OneSided.lean ====
section
/-! DEFINITION. One-sided operations of a core (R249 to R256): the requests that reach another module, what a
variable-latency command writes once its sources are in, and how it fails. An access to this module's own tiers is
served inside the module, directly (R249; log 17). -/

namespace Sys2Proof.Machine

/-- Bytes of the longest piece that starts at key k: at most 4,096, ending where a naturally aligned 8 B ends (R251). -/
def pieceMax (k : Nat) : Nat := 4096 - k % 8

/-- Pieces of a run of bytes, no aligned 8 B of which is split (R251). -/
def piecesOf : Nat → Nat → Nat → List (Nat × Nat)
  | 0, _, _ => []
  | fuel + 1, k, len =>
    if len = 0 then [] else (k, min len (pieceMax k)) :: piecesOf fuel (k + min len (pieceMax k)) (len - min len (pieceMax k))

/-- Pieces of a plane: one run when its rows are contiguous. -/
def planePieces (p : Plane) : List (Nat × Nat) :=
  if p.rows ≤ 1 ∨ p.pitch = p.len then
    let len := p.rows * p.len
    piecesOf (len / 4096 + 2) p.base len
  else (upFrom 0 p.rows).flatMap fun r => piecesOf (p.len / 4096 + 2) (p.base + r * p.pitch) p.len

/-- Whether a copy of so many bytes is a bulk copy (R399). -/
def State.bulk (s : State) (bytes : Nat) : Bool :=
  let b := s.rfld Reg.swcSchedCtrl 31 8
  b != 0 && decide (b ≤ bytes)

/-- FLOW of the frames of a core's program (R553). -/
def coreFlow (c : Core) : Nat := match c.launch with | some l => l.flow | none => 0

/-- A request of a core's command: its operand's DETAIL, what it asks and where its reply goes. -/
def coreReq (s : State) (n fid detail : Nat) (kind : ReqKind) (ty tc : Nat) (a len : Nat) (dst : Nat) (payload : List Byte)
    (aux : Nat) (arg0 arg1 : Word) : Unsent :=
  { req := { port := corePort n, tag := 0, kind := kind, who := .core n fid detail, target := addrId a, dst := dst, len := len }
    frame := mkFrame { dst := addrId a, src := s.flatId, tc := tc, vc := vcREQ, ty := ty, flow := coreFlow (s.core n)
                       tag := 0, addr := BitVec.ofNat 64 a, aux := aux, arg0 := arg0, arg1 := arg1, payload := payload } }

/-- The RD requests of a source's planes on another module (R249). -/
def rdReqs (s : State) (n fid detail : Nat) (bulk : Bool) (g : Got) : List Unsent :=
  (g.planes.filter Plane.remote).flatMap fun p => (planePieces p).map fun x =>
    coreReq s n fid detail .rd tyRD (if bulk then 6 else 2) (x.1 - 2 ^ 64) x.2 x.1 [] x.2 0 0

/-- Writes in ascending order of key, those of one key as they stand. -/
def insertKey (x : Nat × Byte) : Writes → Writes
  | [] => [x]
  | y :: t => if y.1 ≤ x.1 then y :: insertKey x t else x :: y :: t

def sortKeys (ws : Writes) : Writes := ws.foldl (fun a x => insertKey x a) []

/-- Runs of consecutive keys among writes, each with its bytes, no aligned 8 B of which is split. -/
def runsGo : Writes → Option (Nat × List Byte) → List (Nat × List Byte)
  | [], none => []
  | [], some (k, bs) => [(k, bs.reverse)]
  | (k, b) :: t, none => runsGo t (some (k, [b]))
  | (k, b) :: t, some (k0, bs) =>
    if k = k0 + bs.length ∧ bs.length < pieceMax k0 then runsGo t (some (k0, b :: bs))
    else (k0, bs.reverse) :: runsGo t (some (k, [b]))

/-- The WR requests of remote writes; bytes that lie side by side go in one frame whatever plane they belong to (R251). -/
def wrReqs (s : State) (n fid : Nat) (bulk : Bool) (ws : Writes) : List Unsent :=
  (runsGo (sortKeys ws) none).map fun x =>
    coreReq s n fid 0x01 .wr tyWR (if bulk then 6 else 4) (x.1 - 2 ^ 64) x.2.length 0 x.2 0 0 0

def findFlight (c : Core) (fid : Nat) : Option Flight := c.flights.find? (fun f => f.id == fid)

def State.setFlight (s : State) (n : Nat) (f : Flight) : State :=
  let c := s.core n
  s.setCore n { c with flights := c.flights.map fun g => if g.id = f.id then f else g }

/-- A command in flight fails with an out-of-bounds or operand result: it leaves the core, its requests are freed, and
the core halts, recorded against it (R156, R256). -/
def failFlight (s : State) (n fid code detail : Nat) : State :=
  match findFlight (s.core n) fid with
  | none => s
  | some f =>
    let mine (r : Req) : Bool := match r.who with | .core m g _ => m == n && g == fid | _ => false
    let s := { s with reqs := s.reqs.filter (fun r => !mine r), unsent := s.unsent.filter (fun u => !mine u.req) }.pump
    let c := s.core n
    let s := s.setCore n { c with
      flights := c.flights.filter (fun g => g.id != fid)
      pends := c.pends.map fun p => if p.flight = fid then { p with done := true } else p
      block := if c.block = .stash fid ∨ c.block = .coll fid then .none else c.block }
    haltOutside s n code detail (decide (f.bank = 1)) f.idx

/-- Sends a command's requests; a target that the route table marks unreachable or fenced retires the command at
once (R256). -/
def sendAll (s : State) (n fid : Nat) (us : List Unsent) : State :=
  match us.find? (fun u => !s.routeOpen u.req.target) with
  | some u =>
    failFlight s n fid 0x05 (match u.req.who with | .core _ _ d => d | _ => 0)
  | none => us.foldl State.sendReq s

/-! What MOV and PADD commands write, given their sources. -/

/-- What a command forms from its sources: halt conditions found in the data, its writes, flags and amax. -/
structure Effect where
  faults : List (Nat × Nat) := []
  writes : Writes := []
  flags : NFlags := noFlags
  amax : Option XVal := none

/-- MOV.COPY: codes and scale bytes move unchanged, the source read plain or transposed (R48, R251). -/
def copyWrites (rd : View) (rows cols : Nat) (d a : Opd) : Writes :=
  if isSquare d.fmt then
    (rowMajor (rows / 16) (cols / 16)).flatMap fun x =>
      let n := x.1 * d.pitch + x.2
      (d.sKey + n, BitVec.ofNat 8 (scaleByte rd a (16 * x.1) (16 * x.2))) ::
        placeAt (d.eKey + n * squareBytes d.fmt)
          (packSquare d.fmt ((rowMajor 16 16).map fun y => elemCode rd a (16 * x.1 + y.1) (16 * x.2 + y.2)))
  else
    (rowMajor rows cols).flatMap fun x =>
      placeAt (d.eKey + (x.1 * d.pitch + x.2) * elemBytes d.fmt) (leBytes (elemBytes d.fmt) (elemCode rd a x.1 x.2))

/-! MX exchange (R64 to R68). -/

/-- MX types by SUBOP (R126). -/
inductive MxType
  | e4m3 | e5m2 | e3m2 | e2m3 | e2m1 | int8
  deriving DecidableEq, Repr

def mxType : Nat → MxType
  | 0 => .e4m3 | 1 => .e5m2 | 2 => .e3m2 | 3 => .e2m3 | 4 => .e2m1 | _ => .int8

/-- The square-block counterpart (R64). -/
def mxFmt : MxType → Fmt
  | .e4m3 => .q8e | .e5m2 => .q8w | .e3m2 => .q6 | .e2m3 => .q8e | .e2m1 => .q4 | .int8 => .qi8

/-- Bits of an element in the packed array (R65). -/
def mxBits : MxType → Nat
  | .e4m3 | .e5m2 | .int8 => 8
  | .e3m2 | .e2m3 => 6
  | .e2m1 => 4

/-- The code of element i of an array at key k (R65). -/
def mxCode (t : MxType) (rd : View) (k i : Nat) : Nat :=
  let b := mxBits t
  let bit0 := i * b
  bitsN (leNat (fun j => rd (k + bit0 / 8 + j)) 2) (bit0 % 8 + b - 1) (bit0 % 8)

/-- The value of an element code times 2^X (R67): an E4M3 code S.1111.111 is a NaN, and the all-ones exponent of E5M2
is an infinity or a NaN as in the MX specification (log 16). -/
def mxValue (t : MxType) (b : Nat) (X : Int) : XVal :=
  match t with
  | .e4m3 => if b % 128 = 127 then .nan else decodeElem .q8e b X
  | .e5m2 => if b % 128 ≥ 125 then .nan else if b % 128 = 124 then .inf (b.testBit 7) else decodeElem .q8w b X
  | .e3m2 => decodeElem .q6 b X
  | .e2m3 => decodeFloat .q4 ⟨3, 0, 2, 15, 1, true, 2⟩ b X
  | .e2m1 => decodeElem .q4 b X
  | .int8 => xOfInt (sextN 8 b) (X - 6)

/-- Planes of an MX tensor: its packed element array and its scale array, one byte per block of 32 (R65). -/
def mxPlanes (t : MxType) (ek sk rows cols : Nat) : List Plane :=
  [⟨false, ek, 1, ceilDiv (rows * cols * mxBits t) 8, 0⟩, ⟨true, sk, 1, rows * cols / 32, 0⟩]

/-- Resolves an MX operand: both arrays 64 B aligned, packed over the whole tensor (R65, R118; log 18). Its FMT may be any code
but the reserved ones (DESIGN CHOICE, log 104). -/
def resolveMx (s : State) (c : Core) (n : Nat) (w : Cmd) (offs : List Int) (k rows cols : Nat) (t : MxType) : Got :=
  let f := opdField (cOpd w k)
  let off := offs.getD (k - 1) 0
  let eb := (cS c f.ebase).toNat
  let sb := (cS c f.sbase).toNat
  let elen := ceilDiv (rows * cols * mxBits t) 8
  let slen := rows * cols / 32
  let ek := planeKey s n f.fabric eb off elen
  let sk := planeKey s n f.fabric sb 0 slen
  { faults := (if ((eb : Int) + off) % 64 ≠ 0 ∨ sb % 64 ≠ 0 then [(0x02, k)] else []) ++
      (if (ek.isNone || sk.isNone) then [(0x05, k)] else []) ++
      (if f.fmt = .rsvE ∨ f.fmt = .rsvF then [(0x02, k)] else [])
    opd := { fmt := f.fmt, trans := false, eKey := ek.getD 0, sKey := sk.getD 0, pitch := cols, chunkE := 0 }
    planes := match ek, sk with
      | some ek, some sk => mxPlanes t ek sk rows cols
      | _, _ => []
    fabric := f.fabric }

/-- The value of element (r, q) of an MX tensor (R67). -/
def mxElem (t : MxType) (rd : View) (a : Opd) (cols r q : Nat) : XVal :=
  let sc := (rd (a.sKey + r * (cols / 32) + q / 32)).toNat
  if sc = 0xFF then .nan else mxValue t (mxCode t rd a.eKey (r * cols + q)) ((sc : Int) - 127)

/-- Rounding to an MX element type (R68): the code and its flags. -/
def mxRound (t : MxType) (v : XVal) (X : Int) : Nat × NFlags :=
  match v with
  | .fin s m e =>
    match t with
    | .e4m3 => roundFloat s m e X ⟨3, -6, 8, 14, 7, true, 4⟩ .rne
    | .e5m2 => roundFloat s m e X ⟨2, -14, 15, 7, 15, true, 5⟩ .rne
    | .e3m2 => roundFloat s m e X ⟨2, -2, 4, 7, 3, true, 3⟩ .rne
    | .e2m3 => roundFloat s m e X ⟨3, 0, 2, 15, 1, true, 2⟩ .rne
    | .e2m1 => roundFloat s m e X ⟨1, 0, 2, 3, 1, true, 2⟩ .rne
    | .int8 => roundInt s m e (X - 6) ⟨8, 127, false⟩ .rne false
  | _ => (0, noFlags)

/-- emax of R68. -/
def mxEmax : MxType → Int
  | .e4m3 => 8 | .e5m2 => 15 | .e3m2 => 4 | .e2m3 => 2 | .e2m1 => 2 | .int8 => 0

/-- The scale byte of an MX block from its largest magnitude (R68). -/
def mxScale (t : MxType) (a : XVal) : Nat :=
  match a with
  | .fin _ m e => (clampInt 0 0xFE (xLog m e - mxEmax t + 127)).toNat
  | _ => 0

/-- Bytes of packed codes (R65). -/
def mxPack (t : MxType) (codes : List Nat) : List Byte :=
  let b := mxBits t
  leBytes (ceilDiv (codes.length * b) 8) (codes.foldr (fun c a => c % 2 ^ b + a <<< b) 0)

/-- What MOV.MXOUT writes (R68). -/
def mxoutWrites (t : MxType) (rd : View) (rows cols : Nat) (d a : Opd) : Writes × NFlags :=
  let blocks := (rowMajor rows (cols / 32)).map fun x =>
    let vals := (upFrom (32 * x.2) 32).map fun q => elemVal rd a x.1 q
    let sc := mxScale t (amaxOf vals)
    (sc, vals.map fun v => mxRound t v ((sc : Int) - 127))
  (placeAt d.eKey (mxPack t (blocks.flatMap fun b => b.2.map (·.1))) ++
    placeAt d.sKey (blocks.map fun b => BitVec.ofNat 8 b.1),
   blocks.foldl (fun f b => b.2.foldl (fun g x => addFlags g x.2) f) noFlags)

/-! Resolving the operands of each copying command, and its effect. -/

/-- Formats of MOV.COPY: any but the reserved codes (R119). -/
def isCopyFmt (f : Fmt) : Bool := f != .rsvE && f != .rsvF

/-- Formats of MOV.CVT (R119). -/
def isCvtFmt (f : Fmt) : Bool := isTyped f || f == .e24 || f == .e40

/-- The D and A of a copying command, with the conditions that its word shows. -/
structure MovOpds where
  d : Got
  a : Got
  word : List (Nat × Nat)

def movOperands (s : State) (c : Core) (n : Nat) (w : Cmd) (offs : List Int) : MovOpds :=
  let d0 := cDim0 w
  let d1 := cDim1 w
  let zero := if d0 = 0 ∨ d1 = 0 then [(0x02, 0x00)] else []
  let t := mxType (cSubop w)
  match cOpcode w with
  | 0x82 =>
    ⟨resolve s c n w offs 1 d0 d1, resolveMx s c n w offs 2 d0 d1 t,
      zero ++ (if d1 % 32 ≠ 0 then [(0x02, 0x00)] else []) ++ fmtBad (· == mxFmt t) w 1⟩
  | 0x83 =>
    ⟨resolveMx s c n w offs 1 d0 d1 t, resolve s c n w offs 2 d0 d1,
      zero ++ (if d1 % 32 ≠ 0 then [(0x02, 0x00)] else []) ++ fmtBad (· == mxFmt t) w 2⟩
  | 0x81 =>
    ⟨resolve s c n w offs 1 d0 d1, resolve s c n w offs 2 d0 d1, zero ++ fmtBad isCvtFmt w 1 ++ fmtBad isCvtFmt w 2 ++ fixedBad w⟩
  | 0x80 =>
    ⟨resolve s c n w offs 1 d0 d1, resolve s c n w offs 2 d0 d1,
      zero ++ fmtBad isCopyFmt w 2 ++ fmtBad (· == (opdField (cOpd w 2)).fmt) w 1⟩
  | _ =>
    -- MAT.PADD
    let m := 16 * d0
    let nn := 16 * d1
    ⟨resolve s c n w offs 1 m nn, resolve s c n w offs 2 m nn,
      zero ++ fmtBad (· == .acc) w 1 ++ fmtBad (· == .acc) w 2 ++ fabricBad w 1⟩

/-- What a copying command forms from its operands (R48, R57, R67, R68, R181). -/
def movForm (w : Cmd) (rd : View) (d a : Opd) : Effect :=
  let d0 := cDim0 w
  let d1 := cDim1 w
  match cOpcode w with
  | 0x80 => { writes := copyWrites rd d0 d1 d a }
  | 0x81 =>
    let r := writeTensor d (cWriteMode w) d0 d1 (elemVal rd a)
    { writes := r.1, flags := r.2, amax := some (amaxOf ((rowMajor d0 d1).map fun x => elemVal rd a x.1 x.2)) }
  | 0x82 =>
    let r := writeTensor d ⟨false, 0, false⟩ d0 d1 (mxElem (mxType (cSubop w)) rd a d1)
    { writes := r.1, flags := r.2 }
  | 0x83 =>
    let r := mxoutWrites (mxType (cSubop w)) rd d0 d1 d a
    { writes := r.1, flags := r.2 }
  | _ =>
    let r := writeTensor d ⟨false, 0, false⟩ (16 * d0) (16 * d1)
      fun r q => roundAcc (xAdd (elemVal rd d r q) (elemVal rd a r q))
    { writes := r.1, flags := r.2 }

/-- Its effect, or the halt that a scale byte of 0xFF among its source's brings (R39). -/
def movEffect (w : Cmd) (rd : View) (gD gA : Got) : Effect :=
  if cOpcode w ≠ 0x82 ∧ isSquare gA.opd.fmt = true ∧ badScale rd gA = true then { faults := [(0x02, 0x02)] }
  else movForm w rd gD.opd gA.opd

/-- The core as a command in flight saw its scalars. -/
def coreAtIssue (c : Core) (f : Flight) : Core := { c with scalars := f.named }

/-- A copying command's result is formed: its local writes wait for its completion, its remote ones are sent. -/
def formMov (s : State) (n : Nat) (f : Flight) : State :=
  let c := coreAtIssue (s.core n) f
  let g := movOperands s c n f.cmd f.offs
  let e := movEffect f.cmd (viewWith s f.got) g.d g.a
  match lowestFault e.faults with
  | some (code, detail) => failFlight s n f.id code detail
  | none =>
    let here := e.writes.filter (fun x => decide (x.1 < 2 ^ 64))
    let there := e.writes.filter (fun x => decide (2 ^ 64 ≤ x.1))
    let us := wrReqs s n f.id (s.bulk (cDim0 f.cmd * cDim1 f.cmd)) there
    let k := cAmaxS f.cmd
    let s := s.setFlight n { f with
      writes := here, flags := e.flags, formed := true, waiting := us.length
      amax := match e.amax with | some v => if k = 0 then none else some (k, amaxImage v) | none => none }
    sendAll s n f.id us

end Sys2Proof.Machine
end

