-- ==== Sys2Proof/Machine/Mms.lean ====
section
/-! DEFINITION. MAT.MMS and the sparse image (R186 to R206). -/

namespace Sys2Proof.Machine

/-- The fields of a sparse image's header (R186), with its base offset in own Pewter. -/
structure Image where
  base : Nat
  kb : Nat
  rb : Nat
  fmtCode : Nat
  nstored : Nat
  ncol : Nat
  rp : Int
  hdr : Int
  col : Int
  el : Int
  sc : Int
  deriving DecidableEq, Repr

/-- Reads a header at offset base of a core's Pewter. -/
def readImage (s : State) (n base : Nat) : Image :=
  let wd (i : Nat) : Word := s.mword (pewKey n (base + 8 * i))
  { base := base, kb := fld (wd 0) 15 0, rb := fld (wd 0) 47 16, fmtCode := fld (wd 0) 51 48
    nstored := fld (wd 1) 31 0, ncol := fld (wd 1) 63 32
    rp := sextN 32 (fld (wd 2) 31 0), hdr := sextN 32 (fld (wd 2) 63 32), col := sextN 32 (fld (wd 3) 31 0)
    el := sextN 32 (fld (wd 4) 31 0), sc := sextN 32 (fld (wd 4) 63 32) }

/-- Whether the header's reserved bits are all 0 (R186). -/
def imageReservedOk (s : State) (n base : Nat) : Bool :=
  let wd (i : Nat) : Word := s.mword (pewKey n (base + 8 * i))
  fld (wd 0) 63 52 == 0 && fld (wd 3) 63 32 == 0 && wd 5 == 0 && wd 6 == 0 && wd 7 == 0

/-- The arrays of an image, as (offset from the base, bytes): row pointers, tile headers, block columns, elements and
scales (R187 to R190). -/
def imageParts (m : Image) : List (Int × Nat) :=
  [(m.rp, 4 * (m.rb + 1)), (m.hdr, 4 * m.rb), (m.col, 2 * m.ncol), (m.el, m.nstored * squareBytes (fmtOf m.fmtCode)),
   (m.sc, m.nstored)]

/-- Whether a part lies within own Pewter (R195). -/
def partInside (m : Image) (x : Int × Nat) : Bool :=
  decide (0 ≤ (m.base : Int) + x.1) && decide ((m.base : Int) + x.1 + x.2 ≤ (pewterBytes : Int))

/-- Key of byte i of a part. -/
def partKey (n : Nat) (m : Image) (off : Int) (i : Nat) : Nat := pewKey n ((m.base : Int) + off).toNat + i

/-- Row pointer p (R187). -/
def rowPtr (s : State) (n : Nat) (m : Image) (p : Nat) : Nat := s.mnat (partKey n m m.rp (4 * p)) 4

/-- Tile header of block row p (R188): DENSE and COLSTART. -/
def tileHdr (s : State) (n : Nat) (m : Image) (p : Nat) : Bool × Nat :=
  let v := s.mnat (partKey n m m.hdr (4 * p)) 4
  (v.testBit 31, bitsN v 30 0)

/-- The stored squares of block row p as (block column, stored square number), in block-row order (R189, R190). -/
def tileSquares (s : State) (n : Nat) (m : Image) (p : Nat) : List (Nat × Nat) :=
  let first := rowPtr s n m p
  let cnt := rowPtr s n m (p + 1) - first
  let (dense, start) := tileHdr s n m p
  (upFrom 0 cnt).map fun t => (if dense then t else s.mnat (partKey n m m.col (2 * (start + t))) 2, first + t)

def ascending : List Nat → Bool
  | a :: b :: t => decide (a < b) && ascending (b :: t)
  | _ => true

/-- Whether the tile of block row p breaks R189 or R192, or is dense with a COLSTART other than the 0 of R188 (DESIGN
CHOICE, log 91). -/
def tileBad (s : State) (n : Nat) (m : Image) (p : Nat) : Bool :=
  let cnt := rowPtr s n m (p + 1) - rowPtr s n m p
  let (dense, start) := tileHdr s n m p
  let B := squareBytes (fmtOf m.fmtCode)
  if dense then decide (cnt ≠ m.kb) || decide (start ≠ 0)
  else
    decide (start + cnt > m.ncol) || decide (cnt * (B + 3) > m.kb * (B + 1)) ||
    (let cols := (tileSquares s n m p).map (·.1)
     !ascending cols || cols.any (fun c => decide (m.kb ≤ c)))

/-- Whether the row pointers break R187. -/
def rowPtrsBad (s : State) (n : Nat) (m : Image) : Bool :=
  decide (rowPtr s n m 0 ≠ 0) || decide (rowPtr s n m m.rb ≠ m.nstored) ||
  (upFrom 0 m.rb).any fun p => decide (rowPtr s n m (p + 1) < rowPtr s n m p)

/-- The value of element (r, q) of stored square j. -/
def imageElem (rd : View) (n : Nat) (m : Image) (j r q : Nat) : XVal :=
  let f := fmtOf m.fmtCode
  let sc := (rd (partKey n m m.sc j)).toNat
  decodeElem f (squareCode f rd (partKey n m m.el (j * squareBytes f)) (16 * r + q)) ((sc : Int) - 127)

/-- A zero square: every code reads as zero (R197). -/
def zeroSquare (rd : View) (n : Nat) (m : Image) (j : Nat) : Bool :=
  let f := fmtOf m.fmtCode
  (upFrom 0 256).all fun i =>
    match decodeElem f (squareCode f rd (partKey n m m.el (j * squareBytes f)) i) 0 with
    | .zero _ => true
    | _ => false

/-- The non-zero squares of block row p in ascending block column (R198). -/
def rowSquares (s : State) (n : Nat) (m : Image) (p : Nat) : List (Nat × Nat) :=
  (tileSquares s n m p).filter fun x => !zeroSquare s.mget n m x.2

/-- Segments of a block row of z non-zero squares (R198). -/
def segCount (z : Nat) : Nat := ceilDiv z 64

/-- segment_acc of R199: the loop of R174 over the non-zero squares of segment g. -/
def segmentAcc (rd : View) (n : Nat) (m : Image) (b : Opd) (squares : List (Nat × Nat)) (g i j : Nat) : XVal :=
  ((squares.drop (64 * g)).take 64).foldl (fun acc x =>
    matStep (fun k => imageElem rd n m x.2 i (k % 16)) (fun k => elemVal rd b k j) acc x.1) (.zero false)

/-- The E24 contribution of segment g at exponent E, with its flags (R199). -/
def segmentE24 (rd : View) (n : Nat) (m : Image) (b : Opd) (squares : List (Nat × Nat)) (e : Int) (g i j : Nat) :
    Int × NFlags :=
  let (code, fl) := convElem .e24 (segmentAcc rd n m b squares g i j) e .rne false
  (sextN 24 code, fl)

/-- The exact sum of the contributions of segments first to first + count - 1 that exist (R199, R202). -/
def segmentSum (rd : View) (n : Nat) (m : Image) (b : Opd) (squares : List (Nat × Nat)) (e : Int) (first count i j : Nat) :
    Int × NFlags :=
  let last := min (first + count) (segCount squares.length)
  (upFrom first (last - first)).foldl (fun a g =>
    let (c, fl) := segmentE24 rd n m b squares e g i j
    (a.1 + c, addFlags a.2 fl)) (0, noFlags)

/-- mms_element of R199. -/
def mmsElement (rd : View) (n : Nat) (m : Image) (b : Opd) (squares : List (Nat × Nat)) (e : Int) (i j : Nat) :
    XVal × NFlags :=
  match segCount squares.length with
  | 0 => (.zero false, noFlags)
  | 1 => (segmentAcc rd n m b squares 0 i j, noFlags)
  | k + 2 =>
    let (t, fl) := segmentSum rd n m b squares e 0 (k + 2) i j
    (xOfInt t e, fl)

/-- The control word of R194. -/
structure MmsCtl where
  e : Int
  first : Nat
  count : Nat
  part : Bool
  reserved : Nat
  deriving DecidableEq, Repr

def mmsCtl (v : Word) : MmsCtl :=
  { e := sextN 16 (fld v 15 0), first := fld v 31 16, count := fld v 47 32, part := bit v 48, reserved := fld v 63 49 }

/-- Segments that the command computes in a row of z non-zero squares, as (first, count). -/
def mmsSegs (k : MmsCtl) (z : Nat) : Nat × Nat :=
  let sp := segCount z
  if k.part then
    let last := if k.count = 0 then sp else min sp (k.first + k.count)
    (k.first, last - k.first)
  else (0, sp)

/-- Groups of 8 of R206. -/
def groupsOf8 : List Nat → Nat → List (List Nat)
  | _, 0 => []
  | l, fuel + 1 => if l.isEmpty then [] else l.take 8 :: groupsOf8 (l.drop 8) fuel

/-- O_S of R206, from the numbers of non-zero squares of the rows computed. -/
def mmsOcc (fa fb : Fmt) (k : MmsCtl) (kb nn : Nat) (zs : List Nat) : Nat :=
  let four (f : Fmt) : Bool := f == .q4 || f == .qi4
  let wide (f : Fmt) : Bool := f == .bf16 || f == .hf16 || f == .uf16
  let tOf (r : Nat) : Nat :=
    max 16 (if four fa && four fb then ceilDiv (16 * r) 4 else if wide fa || wide fb then 64 * r else 16 * r)
  -- squares of a row within the segments computed
  let inSegs (z : Nat) : Nat := let (f, c) := mmsSegs k z; min z (64 * (f + c)) - min z (64 * f)
  let groups := (groupsOf8 zs zs.length).map fun g =>
    let r := g.length
    max (ceilDiv (g.map inSegs).sum (8 * r)) (ceilDiv kb 32) * tOf r
  let extra := zs.map fun z => if segCount z ≥ 2 then (mmsSegs k z).2 * (8 + nn / 16) else 0
  16 + ceilDiv nn 128 * groups.sum + extra.sum

/-- Halt conditions of the header, row pointers and tiles of an image (R186, R187, R189, R192, R195): an array that lies
within own Pewter is tested whether another leaves it or not. The row pointers of all block rows are tested, the tiles
and scale bytes of those computed alone (DESIGN CHOICE, log 91). -/
def imageFaults (s : State) (n : Nat) (w : Cmd) (m : Image) (p0 rows : Nat) : List (Nat × Nat) :=
  let head := !imageReservedOk s n m.base || decide (m.kb = 0) || decide (m.rb = 0) || decide (m.rb > 65535) || decide (m.fmtCode > 5) ||
    fmtOf m.fmtCode != (opdField (cOpd w 2)).fmt || decide (m.kb ≠ cDim2 w) || decide (p0 + rows > m.rb) ||
    decide (m.rp % 8 ≠ 0) || decide (m.hdr % 8 ≠ 0) || decide (m.col % 8 ≠ 0) || decide (m.el % 64 ≠ 0) || decide (m.sc % 64 ≠ 0)
  let within (i : Nat) : Bool := ((imageParts m).drop i).head?.all (partInside m)
  let out := if (imageParts m).all (partInside m) then [] else [(0x05, 0x02)]
  let shape := within 0 && (rowPtrsBad s n m || (within 1 && within 2 && (upFrom p0 rows).any (tileBad s n m)))
  if head || shape then (0x02, 0x02) :: out
  else if out ≠ [] then out
  else if (upFrom p0 rows).any fun p => (tileSquares s n m p).any fun x => s.mget (partKey n m m.sc x.2) == 0xFF
  then [(0x02, 0x02)]
  else []

/-- The result of MAT.MMS for the squares of its rows: writes, flags and the exact values (R196, R199, R202). -/
def mmsWrites (rd : View) (w : Cmd) (n : Nat) (m : Image) (k : MmsCtl) (d b : Opd) (rows : List (List (Nat × Nat))) :
    Writes × NFlags × XVal :=
  let nn := 16 * cDim1 w
  if k.part then
    let sq := rows.headD []
    let (first, count) := mmsSegs k sq.length
    let v (i j : Nat) := segmentSum rd n m b sq k.e first count i j
    let (ws, _) := writeTensor { d with chunkE := k.e } (cWriteMode w) 16 nn (fun i j => xOfInt (v i j).1 k.e)
    (ws, (rowMajor 16 nn).foldl (fun a x => addFlags a (v x.1 x.2).2) noFlags, .zero false)
  else
    let v (r j : Nat) := mmsElement rd n m b (rows.getD (r / 16) []) k.e (r % 16) j
    let mm := 16 * cDim0 w
    let (ws, fl) := writeTensor d (cWriteMode w) mm nn (fun r j => (v r j).1)
    (ws, (rowMajor mm nn).foldl (fun a x => addFlags a (v x.1 x.2).2) fl, amaxOf ((rowMajor mm nn).map fun x => (v x.1 x.2).1))

/-- Conditions of MAT.MMS that its word and its scalars show (R193 to R196, R203). -/
def mmsStatic (w : Cmd) (k : MmsCtl) (base : Int) (gB gD : Got) : List (Nat × Nat) :=
  let a := opdField (cOpd w 2)
  let dFmt := (opdField (cOpd w 1)).fmt
  (if cDim0 w = 0 ∨ cDim1 w = 0 ∨ cDim2 w = 0 then [(0x02, 0x00)] else []) ++
  (if !isSquare a.fmt || a.trans || decide (a.ld = 0) || decide (base % 64 ≠ 0) then [(0x02, 0x02)] else []) ++
  (if decide (k.e < -160) || decide (k.e > 104) || decide (k.reserved ≠ 0) ||
      (!k.part && (decide (k.first ≠ 0) || decide (k.count ≠ 0))) then [(0x02, 0x02)] else []) ++
  (if cAccum w then [(0x02, 0x01)] else []) ++
  (if k.part && (decide (cDim0 w ≠ 1) || decide (cAmaxS w ≠ 0)) then [(0x02, 0x02)] else []) ++
  fmtBad (fun f => if k.part then f == .e40 else isMatDst f) w 1 ++ fmtBad isMatSrc w 3 ++
  (if k.part then [] else fixedBad w) ++ fabricBad w 1 ++ fabricBad w 2 ++ fabricBad w 3 ++
  (if base < 0 ∨ base + 64 > (pewterBytes : Int) then [(0x05, 0x02)] else []) ++
  (if k.part && dFmt == .e40 then gD.faults.filter (fun x => x.1 != 0x02) else gD.faults) ++ gB.faults

/-- What MAT.MMS names: its control word, first block row, image and its offset, B and D. -/
structure MmsOpds where
  k : MmsCtl
  p0 : Nat
  base : Int
  img : Image
  b : Got
  d : Got

def mmsOperands (s : State) (n : Nat) (w : Cmd) (offs : List Int) : MmsOpds :=
  let c := s.core n
  let a := opdField (cOpd w 2)
  let base : Int := ((cS c a.ebase).toNat : Int) + offs.getD 1 0
  { k := mmsCtl (cS c a.ld), p0 := (cS c a.sbase).toNat, base := base, img := readImage s n base.toNat
    b := resolve s c n w offs 3 (16 * cDim2 w) (16 * cDim1 w)
    d := resolve s c n w offs 1 (16 * cDim0 w) (16 * cDim1 w) }

/-- The halt conditions that MAT.MMS meets at its issue. -/
def mmsFaults (s : State) (w : Cmd) (g : MmsOpds) : List (Nat × Nat) :=
  let static := mmsStatic w g.k g.base g.b g.d
  if static ≠ [] then static else if badScale s.view g.b then [(0x02, 0x03)] else []

/-- The non-zero squares of the rows that it computes. -/
def mmsRows (s : State) (n : Nat) (w : Cmd) (g : MmsOpds) : List (List (Nat × Nat)) :=
  (upFrom g.p0 (cDim0 w)).map (rowSquares s n g.img)

/-- The halt conditions that it finds in its image once it has issued; a dealt row has two segments or more (R195,
R203). -/
def mmsInner (s : State) (n : Nat) (w : Cmd) (g : MmsOpds) : List (Nat × Nat) :=
  let inner := imageFaults s n w g.img g.p0 (cDim0 w)
  if inner ≠ [] then inner
  else if g.k.part && decide (segCount ((mmsRows s n w g).headD []).length ≤ 1) then [(0x02, 0x02)] else []

/-- The planes of the image that are read. -/
def mmsPlanes (s : State) (n : Nat) (w : Cmd) (g : MmsOpds) : List Plane :=
  if mmsFaults s w g ≠ [] then []
  else ⟨false, pewKey n g.base.toNat, 1, 64, 0⟩ :: (imageParts g.img).map fun x => ⟨false, partKey n g.img x.1 0, 1, x.2, 0⟩

/-- The plan of MAT.MMS. -/
def mmsPlan (s : State) (n : Nat) (w : Cmd) (g : MmsOpds) : Plan :=
  let faults := mmsFaults s w g
  let ok := decide (faults = []) && decide (mmsInner s n w g = [])
  let rows := mmsRows s n w g
  let r := if ok then mmsWrites s.view w n g.img g.k g.d.opd g.b.opd rows else ([], noFlags, XVal.zero false)
  { faults := faults
    accs := opdScalars w 1 ++ opdScalars w 2 ++ opdScalars w 3 ++ planeAccs n { g.b with planes := mmsPlanes s n w g, fabric := false } false ++
      planeAccs n g.b false ++ planeAccs n g.d true ++ sideAccs w
    occ := if ok then mmsOcc (opdField (cOpd w 2)).fmt (opdField (cOpd w 3)).fmt g.k g.img.kb (16 * cDim1 w) (rows.map (·.length)) else 16
    rd := 0, ws := 0, wv := 0, vlat := true
    writes := r.1, flags := r.2.1
    amax := if cAmaxS w = 0 then none else some (cAmaxS w, amaxImage r.2.2) }

/-- MAT.MMS: issued, it reads its image; a fault found there is recorded against it (R156, R195). -/
def execMatMms (n : Nat) (s : State) : Host.Outcome State Fault Refusal :=
  match issueCmd s n (· == 0x03) with
  | .nothing => .next s
  | .ended s => .next s
  | .go s t w offs =>
    let g := mmsOperands s n w offs
    let (issued, s') := issuePlan s n t w offs (mmsPlan s n w g)
    if !issued then .next s'
    else
      match lowestFault (if mmsFaults s w g ≠ [] then [] else mmsInner s n w g) with
      | some (code, detail) => .next (failFlight s' n (s.core n).nextFlight code detail)
      | none => .next (s'.meet (meetGot s [{ g.b with planes := mmsPlanes s n w g, fabric := false }, g.b]))

end Sys2Proof.Machine
end

