-- ==== Sys2Proof/Machine/SwitchOps.lean ====
section
/-! DEFINITION. The packet buffer and the switch's counters: slots of a frame (R302, R347), malformed frames (R352),
cells (R372 to R376), sinking (R370, R371), ageing (R383 to R386), usable ports (R381) and class 0 injection (R409 to
R413). -/

namespace Sys2Proof.Machine

/-! Frames as slots. -/

/-- Words of bytes, in order. -/
def bytesWords (n : Nat) (bs : List Byte) : List Word :=
  (upFrom 0 n).map fun i => BitVec.ofNat 64 (ofBytes ((bs.drop (8 * i)).take 8))

/-- Groups of eight words. -/
def slotsOf : Nat → List Word → List (List Word)
  | 0, _ => []
  | n + 1, ws => ws.take 8 :: slotsOf n (ws.drop 8)

/-- The slots of a frame (R302, R347). -/
def frameSlots (f : Frame) : List (List Word) :=
  if f.payload.isEmpty then [f.hdr]
  else
    let mid := frameLen f.payload.length - 128
    let body := f.payload ++ List.replicate (mid - f.payload.length) 0
    f.hdr :: slotsOf (mid / 64) (bytesWords (mid / 8) body) ++ [f.trailer]

/-- The frame that slots spell. -/
def slotsFrame (slots : List (List Word)) : Frame :=
  let h := slots.headD []
  let plen := fld (h.getD 1 0) 12 0
  if plen = 0 then { hdr := h, payload := [], trailer := [] }
  else
    let mid := (slots.drop 1).dropLast
    { hdr := h, payload := (wordsBytes mid.flatten).take plen, trailer := slots.getLastD [] }

/-- Slots that a header announces (R302). -/
def slotsNeed (h : List Word) : Nat := frameLen (min 4096 (fld (h.getD 1 0) 12 0)) / 64

/-! Ports. -/

def isLinkPort (p : Nat) : Bool := decide (p ≤ 120)

/-- Quad and link index of a link port (R289, R290). -/
def portQuad (p : Nat) : Nat := if p = 120 then 30 else p / 4
def portSub (p : Nat) : Nat := if p = 120 then 0 else p % 4

def State.link (s : State) (p : Nat) : Link := tabGet (fun _ => linkReset) s.links p
def State.setLink (s : State) (p : Nat) (l : Link) : State := { s with links := tabSet (fun _ => linkReset) s.links p l }

/-- SPLIT as R290 has it. -/
def State.split (s : State) (q : Nat) : Nat := if 30 ≤ q then 0 else s.rfld (Reg.lnkQcfg q) 2 1

/-- Link index k of a link port within its quad (R289). -/
def State.linkK (s : State) (p : Nat) : Nat :=
  match s.split (portQuad p) with | 0 => 0 | 1 => portSub p / 2 | _ => portSub p

/-- LNK_LSTAT and LNK_LCNT of a link port. -/
def State.lstatOf (s : State) (p : Nat) : Nat := Reg.lnkLstat (portQuad p) (s.linkK p)
def State.lcntOf (s : State) (p : Nat) : Nat := Reg.lnkLcnt (portQuad p) (s.linkK p)

/-- SWC_PORT_CFG.FENCE of a link port, as in effect: a write waits for the next frame boundary of the output (R390). -/
def State.fenced (s : State) (p : Nat) : Bool := isLinkPort p && tabGet (fun _ => false) s.fences p

def State.fenceIn (s : State) (p : Nat) : Bool := s.rbit (s.lstatOf p) 5

def LinkPhase.serving : LinkPhase → Bool
  | .live | .fmark | .finit => true
  | _ => false

/-- R381: a link in service or in a fast retrain, neither fenced nor reading FENCE_IN; an internal port while its island
runs: the host interface's may fail (R594). -/
def State.usable (s : State) (p : Nat) : Bool :=
  if isLinkPort p then (s.link p).phase.serving && !s.fenced p && !s.fenceIn p
  else decide (121 ≤ p) && decide (p ≤ 207) && !(p == 121 && tabGet (fun _ => false) s.lost 48)

/-- Present width of a link port in lanes; internal ports are faster than any link (R368). -/
def State.portWidth (s : State) (p : Nat) : Nat := 2 ^ s.rfld (s.lstatOf p) 4 3

/-- Unconsumed credits of a link port on a VC (R306). -/
def unconsumed (l : Link) (v : Nat) : Nat :=
  (tabGet (fun _ => 0) l.cred v + 65536 - tabGet (fun _ => 0) l.used v) % 65536

/-- Whether a port takes a frame of so many cells on a VC now; an internal port's consumer always does (R364, R394,
R396). -/
def State.hasCredit (s : State) (p v n : Nat) : Bool := !isLinkPort p || decide (n ≤ unconsumed (s.link p) v)

/-! Malformed frames (R352, R379). -/

/-- Channels and payload range of a type (R351): (VCs, least, largest PLEN). -/
def typeRule (ty : Nat) : Option (List Nat × Nat × Nat) :=
  if ty = tyWR ∨ ty = tyMSG then some ([vcREQ, vcREQE], 1, 4096)
  else if ty = tyRD ∨ ty = tyATOM ∨ ty = tySIG then some ([vcREQ, vcREQE], 0, 0)
  else if ty = tyRDDATA then some ([vcRSP, vcRSPE], 1, 4096)
  else if ty = tyWRACK ∨ ty = tyATOMRSP ∨ ty = tySIGACK ∨ ty = tyERR ∨ ty = tyMSGACK then some ([vcRSP, vcRSPE], 0, 0)
  else if 0x10 ≤ ty ∧ ty ≤ 0x17 then some ([vcCOLL, vcGUAR], 0, 4096)
  else if ty = tyMIRROR then some ([vcREQ], 1, 4096)
  else if ty = tyMIRRORACK then some ([vcGUAR], 0, 0)
  else if ty = tyFLOW then some ([vcGUAR], 0, 4096)
  else if ty = tyMGMT then some ([vcREQ, vcRSP, vcREQE, vcRSPE], 0, 4096)
  else none

/-- Reserved header fields (R348). -/
def hdrReserved (h : List Word) : Bool :=
  let w (i : Nat) : Word := h.getD i 0
  bit (w 0) 47 || decide (fld (w 1) 15 13 ≠ 0) || decide (fld (w 1) 63 53 ≠ 0) || decide (fld (w 7) 63 32 ≠ 0)

/-- Reserved trailer fields (R349). -/
def trailerReserved (t : List Word) : Bool :=
  decide (fld (t.getD 0 0) 63 33 ≠ 0) || (upFrom 4 4).any fun i => t.getD i 0 != 0

/-- Type of a CHUNK frame, and its SLOT (R436). -/
def tyCHUNK : Nat := 0x10
def chunkSlot (f : Frame) : Nat := fld (hw f 2) 12 0

/-- Whether a header is malformed, from the port it entered on (R352, R379, R583). -/
def malformedHdr (f : Frame) (p : Nat) : Bool :=
  match typeRule (fType f) with
  | none => true
  | some (vcs, lo, hi) =>
    !vcs.contains (fVc f) || hdrReserved f.hdr || decide (fPlen f < lo) || decide (fPlen f > hi) ||
    (fType f == tyCHUNK && decide (chunkSlot f > 7167)) ||
    ((fType f == tyMIRROR || fType f == tyMIRRORACK) && isLinkPort p && decide (p ≠ 120)) ||
    (fMcast f && !((decide (0x10 ≤ fType f) && decide (fType f ≤ 0x17) || fType f == tyFLOW) &&
      (fVc f == vcCOLL || fVc f == vcGUAR) && decide (fDst f = 0xFFFF) && decide (fMcDim f ≤ 2) &&
      (isLinkPort p || decide (128 ≤ p))))

/-! Cells (R372 to R376). -/

def State.cellsOf (s : State) (p v : Nat) : Cells := tabGet (fun _ => cellsReset) s.cells (8 * p + v)
def State.setCells (s : State) (p v : Nat) (c : Cells) : State :=
  { s with cells := tabSet (fun _ => cellsReset) s.cells (8 * p + v) c }

/-- A port's guaranteed minima in effect (R373). -/
def State.gminWord (s : State) (p : Nat) : Word := tabGet (fun k => regReset (Reg.swcPortGmin k)) s.gminEff p

/-- A minimum of 1 to 16 is read as 17. -/
def gminOf (w : Word) (v : Nat) : Nat := let n := fld w (10 * v + 9) (10 * v); if n = 0 then 0 else max n 17

def gminSum (w : Word) : Nat := ((upFrom 0 6).map (gminOf w)).sum

/-- The ports of R341. -/
def allPorts : List Nat := upFrom 0 123 ++ upFrom 128 80

/-- Cells of the shared pool (R373). -/
def State.sharedSize (s : State) : Nat := 262144 - (allPorts.map fun p => gminSum (s.gminWord p)).sum

def State.sharedFree (s : State) : Nat := s.sharedSize - s.sharedUsed

/-- Image of SWC_BUF_STAT but for GMIN_REFUSED, and of SWC_PORT_OCC. -/
def State.bufImage (s : State) : Word := BitVec.ofNat 64 (s.sharedSize + s.sharedFree <<< 19)

def State.occImage (s : State) (p : Nat) : Word :=
  let c := (upFrom 0 6).map fun v => s.cellsOf p v
  BitVec.ofNat 64 ((c.map (·.o)).sum + (c.map (·.osh)).sum <<< 19)

def State.heldCells (s : State) (p : Nat) : Nat := ((upFrom 0 6).map fun v => (s.cellsOf p v).o).sum

/-- The throttle holds of R417 after a change of HELD. -/
def State.throttle (s : State) (p : Nat) : State :=
  if p = 121 ∨ (128 ≤ p ∧ p ≤ 143) then
    let h := s.heldCells p
    let hyst := 16 * s.rfld Reg.swcInjCtrl 39 32
    let next (k top : Nat) (s : State) : State :=
      let was := tabGet (fun _ => false) s.injHold k
      { s with injHold := tabSet (fun _ => false) s.injHold k (if was then decide (top - hyst ≤ h) else decide (top ≤ h)) }
    (next (2 * p + 1) (16 * s.rfld Reg.swcInjCtrl 27 16) (next (2 * p) (16 * s.rfld Reg.swcInjCtrl 11 0) s)).pump
  else s

/-- A frame of n cells takes granted cells of its port and VC, guaranteed ones first (log 23): its shared cells and the
state. -/
def State.takeCells (s : State) (p v n : Nat) : Nat × State :=
  let c := s.cellsOf p v
  let sh := min c.gsh (n - (c.g - c.gsh))
  (sh, (s.setCells p v { c with g := c.g - n, gsh := c.gsh - sh, o := c.o + n, osh := c.osh + sh }).throttle p)

/-- A frame's cells are free again; a freed shared cell goes back to the pool. A change of an internal port's minima
takes effect once it holds no cells (R373). -/
def State.freeCells (s : State) (p v n sh : Nat) : State :=
  let c := s.cellsOf p v
  let s := (s.setCells p v { c with o := c.o - n, osh := c.osh - sh })
  let s := { s with sharedUsed := s.sharedUsed - sh }
  let s := if !isLinkPort p && s.heldCells p == 0 then
      { s with gminEff := tabSet (fun k => regReset (Reg.swcPortGmin k)) s.gminEff p (s.rget (Reg.swcPortGmin p)) }
    else s
  s.throttle p

/-! Sinking (R370, R371). -/

/-- The causes of R370, in the order of its table. -/
inductive Cause
  | hcrc | pcrc | stomped | malformed | noId | noRoute | fencedDst | hopLimit | mcNolink | deliverDrop | guarAge | age | sinkIn
  | sinkOut
  deriving DecidableEq, Repr

def causeCode : Cause → Nat
  | .hcrc => 0 | .pcrc => 1 | .stomped => 2 | .malformed => 3 | .noId => 4 | .noRoute => 5 | .fencedDst => 6 | .hopLimit => 7
  | .mcNolink => 8 | .deliverDrop => 9 | .guarAge => 10 | .age => 11 | .sinkIn => 12 | .sinkOut => 13

/-- The counter of a cause, as (register, high bit, low bit); p is the port the table names. -/
def causeReg (c : Cause) (p : Nat) : Nat × Nat × Nat :=
  match c with
  | .hcrc => (Reg.swcPortStat1 p, 15, 0)
  | .pcrc => (Reg.swcPortStat1 p, 31, 16)
  | .stomped => (Reg.swcPortStat1 p, 47, 32)
  | .malformed => (Reg.swcPortStat1 p, 63, 48)
  | .noId => (Reg.swcDropStat1, 31, 16)
  | .noRoute => (Reg.swcDropStat0, 15, 0)
  | .fencedDst => (Reg.swcDropStat0, 31, 16)
  | .hopLimit => (Reg.swcDropStat0, 47, 32)
  | .mcNolink => (Reg.swcDropStat0, 63, 48)
  | .deliverDrop => (Reg.swcDropStat1, 15, 0)
  | .guarAge => (Reg.swcPortStat0 p, 63, 48)
  | .age => (Reg.swcPortStat0 p, 47, 32)
  | .sinkIn => (Reg.swcPortStat0 p, 15, 0)
  | .sinkOut => (Reg.swcPortStat0 p, 31, 16)

/-- Whether this occurrence of a cause is the 1st, 1,025th and so on, counted per port where the table says so. -/
def State.nthCause (s : State) (c : Cause) (p : Nat) : Bool × State :=
  let k := 256 * causeCode c + p
  let n := tabGet (fun _ => 0) s.causes k
  (n % 1024 == 0, { s with causes := tabSet (fun _ => 0) s.causes k (n + 1) })

/-- Counts a frame that is sunk, or found bad, for a cause and raises its event. inp and outp are its ports, res its
residence with that at this module. -/
def State.countCause (s : State) (c : Cause) (inp outp : Nat) (f : Frame) (res : Nat) : State :=
  let p := if c = .sinkOut then outp else inp
  let (r, hi, lo) := causeReg c p
  let s := s.rcount r hi lo 1
  match c with
  | .hcrc => s.raise evFRAME_ERROR sevINFO [(8, inp), (8, causeCode c), (16, 0), (16, 0)]
  | .pcrc | .malformed =>
    let (b, s) := s.nthCause c inp
    if b then s.raise evFRAME_ERROR sevINFO [(8, inp), (8, causeCode c), (16, fSrc f), (16, fDst f)] else s
  | .noId | .noRoute | .fencedDst | .hopLimit | .mcNolink =>
    let (b, s) := s.nthCause c 0
    if b then s.raise evROUTE_DROP sevINFO [(8, causeCode c), (16, fDst f)] else s
  | .deliverDrop => s.raise evDELIVERY_DROP sevCONTAINED [(16, fSrc f), (64, (fAddr f).toNat), (16, fFlow f)]
  | .guarAge =>
    s.raise evGUAR_VIOLATION sevCONTAINED
      [(8, inp), (8, outp), (16, fSrc f), (16, fDst f), (16, fFlow f), (8, fType f), (16, res)]
  | .age =>
    let (b, s) := s.nthCause c inp
    if b then s.raise evAGE_DISCARD sevINFO [(8, inp), (8, fTc f), (16, res)] else s
  | _ => s

/-! Frames in the buffer. -/

def State.held1 (s : State) (id : Nat) : Option Held := s.buf.find? (fun h => h.id == id)

def State.setHeld (s : State) (h : Held) : State :=
  { s with buf := s.buf.map fun x => if x.id = h.id then h else x }

/-- A frame leaves the buffer once its tail has passed and no copy of it waits or is being sent (R372, R380). -/
def State.settle (s : State) (id : Nat) : State :=
  match s.held1 id with
  | some h =>
    if h.whole && h.copies.isEmpty && h.sending == 0 then
      { s with buf := s.buf.filter (fun x => x.id != id) }.freeCells h.inPort h.inVc h.cells h.shared
    else s
  | none => s

def heldFrame (h : Held) : Frame := slotsFrame h.slots

/-- RES as it would be written now (R384). -/
def resNow (s : State) (h : Held) : Nat :=
  min 0xFFFF (fRes (heldFrame h) + ceilDiv ((s.clock - h.at_) * 5) 64)

/-- A class's age limit (R387). -/
def State.ageLimit (s : State) (tc : Nat) : Nat :=
  if tc < 4 then s.rfld Reg.swcAgeLimit0 (16 * tc + 15) (16 * tc) else s.rfld Reg.swcAgeLimit1 (16 * (tc - 4) + 15) (16 * (tc - 4))

/-- Whether a frame is past its age (R385). -/
def State.aged (s : State) (h : Held) : Bool :=
  let f := heldFrame h
  let lim := s.ageLimit (fTc f)
  lim != 0 && decide (fRes f + ceilDiv ((s.clock - h.at_) * 5) 64 > lim)

/-- One copy of a frame is sunk for a cause, outp being its port. -/
def State.dropCopy (s : State) (h : Held) (c : Copy) (cause : Cause) (outp : Nat) : State :=
  let s := s.countCause cause h.inPort outp (heldFrame h) (resNow s h)
  match s.held1 h.id with
  | some h' => (s.setHeld { h' with copies := h'.copies.filter (fun x => x != c) }).settle h.id
  | none => s

/-- A delivered frame has been acted on: its cells are free, or its copy is done (R372). -/
def State.actedOn (s : State) (d : Delivered) : State :=
  match d.of_ with
  | none => s.freeCells d.inPort d.inVc d.cells d.shared
  | some id => match s.held1 id with
    | some h => (s.setHeld { h with sending := h.sending - 1 }).settle id
    | none => s

/-- A copy of a frame found bad once its tail was in is sunk; the frame has been counted (R369, R370). -/
def State.sinkBad (s : State) (h : Held) (c : Copy) : State :=
  (s.setHeld { h with copies := h.copies.filter (fun x => x != c) }).settle h.id

/-- Every copy that waits for port p is sunk and counted there (R382, R388, R389). -/
def State.flushPort (s : State) (p : Nat) : State :=
  s.buf.foldl (fun s h => h.copies.foldl (fun s c => if c.dest = .port p then s.dropCopy h c .sinkOut p else s) s) s

/-! Class 0 injection (R409 to R413). -/

def State.rsv1 (s : State) (r : Nat) : Rsv := tabGet (fun _ => rsvReset) s.rsv r
def State.setRsv (s : State) (r : Nat) (v : Rsv) : State := { s with rsv := tabSet (fun _ => rsvReset) s.rsv r v }

/-- Asks that a class 0 frame be injected at a port under a reservation: whether it waits for its policer, or is refused
(R412). who: the FLOWSEND that asks. -/
def State.askClass0 (s : State) (r p : Nat) (f : Frame) (who : Option Nat := none) : Bool × State :=
  let v := s.rsv1 r
  let len := frameLen f.payload.length
  if bit v.reg 0 && decide (len ≤ fld v.reg 52 40) then
    (true, s.setRsv r { v with queue := v.queue ++ [(p, f, who)] })
  else
    let s := (s.rcount Reg.swcRsvStat 15 0 1).rsetFld Reg.swcRsvStat 21 16 r
    (false, s.raise evGUAR_REFUSED sevCONTAINED [(8, r), (16, len)])

end Sys2Proof.Machine
end

