-- ==== Sys2Proof/Machine/WorkOps.lean ====
section
/-! DEFINITION. Work descriptors in progress (R537 to R548): their operations and fields, and their failure. -/

namespace Sys2Proof.Machine

def opNOP : Nat := 0x00
def opLAUNCH : Nat := 0x01
def opPLOAD : Nat := 0x02
def opCOPY : Nat := 0x03
def opCOLL : Nat := 0x04
def opFLOWSEND : Nat := 0x05
def opCREATE_SQ : Nat := 0x10
def opCREATE_CQ : Nat := 0x11
def opDELETE_SQ : Nat := 0x12
def opDELETE_CQ : Nat := 0x13
def opOPEN_FLOW : Nat := 0x14
def opCLOSE_FLOW : Nat := 0x15
def opRESET_FLOW : Nat := 0x16

def wd (d : List Word) (i : Nat) : Word := d.getD i 0
def wkCore (d : List Word) : Nat := fld (wd d 0) 18 11
def wkSrcHost (d : List Word) : Bool := bit (wd d 0) (if wkOp d = opPLOAD then 19 else 11)
def wkDstHost (d : List Word) : Bool := wkOp d == opCOPY && bit (wd d 0) 12
def wkSource (d : List Word) : Nat := (wd d 1).toNat
def wkDest (d : List Word) : Nat := (wd d 2).toNat

/-- Bytes that a PLOAD, COPY or FLOWSEND reads. -/
def wkLen (d : List Word) : Nat :=
  if wkOp d = opPLOAD then 32 * fld (wd d 2) 27 16
  else if wkOp d = opCOPY then fld (wd d 3) 39 0
  else if wkOp d = opFLOWSEND then fld (wd d 3) 12 0
  else 0

/-- Work ends in failure: its requests are freed; the bytes of a copy's own or host destination that are known land or
not; the commands of a PLOAD's range are undefined (R544, R545). -/
def State.failWork (s : State) (id status : Nat) (result : Word) (detail : Nat) : State :=
  match s.work id with
  | none => s
  | some w =>
    let mine (r : Req) : Bool := r.who == .work id
    let s := { s with reqs := s.reqs.filter (fun r => !mine r), unsent := s.unsent.filter (fun u => !mine u.req) }.pump
    let d := w.desc
    let s := match w.load with | some l => loadTold s (s.physOf (wkCore d)) l | none => s
    let s :=
      if wkOp d = opCOPY then
        let known : Writes := if w.formed then placeAt 0 w.bytes else w.got
        if wkDstHost d then s
        else match s.localKey (wkDest d) (wkLen d) with
          | some k => if addrId (wkDest d) = s.flatId then abandonWrites s (known.map fun x => (k + x.1, x.2)) else s
          | none => s
      else if wkOp d = opPLOAD then
        let n := s.physOf (wkCore d)
        let first := fld (wd d 2) 10 0
        let count := fld (wd d 2) 27 16
        let bank := fld (wd d 0) 30 30
        if 192 ≤ n then s
        else
          (upFrom first count).foldl (fun s i =>
            let c := s.core n
            if (c.mode = .running ∨ c.mode = .draining) ∧ c.active.toNat = bank then s
            else { s.setCore n (cSetCmd c (bank == 1) i (Config.freeCmd s.freeCtr)) with freeCtr := s.freeCtr + 1 }) s
      else s
    s.finishWork id status result detail

/-- BOUNDS: DETAIL 1 outside bounds, 2 retired, 3 host access, 4 target part lost. -/
def State.boundsWork (s : State) (id a detail : Nat) : State := s.failWork id stBOUNDS (BitVec.ofNat 64 a) detail

/-- The frames that a FLOWSEND has waiting for its policer are withdrawn. -/
def State.withdraw (s : State) (id : Nat) : State :=
  s.rsv.foldl (fun s x => s.setRsv x.1 { x.2 with queue := x.2.queue.filter fun y => y.2.2 != some id }) s

/-- What leaving READY does to host work that would still inject a request (R592, R548); unsent: the work whose requests have
not all gone out. -/
def State.stopWorks (s : State) (unsent : List Nat) : State :=
  s.works.foldl (fun s w =>
    let op := wkOp w.desc
    let sends := unsent.contains w.id || (op == opFLOWSEND)
    if (op = opPLOAD ∨ op = opCOPY ∨ op = opFLOWSEND) ∧ sends = true then
      (s.withdraw w.id).failWork w.id stNOT_READY (BitVec.ofNat 64 s.modState) 0
    else s) s

end Sys2Proof.Machine
end

