-- ==== Sys2Proof/Machine/Load.lean ====
section
/-! DEFINITION. Loads of commands in progress (R145 to R148): their sources, and what of them reaches a bank before the
core's active bank or state changes. -/

namespace Sys2Proof.Machine

/-- The source of an IMLOAD: DIM0 commands, one after another. -/
def imloadSource (s : State) (c : Core) (n : Nat) (w : Cmd) (offs : List Int) : Got :=
  let f := opdField (cOpd w 2)
  let base := (cS c f.ebase).toNat
  let off := offs.getD 1 0
  let len := 32 * cDim0 w
  let key := planeKey s n f.fabric base off len
  { faults := if key.isNone then [(0x05, 0x02)] else []
    opd := { fmt := .raw, trans := false, eKey := key.getD 0, sKey := 0, pitch := 0, chunkE := 0 }
    planes := match key with | some k => [⟨false, k, 1, len, 0⟩] | none => []
    fabric := f.fabric }

/-- The commands of an IMLOAD in flight. -/
def imloadCommands (s : State) (n : Nat) (f : Flight) (l : Load) : List Cmd :=
  commandsAt (viewWith s f.got) (imloadSource s (coreAtIssue (s.core n) f) n f.cmd f.offs).opd.eKey l.count

/-- The commands of a PLOAD. -/
def ploadCommands (w : Work) (l : Load) : List Cmd := commandsAt (fun i => w.bytes.getD i 0) 0 l.count

/-- The rest of an IMLOAD's load reaches its bank when it completes. -/
def imloadLand (s : State) (n : Nat) (f : Flight) : State :=
  match f.load with
  | none => s
  | some l =>
    let (l, s) := landLoad s n l.count l (imloadCommands s n f l)
    loadTold s n l

/-- How much of a load has reached its bank by now, at least: a free value (log 93). -/
def State.someOf (s : State) (l : Load) : Nat × State :=
  let (w, s) := s.draw
  (w.toNat % (l.count - l.done + 1), s)

/-- Before the active bank or the state of core n changes, a part of each load into its banks lands under what has held
so far (R147). -/
def loadsPass (s : State) (n : Nat) : State :=
  let s := (s.core n).flights.foldl (fun s f =>
    match f.load with
    | none => s
    | some l =>
      if !f.formed then s
      else
        let (m, s) := s.someOf l
        let (l, s) := landLoad s n m l (imloadCommands s n f l)
        s.setFlight n { f with load := some l }) s
  s.works.foldl (fun s w =>
    match w.load with
    | none => s
    | some l =>
      if !w.formed || s.physOf (wkCore w.desc) != n then s
      else
        let (m, s) := s.someOf l
        let (l, s) := landLoad s n m l (ploadCommands w l)
        s.setWork { w with load := some l }) s

/-- The loads of a core's commands that are abandoned tell what they had dropped. -/
def loadsCut (s : State) (n : Nat) : State :=
  (s.core n).flights.foldl (fun s f => match f.load with | some l => loadTold s n l | none => s) s

end Sys2Proof.Machine
end

