-- ==== Sys2Proof/Machine/Pools.lean ====
section
/-! DEFINITION. Buffer pools (R259 to R276): building them, serving requests, and freeing. Sets 0 to 191 are the Pewter
sets of logical cores, set 256 + g is the near set of stack group g; pool k of set n has number 8 n + k. -/

namespace Sys2Proof.Machine

/-- Buffer size and base alignment of a size code (R259). -/
def bufSize (k : Nat) : Nat := 256 * 4 ^ k
def bufAlign (k : Nat) : Nat := min 4096 (bufSize k)

def State.pool (s : State) (i : Nat) : Pool := tabGet (fun _ => poolReset) s.pools i

def State.setPool (s : State) (i : Nat) (p : Pool) : State := { s with pools := tabSet (fun _ => poolReset) s.pools i p }

/-- BASE and COUNT of a pool's register (R261). -/
def poolCfg (s : State) (set k : Nat) : Nat × Nat :=
  let w := s.rget (if set < 256 then Reg.memPpoolCfg set k else Reg.memNpoolCfg (set - 256) k)
  (fld w 35 0, fld w 63 36)

/-- Bytes of a pool's region: buffers, then count words padded to 64 B (R262). -/
def regionLen (k count : Nat) : Nat := count * bufSize k + ceilDiv (8 * count) 64 * 64

/-- Address in the set's space of byte b: a fabric address of this module. -/
def setAddr (s : State) (set b : Nat) : Nat :=
  s.flatId <<< 48 + (if set < 256 then set <<< 23 + b else 1 <<< 46 + (set - 256) <<< 34 + b)

/-- Memory key of byte b of a set's space: the logical core's Pewter or the stack group's near memory. -/
def setKey (s : State) (set b : Nat) : Nat :=
  if set < 256 then pewKey (s.physOf set) b else 2 ^ 46 + (set - 256) <<< 34 + b

/-- Key of the count word of buffer i (R262). -/
def countKey (s : State) (set k : Nat) (p : Pool) (i : Nat) : Nat := setKey s set (p.base + p.count * bufSize k + 8 * i)

/-- The pools of a set that pass the check of R265, in ascending size code, as (size code, BASE, COUNT), and the first
that fails. -/
def checkSet (s : State) (set : Nat) : List (Nat × Nat × Nat) × Option Nat :=
  (upFrom 0 5).foldl (fun (acc : List (Nat × Nat × Nat) × Option Nat) k =>
    let (base, count) := poolCfg s set k
    if count = 0 then acc
    else
      let len := regionLen k count
      let top := if set < 256 then pewterBytes else 2 ^ 34
      let bad := decide (base % bufAlign k ≠ 0) || decide (base + len > top) ||
        acc.1.any fun x => decide (base < x.2.1 + regionLen x.1 x.2.2) && decide (x.2.1 < base + len)
      if bad then (acc.1, acc.2.orElse fun _ => some k) else (acc.1 ++ [(k, base, count)], acc.2)) ([], none)

/-- Links the buffers of a pool that passed and zeroes its count words (R264); buffer i links to i + 1. -/
def buildPool (s : State) (set k base count : Nat) : State :=
  let p : Pool := { base := base, count := count, head := setAddr s set base, free := count, broken := false, fails := 0 }
  let s := (upFrom 0 count).foldl (fun s i =>
    let next := if i + 1 < count then setAddr s set (base + (i + 1) * bufSize k) else 0
    (s.mputWord (setKey s set (base + i * bufSize k)) (BitVec.ofNat 64 next)).mputWord (countKey s set k p i) 0) s
  s.setPool (8 * set + k) p

/-- Builds every pool of one set; a failing pool has COUNT taken as 0 (R265). A Pewter set whose logical core is not
enabled has no Pewter, and its pools are counted without buffers in memory (R260). -/
def buildSet (s : State) (set : Nat) : State × Option Nat :=
  let (ok, bad) := checkSet s set
  let s := (upFrom 0 5).foldl (fun s k => s.setPool (8 * set + k) poolReset) s
  let live := decide (256 ≤ set) || (decide (set < s.coresEnabled) && decide (s.physOf set < 192))
  (ok.foldl (fun s x =>
    if live then buildPool s set x.1 x.2.1 x.2.2
    else s.setPool (8 * set + x.1)
      { base := x.2.1, count := x.2.2, head := setAddr s set x.2.1, free := x.2.2, broken := false, fails := 0 }) s, bad)

/-- Every set in the order of R265. -/
def poolSets : List Nat := upFrom 0 192 ++ upFrom 256 16

/-- Every enabled core is IDLE or HALTED (R264). -/
def coresQuiet (s : State) : Bool :=
  (upFrom 0 192).all fun n => (s.core n).mode == .idle || (s.core n).mode == .halted

/-- The smallest buffer size not below a request (R268). -/
def sizeCode (bytes : Nat) : Option Nat := (upFrom 0 5).find? (fun k => decide (bytes ≤ bufSize k))

/-- A failed request: FAILS rises once the pools have been built (R266, R268). -/
def poolFail (s : State) (i : Nat) : State :=
  if s.rbit Reg.memPoolCtrl 1 then
    let p := s.pool i
    s.setPool i { p with fails := satAdd 0xFFFFFF p.fails 1 }
  else s

/-- Whether a link is the start of a buffer of a pool (R276). -/
def isBuffer (s : State) (set k : Nat) (p : Pool) (a : Nat) : Option Nat :=
  let b0 := setAddr s set p.base
  if b0 ≤ a ∧ (a - b0) % bufSize k = 0 ∧ (a - b0) / bufSize k < p.count then some ((a - b0) / bufSize k) else none

/-- A pool request (R268 to R271, R276): the address of the buffer granted, or none. -/
def poolRequest (s : State) (set bytes : Nat) : Option Nat × State :=
  match sizeCode bytes with
  | none => (none, s)
  | some k =>
    let i := 8 * set + k
    let p := s.pool i
    if !s.rbit Reg.memPoolCtrl 1 || p.broken || p.count == 0 || p.free == 0 || (set < 256 && decide (s.coresEnabled ≤ set))
    then (none, poolFail s i)
    else
      match isBuffer s set k p p.head with
      -- a link of 0 ends the list: no buffer can be reached, and the pool is not BROKEN for it (R270, R276)
      | none => (none, poolFail s i)
      | some j =>
        let key := setKey s set (p.base + j * bufSize k)
        let link := s.mnat key 8
        let badLink := !(s.badIn key 8).isEmpty || !(link == 0 || (isBuffer s set k p link).isSome)
        if badLink then
          let s := (s.meet (s.badIn key 8)).setPool i { p with broken := true }
          let s := s.raise evPOOL_BROKEN sevCONTAINED [(16, set), (8, k), (64, link)]
          (none, poolFail s i)
        else
          let s := s.setPool i { p with head := link, free := p.free - 1 }
          (some p.head, s.mputWord (countKey s set k p j) 1)

/-- The words that serving a request reads and writes, as (key, bytes): the link of the head buffer and its count word. -/
def poolWords (s : State) (set bytes : Nat) : List (Nat × Nat) :=
  match sizeCode bytes with
  | none => []
  | some k =>
    let p := s.pool (8 * set + k)
    match isBuffer s set k p p.head with
    | some j => [(setKey s set (p.base + j * bufSize k), 8), (countKey s set k p j, 8)]
    | none => []

/-- The pool and buffer that an address starts, among the built pools (R274). -/
def bufferOf (s : State) (a : Nat) : Option (Nat × Nat × Nat) :=
  let set := if addrTier a = 0 then bitsN a 30 23 else 256 + bitsN a 37 34
  if addrId a ≠ s.flatId ∨ addrTier a ≥ 2 then none
  else (upFrom 0 5).findSome? fun k =>
    match isBuffer s set k (s.pool (8 * set + k)) a with
    | some j => some (set, k, j)
    | none => none

/-- Frees buffer j of a pool: it becomes the head of the free list (R270). -/
def freeBuffer (s : State) (set k j : Nat) : State :=
  let i := 8 * set + k
  let p := s.pool i
  let b := p.base + j * bufSize k
  (s.mputWord (setKey s set b) (BitVec.ofNat 64 p.head)).setPool i { p with head := setAddr s set b, free := p.free + 1 }

/-- A release (R273, R274): the count falls, and at 0 the buffer is freed; none when the address names no buffer. -/
def poolRelease (s : State) (a phys : Nat) : Option State :=
  match bufferOf s a with
  | none => none
  | some (set, k, j) =>
    let ck := countKey s set k (s.pool (8 * set + k)) j
    let c := s.mnat ck 8
    let s := s.meet (s.badIn ck 8)
    if c = 0 then some (s.raise evPOOL_DOUBLE_FREE sevCONTAINED [(64, a), (8, phys)])
    else
      let s := s.mputWord ck (BitVec.ofNat 64 (c - 1))
      some (if c = 1 then freeBuffer s set k j else s)

/-- The words that a release reads and writes: the buffer's count word and its link. -/
def releaseWords (s : State) (a : Nat) : List (Nat × Nat) :=
  match bufferOf s a with
  | none => []
  | some (set, k, j) =>
    let p := s.pool (8 * set + k)
    [(setKey s set (p.base + j * bufSize k), 8), (countKey s set k p j, 8)]

/-- Image of a pool status register (R263). -/
def poolImage (p : Pool) : Word := BitVec.ofNat 64 (p.free + p.broken.toNat <<< 32 + p.fails <<< 40)

/-- POOL_INIT: accepted while every enabled core is IDLE or HALTED and BUSY is 0 (R264). -/
def execPoolInit (s : State) : Host.Outcome State Fault Refusal :=
  if coresQuiet s && !s.rbit Reg.memPoolCtrl 3 then
    .next (s.rput Reg.memPoolCtrl (setFld (setFld (s.rget Reg.memPoolCtrl) 3 1 0) 3 3 1))
  else .next s

/-- POOL_INIT_DONE: every pool is checked and built, and the first failing one reported (R264, R265). -/
def execPoolInitDone (s : State) : Host.Outcome State Fault Refusal :=
  if !s.rbit Reg.memPoolCtrl 3 then .next s
  else
    let (s, bad) := poolSets.foldl (fun (acc : State × Option (Nat × Nat)) set =>
      let (s, b) := buildSet acc.1 set
      (s, acc.2.orElse fun _ => b.map fun k => (set, k))) (s, none)
    let w := setFld (setFld (s.rget Reg.memPoolCtrl) 3 3 0) 1 1 1
    .next (s.rput Reg.memPoolCtrl (match bad with
      | some (set, k) => setFld (setFld (setFld w 2 2 1) 24 16 set) 27 25 k
      | none => w))

end Sys2Proof.Machine
end

