-- ==== Sys2Proof/Machine/Mov.lean ====
section
/-! DEFINITION. The MOV commands and MAT.PADD (R118 to R131, R181, R251 to R256, R268 to R275). -/

namespace Sys2Proof.Machine

/-- Latencies O, WS, WV of a fixed MOV command (R128). -/
def movTimes (w : Cmd) (gA : Got) : Nat × Nat × Nat :=
  if cOpcode w = 0x80 then
    let o := 4 + ceilDiv (gA.planes.map fun p => p.rows * p.len).sum 256
    (o, 8, o + 8)
  else
    let o := 4 + ceilDiv (cDim0 w * cDim1 w) 128
    (o, 10, o + 12)

/-- Whether a copying command is of fixed latency: every operand lies in own Pewter (R118). -/
def movFixed (op : Nat) (g : MovOpds) : Bool := !g.d.fabric && !g.a.fabric && op != 0x04

/-- What it forms at its issue, when its source is there. -/
def movNow (s : State) (w : Cmd) (g : MovOpds) : Effect :=
  if g.word ++ g.d.faults ++ g.a.faults ≠ [] ∨ g.a.remote = true then {} else movEffect w s.view g.d g.a

/-- The halt conditions that it meets at its issue. -/
def movFaults (s : State) (w : Cmd) (g : MovOpds) : List (Nat × Nat) :=
  g.word ++ g.d.faults ++ g.a.faults ++ (movNow s w g).faults

/-- The plan of a copying command; occ is the occupancy of one of variable latency (R129). -/
def movPlan (s : State) (n op occ : Nat) (w : Cmd) (g : MovOpds) : Plan :=
  let accs := opdScalars w 1 ++ opdScalars w 2 ++ planeAccs n g.a false ++
    (if op = 0x04 then planeAccs n g.d false else []) ++ planeAccs n g.d true ++ sideAccs w
  let e := movNow s w g
  let t := movTimes w g.a
  let k := cAmaxS w
  if movFixed op g then
    { faults := movFaults s w g, accs := accs, occ := t.1, rd := t.1, ws := t.2.1, wv := t.2.2, vlat := false
      writes := e.writes, flags := e.flags
      amax := match e.amax with | some v => if k = 0 then none else some (k, amaxImage v) | none => none }
  else
    { faults := movFaults s w g, accs := accs, occ := occ, rd := 0, ws := 0, wv := 0, vlat := true, formed := false }

/-- Issues a copying command; errs are the corrected errors that its reads meet (R278). -/
def movIssue (s : State) (n op occ : Nat) (errs : List (Nat × Bool)) : Host.Outcome State Fault Refusal :=
  match issueCmd s n (· == op) with
  | .nothing => .next s
  | .ended s => .next s
  | .go s t w offs =>
    let c := s.core n
    let g := movOperands s c n w offs
    gated s (gotRuns g.a ++ (if op = 0x04 then gotRuns g.d else [])) [] <|
    let (ok, s') := issuePlan s n t w offs (movPlan s n op occ w g)
    if !ok then .next s'
    else
      let s' := s'.meet (errs ++ meetGot s (g.a :: (if op = 0x04 then [g.d] else [])))
      if movFixed op g then .next s'
      else
        match findFlight (s'.core n) c.nextFlight with
        | none => .next s'
        | some f =>
          if g.a.remote then
            let us := rdReqs s' n c.nextFlight 0x02 (s.bulk (cDim0 w * cDim1 w)) g.a
            .next (sendAll (s'.setFlight n { f with waiting := us.length }) n c.nextFlight us)
          else .next (formMov s' n f)

/-- MOV.COPY (R251, R48). -/
def execMovCopy (n occ : Nat) (errs : List (Nat × Bool)) (s : State) : Host.Outcome State Fault Refusal :=
  movIssue s n 0x80 occ errs

/-- MOV.CVT, with E24 and E40 (R54, R119, R120). -/
def execMovCvt (n occ : Nat) (s : State) : Host.Outcome State Fault Refusal := movIssue s n 0x81 occ []

/-- MOV.MXIN (R64 to R67). -/
def execMovMxin (n occ : Nat) (s : State) : Host.Outcome State Fault Refusal := movIssue s n 0x82 occ []

/-- MOV.MXOUT (R68). -/
def execMovMxout (n occ : Nat) (s : State) : Host.Outcome State Fault Refusal := movIssue s n 0x83 occ []

/-- MAT.PADD, FREE-only (R181). -/
def execMatPadd (n occ : Nat) (s : State) : Host.Outcome State Fault Refusal := movIssue s n 0x04 occ []

/-! MOV.ATOM (R252, R253). -/

/-- The new value of an atomic (R126). -/
def atomNew (sub : Nat) (old value cmp : Word) : Word :=
  match sub with
  | 0 => old + value
  | 1 => value
  | 2 => if old = cmp then value else old
  | 3 => if old.toNat < value.toNat then value else old
  | _ => old ||| value

/-- MOV.ATOM: a target of this module is acted on when the command completes, as one step; one of another module by
an ATOM request (R253). -/
def execMovAtom (n occ : Nat) (s : State) : Host.Outcome State Fault Refusal :=
  match issueCmd s n (· == 0x84) with
  | .nothing => .next s
  | .ended s => .next s
  | .go s t w offs =>
    let c := s.core n
    let f := opdField (cOpd w 1)
    let base := (cS c f.ebase).toNat
    let off := offs.getD 0 0
    let a := (((base : Int) + off) % (2 : Int) ^ 64).toNat
    let key := planeKey s n f.fabric base off 8
    let faults := fmtBad isCopyFmt w 1 ++ (if a % 8 ≠ 0 then [(0x02, 0x01)] else []) ++ (if key.isNone then [(0x05, 0x01)] else [])
    let k := key.getD 0
    let sA := bitsN (cOpd w 2) 4 0
    let sB := bitsN (cOpd w 3) 4 0
    let remote := decide (2 ^ 64 ≤ k)
    let own : List Acc := if key.isSome ∧ k / 2 ^ 23 = n ∧ k < 2 ^ 46 then
        [⟨.plane false k 1 8 8, false, false⟩, ⟨.plane false k 1 8 8, true, false⟩] else []
    let p : Plan :=
      { faults := faults
        accs := [⟨.scalar f.ebase, false, false⟩, ⟨.scalar sA, false, false⟩, ⟨.scalar sB, false, false⟩,
                 ⟨.scalar f.sbase, true, false⟩, ⟨.flags, true, false⟩] ++ own
        occ := occ, rd := 0, ws := 0, wv := 0, vlat := true, formed := !remote }
    let (ok, s') := issuePlan s n t w offs p
    if !ok then .next s'
    else if remote then
      let fid := c.nextFlight
      match findFlight (s'.core n) fid with
      | none => .next s'
      | some fl =>
        let u := coreReq s' n fid 0x01 .atom tyATOM 2 a 8 0 [] (cSubop w) (cS c sA) (cS c sB)
        .next (sendAll (s'.setFlight n { fl with waiting := 1 }) n fid [u])
    else .next s'

/-- The atomic of a command in flight on its own module: the old value goes to S[D.SBASE]. -/
def atomHere (s : State) (n : Nat) (f : Flight) : Flight × State :=
  let c := coreAtIssue (s.core n) f
  let d := opdField (cOpd f.cmd 1)
  match planeKey s n d.fabric (cS c d.ebase).toNat (f.offs.getD 0 0) 8 with
  | none => (f, s)
  | some k =>
    let s := s.meet (s.badIn k 8)
    let old := s.mword k
    let new := atomNew (cSubop f.cmd) old (cS c (bitsN (cOpd f.cmd 2) 4 0)) (cS c (bitsN (cOpd f.cmd 3) 4 0))
    ({ f with scalars := [(d.sbase, old)] }, s.mputWord k new)

/-! MOV.STASH (R127, R268, R269). -/

/-- The stash source: DIM0 rows of DIM1 bytes. -/
def stashSource (s : State) (c : Core) (n : Nat) (w : Cmd) (offs : List Int) : Got :=
  resolve s c n w offs 2 (cDim0 w) (cDim1 w)

/-- The plan of MOV.STASH. -/
def stashPlan (s : State) (n : Nat) (w : Cmd) (offs : List Int) : Plan :=
  let g := stashSource s (s.core n) n w offs
  let dS := bitsN (cOpd w 1) 4 0
  { faults := fmtBad (· == .raw) w 2 ++ g.faults ++
      (if cDim0 w = 0 ∨ cDim1 w = 0 then [(0x02, 0x00)] else []) ++
      (if cDim0 w * cDim1 w > 65536 then [(0x02, 0x02)] else [])
    accs := opdScalars w 2 ++ [⟨.scalar dS, true, true⟩, ⟨.pred 15, true, true⟩] ++ planeAccs n g false ++
      [⟨.flags, true, false⟩]
    occ := 1, rd := 0, ws := 0, wv := 0, vlat := true, formed := false }

/-- MOV.STASH: issue blocks until the pool manager answers (R127). -/
def execMovStash (n : Nat) (s : State) : Host.Outcome State Fault Refusal :=
  match issueCmd s n (· == 0x85) with
  | .nothing => .next s
  | .ended s => .next s
  | .go s t w offs =>
    let (ok, s') := issuePlan s n t w offs (stashPlan s n w offs)
    if ok then .next (s'.setCore n { s'.core n with block := .stash (s.core n).nextFlight }) else .next s'

/-- The pool manager's answer for a core: its Pewter set, its group's near set, or one after the other (R269, R275); requests
are served as they come (log 106). -/
def stashRequest (s : State) (n sub bytes : Nat) : Option Nat × State :=
  let pew := s.logicalOf n
  let near := 256 + groupOf n
  match sub with
  | 0 => poolRequest s pew bytes
  | 1 => poolRequest s near bytes
  | _ =>
    match poolRequest s pew bytes with
    | (some a, s) => (some a, s)
    | (none, s) => poolRequest s near bytes

/-- The words of the pools that such a request may touch. -/
def stashWords (s : State) (n sub bytes : Nat) : List (Nat × Nat) :=
  let pew := poolWords s (s.logicalOf n) bytes
  let near := poolWords s (256 + groupOf n) bytes
  match sub with
  | 0 => pew
  | 1 => near
  | _ => pew ++ near

/-- The copy of a stash: its rows, packed one after another in the buffer. -/
def stashWrites (s : State) (rd : View) (c : Core) (n : Nat) (f : Flight) : Writes :=
  let g := stashSource s c n f.cmd f.offs
  let rows := cDim0 f.cmd
  let len := cDim1 f.cmd
  match s.localKey f.buffer.toNat (rows * len) with
  | none => []
  | some key => (rowMajor rows len).map fun x => (key + x.1 * len + x.2, rd (g.opd.eKey + x.1 * g.opd.pitch + x.2))

/-- STASH_POOL_REPLY: on success S[D.EBASE] takes the buffer and P15 is 0, and the copy starts; on failure S[D.EBASE]
is 0, P15 is 1 and SIG_SEM is signalled at once. Both are visible to the next command (R127). The source is read now. -/
def execStashPoolReply (n cyc occ : Nat) (s : State) : Host.Outcome State Fault Refusal :=
  match (s.core n).block with
  | .stash fid =>
    match findFlight (s.core n) fid with
    | none => .next s
    | some f =>
      let bytes := cDim0 f.cmd * cDim1 f.cmd
      let g := stashSource s (coreAtIssue (s.core n) f) n f.cmd f.offs
      gated s (if (stashRequest s n (cSubop f.cmd) bytes).1.isSome then gotRuns g else []) (stashWords s n (cSubop f.cmd) bytes) <|
      let s := landUpTo s n cyc
      let (r, s) := stashRequest s n (cSubop f.cmd) bytes
      let a := r.getD 0
      let c := s.core n
      let c := cSetP (cSetS c (bitsN (cOpd f.cmd 1) 4 0) (BitVec.ofNat 64 a)) 15 r.isNone
      let c := { c with block := .none, tp := max c.tp cyc, movEnd := max c.tp cyc + occ }
      let s := s.setCore n c
      match r with
      | none => .next (completeFlight s n { f with formed := true } cyc)
      | some _ =>
        let f := { f with buffer := BitVec.ofNat 64 a }
        if g.remote then
          let us := rdReqs s n fid 0x02 false g
          .next (sendAll (s.setFlight n { f with waiting := us.length }) n fid us)
        else
          let f := { f with writes := stashWrites s s.view (coreAtIssue c f) n f, formed := true }
          .next ((s.meet (meetGot s [g])).setFlight n f)
  | _ => .next s

/-! MOV.RELEASE (R273, R274). -/

/-- MOV.RELEASE. -/
def execMovRelease (n occ : Nat) (s : State) : Host.Outcome State Fault Refusal :=
  match issueCmd s n (· == 0x86) with
  | .nothing => .next s
  | .ended s => .next s
  | .go s t w offs =>
    let c := s.core n
    let k := bitsN (cOpd w 2) 4 0
    gated s [] (releaseWords s (cS c k).toNat) <|
    let p : Plan :=
      { faults := [], accs := [⟨.scalar k, false, false⟩, ⟨.flags, true, false⟩]
        occ := occ, rd := 0, ws := 0, wv := 0, vlat := true }
    let (ok, s') := issuePlan s n t w offs p
    if !ok then .next s'
    else
      match poolRelease s' (cS c k).toNat n with
      | some s'' => .next s''
      | none => .next (failFlight s' n c.nextFlight 0x02 0x02)

/-! MOV.IMLOAD (R145 to R150). -/

/-- MOV.IMLOAD: loads into the bank that is inactive at its issue (R145, R146). -/
def execMovImload (n occ : Nat) (s : State) : Host.Outcome State Fault Refusal :=
  match issueCmd s n (· == 0x87) with
  | .nothing => .next s
  | .ended s => .next s
  | .go s t w offs =>
    let c := s.core n
    let d0 := cDim0 w
    let d1 := cDim1 w
    let g := imloadSource s c n w offs
    let p : Plan :=
      { faults := (if d0 = 0 ∨ d0 > 2048 ∨ d1 > 2047 ∨ d0 + d1 > 2048 then [(0x02, 0x00)] else g.faults) ++ fmtBad (· == .raw) w 2
        accs := opdScalars w 2 ++ planeAccs n g false ++ [⟨.flags, true, false⟩]
        occ := occ, rd := 0, ws := 0, wv := 0, vlat := true, formed := !g.remote
        load := some { bank := (!c.active).toNat, first := d1, count := d0 } }
    let (ok, s') := issuePlan s n t w offs p
    if !ok then .next s'
    else if g.remote then
      let fid := c.nextFlight
      match findFlight (s'.core n) fid with
      | none => .next s'
      | some f =>
        let us := rdReqs s' n fid 0x02 false g
        .next (sendAll (s'.setFlight n { f with waiting := us.length }) n fid us)
    else .next (s'.meet (meetGot s [g]))

/-- The sources of a command in flight are all in: its engine is free (R129) and its result is formed. -/
def formFlight (s : State) (n : Nat) (f : Flight) : State :=
  let (cyc, s) := s.outsideCycle n
  let s := s.setCore n (engineFree (s.core n) f.op cyc)
  match f.op with
  | 0x85 => s.setFlight n { f with writes := stashWrites s (viewWith s f.got) (coreAtIssue (s.core n) f) n f, formed := true }
  | 0x87 => s.setFlight n { f with formed := true }
  | _ => formMov s n f

end Sys2Proof.Machine
end

