-- ==== Sys2Proof/Machine/Syn.lean ====
section
/-! DEFINITION. The SYN commands other than SYN.COLL (R116, R126, R133 to R151). -/

namespace Sys2Proof.Machine

/-- A fixed SYN command: conditions, accesses, RD, WS and WV (R128), and what it writes. -/
def synPlan (faults : List (Nat × Nat)) (accs : List Acc) (rd ws wv : Nat) : Plan :=
  { faults := faults, accs := accs, occ := 1, rd := rd, ws := ws, wv := wv, vlat := false }

/-- Reads of scalars. -/
def readsS (l : List Nat) : List Acc := (l.filter (· ≠ 0)).map fun k => ⟨.scalar k, false, false⟩

/-- Issues a fixed SYN command. -/
def synIssue (s : State) (n op : Nat) (plan : Core → Cmd → Plan) : Host.Outcome State Fault Refusal :=
  match issueCmd s n (· == op) with
  | .nothing => .next s
  | .ended s => .next s
  | .go s t w offs => .next (issuePlan s n t w offs (plan (s.core n) w)).2

/-- SYN.NOP. -/
def execSynNop (n : Nat) (s : State) : Host.Outcome State Fault Refusal :=
  synIssue s n 0xC0 fun _ _ => synPlan [] [] 0 0 1

/-- SYN.SIGNAL: the increment lands at WV (R118, R132). -/
def execSynSignal (n : Nat) (s : State) : Host.Outcome State Fault Refusal :=
  synIssue s n 0xC2 fun _ w => { synPlan [] [] 0 3 3 with semAdd := [(bitsN (cImm w) 5 0, cCount w)] }

/-- x of SALU and SETP, S[SA], and y, (S[SB] + IMM) mod 2^64 (R126). -/
def synX (c : Core) (w : Cmd) : Word := cS c (cSA w)
def synY (c : Core) (w : Cmd) : Word := cS c (cSB w) + cImmW w

/-- What SETP writes (R126). -/
def setpValue (c : Core) (w : Cmd) : Bool :=
  let x := synX c w
  let y := synY c w
  match cSubop w with
  | 0 => x == y
  | 1 => x != y
  | 2 => x.ult y
  | 3 => y.ule x
  | 4 => x.slt y
  | 5 => y.sle x
  | 6 => cP c (cSA w % 16) && cP c (cSB w % 16)
  | _ => cP c (cSA w % 16) || cP c (cSB w % 16)

/-- SYN.SETP; P0 and P15 are no destination (R155). -/
def execSynSetp (n : Nat) (s : State) : Host.Outcome State Fault Refusal :=
  synIssue s n 0xC4 fun c w =>
    let d := cSD w % 16
    let reads := if cSubop w ≥ 6 then
        ([cSA w % 16, cSB w % 16].filter (· ≠ 0)).map fun k => (⟨.pred k, false, false⟩ : Acc)
      else readsS [cSA w, cSB w]
    { synPlan (if d = 0 ∨ d = 15 then [(0x07, d)] else []) (reads ++ [⟨.pred d, true, false⟩]) 0 2 2 with
      preds := [(d, setpValue c w)] }

/-- What SALU writes (R126). -/
def saluValue (c : Core) (w : Cmd) : Word :=
  let x := synX c w
  let y := synY c w
  match cSubop w with
  | 0 => x + y
  | 1 => x - y
  | 2 => x &&& y
  | 3 => x ||| y
  | 4 => x ^^^ y
  | 5 => x <<< (y.toNat % 64)
  | 6 => x >>> (y.toNat % 64)
  | _ => x.sshiftRight (y.toNat % 64)

/-- SYN.SALU. -/
def execSynSalu (n : Nat) (s : State) : Host.Outcome State Fault Refusal :=
  synIssue s n 0xC9 fun c w =>
    { synPlan [] (readsS [cSA w, cSB w] ++ [⟨.scalar (cSD w), true, false⟩]) 0 2 2 with scalars := [(cSD w, saluValue c w)] }

/-- The own-Pewter offset of SLD and SST, S[SA] + IMM, and its conditions (R155). -/
def synAddr (c : Core) (w : Cmd) : Nat := (cS c (cSA w) + cImmW w).toNat

def synAddrBad (a : Nat) : List (Nat × Nat) :=
  (if a % 8 ≠ 0 then [(0x02, 0x00)] else []) ++ (if a + 8 ≤ pewterBytes then [] else [(0x05, 0x00)])

/-- The 8 B of own Pewter that SLD reads or SST writes, where they lie in its bounds. -/
def synPlane (n a : Nat) (wr : Bool) : List Acc :=
  if a + 8 ≤ pewterBytes then [⟨.plane false (pewKey n a) 1 8 0, wr, false⟩] else []

/-- SYN.SLD: its 8 B are read on its issue cycle (DESIGN CHOICE, log 89). -/
def execSynSld (n : Nat) (s : State) : Host.Outcome State Fault Refusal :=
  match issueCmd s n (· == 0xCA) with
  | .nothing => .next s
  | .ended s => .next s
  | .go s t w offs =>
    let c := s.core n
    let a := synAddr c w
    let k := pewKey n a
    let p := synPlan (synAddrBad a)
      (readsS [cSA w] ++ synPlane n a false ++ [⟨.scalar (cSD w), true, false⟩]) 12 14 14
    let (ok, s') := issuePlan s n t w offs { p with scalars := [(cSD w, s.mword k)] }
    .next (if ok then s'.meet (s.badIn k 8) else s')

/-- SYN.SST. -/
def execSynSst (n : Nat) (s : State) : Host.Outcome State Fault Refusal :=
  synIssue s n 0xCB fun c w =>
    let a := synAddr c w
    let k := pewKey n a
    { synPlan (synAddrBad a) (readsS [cSA w, cSB w] ++ synPlane n a true) 0 12 14 with
      writes := placeAt k (leBytes 8 (cS c (cSB w)).toNat) }

/-- SYN.FLAGS: the image is that of the issue cycle, on which IMM[0] = 1 also clears the flags (R705). -/
def execSynFlags (n : Nat) (s : State) : Host.Outcome State Fault Refusal :=
  match issueCmd s n (· == 0xCC) with
  | .nothing => .next s
  | .ended s => .next s
  | .go s t w offs =>
    let c := s.core n
    let clear := (cImm w).testBit 0
    let p := synPlan [] ([⟨.flags, false, true⟩, ⟨.scalar (cSD w), true, false⟩] ++ (if clear then [⟨.flags, true, true⟩] else [])) 0 4 4
    let (ok, s') := issuePlan s n t w offs { p with scalars := [(cSD w, numImage c.num)] }
    .next (if ok && clear then s'.setCore n { s'.core n with num := numFlagsReset } else s')

/-! Control commands: they leave nothing in flight, and their SIG_SEM is ignored (R132). -/

/-- Issues a control command with the halt conditions given, then applies its effect to the core; before: what has to
have happened by its issue. -/
def controlIssue (s : State) (n op : Nat) (faults : Core → Cmd → List (Nat × Nat)) (effect : Core → Nat → Cmd → Core → Core)
    (before : State → State := id) : Host.Outcome State Fault Refusal :=
  match issueCmd s n (· == op) with
  | .nothing => .next s
  | .ended s => .next s
  | .go s t w offs =>
    let s := before s
    let c := s.core n
    let (ok, s') := issuePlan s n t w offs (synPlan (faults c w) [] 0 0 0)
    if ok then
      let c' := s'.core n
      .next (s'.setCore n (effect c t w { c' with flights := c'.flights.filter (fun f => f.id != c.nextFlight) }))
    else .next s'

/-- The pending entries of completed commands that signalled a semaphore are released when a WAIT on it ends (R160). -/
def releasePends (c : Core) (sem : Nat) : Core :=
  { c with pends := c.pends.filter fun p => !(p.done && p.sem == some sem) }

/-- A WAIT's blocking ends at a cycle: the count is subtracted in the same step as the test (R133, R134). -/
def endWait (c : Core) (sem count cyc : Nat) : Core :=
  releasePends { cSetSem c sem (cSem c sem - count) with block := .none, tp := max c.tp cyc } sem

/-- SYN.WAIT. -/
def execSynWait (n : Nat) (s : State) : Host.Outcome State Fault Refusal :=
  controlIssue s n 0xC1 (fun _ _ => []) fun c t w c' =>
    let sem := bitsN (cImm w) 5 0
    let count := cCount w
    if cSem c' sem ≥ count then endWait c' sem count t else { c' with block := .wait sem count c.index t }

/-- Lands fixed-latency commands, earliest first, until a blocked WAIT has its count and every increment of that cycle is
applied (R134); answers the cycle of the last one landed. -/
def landForWait (s : State) (n sem count t at_ : Nat) : Nat → State × Nat
  | 0 => (s, at_)
  | k + 1 =>
    match nextFixed (s.core n) (if cSem (s.core n) sem ≥ count then at_ else t) with
    | some f => landForWait (completeFlight s n f f.wv) n sem count t (if cSem (s.core n) sem ≥ count then at_ else f.wv) k
    | none => (s, at_)

/-- WAIT_SATISFIED: the blocked WAIT's semaphore holds its count; cyc is the cycle on which an increment from outside
the core made it so, and a command of the core that lands earlier makes it so on its own cycle. -/
def execWaitSatisfied (n cyc : Nat) (s : State) : Host.Outcome State Fault Refusal :=
  match (s.core n).block with
  | .wait sem count _ since =>
    -- a command of the core that has landed already marks the cycle
    let given := if since ≠ (s.core n).tp ∧ cSem (s.core n) sem ≥ count then since else cyc
    let (s', at_) := landForWait s n sem count cyc given ((s.core n).flights.length + 1)
    match (s'.core n).block with
    | .wait _ _ _ _ => if cSem (s'.core n) sem ≥ count then .next (s'.setCore n (endWait (s'.core n) sem count at_)) else .next s
    | _ => .next s'
  | _ => .next s

/-- WAIT_TIMEOUT: a WAIT that has blocked for longer than CORE_SEM_TIMEOUT halts the core with HALT_SEM (R136); the
command is the expiry (log 11). -/
def execWaitTimeout (n cyc : Nat) (s : State) : Host.Outcome State Fault Refusal :=
  match (s.core n).block with
  | .wait sem count idx _ =>
    if s.rfld Reg.coreSemTimeout 31 0 = 0 then .next s
    else
      let s' := landUpTo s n cyc
      if cSem (s'.core n) sem ≥ count then .next s
      else .next (haltCore s' n 0x06 sem (s'.core n).active idx cyc)
  | _ => .next s

/-- SYN.SKIP (R141). -/
def execSynSkip (n : Nat) (s : State) : Host.Outcome State Fault Refusal :=
  controlIssue s n 0xC5
    (fun c w => if c.index + bitsN (cImm w) 10 0 > 2047 then [(0x07, 0xFF)] else [])
    fun c _ w c' => { c' with index := c.index + bitsN (cImm w) 10 0 + 1 }

/-- SYN.REPEAT (R142, R143). -/
def execSynRepeat (n : Nat) (s : State) : Host.Outcome State Fault Refusal :=
  controlIssue s n 0xC6 (fun _ _ => []) fun _ _ w c' =>
    { c' with rep := some { j := 0, count := cDim0 w, dD := sextN 32 (fld w 95 64), dA := sextN 32 (fld w 159 128)
                            dB := sextN 32 (fld w 223 192) } }

/-- SYN.SWAP (R149); loads in progress have got as far as they have (R147). -/
def execSynSwap (n : Nat) (s : State) : Host.Outcome State Fault Refusal :=
  controlIssue s n 0xC7 (fun _ _ => [])
    (fun _ t w c' => { c' with active := !c'.active, index := bitsN (cImm w) 10 0, swapGate := t + 8 }) (loadsPass · n)

/-- SYN.END: issue stops and the core drains (R152); pending entries without a signal end here (R160). -/
def execSynEnd (n : Nat) (s : State) : Host.Outcome State Fault Refusal :=
  controlIssue s n 0xC8 (fun _ _ => []) fun _ _ w c' =>
    { c' with mode := .draining, ending := some (bitsN (cImm w) 31 0), pends := [] }

/-- The core and semaphore of a CORE_SEM register's fabric address (R137, R139). -/
def semOfAddr (a : Nat) : Option (Nat × Nat) :=
  let o := addrOff a
  if addrTier a = 3 ∧ 0x510000 ≤ o ∧ o < 0x510000 + 0x1000 * 192 ∧ 0x800 ≤ o % 0x1000 ∧ o % 0x1000 < 0xA00 ∧ o % 8 = 0 then
    some ((o - 0x510000) / 0x1000, (o % 0x1000 - 0x800) / 8)
  else none

/-- SYN.RSIGNAL: a SIG frame to the module that holds the semaphore (R137). -/
def execSynRsignal (n occ : Nat) (s : State) : Host.Outcome State Fault Refusal :=
  match issueCmd s n (· == 0xC3) with
  | .nothing => .next s
  | .ended s => .next s
  | .go s t w offs =>
    let c := s.core n
    let a := (cS c (cSA w)).toNat
    let p : Plan :=
      { faults := if (semOfAddr a).isNone then [(0x05, 0x00)] else []
        accs := readsS [cSA w], occ := occ, rd := 0, ws := 0, wv := 0, vlat := true, waiting := 1 }
    let (ok, s') := issuePlan s n t w offs p
    if ok then .next (sendAll s' n c.nextFlight [coreReq s' n c.nextFlight 0x00 .sig tySIG 2 a 0 0 [] (cCount w) 0 0])
    else .next s'

end Sys2Proof.Machine
end

