-- ==== Sys2Proof/Machine/Upd.lean ====
section
/-! DEFINITION. VEC.UPD (R207 to R243): the parameter record, the update rules, the preconditioner, square sums,
status records and scale histories, and sr_word (R84). -/

namespace Sys2Proof.Machine

/-! The keyed generator of R84. -/

def rotl64 (v : Word) (n : Nat) : Word := (v <<< n) ||| (v >>> (64 - n))

def srGold : Word := 0x9E3779B97F4A7C15
def srTag : Word := 0x5A09000000000000

/-- ROT of R84. -/
def srRot : List Nat := [13, 29, 41, 7, 53, 19, 37, 11, 47, 23]

def srRound (x y ka kb : Word) (rot : Nat) : Word × Word × Word × Word :=
  let x := x + ka
  let y := y + kb
  let x := x + y
  let y := rotl64 y rot ^^^ x
  (x, y, ka + srGold, rotl64 kb 17)

/-- sr_word of R84. -/
def srWord (seed step : Word) (tensor : Nat) (index : Word) : BitVec 32 :=
  let kb := seed ^^^ BitVec.ofNat 64 (tensor <<< 16) ^^^ srTag
  let (x, y, _, _) := srRot.foldl (fun (a : Word × Word × Word × Word) r => srRound a.1 a.2.1 a.2.2.1 a.2.2.2 r)
    (index, step, seed, kb)
  ((x ^^^ y) >>> 32).setWidth 32

/-! The parameter record (R121, R211). -/

/-- A VEC.UPD command with its record: the words of the record, and the gradient's and the weight's places. -/
structure Upd where
  n : Nat
  sub : Nat
  rnd : Bool
  rows : Nat
  cols : Nat
  words : List Word
  d : Opd
  a : Opd
  deriving DecidableEq, Repr

def uw (u : Upd) (i : Nat) : Word := u.words.getD i 0
def updRow0 (u : Upd) : Nat := (uw u 0).toNat
def updTensor (u : Upd) : Nat := fld (uw u 3) 31 0
/-- A scalar of words 6 to 15, widened exactly. -/
def updP (u : Upd) (i : Nat) : XVal := decodeAcc (uw u i).toNat
def updXqG (u : Upd) : Int := sextN 16 (fld (uw u 16) 15 0)
def updXqW (u : Upd) : Int := sextN 16 (fld (uw u 16) 31 16)
def updTwoPass (u : Upd) : Bool := bit (uw u 16) 32
def updTouched (u : Upd) : Bool := bit (uw u 16) 33 && decide (u.sub ≤ 4)
def updMask (u : Upd) : Nat := if u.sub ≤ 4 then fld (uw u 16) 35 34 else 0
def updRefresh (u : Upd) : Bool := bit (uw u 16) 36
def updProbe (u : Upd) : Bool := bit (uw u 16) 37
def updM1 (u : Upd) : Nat := fld (uw u 17) 31 0
def updM2 (u : Upd) : Nat := fld (uw u 17) 63 32
def updMaskOff (u : Upd) : Nat := fld (uw u 18) 31 0
def updRowlist (u : Upd) : Nat := fld (uw u 18) 63 32
def updStatus (u : Upd) : Nat := fld (uw u 19) 31 0
def updNorm (u : Upd) (k : Nat) : Word := uw u (20 + k)

/-- Whether a run of bytes lies in own Pewter. -/
def inPewter (off len : Nat) : Bool := decide (off + len ≤ pewterBytes)

/-- The rows computed, as (row of A, shard row): the listed ones with TOUCHED (R225), else all. -/
def updRows (rd : View) (u : Upd) : List (Nat × Nat) :=
  if updTouched u then
    (upFrom 0 u.rows).map fun j => (j, leNat (fun i => rd (pewKey u.n (updRowlist u + 4 * j) + i)) 4 - updRow0 u)
  else (upFrom 0 u.rows).map fun j => (j, j)

/-- Whether a row list breaks R225. -/
def rowlistBad (rd : View) (u : Upd) : Bool :=
  let l := (upFrom 0 u.rows).map fun j => leNat (fun i => rd (pewKey u.n (updRowlist u + 4 * j) + i)) 4
  l.any (fun x => decide (x < updRow0 u) || decide (x > updRow0 u + 65535)) ||
  (l.zip (l.drop 1)).any (fun x => decide (x.2 ≤ x.1))

/-- Shard rows that the tensors hold as far as the command reaches. -/
def shardRows (rd : View) (u : Upd) : Nat := (updRows rd u).foldl (fun a x => max a (x.2 + 1)) 0

/-- Bytes of the freeze mask in reach (R223). -/
def maskBytes (u : Upd) (rows : Nat) : Nat :=
  match updMask u with
  | 1 => ceilDiv rows 8
  | 2 => ceilDiv (ceilDiv rows 16 * (u.cols / 16)) 8
  | _ => 0

/-- Whether a shard element is frozen (R223). -/
def frozenAt (rd : View) (u : Upd) (r q : Nat) : Bool :=
  let at_ (k : Nat) : Bool := (rd (pewKey u.n (updMaskOff u + k / 8))).getLsbD (k % 8)
  match updMask u with
  | 1 => at_ r
  | 2 => at_ (r / 16 * (u.cols / 16) + q / 16)
  | _ => false

/-- Row-major moments at an offset of own Pewter, with the weight's pitch (R213). -/
def momentOpd (u : Upd) (f : Fmt) (off : Nat) : Opd :=
  { fmt := f, trans := false, eKey := pewKey u.n off, sKey := 0, pitch := u.d.pitch, chunkE := 0 }

/-- Key of element (r, q) of a row-major operand. -/
def rowKey (o : Opd) (r q : Nat) : Nat := o.eKey + (r * o.pitch + q) * elemBytes o.fmt

/-! Halt conditions (R208 to R213, R218, R223, R225, R234). -/

/-- Plane of a row-major tensor of so many rows. -/
def rowPlane (o : Opd) (rows cols : Nat) : Plane := ⟨false, o.eKey, rows, cols * elemBytes o.fmt, o.pitch * elemBytes o.fmt⟩

/-- A history record's words. -/
def histWords (rd : View) (k : Nat) : List Word := (upFrom 0 32).map fun i => BitVec.ofNat 64 (leNat (fun j => rd (k + 8 * i + j)) 8)

/-- The conditions of R234 on a history record. -/
def histBad (h : List Word) : Bool :=
  let g (i : Nat) : Word := h.getD i 0
  let d := fld (g 0) 36 32
  let f := fld (g 0) 43 40
  let hi := sextN 8 (fld (g 26) 7 0)
  let lo := sextN 8 (fld (g 26) 15 8)
  decide (d = 0) || decide (d > 16) || !(decide (f ≤ 5) || f == 10) || decide (hi < -32) || decide (hi > 7) || decide (lo < -32) ||
  decide (lo > hi) || fld (g 0) 63 44 != 0 || fld (g 2) 15 8 != 0 || fld (g 2) 63 48 != 0 || fld (g 26) 63 19 != 0 ||
  fld (g 27) 63 32 != 0 || (upFrom 28 4).any (fun i => g i != 0)

/-- Conditions that the word and its scalars show (R155, R208, R209, R213). -/
def updWordFaults (w : Cmd) (recOff : Int) : List (Nat × Nat) :=
  let sub := cSubop w
  let dF := (opdField (cOpd w 1)).fmt
  let aF := (opdField (cOpd w 2)).fmt
  let bF := (opdField (cOpd w 3)).fmt
  (if sub = 5 then (if cDim0 w = 0 ∨ cDim1 w ≠ 1 then [(0x02, 0x01)] else [])
   else if cDim0 w = 0 ∨ cDim1 w = 0 then [(0x02, 0x00)] else []) ++
  (if sub ≤ 3 then (if dF = .bf16 ∨ dF = .hf16 then [] else [(0x02, 0x01)]) else if dF = .raw then [] else [(0x02, 0x01)]) ++
  (if sub = 5 ∨ aF = .bf16 ∨ aF = .hf16 ∨ aF = .acc then [] else [(0x02, 0x02)]) ++
  (if bF = .raw then [] else [(0x02, 0x03)]) ++
  (if recOff % 64 ≠ 0 then [(0x02, 0x03)] else []) ++
  fabricBad w 1 ++ (if sub = 5 then [] else fabricBad w 2) ++ fabricBad w 3 ++
  (if recOff < 0 ∨ recOff + 192 > (pewterBytes : Int) then [(0x05, 0x03)] else [])

/-- Conditions that the record shows (R212, R218, R223). -/
def updRecFaults (u : Upd) : List (Nat × Nat) :=
  let upd := decide (u.sub ≤ 3)
  (if fld (uw u 16) 63 38 ≠ 0 ∨ fld (uw u 16) 35 34 = 3 then [(0x02, 0x03)] else []) ++
  (if upd && (fld (uw u 3) 63 32 != 0 || fld (uw u 19) 63 32 != 0 || updM1 u % 64 != 0 || updStatus u % 64 != 0) then
    [(0x02, 0x03)] else []) ++
  (if (u.sub = 1 ∨ u.sub = 3) ∧ updM2 u % 64 ≠ 0 then [(0x02, 0x03)] else []) ++
  (if (updMask u ≠ 0 ∧ updMaskOff u % 8 ≠ 0) ∨ (updTouched u = true ∧ updRowlist u % 4 ≠ 0) then [(0x02, 0x03)] else []) ++
  (if upd && updTwoPass u && (upFrom 0 3).any (fun k => bit (updNorm u k) 63) then [(0x02, 0x03)] else []) ++
  (if updMask u = 2 ∧ (u.rows % 16 ≠ 0 ∨ u.cols % 16 ≠ 0) then [(0x02, 0x01)] else []) ++
  (if u.sub = 3 ∧ (updRow0 u % 256 ≠ 0 ∨ u.rows % 256 ≠ 0 ∨ u.cols % 16 ≠ 0) then [(0x02, 0x01)] else []) ++
  (if u.sub = 3 ∧ updTouched u = true then [(0x02, 0x03)] else [])

/-- The arrays that a command's record names, as (offset, bytes) (R209): row list, mask, moments, status. -/
def updArrays (rd : View) (u : Upd) : List (Nat × Nat) :=
  let rows := shardRows rd u
  let span (e : Nat) : Nat := ((rows - 1) * u.d.pitch + u.cols) * e
  (if updMask u = 0 then [] else [(updMaskOff u, maskBytes u rows)]) ++
  (if u.sub ≤ 3 then [(updM1 u, span 2), (updStatus u, 64)] else []) ++
  (if u.sub = 1 then [(updM2 u, span 2)] else []) ++
  (if u.sub = 3 then [(updM2 u, 4096 * (u.rows / 256 * (u.cols / 16)))] else [])

/-- Reads a command's record and places its operands; none when the record is out of reach. -/
def updOf (s : State) (c : Core) (n : Nat) (w : Cmd) (offs : List Int) : Upd × Got × Got × List (Nat × Nat) :=
  let b := opdField (cOpd w 3)
  let recOff : Int := ((cS c b.ebase).toNat : Int) + offs.getD 2 0
  let wf := updWordFaults w recOff
  let reach := !b.fabric && decide (0 ≤ recOff) && decide (recOff + 192 ≤ (pewterBytes : Int))
  let rec_ := if reach then (upFrom 0 24).map fun i => s.mword (pewKey n recOff.toNat + 8 * i) else []
  let rows := cDim0 w
  let cols := cDim1 w
  let d := opdField (cOpd w 1)
  let dOff : Int := ((cS c d.ebase).toNat : Int) + offs.getD 0 0
  let gA := resolve s c n w offs 2 rows cols
  let g0 := resolve s c n w offs 1 rows cols
  let u : Upd := { n := n, sub := cSubop w, rnd := cRoundSr w, rows := rows, cols := cols, words := rec_, d := g0.opd, a := gA.opd }
  let listOk := !updTouched u || inPewter (updRowlist u) (4 * rows)
  -- D: the shard rows in reach, the square-sum record or the history records
  let dLen := if u.sub = 4 then 32 else 256 * rows
  let gD := if u.sub ≤ 3 then
      (if reach && listOk then resolve s c n w offs 1 (shardRows s.mget u) cols else g0)
    else
      let key := planeKey s n d.fabric (cS c d.ebase).toNat (offs.getD 0 0) dLen
      { faults := (if key.isNone then [(0x05, 0x01)] else []) ++ (if u.sub = 5 ∧ dOff % 64 ≠ 0 then [(0x02, 0x01)] else [])
        opd := { fmt := .raw, trans := false, eKey := key.getD 0, sKey := 0, pitch := dLen, chunkE := 0 }
        planes := match key with | some k => [⟨false, k, 1, dLen, 0⟩] | none => []
        fabric := d.fabric }
  let u := { u with d := gD.opd }
  let deep := if !reach || wf.any (fun x => x.1 == 0x02) then []
    else updRecFaults u ++
      (if updTouched u = true then (if listOk then (if rowlistBad s.mget u then [(0x02, 0x03)] else []) else [(0x05, 0x03)]) else []) ++
      (if listOk && (updArrays s.mget u).any (fun x => !inPewter x.1 x.2) then [(0x05, 0x03)] else []) ++
      (if u.sub = 5 ∧ gD.faults = [] ∧ d.fabric = false ∧ (upFrom 0 rows).any (fun i => histBad (histWords s.mget (gD.opd.eKey + 256 * i)))
        then [(0x02, 0x01)] else [])
  -- an operand whose format the opcode refuses shows that alone
  let ofGot (k : Nat) (g : Got) : List (Nat × Nat) := if wf.contains (0x02, k) then [] else g.faults
  (u, gD, gA, wf ++ ofGot 1 gD ++ (if u.sub = 5 then [] else ofGot 2 gA) ++ deep)

/-! The update rules (R214 to R217, R229). -/

/-- kappa of R229. -/
def kappaOf (u : Upd) : XVal :=
  if !updTwoPass u then .fin false 1 0
  else
    let t : Int := (updNorm u 0).toInt + (updNorm u 1).toInt * 2 ^ 21 + (updNorm u 2).toInt * 2 ^ 42
    let n2 := roundAcc (xOfInt t (updXqG u))
    let one : XVal := .fin false 1 0
    if updP u 13 = .zero false ∨ n2 = .zero false then one
    else
      let k := accMul (updP u 13) (xRsqrt n2).1
      if xLt one k then one else k

/-- New weight (exact), moments and delta of one element (R216). -/
def updateElement (u : Upd) (kappa c1 c2 w m v g : XVal) : XVal × XVal × XVal × XVal :=
  let b1 := updP u 7
  let b2 := updP u 8
  let g := accMul g kappa
  let (d, m, v) : XVal × XVal × XVal :=
    match u.sub with
    | 1 =>
      let m := accFma m b1 (accMul c1 g)
      let q := accMul g g
      let v := accFma v b2 (accMul c2 q)
      let r := xSqrt (accMul v (updP u 12))
      (plusZero (xDiv (accMul m (updP u 11)) (accAdd r (updP u 9))), m, v)
    | 2 =>
      let t := accFma m b1 (accMul c1 g)
      let d : XVal := if xLt (.zero false) t then .fin false 1 0 else if xLt t (.zero true) then .fin true 1 0 else .zero false
      (d, accFma m b2 (accMul c2 g), v)
    | _ =>
      let m := accFma m b1 g
      (m, m, v)
  let uu := accFma w (updP u 10) d
  let delta := accMul (updP u 6) uu
  (xAdd w (xNeg delta), m, v, delta)

/-- square_units of R227: whole units of 2^xq, and whether it clamped. -/
def squareUnits (v : XVal) (xq : Int) : Nat × Bool :=
  match v with
  | .fin _ m e =>
    let (k, up) := if 2 * e - xq ≥ 64 then (2 ^ 64, 0) else roundSignificand (m * m) (2 * e) xq .rne
    let k := k + up
    if k > 2 ^ 32 - 1 then (2 ^ 32 - 1, true) else (k, false)
  | _ => (0, false)

/-- add_total of R227. -/
def addTotal (t k : Nat) : Nat × Bool := if t + k > 2 ^ 63 - 1 then (2 ^ 63 - 1, true) else (t + k, false)

/-- The three E24 limbs of a total (R227). -/
def limbBytes (t : Nat) : List Byte :=
  leBytes 3 (t % 2 ^ 21) ++ leBytes 3 ((t >>> 21) % 2 ^ 21) ++ leBytes 3 ((t >>> 42) % 2 ^ 21)

/-- A status record in the making (R232), with the writes and flags so far. -/
structure UpdAcc where
  writes : Writes
  flags : NFlags
  totalW : Nat
  totalU : Nat
  amaxW : Nat
  frozen : Nat
  nonfinite : Nat
  deriving DecidableEq, Repr

/-- Invalid, as a flag. -/
def invalidFlag : NFlags := ⟨false, true, 0⟩

/-- One element's update (R215 to R217, R224, R232); g is its gradient as the rule takes it. -/
def updElement (rd : View) (u : Upd) (kappa c1 c2 : XVal) (grad : Nat → Nat → XVal) (acc : UpdAcc) (j r q : Nat) : UpdAcc :=
  if frozenAt rd u r q then { acc with frozen := acc.frozen + 1 }
  else if !xFinite (elemVal rd u.a j q) then
    { acc with nonfinite := acc.nonfinite + 1, flags := addFlags acc.flags invalidFlag }
  else
    let m1 := momentOpd u .bf16 (updM1 u)
    let m2 := momentOpd u .uf16 (updM2 u)
    let v0 := if u.sub = 1 then elemVal rd m2 r q else .zero false
    let (wx, m, v, delta) := updateElement u kappa c1 c2 (elemVal rd u.d r q) (elemVal rd m1 r q) v0 (grad j q)
    let index : Word := BitVec.ofNat 64 ((updRow0 u + r) * (uw u 2).toNat + (uw u 1).toNat + q)
    let mode : RMode := if u.rnd then .sr (srWord (uw u 4) (uw u 5) (updTensor u) index).toNat else .rne
    let (wc, f1) := convElem u.d.fmt wx 0 mode false
    let (mc, f2) := convElem .bf16 m 0 .rne false
    let (vc, f3) := if u.sub = 1 then convElem .uf16 v 0 .rne false else (0, noFlags)
    let ws := placeAt (rowKey u.d r q) (leBytes 2 wc) ++ placeAt (rowKey m1 r q) (leBytes 2 mc) ++
      (if u.sub = 1 then placeAt (rowKey m2 r q) (leBytes 2 vc) else [])
    let wn := decodeElem u.d.fmt wc 0
    let fl := addFlags acc.flags (addFlags f1 (addFlags f2 f3))
    let okW := xFinite wn
    let okU := xFinite delta
    { writes := acc.writes ++ ws
      flags := if okW && okU then fl else addFlags fl invalidFlag
      totalW := if okW then (addTotal acc.totalW (squareUnits wn (updXqW u)).1).1 else acc.totalW
      totalU := if okU then (addTotal acc.totalU (squareUnits delta (updXqW u - 20)).1).1 else acc.totalU
      amaxW := if okW then max acc.amaxW (amaxImage wn) else acc.amaxW
      frozen := acc.frozen
      nonfinite := if okW && okU then acc.nonfinite else acc.nonfinite + 1 }

/-! The preconditioner (R218 to R222). -/

/-- A 16 x 16 matrix of values, by 16 i + j. -/
abbrev Mat16 := List XVal

def m16 (m : Mat16) (i j : Nat) : XVal := m.getD (16 * i + j) (.zero false)

/-- Key of the record of group G and column block b (R218). -/
def blockKey (u : Upd) (G b : Nat) : Nat := pewKey u.n (updM2 u) + 4096 * (G * (u.cols / 16) + b)

/-- S (part 0) or P (part 1) of a block record. -/
def readBlock (rd : View) (k part : Nat) : Mat16 :=
  (upFrom 0 256).map fun i => decodeAcc (leNat (fun j => rd (k + 2048 * part + 8 * i + j)) 8)

/-- The gradient after kappa, frozen and non-finite elements being +0 (R220, R215, R224). -/
def precGrad (rd : View) (u : Upd) (kappa : XVal) (r q : Nat) : XVal :=
  let g := elemVal rd u.a r q
  if frozenAt rd u r q || !xFinite g then .zero false else accMul g kappa

/-- Column j of the Cholesky factor, given the columns before it, or none for HOLD (R220). -/
def choleskyCol (sn : Nat → Nat → XVal) (lam : XVal) (l : Tab XVal) (j : Nat) : Option (Tab XVal) :=
  let L (i k : Nat) : XVal := tabGet (fun _ => .zero false) l (16 * i + k)
  let minus (x : XVal) (i : Nat) : XVal :=
    (upFrom 0 j).foldl (fun x k => roundAcc (xAdd x (xNeg (xMul (L i k) (L j k))))) x
  let x := minus (accAdd (sn j j) lam) j
  if !xLt (.zero false) x then none
  else
    let ljj := xSqrt x
    some ((upFrom (j + 1) (15 - j)).foldl
      (fun t i => tabSet (fun _ => .zero false) t (16 * i + j) (plusZero (xDiv (minus (sn i j) i) ljj)))
      (tabSet (fun _ => .zero false) l (16 * j + j) ljj))

/-- Column j of Y, the inverse of L (R220). -/
def inverseCol (L : Nat → Nat → XVal) (y : Tab XVal) (j : Nat) : Tab XVal :=
  (upFrom (j + 1) (15 - j)).foldl (fun y i =>
    let v := (upFrom j (i - j)).foldl (fun v k => accFma (L i k) (tabGet (fun _ => .zero false) y (16 * k + j)) v) (.zero false)
    tabSet (fun _ => .zero false) y (16 * i + j) (plusZero (xNeg (xDiv v (L i i)))))
    (tabSet (fun _ => .zero false) y (16 * j + j) (xDiv (.fin false 1 0) (L j j)))

/-- refresh of R220: the new S and P of a block, or none for HOLD. -/
def refreshBlock (u : Upd) (g : Nat → Nat → XVal) (s0 : Mat16) (c2 : XVal) (G b : Nat) : Option (Mat16 × Mat16) :=
  let sn : Mat16 := (rowMajor 16 16).map fun x =>
    let v := (upFrom (256 * G) 256).foldl (fun v r => accFma (g r (16 * b + x.1)) (g r (16 * b + x.2)) v) (.zero false)
    accFma (m16 s0 x.1 x.2) (updP u 8) (accMul c2 v)
  let tr := (upFrom 0 16).foldl (fun t i => accAdd t (m16 sn i i)) (.zero false)
  let lam := accFma (updP u 14) (roundAcc (xScale (-4) tr)) (updP u 15)
  match (upFrom 0 16).foldl (fun (l : Option (Tab XVal)) j => l.bind fun t => choleskyCol (m16 sn) lam t j) (some []) with
  | none => none
  | some l =>
    let L (i k : Nat) : XVal := tabGet (fun _ => .zero false) l (16 * i + k)
    let y := (upFrom 0 16).foldl (fun y j => inverseCol L y j) []
    let Y (i k : Nat) : XVal := tabGet (fun _ => .zero false) y (16 * i + k)
    let pn : Mat16 := (rowMajor 16 16).map fun x =>
      let k0 := max x.1 x.2
      (upFrom k0 (16 - k0)).foldl (fun v k => accFma (Y k x.1) (Y k x.2) v) (.zero false)
    if (sn ++ pn).all xFinite then some (sn, pn) else none

/-- The inverse that each block applies, with the block's writes and whether it was held (R220, R221). -/
def precBlock (rd : View) (u : Upd) (kappa c2 : XVal) (G b : Nat) : Mat16 × Writes × Nat :=
  let k := blockKey u G b
  let old := readBlock rd k 1
  if !updRefresh u then (old, [], 0)
  else
    match refreshBlock u (precGrad rd u kappa) (readBlock rd k 0) c2 G b with
    | none => (old, [], 1)
    | some (sn, pn) =>
      let img (m : Mat16) : List Byte := m.flatMap fun v => leBytes 8 (accImage v)
      (pn, placeAt k (img sn) ++ placeAt (k + 2048) (img pn), 0)

/-- h of R222. -/
def precH (rd : View) (u : Upd) (kappa : XVal) (p : Mat16) (r q : Nat) : XVal :=
  (upFrom 0 16).foldl (fun h k => accFma (precGrad rd u kappa r (16 * (q / 16) + k)) (m16 p k (q % 16)) h) (.zero false)

/-! The effect of a command. -/

/-- What VEC.UPD does: writes, flags, and the events it raises as (code, items). -/
structure UpdEffect where
  writes : Writes
  flags : NFlags
  events : List (Nat × List (Nat × Nat))

/-- SUBOP 0 to 3. -/
def updRules (rd : View) (u : Upd) : UpdEffect :=
  let one : XVal := .fin false 1 0
  let c1 := accSub one (updP u 7)
  let c2 := accSub one (updP u 8)
  let kappa := kappaOf u
  let per := u.cols / 16
  let blocks := if u.sub = 3 then
      (rowMajor (u.rows / 256) per).map fun x => precBlock rd u kappa c2 x.1 x.2
    else []
  let held := (blocks.map (·.2.2)).sum
  let grad (j q : Nat) : XVal :=
    if u.sub = 3 then precH rd u kappa (blocks.getD (j / 256 * per + q / 16) ([], [], 0)).1 j q else elemVal rd u.a j q
  let st := pewKey u.n (updStatus u)
  let n8 (o : Nat) (len : Nat) : Nat := leNat (fun i => rd (st + o + i)) len
  let acc0 : UpdAcc := { writes := blocks.flatMap (·.2.1), flags := noFlags, totalW := n8 0 8, totalU := n8 8 8, amaxW := n8 40 8
                         frozen := n8 48 4, nonfinite := n8 52 4 }
  let acc := (updRows rd u).foldl (fun acc x =>
    (upFrom 0 u.cols).foldl (fun acc q => updElement rd u kappa c1 c2 grad acc x.1 x.2 q) acc) acc0
  let status := placeAt st (leBytes 8 acc.totalW ++ leBytes 8 acc.totalU ++ limbBytes acc.totalW ++ limbBytes acc.totalU) ++
    placeAt (st + 40) (leBytes 8 acc.amaxW ++ leBytes 4 (min acc.frozen 0xFFFFFFFF) ++ leBytes 4 (min acc.nonfinite 0xFFFFFFFF) ++
      leBytes 4 (min (n8 56 4 + held) 0xFFFFFFFF))
  { writes := acc.writes ++ status, flags := acc.flags
    events := if held = 0 then [] else [(evPRECOND_HOLD, [(32, updTensor u), (64, (uw u 5).toNat), (32, held)])] }

/-- SQSUM (R227). -/
def updSqsum (rd : View) (u : Upd) : UpdEffect :=
  let k := u.d.eKey
  let (t, fl) := (updRows rd u).foldl (fun acc x =>
    (upFrom 0 u.cols).foldl (fun (acc : Nat × NFlags) q =>
      if frozenAt rd u x.2 q then acc
      else
        let g := elemVal rd u.a x.1 q
        if !xFinite g then (acc.1, addFlags acc.2 invalidFlag)
        else
          let (units, c1) := squareUnits g (updXqG u)
          let (t, c2) := addTotal acc.1 units
          (t, addFlags acc.2 ⟨c1 || c2, false, 0⟩)) acc) (leNat (fun i => rd (k + i)) 8, noFlags)
  { writes := placeAt k (leBytes 8 t ++ limbBytes t), flags := fl, events := [] }

/-- The sum of three limbs (R235). -/
def limbSum (g : Nat → Word) (i : Nat) : Int := (g i).toInt + (g (i + 1)).toInt * 2 ^ 21 + (g (i + 2)).toInt * 2 ^ 42

/-- Whether a < b x 2^k, exactly. -/
def ltScaled (a b : Int) (k : Int) : Bool :=
  if k ≥ 0 then decide (a < b * 2 ^ k.toNat) else decide (a * 2 ^ (-k).toNat < b)

def gtScaled (a b : Int) (k : Int) : Bool :=
  if k ≥ 0 then decide (a > b * 2 ^ k.toNat) else decide (a * 2 ^ (-k).toNat > b)

/-- hist of R235 on one record: its new words and, when the watch fires, the items of UPDATE_WATCH (R237). -/
def histStep (h : List Word) (step : Word) (probe : Bool) : List Word × Option (List (Nat × Nat)) :=
  let g (i : Nat) : Word := h.getD i 0
  let test := bit (g 26) 16 && !probe
  let tu := limbSum g 20
  let tw := limbSum g 23
  let above := gtScaled tu tw (20 + 2 * sextN 8 (fld (g 26) 7 0))
  let under := ltScaled tu tw (20 + 2 * sextN 8 (fld (g 26) 15 8))
  let h := if test then h.set 26 (setBit (setBit (g 26) 17 above) 18 under) else h
  let watch := if test && (above || under) then
      some [(32, fld (g 0) 31 0), (64, (g 1).toNat), (8, above.toNat), (8, under.toNat)]
    else none
  let cur := g 3
  let h := h.set 3 0
  let h := if probe then
      let h := (upFrom 4 16).foldl (fun h i => h.set i cur) h
      let h := h.set 1 step
      h.set 27 (setFld (g 27) 31 0 ((fld (g 27) 31 0 + 1) % 2 ^ 32))
    else (h.set (4 + step.toNat % 16) cur).set 1 (step + 1)
  let st := h.getD 1 0
  let a := (upFrom 1 (fld (g 0) 36 32)).foldl (fun a k => max a (h.getD (4 + (st - BitVec.ofNat 64 k).toNat % 16) 0).toNat) 0
  if a = 0 then (h, watch)
  else
    let f : Int := (((a >>> 23) % 2 ^ 10 : Nat) : Int) - 511
    let head : Int := (fld (g 0) 39 37 : Nat)
    let fc := fld (g 0) 43 40
    let w2 := h.getD 2 0
    let w2 := if fc = 10 then w2 else setFld w2 7 0 ((clampInt (-127) 127 (f + head - emaxe (fmtOf fc))) + 127).toNat
    let e := clampInt (-160) 104 (f + head - 22)
    let w2 := setFld (setFld w2 31 16 (toCode 16 e)) 47 32 (toCode 16 (2 * e + 14))
    (h.set 2 w2, watch)

/-- HIST (R98, R235 to R237). -/
def updHist (rd : View) (u : Upd) : UpdEffect :=
  let step := uw u 5
  let res := (upFrom 0 u.rows).map fun i =>
    let k := u.d.eKey + 256 * i
    let (h, watch) := histStep (histWords rd k) step (updProbe u)
    (placeAt k (wordsBytes h), watch, fld (h.getD 27 0) 31 0)
  { writes := res.flatMap (·.1), flags := noFlags
    events := (res.filterMap fun x => x.2.1.map fun items => (evUPDATE_WATCH, items)) ++
      (if updProbe u then [(evSCALE_REBUILT, [(64, step.toNat), (32, (res.map (·.2.2)).getLastD 0)])] else []) }

def updEffect (rd : View) (u : Upd) : UpdEffect :=
  match u.sub with
  | 4 => updSqsum rd u
  | 5 => updHist rd u
  | _ => updRules rd u

/-- Occupancy (R243). -/
def updOcc (u : Upd) : Nat :=
  let e := ceilDiv (u.rows * u.cols) 256
  match u.sub with
  | 0 => 8 + 3 * e
  | 1 => 8 + 6 * e
  | 2 => 8 + 4 * e
  | 3 => 8 + 4 * e + (if updRefresh u then 1024 * (u.rows / 256 * (u.cols / 16)) else 0)
  | 4 => 8 + e
  | _ => 8 + 32 * u.rows

/-- Planes of own Pewter that a command reads and writes. -/
def updPlanes (rd : View) (u : Upd) (recKey : Nat) : List Plane × List Plane :=
  let rows := shardRows rd u
  let arr := (updArrays rd u).map fun x => (⟨false, pewKey u.n x.1, 1, x.2, 0⟩ : Plane)
  let list := if updTouched u then [(⟨false, pewKey u.n (updRowlist u), 1, 4 * u.rows, 0⟩ : Plane)] else []
  let dst := if u.sub ≤ 3 then [rowPlane u.d rows u.cols] else [(⟨false, u.d.eKey, 1, u.d.pitch, 0⟩ : Plane)]
  let src := if u.sub = 5 then [] else [rowPlane u.a u.rows u.cols]
  (⟨false, recKey, 1, 192, 0⟩ :: list ++ src ++ dst ++ arr, dst ++ (if u.sub ≤ 3 then arr else []))

/-- What core n's VEC.UPD reads and writes: the planes of its record, sources and destinations. -/
def updTouches (s : State) (n : Nat) (w : Cmd) (offs : List Int) : List Plane × List Plane :=
  let x := updOf s (s.core n) n w offs
  let recKey := pewKey n (((cS (s.core n) (opdField (cOpd w 3)).ebase).toNat : Int) + offs.getD 2 0).toNat
  if x.2.2.2 = [] then updPlanes s.mget x.1 recKey else ([], [])

/-- The plan of VEC.UPD. -/
def updPlan (s : State) (n : Nat) (w : Cmd) (offs : List Int) : Plan :=
  let x := updOf s (s.core n) n w offs
  let ps := updTouches s n w offs
  { faults := x.2.2.2
    accs := opdScalars w 1 ++ opdScalars w 2 ++ opdScalars w 3 ++ planeAccs n { x.2.1 with planes := ps.1 } false ++
      planeAccs n { x.2.1 with planes := ps.2 } true ++ [⟨.flags, true, false⟩]
    occ := updOcc x.1, rd := 0, ws := 0, wv := 0, vlat := true }

/-- VEC.UPD: of variable latency; its occupancy of VEC is exact (R243). What it does is done when it completes, as one
indivisible step (R228, R236). -/
def execVecUpd (n : Nat) (s : State) : Host.Outcome State Fault Refusal :=
  match issueCmd s n (· == 0x50) with
  | .nothing => .next s
  | .ended s => .next s
  | .go s t w offs =>
    let x := updOf s (s.core n) n w offs
    let (ok, s') := issuePlan s n t w offs (updPlan s n w offs)
    .next (if ok then s'.meet (meetGot s [x.2.2.1, { x.2.1 with planes := (updTouches s n w offs).1 }]) else s')

/-- The effect of a VEC.UPD in flight on the state as it stands; a fault found now is recorded against it (R156). -/
def updNow (s : State) (n : Nat) (f : Flight) : List (Nat × Nat) × UpdEffect :=
  let (u, _, _, faults) := updOf s (coreAtIssue (s.core n) f) n f.cmd f.offs
  if faults = [] then ([], updEffect s.mget u) else (faults, ⟨[], noFlags, []⟩)

/-- A VEC.UPD completes. -/
def updComplete (s : State) (n : Nat) (f : Flight) (cyc : Nat) : State :=
  let (faults, e) := updNow s n f
  match lowestFault faults with
  | some (code, detail) => failFlight s n f.id code detail
  | none =>
    let s := completeFlight s n { f with writes := e.writes, flags := e.flags } cyc
    e.events.foldl (fun s x => s.raise x.1 sevINFO x.2) s

end Sys2Proof.Machine
end

