-- ==== Sys2Proof/Machine/CoreRows.lean ====
section
/-! DEFINITION. The life of a tensor core outside its commands: launch, completion of commands, draining, halting with
the dump, warm reset (R103 to R105, R118, R129, R139, R140, R152 to R166). -/

namespace Sys2Proof.Machine

/-! Launch. -/

def State.launches (s : State) (l : Nat) : List Launch := tabGet (fun _ => []) s.launchQ l

def State.setLaunches (s : State) (l : Nat) (q : List Launch) : State :=
  { s with launchQ := tabSet (fun _ => []) s.launchQ l q }

/-- The core state that a launch sets (R103); MODE and LIMIT are sampled (R139). -/
def launched (s : State) (n : Nat) (c : Core) (l : Launch) : Core :=
  let args := (upFrom 1 7).foldl (fun t k => tabSet (fun _ => 0) t k (l.args.getD (k - 1) 0)) ([] : Tab Word)
  let args := tabSet (fun _ => 0) args 30 (BitVec.ofNat 64 s.flatId)
  let args := tabSet (fun _ => 0) args 31 (BitVec.ofNat 64 (s.logicalOf n))
  { c with
    mode := .running, scalars := args, preds := [], sems := [], active := decide (l.bank = 1), index := l.entry
    launch := some l, order := l.free, check := s.rbit (Reg.coreIssueReg n) 0, limit := s.rfld (Reg.coreCmdLimit n) 31 0
    issued := 0, tp := 0, swapGate := 0, matEnd := 0, vecEnd := 0, movEnd := 0, synEnd := 0, rep := none, block := .none
    flights := [], pends := [], ending := none }

/-- LAUNCH_START: an IDLE core takes the next launch of its logical core's queue (R103, R104, R543); loads
into its banks have got as far as they have (R147). -/
def execLaunchStart (n : Nat) (s : State) : Host.Outcome State Fault Refusal :=
  let c := s.core n
  let l := s.logicalOf n
  match s.launches l with
  | [] => .next s
  | x :: t =>
    if c.mode = .idle ∧ l ≠ 0xFF ∧ s.modState ≠ 2 ∧ s.modState ≠ 3 then
      let s := loadsPass s n
      .next ((s.setLaunches l t).setCore n (launched s n (s.core n) x))
    else .next s

/-- UNDEFINED_OPCODE: a command whose opcode R118 does not list halts the core whatever its predicate. -/
def execUndefinedOpcode (n : Nat) (s : State) : Host.Outcome State Fault Refusal :=
  match issueCmd s n (fun op => !opcodeListed op) with
  | .nothing => .next s
  | .ended s => .next s
  | .go s _ _ _ => .next s

/-! Completion of commands. -/

/-- The last cycle of the commands in flight. -/
def lastWv (c : Core) : Nat := c.flights.foldl (fun a f => if f.vlat then a else max a f.wv) 0

/-- The cycle before which the core can issue nothing: its next command's, when nothing blocks it. -/
def nextIssue (c : Core) : Option Nat :=
  if c.mode ≠ .running ∨ blocked c = true then none
  else if c.index ≥ 2048 then some (c.tp + 1)
  else some (issueCycle c (cFetch c c.active c.index))

/-- A landing that gives a blocked WAIT its count marks the cycle. -/
def markWait (c0 c : Core) (wv : Nat) : Core :=
  match c.block with
  | .wait sem count idx _ =>
    if cSem c0 sem < count ∧ cSem c sem ≥ count then { c with block := .wait sem count idx wv } else c
  | _ => c

/-- FIXED_WRITEBACK: the fixed-latency command of the earliest WV completes, when no earlier command can issue before
that cycle (R128, R132). -/
def execFixedWriteback (n : Nat) (s : State) : Host.Outcome State Fault Refusal :=
  let c := s.core n
  match nextFixed c (lastWv c) with
  | none => .next s
  | some f =>
    let early := match nextIssue c with | some t => decide (t < f.wv) | none => false
    if early then .next s
    else
      let s := completeFlight s n f f.wv
      .next (s.setCore n (markWait c (s.core n) f.wv))

/-- The completion of a variable-latency command whose result is formed (R129). -/
def finishFlight (s : State) (n : Nat) (f : Flight) (cyc : Nat) : State :=
  match f.op with
  | 0x84 =>
    -- another module's atomic has already brought its old value
    let d := opdField (cOpd f.cmd 1)
    let c := coreAtIssue (s.core n) f
    if d.fabric && addrId ((((cS c d.ebase).toNat : Int) + f.offs.getD 0 0) % (2 : Int) ^ 64).toNat != s.flatId then completeFlight s n f cyc
    else
      let (f, s) := atomHere s n f
      completeFlight s n f cyc
  | 0x87 => completeFlight (imloadLand s n f) n f cyc
  | 0x50 => updComplete s n f cyc
  | _ => completeFlight s n f cyc

/-- What a completion reads and writes of this module's memory, for the snoop filter (R524). -/
def completeReads (s : State) (n : Nat) (f : Flight) : List (Nat × Nat) :=
  if s.snoops.isEmpty then []
  else if f.op = 0x87 then gotRuns (imloadSource s (coreAtIssue (s.core n) f) n f.cmd f.offs)
  else []

def completeWrites (s : State) (n : Nat) (f : Flight) : List (Nat × Nat) :=
  if s.snoops.isEmpty then []
  else if f.op = 0x84 then
    let d := opdField (cOpd f.cmd 1)
    let c := coreAtIssue (s.core n) f
    match planeKey s n d.fabric (cS c d.ebase).toNat (f.offs.getD 0 0) 8 with | some k => [(k, 8)] | none => []
  else writeRuns f.writes

/-- VAR_COMMAND_COMPLETE. -/
def execVarCommandComplete (n f cyc : Nat) (s : State) : Host.Outcome State Fault Refusal :=
  match findFlight (s.core n) f with
  | none => .next s
  | some x =>
    if x.vlat && x.formed && x.waiting == 0 && x.op != 0xCD then
      gated s (completeReads s n x) (completeWrites s n x) <|
      let s := landUpTo s n cyc
      match findFlight (s.core n) f with
      | some x => .next (finishFlight s n x cyc)
      | none => .next s
    else .next s

/-! Halts. -/

/-- A halt condition at cycle t: what lands by then comes first, and may itself have stopped the core (R156). -/
def haltAt (s : State) (n code t : Nat) : State :=
  let s := landUpTo s n t
  if (s.core n).mode = .running then haltCore s n code 0 (s.core n).active (s.core n).index t else s

/-- HALT_LIMIT: the limit is reached, and the next command does not issue (R163). -/
def execHaltLimit (n : Nat) (s : State) : Host.Outcome State Fault Refusal :=
  let c := s.core n
  if c.mode = .running ∧ blocked c = false ∧ c.index < 2048 ∧ c.limit ≠ 0 ∧ c.limit ≤ c.issued then
    .next (haltAt s n 0x04 (issueCycle c (cFetch c c.active c.index)))
  else .next s

/-- HALT_HOST: CORE_CTRL.HALT written while RUNNING (R155); BANK and INDEX record the next command to issue (DESIGN
CHOICE, log 90). -/
def execHaltHost (n cyc : Nat) (s : State) : Host.Outcome State Fault Refusal :=
  if (s.core n).mode = .running then .next (haltAt s n 0x08 (max cyc (s.core n).tp)) else .next s

/-! The halt dump (R164 to R166). -/

/-- The ranges of a dump: each of its length, clipped at the end of Pewter and padded to a multiple of 64 B. -/
def dumpRanges (s : State) (n : Nat) : List Byte :=
  (upFrom 0 4).flatMap fun i =>
    let off := s.rfld (Reg.coreDumpRange n i) 23 0
    let len := s.rfld (Reg.coreDumpRange n i) 47 24
    let len := if off + len ≤ pewterBytes then len else pewterBytes - off
    s.mbytes (pewKey n off) len ++ List.replicate (ceilDiv len 64 * 64 - len) 0

/-- The header of R165. -/
def dumpHeader (s : State) (n : Nat) (c : Core) (trunc : Bool) (lost : Nat) : List Byte :=
  let w0 := (haltImage c).toNat + trunc.toNat <<< 40 + c.order.toNat <<< 41 + c.check.toNat <<< 42 + (min lost 0xFFFF) <<< 48
  wordsBytes [BitVec.ofNat 64 w0, BitVec.ofNat 64 c.issued, BitVec.ofNat 64 c.haltCycle, numImage c.num,
    BitVec.ofNat 64 (s.logicalOf n + n <<< 8 + (c.haltSeq % 2 ^ 32) <<< 32), 0, 0, 0]

/-- The body between header and ranges (R164). -/
def dumpState (c : Core) : List Byte :=
  wordsBytes ((upFrom 0 32).map (cS c)) ++ (upFrom 0 64).flatMap (fun k => leBytes 2 (cSem c k)) ++
  leBytes 2 ((upFrom 0 16).foldl (fun a k => a + (cP c k).toNat <<< k) 0) ++ List.replicate 62 0

/-- Whether the work that a core runs was started before a host-interface reset, so that its writes to host memory are
dropped (R560). -/
def State.coreCut (s : State) (c : Core) : Bool :=
  match c.launch with
  | some l => (match s.work l.work with | some w => w.cut | none => false)
  | none => false

/-- The host interface is up: CXL.cache is enabled (R518). -/
def State.hostUp (s : State) : Bool := s.rbit Reg.hifStatus 5

def writeDump (s : State) (n lost : Nat) : State :=
  let c := s.core n
  if s.rbit Reg.coreDumpBase 0 && s.hostUp && !s.coreCut c then
    let slot := s.rfld Reg.coreDumpSlot 31 0
    let base := s.rfld Reg.coreDumpBase 63 6 * 64 + n * slot
    let rest := dumpState c ++ dumpRanges s n
    let all := dumpHeader s n c (decide (64 + rest.length > slot)) lost ++ rest
    s.hostWrite base (all.take slot)
  else s

/-- Severity of CORE_HALT (R155). -/
def haltSev (code : Nat) : Nat := if code = 0x04 ∨ code = 0x08 then sevINFO else sevCONTAINED

/-- A drained core enters HALTED: the dump, then CORE_HALT, then the error completion (R153, R166). -/
def enterHalted (s : State) (n lost : Nat) : State :=
  let s := writeDump (loadsPass s n) n lost
  let c := s.core n
  let s := s.raise evCORE_HALT (haltSev c.haltCode)
    [(8, n), (8, s.logicalOf n), (8, c.haltCode), (8, c.haltDetail), (8, c.haltBank.toNat), (16, c.haltIndex % 2048)]
  let s := s.setCore n { c with mode := .halted, launch := none, pends := [], block := .none }
  match c.launch with
  | some l => s.finishWork l.work stHALTED (haltImage c) 0
  | none => s

def noVariable (c : Core) : Bool := c.flights.all (fun f => !f.vlat)

/-- Cycles of 100 us at 1.9 GHz, the arithmetic islands' highest clock (R22, R153): a slower clock gives fewer. -/
def drainCycles : Nat := 190000

/-- HALT_DRAIN_DONE: every command issued earlier has completed within the time of R153. -/
def execHaltDrainDone (n : Nat) (s : State) : Host.Outcome State Fault Refusal :=
  let c := s.core n
  if c.mode = .draining ∧ c.ending = none ∧ noVariable c ∧ lastWv c ≤ c.haltCycle + drainCycles then
    let s := landUpTo s n (lastWv c)
    .next (enterHalted s n 0)
  else .next s

/-- Commands that do their work at completion are taken as they stand when they are abandoned: an atomic is done whole
or not at all, and the bytes of an update land or not. -/
def prepareAbandon (s : State) (n : Nat) : State :=
  (s.core n).flights.foldl (fun s f =>
    match f.op with
    | 0x84 =>
      let (w, s) := s.draw
      if f.waiting == 0 && bit w 0 then (atomHere s n f).2 else s
    | 0x50 =>
      let e := (updNow s n f).2
      s.setFlight n { f with writes := e.writes }
    | _ => s) s

/-- Everything in flight on a core is abandoned: an atomic is done whole or not at all, bytes of writes land or not, and
loads have got as far as they have. -/
def abandonCore (s : State) (n : Nat) : State :=
  let s := loadsPass s n
  abandonAll (prepareAbandon (loadsCut s n) n) n

/-- HALT_DRAIN_TIMEOUT: 100 us have passed on cycle cyc. What has completed by then has landed; commands incomplete, of
fixed latency too, are abandoned, and counted in the dump (R153). -/
def execHaltDrainTimeout (n : Nat) (s : State) (cyc : Nat := 0) : Host.Outcome State Fault Refusal :=
  let c := s.core n
  if c.mode = .draining ∧ c.ending = none then
    let s := landUpTo s n (min (max cyc c.haltCycle) (c.haltCycle + drainCycles))
    let lost := (s.core n).flights.length
    .next (enterHalted (abandonCore s n) n lost)
  else .next s

/-- END_DRAIN_DONE: every issued command has completed; the completion carries the end code (R152). -/
def execEndDrainDone (n : Nat) (s : State) : Host.Outcome State Fault Refusal :=
  let c := s.core n
  match c.ending with
  | none => .next s
  | some code =>
    if c.mode = .draining ∧ noVariable c then
      let s := landUpTo s n (lastWv c)
      let c := s.core n
      if c.ending.isNone then .next s
      else
        let s := loadsPass s n
        let c := s.core n
        let s := s.setCore n { c with mode := .idle, launch := none, ending := none, pends := [] }
        match c.launch with
        | some l => .next (s.finishWork l.work stOK (BitVec.ofNat 64 code) 0)
        | none => .next s
    else .next s

/-- CLEAR_HALT: in HALTED, CORE_HALT is cleared and the core enters IDLE (R139, R154). -/
def execClearHalt (n : Nat) (s : State) : Host.Outcome State Fault Refusal :=
  let c := s.core n
  if c.mode = .halted then
    .next (s.setCore n { c with mode := .idle, haltCode := 0, haltDetail := 0, haltBank := false, haltIndex := 0, second := 0 })
  else .next s

/-- A warm reset with everything in flight abandoned. -/
def stopCore (s : State) (n : Nat) : State := warmReset (abandonCore s n) n

/-- CORE_RESET: a warm reset (R140). -/
def execCoreReset (n : Nat) (s : State) : Host.Outcome State Fault Refusal := .next (stopCore s n)

/-- FLUSH_CLEAR: FLUSH_COUNT ends at the increments made in the same cycle (R61, R62). -/
def execFlushClear (n inc : Nat) (s : State) : Host.Outcome State Fault Refusal :=
  let c := s.core n
  .next (s.setCore n { c with num := { c.num with flushCount := BitVec.ofNat 32 (min inc 0xFFFFFFFF) } })

end Sys2Proof.Machine
end

