-- ==== Sys2Proof/Machine/Ending.lean ====
section
/-! DEFINITION. How a collective ends on a member (R486, R487, R508): the fields of its descriptor (R479), its slots'
release (R435), its completion record and its launcher's completion. -/

namespace Sys2Proof.Machine

/-! Descriptors (R479). -/

def dW (d : List Word) (i : Nat) : Word := d.getD i 0
def dKind (d : List Word) : Nat := fld (dW d 0) 3 0
def dGroup (d : List Word) : Nat := fld (dW d 0) 9 4
def dGen (d : List Word) : Nat := fld (dW d 0) 31 16
def dColl (d : List Word) : Nat := fld (dW d 0) 47 32
def dS (d : List Word) : Nat := fld (dW d 0) 53 48 + 1
def dWin (d : List Word) : Nat := fld (dW d 0) 56 54 + 1
def dNelem (d : List Word) : Nat := fld (dW d 1) 31 0
def dCH (d : List Word) : Nat := fld (dW d 1) 41 32
def dSfmt (d : List Word) : Nat := fld (dW d 1) 45 42
def dDfmt (d : List Word) : Nat := fld (dW d 1) 49 46
def dRecw (d : List Word) : Nat := fld (dW d 1) 54 50
def dE (d : List Word) : Int := sextN 16 (fld (dW d 2) 15 0)
def dXout (d : List Word) : Int := sextN 16 (fld (dW d 2) 31 16)
def dTimeout (d : List Word) : Nat := max 100 (fld (dW d 2) 63 32)
def dSrc (d : List Word) : Nat := (dW d 3).toNat
def dDst (d : List Word) : Nat := (dW d 4).toNat
def dRetain (d : List Word) : Nat := (dW d 5).toNat
def dRecord (d : List Word) : Nat := fld (dW d 6) 31 0
def dScontrib (d : List Word) : Nat := fld (dW d 6) 48 32
def dKernel (d : List Word) : Nat := fld (dW d 7) 7 0
def dDesc (d : List Word) : Bool := bit (dW d 7) 8
def dKeyType (d : List Word) : Nat := fld (dW d 7) 11 9
def dNown (d : List Word) : Nat := fld (dW d 7) 15 12
def dCap (d : List Word) : Nat := fld (dW d 7) 39 16
def dOwn (d : List Word) (j : Nat) : Nat := fld (dW d (8 + j / 4)) (16 * (j % 4) + 15) (16 * (j % 4))
def dStage (d : List Word) : Nat := (dW d 10).toNat
def dCounts (d : List Word) : Nat := (dW d 11).toNat
def dPs (d : List Word) : List Word := (upFrom 12 8).map (dW d)
def dRacew (d : List Word) : Nat := (dW d 20).toNat

def kALLREDUCE : Nat := 0
def kREDUCE : Nat := 1
def kDISPATCH : Nat := 2
def kSORT : Nat := 3
def kRACE : Nat := 4

def dSum (d : List Word) : Bool := decide (dKind d ≤ 1)
def dReclen (d : List Word) : Nat := 8 * (dRecw d + 1)
/-- Bytes of an element of SRC, and of one written to DST. -/
def dSrcBytes (d : List Word) : Nat := if dSfmt d = 0xA then 3 else 5
def dDstBytes (d : List Word) : Nat := if dDfmt d = 0xB then 5 else elemBytes (fmtOf (dDfmt d))

/-! Stream units and slots. -/

/-- The physical unit of a logical stream unit (R427). -/
def State.unitOf (s : State) (l : Nat) : Option Nat :=
  (upFrom 0 64).find? fun u => s.rfld (Reg.stuUnitStat u) 15 8 == l && s.rfld (Reg.stuUnitStat u) 1 0 == 1

def unitStat (u : Nat) : Nat := Reg.stuUnitStat u

def State.slot1 (s : State) (n : Nat) : Option Slot := tabGet (fun _ => none) s.slots n
def State.setSlot (s : State) (n : Nat) (x : Option Slot) : State := { s with slots := tabSet (fun _ => none) s.slots n x }

/-- The physical unit of a slot (R428). -/
def State.slotUnit (s : State) (n : Nat) : Nat := (s.unitOf (n / 128)).getD 0

/-- Releases a slot (R435). -/
def State.release (s : State) (n : Nat) : State :=
  match s.slot1 n with
  | none => s
  | some x =>
    let r := unitStat (s.slotUnit n)
    ((s.setSlot n none).rsetFld r 23 16 (s.rfld r 23 16 - 1)).rsetFld r 31 24 (s.rfld r 31 24 + x.pages)

/-! The table. -/

def State.coll (s : State) (h : Nat) : Option Coll := s.colls.find? (fun c => c.h == h)
def State.setColl (s : State) (c : Coll) : State := { s with colls := s.colls.map fun x => if x.h = c.h then c else x }

/-! Ending (R486, R487). -/

/-- The completion record. -/
def recordWords (c : Coll) (code cause lost : Nat) : List Word :=
  [BitVec.ofNat 64 (code + cause <<< 8 + c.retried.toNat <<< 16 + c.won.toNat <<< 17 + c.sat.toNat <<< 18 + c.invalid.toNat <<< 19 +
     lost <<< 32),
   BitVec.ofNat 64 (min c.flush 0xFFFFFFFF + (min c.retx 0xFFFFFFFF) <<< 32), BitVec.ofNat 64 c.amax, BitVec.ofNat 64 c.dropped,
   0, 0, 0, 0]

/-- The launcher learns of the result: S[SD], SIG_SEM and the end of the command, or a completion entry. -/
def State.tellLauncher (s : State) (who : Requester) (code cause : Nat) : State :=
  match who with
  | .core n f _ =>
    match findFlight (s.core n) f with
    | some x =>
      let (cyc, s) := s.outsideCycle n
      completeFlight s n { x with scalars := [(cSD x.cmd, BitVec.ofNat 64 code)], formed := true, waiting := 0 } cyc
    | none => s
  | .work id => if code = 0 then s.finishWork id stOK 0 0 else s.finishWork id stCOLL_FAILED (BitVec.ofNat 64 code) cause
  | .coll _ => s

/-- The slots of a collective are released. -/
def State.dropSlots (s : State) (c : Coll) : State :=
  c.roles.foldl (fun s r => match r.slot with | some n => s.release n | none => s) s

/-- A member ends a collective. -/
def State.finish (s : State) (h code cause lost : Nat) : State :=
  match s.coll h with
  | none => s
  | some c =>
    let mine (r : Req) : Bool := r.who == .coll h
    let s := { s with colls := s.colls.filter (fun x => x.h != h), reqs := s.reqs.filter (fun r => !mine r)
                      unsent := s.unsent.filter (fun u => !mine u.req) }.pump
    let s := (s.dropSlots c).mputBytes c.record (wordsBytes (recordWords c code cause lost))
    let s := s.rsetFld Reg.stuCollStat 10 0 s.colls.length
    let s := if code = 0 then s else s.rcount Reg.stuCollStat 31 16 1
    s.tellLauncher c.who code cause

/-- A launch that waits for an entry ends as one in flight does: its record, and its launcher's completion. -/
def State.endWait (s : State) (w : CollWait) (code cause lost : Nat) : State :=
  let k := pewKey w.phys (fld (s.mword (w.key + 48)) 31 0)
  let s := s.mputBytes k (wordsBytes [BitVec.ofNat 64 (code + cause <<< 8 + lost <<< 32), 0, 0, 0, 0, 0, 0, 0])
  s.tellLauncher w.who code cause

/-- Frames of collectives that have been asked for and have not gone out are dropped. -/
def State.mute (s : State) (mine : Frame → Bool) : State :=
  let out (f : Frame) : Bool := decide (0x10 ≤ fType f) && decide (fType f ≤ 0x17) && mine f
  let s := s.inj.foldl (fun s x => { s with inj := tabSet (fun _ => []) s.inj x.1 (x.2.filter fun f => !out f) }) s
  s.rsv.foldl (fun s x => s.setRsv x.1 { x.2 with queue := x.2.queue.filter fun e => !out e.2.1 }) s

/-- Every collective ends at once, and no further collective frame is sent, on a module that is ISOLATED or TUNGSTEN
(R508, R592). -/
def State.endColls (s : State) : State :=
  let own := s.flatId
  let s := s.colls.foldl (fun s c => s.finish c.h 2 7 own) s
  let s := s.collWaits.foldl (fun s w => s.endWait w 2 7 own) s
  { s with collWaits := [], endJobs := [] }.mute fun _ => true

end Sys2Proof.Machine
end

