-- ==== Sys2Proof/Machine/LinkOps.lean ====
section
/-! DEFINITION. The Psioz links: which lanes and links a quad has (R289, R290), lane maps (R321, R322), control slots
(R303), the tail of an arriving frame (R369), bring-up, fast retrain and DOWN (R320 to R325), sparing and reduced
width (R326 to R330). -/

namespace Sys2Proof.Machine

/-! Lanes and links. Logical lanes have keys 4 q + l, 120 to 127 for the Solder link; physical lanes 5 q + j. -/

/-- The link ports of a quad (R289, R290). -/
def State.quadLinks (s : State) (q : Nat) : List Nat :=
  if 30 ≤ q then [120]
  else match s.split q with
    | 0 => [4 * q]
    | 1 => [4 * q, 4 * q + 2]
    | 2 => upFrom (4 * q) 4
    | _ => []

/-- The quads whose lanes a link uses. -/
def linkQuads (p : Nat) : List Nat := if p = 120 then [30, 31] else [p / 4]

/-- Configured width in lanes. -/
def State.linkW (s : State) (p : Nat) : Nat :=
  if p = 120 then 8 else match s.split (p / 4) with | 0 => 4 | 1 => 2 | _ => 1

/-- The log2 code of a width. -/
def widthCode (w : Nat) : Nat := if 8 ≤ w then 3 else if 4 ≤ w then 2 else if 2 ≤ w then 1 else 0

/-- Keys of a link's logical lanes. -/
def State.laneKeys (s : State) (p : Nat) : List Nat := upFrom p (s.linkW p)

/-- Physical lane that sends a logical lane; 7 when none (LNK_QMAP). -/
def State.txLane (s : State) (key : Nat) : Nat := s.rfld (Reg.lnkQmap (key / 4)) (3 * (key % 4) + 2) (3 * (key % 4))

def State.setTxLane (s : State) (key j : Nat) : State :=
  s.rsetFld (Reg.lnkQmap (key / 4)) (3 * (key % 4) + 2) (3 * (key % 4)) j

/-- Logical lanes in use. -/
def State.activeKeys (s : State) (p : Nat) : List Nat := (s.laneKeys p).filter fun k => s.txLane k != 7

def State.lane (s : State) (q j : Nat) : Lane := tabGet (fun _ => laneReset) s.lanes (5 * q + j)
def State.setLane (s : State) (q j : Nat) (l : Lane) : State :=
  { s with lanes := tabSet (fun _ => laneReset) s.lanes (5 * q + j) l }

/-- The physical receive lane of a logical lane of a quad; the spare's is that of 4. -/
def State.rxLane (s : State) (q i : Nat) : Option Nat := (upFrom 0 5).find? fun j => (s.lane q j).rxLog == some i

/-- The link and logical lane that a physical receive lane serves. -/
def State.linkOfLane (s : State) (q j : Nat) : Option (Nat × Nat) :=
  match (s.lane q j).rxLog with
  | some i => (s.quadLinks q).findSome? fun p =>
      let key := 4 * q + i
      if i < 4 && (s.activeKeys p).contains key then some (p, key) else none
  | none => none

/-- LNK_QCFG.ENABLE and PRECODE, quad 30's for the Solder link (R290). -/
def State.quadOn (s : State) (q : Nat) : Bool := s.rbit (Reg.lnkQcfg (min q 30)) 0
def State.precode (s : State) (q : Nat) : Bool := s.rbit (Reg.lnkQcfg (min q 30)) 3
def State.spareAuto (s : State) (q : Nat) : Bool := s.rbit (Reg.lnkQcfg (min q 30)) 4

/-- A lane in LOS or LOL. -/
def State.lossy (s : State) (q j : Nat) : Bool := s.rfld (Reg.lnkPcnt1 q j) 41 40 != 0

/-- LNK_QMAP.SPARE. -/
def State.spareLane (s : State) (q : Nat) : Nat := s.rfld (Reg.lnkQmap q) 14 12

/-- STATE and WIDTH follow the link (R320, R331; STATE reads TRAINING in a fast retrain, log 25). -/
def State.syncLink (s : State) (p : Nat) : State :=
  let l := s.link p
  let st := match l.phase with
    | .down => 0
    | .lock | .mark | .init | .fmark | .finit => 1
    | .live => if s.fenced p then 4 else if l.degraded then 3 else 2
  let w := if l.phase.serving then widthCode (s.activeKeys p).length else 0
  (s.rsetFld (s.lstatOf p) 2 0 st).rsetFld (s.lstatOf p) 4 3 w

def State.setPhase (s : State) (p : Nat) (ph : LinkPhase) : State :=
  (s.setLink p { s.link p with phase := ph }).syncLink p

/-- At a frame boundary of a link port's output, SWC_PORT_CFG.FENCE as written is in effect (R390); a fence sinks what waits
(R389). -/
def State.fenceTakes (s : State) (p : Nat) : State :=
  let v := s.rbit (Reg.swcPortCfg p) 1
  if (s.link p).tx.isSome || v == s.fenced p then s
  else
    let s := { s with fences := tabSet (fun _ => false) s.fences p v }.syncLink p
    if v then s.flushPort p else s

/-- Event payload of a link: quad and link index. -/
def State.linkItems (s : State) (p : Nat) : List (Nat × Nat) := [(8, portQuad p), (8, s.linkK p)]

/-- LINK_RETRAIN causes, in R333's order; LINK_DOWN's go on from them. -/
def causeReplay : Nat := 0
def causeKeepalive : Nat := 1
def causeCredit : Nat := 2
def causeClock : Nat := 3
def causeLoss : Nat := 4
def causeSparing : Nat := 5
def causeRequest : Nat := 6
def causeHeader : Nat := 7
def causePll : Nat := 8
def causeNoLane : Nat := 9
def causeResume : Nat := 10

/-! The scheduler's join, and the tail of a frame. -/

def State.schedOf (s : State) (p : Nat) : Sched :=
  tabGet (fun k => { v := 0, f := [], active := [], wfq := regReset (Reg.swcPortWfq k), shA := 0, shB := 0, tokA := 0, tokB := 0 }) s.sched p

def State.setSched (s : State) (p : Nat) (x : Sched) : State :=
  { s with sched := tabSet (fun k => { v := 0, f := [], active := [], wfq := regReset (Reg.swcPortWfq k), shA := 0, shB := 0, tokA := 0, tokB := 0 }) s.sched p x }

/-- A frame of a class joins a port's queues (R403: a waking class starts at V). -/
def State.onJoin (s : State) (p tc : Nat) : State :=
  let x := s.schedOf p
  if tc = 0 || tabGet (fun _ => false) x.active tc then s
  else s.setSched p { x with active := tabSet (fun _ => false) x.active tc true, f := tabSet (fun _ => 0) x.f tc x.v }

/-- Whether a copy must have its frame held whole (R368). -/
def State.mustHold (s : State) (h : Held) (c : Copy) : Bool :=
  s.rbit (Reg.swcPortCfg h.inPort) 0 || fMcast (heldFrame h) ||
  (match c.dest with
   | .adaptive => false
   | .port p => !isLinkPort p || (isLinkPort h.inPort && decide (s.portWidth h.inPort < s.portWidth p)))

/-- The last slot of a frame has arrived (R352, R369): stomped, failing its payload check, or with a malformed trailer,
it is counted. A malformed one of which nothing has begun to leave is sunk whole (R352); else its copies held whole are sunk,
and the others are sent on stomped (log 26). lost: its link has gone DOWN with slots missing. -/
def State.frameTail (s : State) (id : Nat) (lost : Bool) : State :=
  match s.held1 id with
  | none => s
  | some h =>
    let f := heldFrame h
    let cause := if f.payload.isEmpty then none
      else if fStomp f then some Cause.stomped
      else if lost || !pcrcGood f then some Cause.pcrc
      else if trailerReserved f.trailer then some Cause.malformed
      else none
    match cause with
    | none => (s.setHeld { h with whole := true }).settle id
    | some c =>
      let s := s.countCause c h.inPort 255 f 0
      let slots := h.slots.dropLast ++ [(h.slots.getLastD []).set 0 (setFld ((h.slots.getLastD []).getD 0 0) 32 32 1)]
      (s.setHeld { h with
        whole := true, bad := true, slots := slots
        copies := h.copies.filter fun x => !(s.mustHold h x || c == .malformed && h.sending == 0) }).settle id

/-- A link in the middle of a frame loses it (log 24): what it was sending leaves no more; what it was receiving ends
with slots of zeros and counts as damaged. -/
def State.dropInFlight (s : State) (p : Nat) : State :=
  let l := s.link p
  let s := match l.tx with
    | some t => match s.held1 t.id with
      | some h => (s.setHeld { h with sending := h.sending - 1 }).settle t.id
      | none => s
    | none => s
  match l.cur with
  | some id => match s.held1 id with
    | some h =>
      let miss := h.need - h.slots.length
      (s.setHeld { h with slots := h.slots ++ List.replicate miss (List.replicate 8 0) }).frameTail id true
    | none => s
  | none => s

/-! Control slots (R303). -/

/-- CRED0 to CRED5 as granted. -/
def State.credWord (s : State) (p lo n : Nat) : Nat :=
  (upFrom 0 n).foldl (fun a i => a + ((s.cellsOf p (lo + i)).cred % 65536) <<< (16 * i)) 0

/-- Whether a link keeps, or has kept, its sequence state through this bring-up: it sends RESUME = 1 (R324). -/
def resuming (l : Link) : Bool := match l.phase with | .finit | .fmark => true | .live => l.resumed | _ => false

/-- A control slot of a kind, with its word 4, and whether it carries NAK. -/
def State.lcsSlot (s : State) (p kind : Nat) (w4 : Word) (nak : Bool) : List Word :=
  let l := s.link p
  let q := portQuad p
  let w0 := kind + ((l.rxSeq + 1023) % 1024) <<< 4 + l.rxAny.toNat <<< 14 + nak.toNat <<< 15 + (s.fenced p).toNat <<< 16 +
    (if kind = 2 ∧ resuming l then 1 <<< 17 else 0)
  let w3 := if kind = 2 then
      s.flatId + q <<< 16 + (s.linkK p) <<< 21 + (widthCode (s.linkW p)) <<< 23 +
        (if p = 120 then (s.rfld Reg.twnCfg 0 0) <<< 25 else 0) + (s.precode q).toNat <<< 26
    else 0
  let ws : List Word := [BitVec.ofNat 64 w0, BitVec.ofNat 64 (s.credWord p 0 4), BitVec.ofNat 64 (s.credWord p 4 2),
    BitVec.ofNat 64 w3, w4, if kind = 2 then s.rget Reg.fuseSerial else 0, 0]
  ws ++ [(crc32c (wordsBytes ws)).setWidth 64]

/-- A control slot that may be acted on (R304): a good CRC, zero reserved fields, a KIND that is not reserved. -/
def lcsGood (w : List Word) : Bool :=
  let g (i : Nat) : Word := w.getD i 0
  decide (fld (g 7) 31 0 = (crc32c (wordsBytes (w.take 7))).toNat) && decide (fld (g 7) 63 32 = 0) &&
  decide (fld (g 0) 3 0 ≤ 3) && decide (fld (g 0) 63 18 = 0) && decide (fld (g 2) 63 32 = 0) &&
  decide (fld (g 3) 63 27 = 0) && decide (fld (g 4) 63 15 = 0) && g 6 == 0

def lcsKind (w : List Word) : Nat := fld (w.getD 0 0) 3 0

/-! Training markers (R319). -/

/-- Lanes held condemned: LNK_QMAP.CONDEMNED and those condemned for this bring-up. -/
def State.condMask (s : State) (q : Nat) : Nat :=
  (upFrom 0 5).foldl (fun a j => a + ((s.rbit (Reg.lnkQmap q) (21 + j)) || (s.lane q j).bringCond).toNat <<< j) 0

def State.markerOf (s : State) (q j req ack : Nat) (ready : Bool) : Word :=
  let low := j + q <<< 3 + (s.split q) <<< 8 + (s.condMask q) <<< 10 + (s.precode q).toNat <<< 15 + req <<< 16 + ack <<< 20 +
    ready.toNat <<< 22
  BitVec.ofNat 64 (low + ((crc16 low 48 0xFFFF#16).toNat) <<< 48)

/-- Markers on lanes of a quad, at the start of training. -/
def State.sendMarkers (s : State) (q : Nat) (js : List Nat) : State :=
  js.foldl (fun s j => s.emit (.marker q j (s.markerOf q j 0 0 false))) s

/-! Bring-up, retrain, DOWN. -/

/-- Credits and cells of a link restart, with its minima as last written (R307, R373). -/
def State.restartCells (s : State) (p : Nat) : State :=
  let s := (upFrom 0 6).foldl (fun s v =>
    let c := s.cellsOf p v
    { s.setCells p v { c with g := 0, gsh := 0, cred := 0 } with sharedUsed := s.sharedUsed - c.gsh }) s
  { s with gminEff := tabSet (fun k => regReset (Reg.swcPortGmin k)) s.gminEff p (s.rget (Reg.swcPortGmin p)) }

/-- Whether another link of the same quads is in service. -/
def State.quadBusy (s : State) (p : Nat) : Bool :=
  (linkQuads p).any fun q => (s.quadLinks q).any fun r => r != p && (s.link r).phase.serving

/-- Receive lanes of a link, as (quad, lane). -/
def State.rxLanes (s : State) (p : Nat) : List (Nat × Nat) :=
  (s.activeKeys p).filterMap fun k => (s.rxLane (k / 4) (k % 4)).map fun j => (k / 4, j)

/-- Lanes that a full bring-up of a link trains: all five of its quads, or its own while another link of the quad is in
service. -/
def State.trainLanes (s : State) (p : Nat) : List (Nat × Nat) :=
  if s.quadBusy p then s.rxLanes p else (linkQuads p).flatMap fun q => (upFrom 0 5).map fun j => (q, j)

/-- Every lane of a list starts training anew; keep: its receive assignment stays. -/
def State.retrainLanes (s : State) (ls : List (Nat × Nat)) (keep : Bool) : State :=
  let s := ls.foldl (fun s x =>
    let l := s.lane x.1 x.2
    s.setLane x.1 x.2 (if keep then { l with sat := false, peerReady := false }
      else { l with plane := none, peerCond := 0, sat := false, peerReady := false, bringCond := false })) s
  ls.foldl (fun s x => s.sendMarkers x.1 [x.2]) s

/-- Whether the transmit PLLs of a link's quads are locked. -/
def State.pllLocked (s : State) (p : Nat) : Bool := (linkQuads p).all fun q => !tabGet (fun _ => false) s.pllLol q

/-- A full bring-up starts (R320): it waits for its quads' PLLs, in TRAINING, and then sends markers. -/
def State.startTrain (s : State) (p : Nat) : State :=
  let l := s.link p
  let s := (s.setLink p { linkReset with trained := l.trained }).restartCells p
  if s.pllLocked p then (s.setPhase p .mark).retrainLanes (s.trainLanes p) false else s.setPhase p .lock

/-- A link leaves service, without an event: frames in flight and queued are lost, kept codewords, SEQ and credits are
discarded (R325, R388), and a mirror on the Solder link fails (R582). -/
def State.linkGone (s : State) (p : Nat) : State :=
  let s := s.dropInFlight p
  let l := s.link p
  let s := (((s.setLink p { linkReset with trained := l.trained }).syncLink p).flushPort p).fenceTakes p
  if p = 120 then s.mirrorFail 9 else s

/-- LINK_DOWN, and a full bring-up while the quad is enabled (R325). -/
def State.linkDown (s : State) (p cause : Nat) : State :=
  let s := (s.linkGone p).raise evLINK_DOWN sevCONTAINED (s.linkItems p ++ [(8, cause)])
  if s.quadOn (portQuad p) then s.startTrain p else s

/-- An attempt ends with LINK_CONFIG_MISMATCH; the link is DOWN until its configuration changes or RETRAIN is written
(R323). which: the fields of R321 and R323 in order, lane pattern 0 (log 27). -/
def State.linkMismatch (s : State) (p which : Nat) : State :=
  let s := s.linkGone p
  let s := (s.setLink p { s.link p with blocked := true }).syncLink p
  s.raise evLINK_CONFIG_MISMATCH sevCONTAINED (s.linkItems p ++ [(8, which)])


/-! Width and lane assignment. -/

/-- The lanes that a link runs on when only some are usable (R330). -/
def runWidth (p w : Nat) (ok : List Nat) : List Nat :=
  let n := ok.length
  if n = w then ok
  else if p = 120 then
    let lo := ok.filter (fun k => k < 124)
    let hi := ok.filter (fun k => 124 ≤ k)
    if lo.length = 4 then lo else if hi.length = 4 then hi else if 2 ≤ n then ok.take 2 else ok.take 1
  else if 4 ≤ n then ok.take 4 else if 2 ≤ n then ok.take 2 else ok.take 1

/-- A link keeps only the lanes of the width it can run at; it is degraded when that is less than its configured one. -/
def State.narrow (s : State) (p : Nat) : State :=
  let ok := s.activeKeys p
  let use := runWidth p (s.linkW p) ok
  let s := ok.foldl (fun s k => if use.contains k then s else s.setTxLane k 7) s
  s.setLink p { s.link p with degraded := decide (use.length < s.linkW p) }

/-- Lane order of a quad, from the lanes that have decoded a marker (R321): some false straight, some true reversed,
none neither. -/
def State.laneOrder (s : State) (q : Nat) : Option Bool :=
  let seen := (upFrom 0 5).filterMap fun j => (s.lane q j).plane.map fun p => (j, p)
  if seen.all (fun x => x.2 == x.1) then some false
  else if seen.all (fun x => x.2 + x.1 == 4) then some true
  else none

/-- Whether physical lane j of a quad is in the set of R322: held condemned here or by the peer, translated through the lane
order. -/
def State.laneBad (s : State) (q j : Nat) : Bool :=
  let far := if (s.laneOrder q).getD false then 4 - j else j
  let peer := (upFrom 0 5).foldl (fun a j => a ||| (s.lane q j).peerCond) 0
  (s.condMask q).testBit j || peer.testBit far

/-- Firmware tells the optical module of a lane's connector to deactivate or reactivate the lane (R336, R337). -/
def State.cmisLane (s : State) (q j : Nat) (on : Bool) : State :=
  let n := 5 * (q % 4) + j
  if s.rbit (Reg.lnkOptMod (q / 4)) 1 then s.emit (.cmisLane (q / 4) (n / 8) (n % 8) on) else s

/-- The lane of a list that serves logical lane i, 4 being the spare (R322); where a lane is kept as the spare, the others
serve 0 to 3. -/
def laneAt (ls : List Nat) (keep : Option Nat) (i : Nat) : Option Nat :=
  match keep with
  | none => ls[i]?
  | some x => if i = 4 then ls.find? (· == x) else (ls.filter (· != x))[i]?

/-- Assigns logical lanes and the spare of a quad (R322). keep: a fast retrain while SPARE_AUTO is 0, which leaves
the spare (R328; log 27). -/
def State.assignLanes (s : State) (q : Nat) (keep : Bool) : State :=
  let rev := (s.laneOrder q).getD false
  let good := (upFrom 0 5).filter fun j => !s.laneBad q j
  let rx := if rev then good.reverse else good
  let txKeep := if keep && s.spareLane q != 7 then some (s.spareLane q) else none
  let rxKeep := if keep then s.rxLane q 4 else none
  let map := (upFrom 0 5).foldl (fun a i => a + ((laneAt good txKeep i).getD 7) <<< (3 * i)) 0
  let s := (s.rsetFld (Reg.lnkQmap q) 14 0 map).rsetBit (Reg.lnkQmap q) 15 rev
  (upFrom 0 5).foldl (fun s j => s.setLane q j { s.lane q j with rxLog := (upFrom 0 5).find? fun i => laneAt rx rxKeep i == some j }) s

/-- The transmitter of a logical lane moves to its quad's spare. -/
def State.moveTx (s : State) (key : Nat) : State :=
  let q := key / 4
  let new := s.spareLane q
  ((s.setTxLane key new).rsetFld (Reg.lnkQmap q) 14 12 7).cmisLane q new true

/-- The receiver of a logical lane moves to the lane that carried the spare. -/
def State.moveRx (s : State) (key : Nat) : State :=
  let q := key / 4
  let i := key % 4
  let r := s.rxLane q i
  let s := match s.rxLane q 4 with
    | some n => s.setLane q n { s.lane q n with rxLog := some i }
    | none => s
  match r with
  | some o => s.setLane q o { s.lane q o with rxLog := none }
  | none => s

/-- Whether a quad has a spare that may be used (R318, R322). -/
def State.spareReady (s : State) (q : Nat) : Bool :=
  s.spareLane q != 7 && (match s.rxLane q 4 with | some j => !s.lossy q j | none => true)

/-- A link that shares its quad with another in service keeps its lanes' numbers: one that sends or receives on a lane of that
set moves to the spare, or is lost (DESIGN CHOICE, log 27). -/
def State.dropLanes (s : State) (p : Nat) : State :=
  (s.activeKeys p).foldl (fun s k =>
    let q := k / 4
    if s.laneBad q (s.txLane k) || (match s.rxLane q (k % 4) with | some j => s.laneBad q j | none => false) then
      if s.spareAuto q && s.spareReady q && !s.laneBad q (s.spareLane q) then (s.moveTx k).moveRx k else s.setTxLane k 7
    else s) s

/-- Logical lanes are assigned in a bring-up or a fast retrain of a link (R320 step 4, R322, R324, R330). -/
def State.placeLanes (s : State) (p : Nat) : State :=
  let keep (q : Nat) : Bool := (s.link p).phase == .fmark && !s.spareAuto q
  (if s.quadBusy p then s.dropLanes p else (linkQuads p).foldl (fun s q => s.assignLanes q (keep q)) s).narrow p

/-- Training ends on the lanes of a link (R320 step 4, R324): it goes on to exchange INIT slots. A lane that is lost and
carries no traffic does not hold a fast retrain up. -/
def State.tryAdvance (s : State) (p : Nat) : State :=
  let l := s.link p
  let done (x : Nat × Nat) : Bool :=
    let n := s.lane x.1 x.2
    (n.plane.isSome && n.sat && n.peerReady) || n.bringCond || s.rbit (Reg.lnkQmap x.1) (21 + x.2)
  match l.phase with
  | .mark =>
    if (s.trainLanes p).all done then
      let s := s.placeLanes p
      if (s.activeKeys p).isEmpty then
        (s.setPhase p .down).raise evLINK_DOWN sevCONTAINED (s.linkItems p ++ [(8, causeNoLane)])
      else s.setPhase p .init
    else s
  | .fmark =>
    if (s.trainLanes p).all (fun x => done x || (s.lossy x.1 x.2 && !(s.rxLanes p).contains x)) then
      let was := (s.activeKeys p).length
      let s := s.placeLanes p
      let now := (s.activeKeys p).length
      if now = 0 then s.linkDown p causeNoLane
      else
        let l := s.link p
        (s.setLink p { l with narrowing := l.narrowing || decide (now < was) }).setPhase p .finit
    else s
  | _ => s

/-! Sparing (R326 to R329). -/

/-- Word 4 of a SPARE slot. -/
def spareWord (lane seq : Nat) (acc ref : Bool) : Word :=
  BitVec.ofNat 64 (lane % 8 + (seq % 1024) <<< 3 + acc.toNat <<< 13 + ref.toNat <<< 14)

/-- A physical lane is held condemned from now on. -/
def State.condemnLane (s : State) (q j : Nat) : State :=
  (s.rsetBit (Reg.lnkQmap q) (21 + j) true).cmisLane q j false

/-- A lane has been replaced by a spare: it is condemned and recorded, and its spare serves (R326 step 5). -/
def State.retireLane (s : State) (q old new : Nat) : State :=
  let s := (s.record 0 (5 * q + old) (5 * q + new) 0xFFFF 0).condemnLane q old
  let s := (s.rsetFld (Reg.twnHpLane (5 * q + old)) 33 32 3).rsetBit (Reg.twnHpLane (5 * q + new)) 34 false
  s.useSpare 15 8

def State.raiseSpared (s : State) (x : Nat × Nat × Nat) (kind : Nat) : State :=
  s.raise evLANE_SPARED sevCORRECTED [(8, x.1), (8, x.2.1), (8, x.2.2), (8, kind)]

/-- Training of a quad's spare starts (R326 step 3). -/
def State.trainSpare (s : State) (q : Nat) : State :=
  let s := match s.rxLane q 4 with
    | some j => s.setLane q j { s.lane q j with plane := none, peerCond := 0, sat := false, peerReady := false }
    | none => s
  s.sendMarkers q [s.spareLane q]

/-- Planned sparing of a logical lane of a link starts (R326). -/
def State.startSparing (s : State) (p lane : Nat) : State :=
  let l := s.link p
  if l.phase.serving && l.sparing.isNone && s.spareReady ((p + lane) / 4) && (s.activeKeys p).contains (p + lane) then
    s.setLink p { l with
      sparing := some { lane := lane, seq := l.txSeq, left := 4096, mine := true, accepted := false, trained := false, moved := none, took := false }
      lcsOut := l.lcsOut ++ [(3, spareWord lane l.txSeq false false)] }
  else s

/-- The first lane in use of a link to which a sparing is owed: it starts as soon as the link is in service and no other
sparing runs; without a spare the lane stays, with SPARE_EXHAUSTED (R599). -/
def State.spareOwed (s : State) (p : Nat) : State :=
  let l := s.link p
  if l.phase != .live || l.sparing.isSome then s
  else
    match (s.activeKeys p).find? fun k => match s.rxLane (k / 4) (k % 4) with | some j => (s.lane (k / 4) j).owed | none => false with
    | none => s
    | some k =>
      let q := k / 4
      let clear (s : State) : State := match s.rxLane q (k % 4) with | some j => s.setLane q j { s.lane q j with owed := false } | none => s
      if s.spareLane q = 7 then (clear s).raise evSPARE_EXHAUSTED sevCONTAINED []
      else if s.spareReady q then (clear s).startSparing p (k - p)
      else s

/-- A sparing of which both directions have moved ends (R326 step 5). -/
def State.sparingDone (s : State) (p : Nat) : State :=
  let l := s.link p
  match l.sparing with
  | some sp =>
    match sp.moved with
    | some (old, new) =>
      if sp.took then
        let q := (p + sp.lane) / 4
        (((s.setLink p { l with sparing := none }).retireLane q old new).raiseSpared (q, old, new) 0).spareOwed p
      else s
    | none => s
  | none => s

/-- This end sends on the spare, once SWITCH_SEQ is reached, training has succeeded and the spare may be used (R318, R326
step 4). -/
def State.trySwitch (s : State) (p : Nat) : State :=
  let l := s.link p
  match l.sparing with
  | some sp =>
    if sp.left = 0 && sp.accepted && sp.trained && sp.moved.isNone && s.spareReady ((p + sp.lane) / 4) then
      let key := p + sp.lane
      let x := (s.txLane key, s.spareLane (key / 4))
      ((s.moveTx key).setLink p { l with sparing := some { sp with moved := some x } }).sparingDone p
    else s
  | none => s

/-- A sparing is abandoned, unless this end already sends on the spare; then the other direction moves with it. -/
def State.dropSparing (s : State) (p : Nat) : State :=
  let l := s.link p
  match l.sparing with
  | some sp =>
    if sp.moved.isSome then ((s.moveRx (p + sp.lane)).setLink p { l with sparing := some { sp with took := true } }).sparingDone p
    else (s.setLink p { l with sparing := none }).spareOwed p
  | none => s

/-- A fast retrain starts (R324), with its event and points. Markers go on all five lanes of its quads, or on its own while
another link of the quad is in service. -/
def State.fastRetrain (s : State) (p cause : Nat) : State :=
  if (s.link p).phase = .live then
    let s := match (s.link p).sparing with | some sp => if sp.moved.isSome then s.dropSparing p else s | none => s
    let s := s.setPhase p .fmark
    let s := s.setLink p { s.link p with cause := cause }
    let s := s.rcount (s.lstatOf p) 47 32 1
    let s := s.raise evLINK_RETRAIN sevINFO (s.linkItems p ++ [(8, cause)])
    (s.addPoints (.port p) 20).retrainLanes (s.trainLanes p) true
  else s

/-- Points for a lane (R598); a lane so condemned is owed a planned sparing, or stays with SPARE_EXHAUSTED (R599); a
condemned spare is a spare no more. -/
def State.lanePoints (s : State) (q j k : Nat) : State :=
  let off := Reg.twnHpLane (5 * q + j)
  let was := s.rfld off 33 32
  let s := s.addPoints (.lane (5 * q + j)) k
  if was < 2 ∧ s.rfld off 33 32 = 2 then
    if s.spareLane q = j then
      ((s.rsetFld (Reg.lnkQmap q) 14 12 7).condemnLane q j).loseSpare off 15 8
    else if s.spareLane q = 7 then s.raise evSPARE_EXHAUSTED sevCONTAINED []
    else
      let s := s.setLane q j { s.lane q j with owed := true }
      match s.linkOfLane q j with
      | some (p, _) => s.spareOwed p
      | none => s
  else s

end Sys2Proof.Machine
end

