-- ==== Sys2Proof/Machine/Modes.lean ====
section
/-! DEFINITION. The module's states (R591 to R594): entering READY, ISOLATED and TUNGSTEN, and the immediate actions of
a FATAL event (R580, R594, R610). -/

namespace Sys2Proof.Machine

/-- HIF_STATUS.MODULE. -/
def mBOOT : Nat := 0
def mREADY : Nat := 1
def mISOLATED : Nat := 2
def mTUNGSTEN : Nat := 3

/-- A change of module state, with its event (R591): cause is a position in the table of R591, or of R594 for
TUNGSTEN. WAS_ISOLATED remembers ISOLATED (R576). -/
def State.changeMode (s : State) (new cause : Nat) : State :=
  let old := s.modState
  let s := if new = mISOLATED then s.rsetBit Reg.twnStatus 9 true else s
  (s.rsetFld Reg.hifStatus 9 8 new).raise evMODULE_STATE (if new = mREADY then sevINFO else sevCONTAINED)
    [(8, old), (8, new), (8, cause)]

/-- The launch queues are emptied; each launch completes with NOT_READY (R592). -/
def State.emptyLaunches (s : State) : State :=
  (upFrom 0 192).foldl (fun s l =>
    let q := s.launches l
    q.foldl (fun s x => s.finishWork x.work stNOT_READY (BitVec.ofNat 64 s.modState) 0) (s.setLaunches l [])) s

/-- Work whose requests have not all gone out. -/
def State.worksUnsent (s : State) : List Nat :=
  s.unsent.filterMap fun u => match u.req.who with | .work id => some id | _ => none

/-- What entering ISOLATED or TUNGSTEN does at once (R592). Requests that have not gone out never do, so that what frees an
entry lets none of them out. -/
def State.leaveReady (s : State) : State :=
  let sends := s.worksUnsent
  let s := (upFrom 0 192).foldl (fun s n => if (s.core n).mode = .idle then s else stopCore s n) { s with unsent := [] }
  (s.emptyLaunches.endColls.stopWorks sends).setDirty

/-- Entering ISOLATED, from READY or TUNGSTEN (R591, R593). -/
def State.enterIsolated (s : State) (cause : Nat) : State := (s.changeMode mISOLATED cause).leaveReady

/-- A READY module enters TUNGSTEN (R594); from any other state nothing changes. -/
def State.enterTungsten (s : State) (cause : Nat) : State :=
  if s.modState = mREADY then (s.changeMode mTUNGSTEN cause).leaveReady else s

/-- A FATAL event and its immediate actions (R580, R594). -/
def State.raiseFatal (s : State) (code : Nat) (items : List (Nat × Nat)) : State :=
  ((s.raise code sevFATAL items).setDirty).enterTungsten 3

/-- LNK_LSTAT.FENCE_IN takes a mark (R706): a READY or TUNGSTEN module that now reads one is ISOLATED (R591), and a port
that becomes unusable is flushed (R381, R388). -/
def State.takeFenceMark (s : State) (p : Nat) (mark : Bool) : State :=
  let was := s.fenceIn p
  let s := s.rsetBit (s.lstatOf p) 5 mark
  if mark && !was then
    let s := s.flushPort p
    if s.modState = mREADY then s.enterIsolated 2 else if s.modState = mTUNGSTEN then s.enterIsolated 4 else s
  else s

end Sys2Proof.Machine
end

