-- ==== Sys2Proof/Machine/SwitchRows.lean ====
section
/-! DEFINITION. The commands and events of the switch core and the schedulers (R341 to R425): arrival and routing,
choice of port, selection and delivery, credits, ageing, fences, shapers, reservations. -/

namespace Sys2Proof.Machine

/-! Routes (R353 to R365). -/

/-- A port field of the route table. -/
def linkOr255 (n : Nat) : Nat := if n ≤ 120 then n else 0xFF

/-- Whether the module routes by coordinates (R346). -/
def State.coord (s : State) : Bool := s.rbit Reg.swcId 16 && !s.rbit Reg.swcId 15

/-- Coordinate d of a flat ID (R345). -/
def coordOf (id d : Nat) : Nat := bitsN id (5 * d + 4) (5 * d)

/-- DIM_LINK[d][c]: a link port, 0xFE for a local copy, or 0xFF (R365). -/
def State.dimLink (s : State) (d c : Nat) : Nat :=
  if s.coord ∧ c = coordOf s.flatId d then 0xFE
  else
    let n := s.rfld (Reg.swcDimLink d (c / 8)) (8 * (c % 8) + 7) (8 * (c % 8))
    if n = 0xFE then 0xFE else linkOr255 n

/-- D and the candidates of a destination (R355 step 4). -/
def State.portsOf (s : State) (dst : Nat) : Nat × List Nat :=
  if s.coord then
    let ps := ((upFrom 0 3).filter fun d => coordOf dst d != coordOf s.flatId d).map fun d => linkOr255 (s.dimLink d (coordOf dst d))
    (ps.headD 0xFF, ps.filter (· != 0xFF))
  else
    let e := s.rget (Reg.swcRoute dst)
    let f (i : Nat) : Nat := linkOr255 (fld e (8 * i + 7) (8 * i))
    (f 0, ([f 1, f 2, f 3, f 4]).filter (· != 0xFF))

/-- The far-tier OFFSET that a MIRROR's ADDR names (R583): the hold area starts at TWN_HOLD_BASE. -/
def State.holdOffset (s : State) (a : Nat) : Nat := s.rfld Reg.twnHoldBase 39 12 * 4096 + bitsN a 45 0

/-- Injection port of a far package 8 h + k, and of the near stack of an offset (R713). -/
def farPort (off : Nat) : Nat := 128 + 8 * bitsN off 39 39 + bitsN off 10 8
def nearPort (off : Nat) : Nat := 128 + bitsN off 37 34

/-- The internal port through which an address's tier controller is reached. -/
def State.tierPort (s : State) (a : Nat) : Nat :=
  match addrTier a with
  | 0 => corePort (s.physOf (bitsN (addrOff a) 30 23) % 192)
  | 1 => nearPort (addrOff a)
  | 2 => farPort (addrOff a)
  | _ => match semOfAddr a with | some (n, _) => corePort n | none => 128

/-- STRIPE of a collective frame (R498), and the port of its controller (R711). -/
def frStripe (f : Frame) : Nat := fld (fArg f 2) 12 7
def stripePort (st : Nat) : Nat := if st % 2 = 0 then 128 else 136

/-- The internal port through which a frame is delivered locally (R364, R713; log 35). -/
def State.deliverPort (s : State) (f : Frame) : Nat :=
  let ty := fType f
  let a := (fAddr f).toNat
  if ty = tyWR ∨ ty = tyRD ∨ ty = tyATOM ∨ ty = tySIG ∨ ty = tyFLOW then s.tierPort a
  else if ty = tyMSG then 128 + 8 * (s.physOf (bitsN (addrOff a) 30 23) % 192 / 96)
  else if ty = tyMIRROR then farPort (s.holdOffset a)
  else if ty = tyMIRRORACK then 143
  else if ty = tyMGMT then 122
  else if ty = tyCHUNK then
    match s.unitOf (chunkSlot f / 128) with | some u => 144 + u | none => 144
  else if 0x11 ≤ ty ∧ ty ≤ 0x17 then stripePort (frStripe f)
  else match s.reqs.find? (fun r => r.tag == fTag f) with | some r => r.port | none => 128

/-- The escape VC (R356). -/
def escVc (v : Nat) : Nat := if v = vcREQ then vcREQE else if v = vcRSP then vcRSPE else v

/-- What becomes of a frame's copies on arrival: sunk for a cause with its port, or queued. -/
inductive Routed
  | sink (c : Cause) (outp : Nat)
  | copies (l : List (Dest × Nat))

/-- A frame whose every allowed port is unusable (R359). -/
def State.noPort (s : State) (d : Nat) : Routed :=
  if s.fenced d then .sink .sinkOut d else .sink .noRoute 255

/-- Whether a frame may still leave on a link (R360). -/
def State.hopsLeft (s : State) (f : Frame) : Bool := decide (fHops f + 1 ≤ max 1 (s.rfld Reg.swcCtrl 4 0))

/-- Steps 1 to 3 of R355: local delivery, or no way on. -/
def State.routeFirst (s : State) (f : Frame) : Option Routed :=
  let dst := fDst f
  let st := s.rfld (Reg.swcRoute dst) 41 40
  if dst = s.flatId then some (.copies [(.port (s.deliverPort f), fVc f)])
  else if (st ≠ 1 ∧ st ≠ 2) ∨ (s.coord ∧ dst.testBit 15) then some (.sink .noRoute 255)
  else if st = 2 then some (.sink .fencedDst 255)
  else none

/-- The route of a unicast frame (R355 to R359), from its input port. -/
def State.routeOf (s : State) (f : Frame) (p : Nat) : Routed :=
  let v := fVc f
  if fType f = tyMIRROR ∨ fType f = tyMIRRORACK then
    if p = 120 then .copies [(.port (s.deliverPort f), v)]
    else if fType f = tyMIRROR ∨ s.usable 120 = true then .copies [(.port 120, v)]
    else s.noPort 120
  else
    match s.routeFirst f with
    | some r => r
    | none =>
      let (d, cs) := s.portsOf (fDst f)
      if v = vcREQ ∨ v = vcRSP then
        if (d :: cs).any s.usable then .copies [(.adaptive, v)] else s.noPort d
      else if d != 0xFF && s.usable d then .copies [(.port d, v)] else s.noPort d

/-- The copies of a multicast frame that enters on an internal port (R380): destinations, and how many members have no
link. -/
def State.mcastOf (s : State) (f : Frame) : List (Dest × Nat) × Nat :=
  let ds := ((upFrom 0 32).filter fun c => (fMcMask f).testBit c).map fun c => s.dimLink (fMcDim f) c
  ((ds.filter (· != 0xFF)).map fun d => (.port (if d = 0xFE then s.deliverPort f else d), fVc f),
   (ds.filter (· == 0xFF)).length)

/-! Arrival. -/

/-- A frame is sunk as its header arrives; the cells it would have taken are granted again (R389). need: its slots. -/
def State.sinkArriving (s : State) (c : Cause) (p outp : Nat) (f : Frame) : State :=
  let s := s.countCause c p outp f (fRes f)
  let v := fVc f
  let n := frameCells (fPlen f)
  if v < 6 then
    let (sh, s) := s.takeCells p v n
    s.freeCells p v n sh
  else s

/-- Moves a link's accepted slots to the frame that they belong to: all but its last, which FRAME_TAIL takes; slots of a
sunk frame are dropped. -/
def State.absorb (s : State) (p : Nat) : State :=
  let l := s.link p
  let k := min l.skip l.rxSlots.length
  let s := s.setLink p { l with skip := l.skip - k, rxSlots := l.rxSlots.drop k }
  let l := s.link p
  match l.cur with
  | some id => match s.held1 id with
    | some h =>
      let m := min l.rxSlots.length (h.need - 1 - h.slots.length)
      (s.setHeld { h with slots := h.slots ++ l.rxSlots.take m }).setLink p { l with rxSlots := l.rxSlots.drop m }
    | none => s
  | none => s

/-- A header that has passed its check is routed; slots are those of the frame that are there. Answers whether the frame
is held, and the state. -/
def State.enter (s : State) (p : Nat) (slots : List (List Word)) : Bool × State :=
  let f := slotsFrame slots
  let sunk (c : Cause) (o : Nat) (s : State) : Bool × State := (false, s.sinkArriving c p o f)
  if s.flatId = 0xFFFF then sunk .noId 255 s
  else if s.fenced p then sunk .sinkIn 255 s
  else if malformedHdr f p then sunk .malformed 255 s
  else
    let hold (ds : List (Dest × Nat)) (s : State) : Bool × State :=
      let n := frameCells (fPlen f)
      let (sh, s) := s.takeCells p (fVc f) n
      let id := s.nextFrame
      let cs := (ds.zip (upFrom s.nextJoin ds.length)).map fun x => (⟨x.1.1, x.1.2, x.2, s.clock⟩ : Copy)
      let h : Held := { id := id, inPort := p, inVc := fVc f, cells := n, shared := sh, at_ := s.clock, slots := slots
                        need := slotsNeed f.hdr, whole := slotsNeed f.hdr == 1, bad := false, sending := 0, copies := cs }
      let s := { s with buf := s.buf ++ [h], nextFrame := id + 1, nextJoin := s.nextJoin + ds.length }
      let s := cs.foldl (fun s c => match c.dest with | .port q => s.onJoin q (fTc f) | .adaptive => s) s
      (true, cs.foldl (fun s c => match c.dest with
        | .port q => if s.usable q then s else s.dropCopy h c .sinkOut q
        | .adaptive => s) s)
    if fMcast f then
      if isLinkPort p then hold [(.port (s.deliverPort f), fVc f)] s
      else
        let (ds, miss) := s.mcastOf f
        let s := (upFrom 0 miss).foldl (fun s _ => s.countCause .mcNolink p 255 f (fRes f)) s
        if ds.isEmpty then sunk .malformed 255 s else hold ds s
    else
      match s.routeOf f p with
      | .sink c o => sunk c o s
      | .copies ds => hold ds s

/-- The frame of a list that an internal port can take: the first for whose VC it is the oldest and whose cells are
granted (R372, R375). -/
def firstFit (s : State) (p : Nat) : List Nat → List Frame → Option Frame
  | _, [] => none
  | seen, f :: t =>
    if seen.contains (fVc f) then firstFit s p seen t
    else if frameCells (fPlen f) ≤ (s.cellsOf p (fVc f)).g then some f
    else firstFit s p (fVc f :: seen) t

/-- FRAME_ARRIVE: the next header slot of a link port (R367), or a frame handed to an internal port. -/
def execFrameArrive (p : Nat) (s : State) : Host.Outcome State Fault Refusal :=
  if isLinkPort p then
    let s := s.absorb p
    let l := s.link p
    match l.cur, l.skip, l.rxSlots with
    | none, 0, h :: t =>
      let f : Frame := ⟨h, [], []⟩
      if !hcrcGood f then .next ((s.countCause .hcrc p 255 f 0).linkDown p causeHeader)
      else
        let need := slotsNeed h
        let s := s.setLink p { l with rxSlots := t }
        let id := s.nextFrame
        let (held, s) := s.enter p [h]
        let l := s.link p
        if need = 1 then .next (s.settle id)
        else .next ((s.setLink p (if held then { l with cur := some id } else { l with skip := need - 1 })).absorb p)
    | _, _, _ => .next s
  else
    match firstFit s p [] (s.injQ p) with
    | none => .next s
    | some f =>
      let s := { s with inj := tabSet (fun _ => []) s.inj p ((s.injQ p).erase f) }
      let id := s.nextFrame
      let (held, s) := s.enter p (frameSlots f)
      .next (if held then s.frameTail id false else s)

/-- FRAME_TAIL: the last slot of the frame that a link is receiving (R369). -/
def execFrameTail (p : Nat) (s : State) : Host.Outcome State Fault Refusal :=
  let s := s.absorb p
  let l := s.link p
  match l.cur, l.rxSlots with
  | some id, w :: t =>
    match s.held1 id with
    | some h =>
      if h.slots.length + 1 = h.need then
        let s := (s.setHeld { h with slots := h.slots ++ [w] }).setLink p { l with rxSlots := t, cur := none }
        .next (s.frameTail id false)
      else .next s
    | none =>
      -- the frame has left the buffer: its copies were all sunk
      .next (s.setLink p { l with cur := none })
  | _, _ => .next s

/-! Choice and selection. -/

/-- The candidate with the most unconsumed credits, the lowest port on a tie (R358). -/
def bestPort (s : State) (v : Nat) : List Nat → Option Nat
  | [] => none
  | p :: t =>
    match bestPort s v t with
    | none => some p
    | some q =>
      let a := unconsumed (s.link p) v
      let b := unconsumed (s.link q) v
      if b < a ∨ (a = b ∧ p ≤ q) then some p else some q

/-- ADAPTIVE_CHOICE: a waiting REQ or RSP frame, whose port is still to be chosen, is looked up again (R354, R355); it takes
a candidate or D, is sunk when every port it may take is unusable, or waits (R358, R359). -/
def execAdaptiveChoice (id : Nat) (s : State) : Host.Outcome State Fault Refusal :=
  match s.held1 id with
  | none => .next s
  | some h =>
    match h.copies.find? (fun c => c.dest == .adaptive) with
    | none => .next s
    | some c =>
      let f := heldFrame h
      let join (p v : Nat) : State :=
        let c' : Copy := ⟨.port p, v, s.nextJoin, s.clock⟩
        if h.bad && s.mustHold h c' then s.sinkBad h c
        else
          ({ s.setHeld { h with copies := h.copies.map fun x => if x = c then c' else x } with nextJoin := s.nextJoin + 1 }).onJoin p (fTc f)
      match s.routeFirst f with
      | some (.sink k o) => .next (s.dropCopy h c k o)
      | some (.copies _) => .next (join (s.deliverPort f) c.vc)
      | none =>
        let (d, cs) := s.portsOf (fDst f)
        match bestPort s c.vc (cs.filter fun p => s.usable p && s.hasCredit p c.vc h.cells) with
        | some p => .next (join p c.vc)
        | none =>
          if d ≠ 0xFF ∧ s.usable d = true ∧ s.hasCredit d (escVc c.vc) h.cells = true then .next (join d (escVc c.vc))
          else if (d :: cs).any s.usable then .next s
          else match s.noPort d with
            | .sink k o => .next (s.dropCopy h c k o)
            | .copies _ => .next s

/-- Copies that wait at a port, with their frames: those that joined in an earlier cycle (R401). -/
def State.queueAt (s : State) (p : Nat) : List (Held × Copy) :=
  s.buf.flatMap fun h => (h.copies.filter fun c => c.dest == .port p && decide (c.cycle < s.clock)).map fun c => (h, c)

/-- Whether a copy may leave now: its credits, and its frame whole where it must be held whole. -/
def State.canGo (s : State) (p : Nat) (x : Held × Copy) : Bool :=
  s.hasCredit p x.2.vc x.1.cells && (x.1.whole || !s.mustHold x.1 x.2)

/-- The oldest of a list by a measure. -/
def oldestBy (le : Held × Copy → Held × Copy → Bool) : List (Held × Copy) → Option (Held × Copy)
  | [] => none
  | x :: t => match oldestBy le t with
    | none => some x
    | some y => if le x y then some x else some y

def byJoin (x y : Held × Copy) : Bool := decide (x.2.join ≤ y.2.join)

/-- Class 0: by cycle of joining, then by input port (R401). -/
def byClass0 (x y : Held × Copy) : Bool :=
  decide (x.2.cycle < y.2.cycle) || (x.2.cycle == y.2.cycle && (decide (x.1.inPort < y.1.inPort) ||
    (x.1.inPort == y.1.inPort && decide (x.2.join ≤ y.2.join))))

/-- The head of a class queue (R402). -/
def State.classHead (s : State) (p c : Nat) : Option (Held × Copy) :=
  let q := (s.queueAt p).filter fun x => fTc (heldFrame x.1) == c
  let heads := (upFrom 0 6).filterMap fun v => oldestBy byJoin (q.filter fun x => x.2.vc == v)
  oldestBy byJoin (heads.filter (s.canGo p))

/-- A shaper register names a class and is on (R405). -/
def shaperOn (w : Word) : Bool := decide (fld w 2 0 ≠ 0) && decide (fld w 23 8 ≠ 0)

/-- Whether every shaper that names a class holds tokens. -/
def shaped (x : Sched) (c : Nat) : Bool :=
  (!(shaperOn x.shA && fld x.shA 2 0 == c) || decide (0 < x.tokA)) && (!(shaperOn x.shB && fld x.shB 2 0 == c) || decide (0 < x.tokB))

/-- cost of R403. -/
def wfqCost (w : Word) (c len : Nat) : Nat := ceilDiv ((len + fld w 61 56) * 256) (max 1 (fld w (8 * c - 1) (8 * c - 8)))

/-- select_class of R403: the class, its head and its tag; V, F and the tag are 64-bit numbers (R10). -/
def State.selectClass (s : State) (p : Nat) : List Nat → Option (Nat × (Held × Copy) × Nat)
  | [] => none
  | c :: t =>
    let x := s.schedOf p
    let here := if tabGet (fun _ => false) x.active c && shaped x c then
        (s.classHead p c).map fun h => (c, h, (tabGet (fun _ => 0) x.f c + wfqCost x.wfq c (64 * h.1.need)) % 2 ^ 64)
      else none
    match here, s.selectClass p t with
    | some a, some b => if a.2.2 ≤ b.2.2 then some a else some b
    | some a, none => some a
    | none, r => r

/-- The frame that a port's scheduler picks (R401), and the scheduler after it. -/
def State.pick (s : State) (p : Nat) : Option ((Held × Copy) × State) :=
  match oldestBy byClass0 ((s.queueAt p).filter fun x => fTc (heldFrame x.1) == 0) with
  | some x => if s.canGo p x then some (x, s) else other
  | none => other
where
  other : Option ((Held × Copy) × State) :=
    match s.selectClass p (upFrom 1 7) with
    | none => none
    | some (c, x, tag) =>
      let k := s.schedOf p
      let len : Int := (64 * x.1.need + fld k.wfq 61 56 : Nat)
      let left := ((s.queueAt p).filter fun y => fTc (heldFrame y.1) == c).length
      some (x, s.setSched p { k with
        f := tabSet (fun _ => 0) k.f c tag, v := max k.v tag
        active := tabSet (fun _ => false) k.active c (decide (1 < left))
        tokA := if shaperOn k.shA && fld k.shA 2 0 == c then k.tokA - len else k.tokA
        tokB := if shaperOn k.shB && fld k.shB 2 0 == c then k.tokB - len else k.tokB })

/-- The header that leaves or is delivered: RES (R384), the copy's VC, and one link more (R360). -/
def outHdr (s : State) (h : Held) (c : Copy) (link : Bool) : List Word :=
  let f := withVc (withRes (heldFrame h) (resNow s h)) c.vc
  (if link then withHops f (fHops f + 1) else f).hdr

/-- A MGMT frame whose type byte is none of R620 is malformed. -/
def mgmtMalformed (f : Frame) : Bool :=
  match f.payload with
  | b :: _ => b != 0x05 && b != 0x06 && b != 0x7F
  | [] => true

/-- A MGMT frame that goes no further: malformed, or a response, which the management core never asked for (log 52). -/
def noMgmt (f : Frame) : Bool := fType f == tyMGMT && (mgmtMalformed f || fVc f == vcRSP || fVc f == vcRSPE)

/-- A port at a frame boundary sends or delivers the next frame (R401); one past its age (R385), or past the hop limit on a
link (R360), is discarded instead. Without a switch slice that works there is no switch to send through (R341, R595). -/
def State.selectNext (s : State) (p : Nat) : State :=
  let open_ := s.mg.thr.slices != 0 && s.usable p && (!isLinkPort p || ((s.link p).phase == .live && (s.link p).tx.isNone))
  if !open_ then s
  else
    match s.pick p with
    | none => s
    | some ((h, c), s) =>
      if s.aged h then s.dropCopy h c (if fTc (heldFrame h) = 0 then .guarAge else .age) p
      else if isLinkPort p && !s.hopsLeft (heldFrame h) then s.dropCopy h c .hopLimit 255
      else
        let hdr := outHdr s h c (isLinkPort p)
        let rest := h.copies.filter fun x => x != c
        if isLinkPort p then
          let l := s.link p
          let used := tabGet (fun _ => 0) l.used c.vc
          let s := s.setLink p { l with
            tx := some ⟨h.id, hdr, 0, h.need⟩, used := tabSet (fun _ => 0) l.used c.vc ((used + h.cells) % 65536) }
          s.setHeld { h with copies := rest, sending := h.sending + 1 }
        else
          let f := slotsFrame (hdr :: h.slots.drop 1)
          let last := rest.isEmpty && h.sending == 0
          let d : Delivered := { frame := f, port := p, inPort := h.inPort, inVc := h.inVc, cells := if last then h.cells else 0
                                 shared := if last then h.shared else 0, of_ := if last then none else some h.id, since := none
                                 at_ := h.at_, res := fRes (heldFrame h) }
          let s := if last then { s with buf := s.buf.filter fun x => x.id != h.id }
            else s.setHeld { h with copies := rest, sending := h.sending + 1 }
          if noMgmt f then (if mgmtMalformed f then s.countCause .malformed h.inPort 255 f 0 else s).actedOn d
          else { s with deliv := s.deliv ++ [d] }

/-- OUTPUT_SELECT. -/
def execOutputSelect (p : Nat) (s : State) : Host.Outcome State Fault Refusal := .next (s.selectNext p)

/-! Credits, age, counters. -/

/-- CREDIT_GRANT: one further cell for a port and VC (R375). -/
def execCreditGrant (p v : Nat) (s : State) : Host.Outcome State Fault Refusal :=
  let c := s.cellsOf p v
  let sh := c.osh + c.gsh
  let isLink := isLinkPort p
  if !allPorts.contains p || (isLink && !(s.link p).phase.serving) || decide (16384 ≤ c.g) then .next s
  else if c.o + c.g - sh < gminOf (s.gminWord p) v then
    .next (s.setCells p v { c with g := c.g + 1, cred := if isLink then c.cred + 1 else c.cred })
  else if v ≠ vcGUAR ∧ s.sharedFree ≠ 0 ∧ 16 * sh < s.sharedFree * 2 ^ s.rfld Reg.swcCtrl 10 8 then
    .next { s.setCells p v { c with g := c.g + 1, gsh := c.gsh + 1, cred := if isLink then c.cred + 1 else c.cred } with
      sharedUsed := s.sharedUsed + 1 }
  else .next s

/-- Whether a MSG that waits in the switch for a buffer is past its age (R366, R385). -/
def State.waitAged (s : State) (d : Delivered) : Bool :=
  let lim := s.ageLimit (fTc d.frame)
  lim != 0 && decide (d.res + ceilDiv ((s.clock - d.at_) * 5) 64 > lim)

/-- AGE_CHECK: every copy that waits past its class's limit is discarded, and every MSG that waits for a buffer (R385,
R386). -/
def execAgeCheck (s : State) : Host.Outcome State Fault Refusal :=
  let s := s.buf.foldl (fun s h =>
    if s.aged h then h.copies.foldl (fun s c =>
      s.dropCopy h c (if fTc (heldFrame h) = 0 then .guarAge else .age) (match c.dest with | .port p => p | .adaptive => 255)) s
    else s) s
  .next (s.msgWait.foldl (fun s d =>
    if s.waitAged d then
      let s := s.countCause (if fTc d.frame = 0 then .guarAge else .age) d.inPort d.port d.frame
        (min 0xFFFF (d.res + ceilDiv ((s.clock - d.at_) * 5) 64))
      { s with msgWait := s.msgWait.erase d }.actedOn d
    else s) s)

/-- FENCE of a link port is written (R389, R390): in effect at the next frame boundary of its output, at once when it sends
nothing. -/
def State.writeFence (s : State) (p : Nat) (v : Bool) : State :=
  if isLinkPort p then (s.rsetBit (Reg.swcPortCfg p) 1 v).fenceTakes p else s

/-- FENCE; fw: by firmware. -/
def execFence (p : Nat) (v fw : Bool) (s : State) : Host.Outcome State Fault Refusal :=
  .next (if s.rwlOpen fw then s.writeFence p v else s)

/-- SWC_PORT_GMIN is written (R373): dropped when the minima would pass 245,760 cells; a link takes the change at its next
full bring-up, an internal port once it holds no cells. -/
def State.writeGmin (s : State) (p : Nat) (v : Word) : State :=
  let v := v &&& 0x0FFFFFFFFFFFFFFF#64
  let sum := (allPorts.map fun k => if k = p then gminSum v else gminSum (s.rget (Reg.swcPortGmin k))).sum
  if !allPorts.contains p then s
  else if 245760 < sum then s.rsetBit Reg.swcBufStat 38 true
  else
    let s := s.rput (Reg.swcPortGmin p) v
    if !isLinkPort p && s.heldCells p == 0 then
      { s with gminEff := tabSet (fun k => regReset (Reg.swcPortGmin k)) s.gminEff p v }
    else s

/-- GMIN_WRITE. -/
def execGminWrite (p : Nat) (v : Word) (fw : Bool) (s : State) : Host.Outcome State Fault Refusal :=
  .next (if s.rwlOpen fw then s.writeGmin p v else s)

/-- The counters of the SWC block (R376, R377, R411). -/
def swcCounters : List (Nat × Nat) :=
  (allPorts.flatMap fun p => [(Reg.swcPortStat0 p, bits 63 0), (Reg.swcPortStat1 p, bits 63 0)]) ++
    [(Reg.swcDropStat0, bits 63 0), (Reg.swcDropStat1, bits 31 0), (Reg.swcRsvStat, bits 15 0)]

/-- SWC_CLEAR_CNT: every counter of the SWC block is cleared, one that is incremented in the same cycle to its increments
(R62, R377); the counts of R370's events, those of STU_DROP among them (R472), restart. -/
def execSwcClearCnt (s : State) (incs : List (Nat × Nat) := []) : Host.Outcome State Fault Refusal :=
  .next { s.clearCounters swcCounters incs with causes := [], stuDrops := [] }

/-! Shapers and reservations. -/

/-- SWC_RSV is written (R410). -/
def State.writeRsv (s : State) (r : Nat) (v : Word) : State :=
  let v := v &&& 0x001FFFFFFFFFFF01#64
  let ok := decide (fld v 23 8 ≠ 0) && decide (fld v 52 40 + s.rfld Reg.swcSchedCtrl 5 0 ≤ fld v 39 24)
  s.rput (Reg.swcRsv r) (if bit v 0 && !ok then setBit v 0 false else v)

/-- RSV_WRITE. -/
def execRsvWrite (r : Nat) (v : Word) (fw : Bool) (s : State) : Host.Outcome State Fault Refusal :=
  .next (if s.rwlOpen fw then s.writeRsv r v else s)

/-- A shaper's tokens at a refill, from its register as it was in effect and as it now is (R406 to R408). -/
def shaperRefill (old new : Word) (tok : Int) : Int :=
  if !shaperOn new then 0
  else if shaperOn old then min (tok + (fld new 23 8 : Nat)) (fld new 39 24 : Nat)
  else (fld new 39 24 : Nat)

/-- REFILL: every shaper and policer, and the register writes that wait for one (R407, R408, R410). -/
def execRefill (s : State) : Host.Outcome State Fault Refusal :=
  let s := allPorts.foldl (fun s p =>
    let x := s.schedOf p
    let a := s.rget (Reg.swcShapeA p)
    let b := s.rget (Reg.swcShapeB p)
    s.setSched p { x with
      wfq := s.rget (Reg.swcPortWfq p), shA := a, shB := b, tokA := shaperRefill x.shA a x.tokA, tokB := shaperRefill x.shB b x.tokB }) s
  .next ((upFrom 0 64).foldl (fun s r =>
    let x := s.rsv1 r
    let w := s.rget (Reg.swcRsv r)
    let tok := if !bit w 0 then 0 else if bit x.reg 0 then min (x.tokens + fld w 23 8) (fld w 39 24) else fld w 39 24
    s.setRsv r { x with reg := w, tokens := tok }) s)

/-- POLICER_ACCEPT: the oldest frame that waits under a reservation, once it holds the tokens (R411); a FLOWSEND's acceptance
completes it (R540). -/
def execPolicerAccept (r : Nat) (s : State) : Host.Outcome State Fault Refusal :=
  let x := s.rsv1 r
  match x.queue with
  | (p, f, who) :: t =>
    let need := frameLen f.payload.length + s.rfld Reg.swcSchedCtrl 5 0
    if bit x.reg 0 && decide (need ≤ x.tokens) then
      let s := (s.setRsv r { x with tokens := x.tokens - need, queue := t }).inject p f
      .next (match who with | some id => s.finishWork id stOK 0 0 | none => s)
    else .next s
  | [] => .next s

end Sys2Proof.Machine
end

