-- ==== Sys2Proof/Machine/LinkRows.lean ====
section
/-! DEFINITION. The commands and events of the links (R288 to R335): enabling, training, codewords and control slots,
timers, loss, sparing. -/

namespace Sys2Proof.Machine

/-! Configuration. -/

/-- A link stops with its quad disabled. -/
def State.linkOff (s : State) (p : Nat) : State :=
  let s := s.linkGone p
  (s.setLink p { s.link p with blocked := false }).syncLink p

/-- LNK_QCFG of a quad is written (R289, R290, R320): with ENABLE 1, links start that were off, and all start anew when
SPLIT, but on quad 30, or PRECODE changes (log 28); with ENABLE 0 they go DOWN. -/
def State.writeQcfg (s : State) (q : Nat) (v : Word) : State :=
  let off := Reg.lnkQcfg q
  let old := s.rget off
  let new := v &&& 0x1F#64
  if q = 31 then s.rput off new
  else
    let was := s.quadLinks q
    let same := decide (fld old 0 0 = fld new 0 0 ∧ fld old 3 3 = fld new 3 3 ∧ (q = 30 ∨ fld old 2 1 = fld new 2 1))
    if same then s.rput off new
    else
      let s := (if bit old 0 then was.foldl (fun s p => s.linkOff p) s else s).rput off new
      if bit new 0 then (s.quadLinks q).foldl (fun s p => s.startTrain p) s else s

/-- ENABLE: a write of LNK_QCFG; fw: by firmware, which the set-up lock does not bind. -/
def execEnable (q : Nat) (v : Word) (fw : Bool) (s : State) : Host.Outcome State Fault Refusal :=
  .next (if s.rwlOpen fw then s.writeQcfg q v else s)

/-- The configuration that a link's INIT slots carry has changed: one that a mismatch holds DOWN starts a full bring-up
(R323). -/
def State.configChanged (s : State) (ps : List Nat) : State :=
  ps.foldl (fun s p => if (s.link p).blocked && s.quadOn (portQuad p) then s.startTrain p else s) s

/-- RETRAIN: a fast retrain of every link of the quad; a link that a mismatch holds DOWN starts a full bring-up (R323). -/
def execRetrain (q : Nat) (s : State) : Host.Outcome State Fault Refusal :=
  .next ((s.quadLinks q).foldl (fun s p =>
    if (s.link p).blocked && s.quadOn q then s.startTrain p else s.fastRetrain p causeRequest) s)

/-- The counters of a quad (R335). -/
def quadCounters (q : Nat) : List (Nat × Nat) :=
  ((upFrom 0 4).flatMap fun k => [(Reg.lnkLstat q k, bits 63 32), (Reg.lnkLcnt q k, bits 63 0)]) ++
    (upFrom 0 5).flatMap fun j => [(Reg.lnkPcnt0 q j, bits 63 0), (Reg.lnkPcnt1 q j, bits 31 0)]

/-- LNK_CLEAR_CNT: every counter of the quad is cleared, one that is incremented in the same cycle to its increments (R62,
R335). -/
def execLnkClearCnt (q : Nat) (s : State) (incs : List (Nat × Nat) := []) : Host.Outcome State Fault Refusal :=
  .next (s.clearCounters (quadCounters q) incs)

/-- SPARE_NOW: planned sparing of LANE of link SUB (R326), of the Solder link's lane as R327 names it. -/
def execSpareNow (q lane sub : Nat) (s : State) : Host.Outcome State Fault Refusal :=
  if 30 ≤ q then .next (if sub = 0 then s.startSparing 120 (4 * (q - 30) + lane) else s)
  else
    match (s.quadLinks q)[sub]? with
    | some p => .next (if lane < s.linkW p then s.startSparing p lane else s)
    | none => .next s

/-! Training. -/

/-- A marker that may be used (R319). -/
def markerGood (w : Word) : Bool :=
  decide (fld w 63 48 = (crc16 (fld w 47 0) 48 0xFFFF#16).toNat) && decide (fld w 47 23 = 0)

/-- Whether a lane trains: full bring-up, fast retrain, or the spare of a planned sparing. -/
def State.laneTrains (s : State) (q j : Nat) : Bool :=
  (s.quadLinks q).any fun p =>
    match (s.link p).phase with
    | .mark => (s.trainLanes p).contains (q, j)
    | .fmark => (s.trainLanes p).contains (q, j)
    | _ => match (s.link p).sparing with
      | some sp => sp.accepted && (p + sp.lane) / 4 == q && s.rxLane q 4 == some j
      | none => false

/-- TRAINING_MARKER: a marker arrives on lane j, inverted or not, at an SNR, this receiver being satisfied or not. It
fixes polarity and order, in full bring-up and in a fast retrain, which repeats that step (R321, R324), and is answered with this end's own marker. The requests for the peer's equaliser, and
whether a coefficient is at its limit, are free values (log 29). -/
def execTrainingMarker (q j : Nat) (inv : Bool) (snr : Nat) (sat : Bool) (w : Word) (s : State) :
    Host.Outcome State Fault Refusal :=
  if !markerGood w || !s.laneTrains q j then .next s
  else
    let fast := (s.quadLinks q).any fun p => (s.link p).phase == .fmark && (s.trainLanes p).contains (q, j)
    let s := (s.rsetBit (Reg.lnkQmap q) (16 + j) inv).rsetFld (Reg.lnkPcnt1 q j) 39 32 snr
    let s := s.setLane q j { s.lane q j with
      plane := some (fld w 2 0), peerCond := fld w 14 10, sat := sat, peerReady := bit w 22 }
    if (s.laneOrder q).isNone then
      .next ((s.quadLinks q).foldl (fun s p =>
        if ((s.link p).phase = .mark ∨ (s.link p).phase = .fmark) ∧ (s.trainLanes p).contains (q, j) = true then s.linkMismatch p 0
        else s) s)
    else
      let (x, s) := s.draw
      let req := if sat || fast then 0 else fld x 2 0
      let ack := if 1 ≤ fld w 19 16 ∧ fld w 19 16 ≤ 7 then (if bit x 3 then 2 else 1) else 0
      let s := s.emit (.marker q j (s.markerOf q j req ack sat))
      .next ((s.quadLinks q).foldl (fun s p => s.tryAdvance p) s)

/-- BRINGUP_RETRY: an attempt that has not ended in service restarts, for as long as ENABLE is 1 (R320); a link that the loss
of a PLL has taken DOWN waits for its lock (R318). -/
def execBringupRetry (q : Nat) (s : State) : Host.Outcome State Fault Refusal :=
  if s.quadOn q then
    .next ((s.quadLinks q).foldl (fun s p =>
      let l := s.link p
      if !l.blocked && !l.phase.serving && !(l.phase == .down && !s.pllLocked p) then s.startTrain p else s) s)
  else .next s

/-- Whether a lane of a link's quads has decoded a marker. -/
def State.peerSeen (s : State) (p : Nat) : Bool :=
  (linkQuads p).any fun q => (upFrom 0 5).any fun j => (s.lane q j).plane.isSome

/-- EQUALISER_TIMEOUT: the 300 ms bound; lanes below 15.0 dB, 60 units of 0.25 dB, count as condemned. One lane alone
that has decoded a marker ends the attempt (R321); none on any quad of the link is a silent peer (R320), and none on one quad
of the Solder link leaves it the other (R330; log 27). -/
def execEqualiserTimeout (q : Nat) (s : State) : Host.Outcome State Fault Refusal :=
  let ps := (s.quadLinks q).filter fun p => (s.link p).phase == .mark && s.peerSeen p
  let seen := (upFrom 0 5).filter fun j => (s.lane q j).plane.isSome
  if ps.isEmpty then .next s
  else if seen.length = 1 then .next (ps.foldl (fun s p => s.linkMismatch p 0) s)
  else
    let s := (upFrom 0 5).foldl (fun s j =>
      let bad := !seen.contains j || decide (s.rfld (Reg.lnkPcnt1 q j) 39 32 < 60)
      let n := s.lane q j
      s.setLane q j { n with bringCond := n.bringCond || bad, peerReady := n.peerReady || !bad, sat := n.sat || !bad }) s
    .next (ps.foldl (fun s p => s.tryAdvance p) s)

/-! Codewords out. -/

/-- Data-bearing codewords that may stand unacknowledged (R310). -/
def State.window (s : State) (p : Nat) : Nat := if p = 120 then 512 else 128 * (s.activeKeys p).length

/-- The next slot of the frame being sent, when it has arrived. -/
def State.nextSlot (s : State) (t : TxItem) : Option (List Word) :=
  if t.pos = 0 then some t.hdr
  else match s.held1 t.id with
    | some h => h.slots[t.pos]?
    | none => none

/-- A control slot is due in the next codeword. -/
def lcsWaits (l : Link) : Bool := l.lcsDue || l.nakDue || !l.lcsOut.isEmpty

/-- The control slot of a codeword, and the link after it: INIT and SPARE slots first, with NAK when it is due. -/
def State.nextLcs (s : State) (p : Nat) : List Word × State :=
  let l := s.link p
  let (k, w4) := match l.phase, l.lcsOut with
    | .init, _ => (2, 0)
    | .finit, _ => (2, 0)
    | _, x :: _ => x
    | _, [] => (if l.lcsDue || l.nakDue then 1 else 0, 0)
  let slot := s.lcsSlot p k w4 l.nakDue
  let rest := match l.phase with | .init => l.lcsOut | .finit => l.lcsOut | _ => l.lcsOut.drop 1
  (slot, s.setLink p { l with lcsDue := false, nakDue := false, lcsOut := rest, unacked := false })

/-- A link between frames takes its next one, past those that are discarded as they are selected (R385, R401, R418). -/
def takeNext (p : Nat) : Nat → State → State
  | 0, s => s
  | n + 1, s =>
    let t := s.selectNext p
    if (t.link p).tx.isSome || (t.queueAt p).length == (s.queueAt p).length then t else takeNext p n t

def State.nextFrameFor (s : State) (p : Nat) : State :=
  if (s.link p).tx.isSome then s else takeNext p (s.queueAt p).length s

/-- Fills n slots with frame data, one frame after another, as far as they have arrived, with IDLE slots where none waits
(R418): slots, the control map from bit i, and the state. The end of a frame is a frame boundary (R390, R401). -/
def fillSlots (p : Nat) : Nat → Nat → State → List (List Word) × Nat × State
  | 0, _, s => ([], 0, s)
  | n + 1, i, s =>
    let idle (s : State) :=
      let (r, m, s') := fillSlots p n (i + 1) s
      (s.lcsSlot p 0 0 false :: r, m + 1 <<< i, s')
    match (s.link p).tx with
    | none => idle s
    | some t =>
      match s.nextSlot t with
      | none => idle s
      | some w =>
        let last := decide (t.len ≤ t.pos + 1)
        let s := s.setLink p { s.link p with tx := if last then none else some { t with pos := t.pos + 1 } }
        let s := if last then
            (match s.held1 t.id with
             | some h => (s.setHeld { h with sending := h.sending - 1 }).settle t.id
             | none => s).fenceTakes p |>.nextFrameFor p
          else s
        let (r, m, s') := fillSlots p n (i + 1) s
        (w :: r, m, s')

/-- Whether a link has frame data to send now. -/
def State.dataReady (s : State) (p : Nat) : Bool :=
  match (s.link p).tx with
  | some t => (s.nextSlot t).isSome
  | none => false

/-- A control-only codeword (R300): one control slot as due, the rest IDLE. -/
def State.controlWord (s : State) (p : Nat) : Codeword × State :=
  let (x, s) := s.nextLcs p
  (⟨(s.link p).txSeq, 0x3FF, x :: List.replicate 9 (s.lcsSlot p 0 0 false)⟩, s)

/-- The codeword that one lane sends (R300, R310, R326): a resent one, a control-only one while the window is full, the
spare is awaited or nothing waits, or a new data-bearing one with at most one control slot (R418). -/
def State.nextWord (s : State) (p : Nat) : Codeword × State :=
  let s := s.trySwitch p
  let l := s.link p
  let held := match l.sparing with | some sp => decide (sp.left = 0) && sp.accepted && sp.moved.isNone | none => false
  match l.phase, l.resend with
  | .live, c :: t => (c, s.setLink p { l with resend := t })
  | .live, [] =>
    let s := s.nextFrameFor p
    if held || decide (s.window p ≤ l.kept.length) || !s.dataReady p then s.controlWord p
    else
      let (pre, m0, s) := if lcsWaits l then (let (x, s) := s.nextLcs p; ([x], 1, s)) else ([], 0, s)
      let (slots, m, s) := fillSlots p (10 - pre.length) pre.length s
      let l := s.link p
      let c : Codeword := ⟨l.txSeq, m0 + m, pre ++ slots⟩
      let sp := l.sparing.map fun x => { x with left := x.left - 1 }
      (c, s.setLink p { l with txSeq := (l.txSeq + 1) % 1024, kept := l.kept ++ [c], sparing := sp })
  | _, _ => s.controlWord p

/-- A codeword goes out on a logical lane, as the levels of its physical lane (R292, R293). -/
def State.sendWord (s : State) (p k : Nat) (c : Codeword) : State :=
  let q := k / 4
  let j := s.txLane k
  let ls := c.levels (s.precode q) (s.lane q j).txLast
  (s.emit (.codeword p (k - p) ls)).setLane q j { s.lane q j with txLast := ls.getLastD 0 }

/-- CODEWORD_SEND: one codeword on each logical lane in use, in ascending order (R301). -/
def execCodewordSend (p : Nat) (s : State) : Host.Outcome State Fault Refusal :=
  match (s.link p).phase with
  | .init | .live | .finit =>
    .next ((s.activeKeys p).foldl (fun s k =>
      let (c, s) := s.nextWord p
      s.sendWord p k c) s)
  | _ => .next s

/-! Codewords in. -/

/-- A control slot is kept to be acted on, or discarded and counted (R304). -/
def State.queueLcs (s : State) (p : Nat) (w : List Word) : State :=
  if lcsGood w then s.setLink p { s.link p with lcs := (s.link p).lcs ++ [w] }
  else s.rcount (s.lcntOf p) 63 56 1

/-- A lane enters LOS, or LOL (R317, R598). -/
def State.lossStart (s : State) (q j : Nat) (lol : Bool) : State :=
  let r := Reg.lnkPcnt1 q j
  let b := if lol then 41 else 40
  if s.rbit r b then s
  else ((s.rsetBit r b true).rcount r (if lol then 31 else 15) (if lol then 16 else 0) 1).lanePoints q j 100

/-- A lane leaves LOS, or LOL; free of both, it is no longer lost, and one that its loss had set aside may be used again. -/
def State.lossEnd (s : State) (q j : Nat) (lol : Bool) : State :=
  let s := s.rsetBit (Reg.lnkPcnt1 q j) (if lol then 41 else 40) false
  let n := s.lane q j
  if s.lossy q j then s else s.setLane q j { n with gone := false, bringCond := n.bringCond && !n.gone }

/-- What a codeword that arrives says of its lane: errors corrected and not (R293, R598), and loss of lock after four in a row
that do not decode, until one does with clock recovery locked (R317). -/
def State.laneHears (s : State) (q j : Nat) (corr : Option Nat) (last : Nat) : State :=
  let cnt := Reg.lnkPcnt0 q j
  let n := s.lane q j
  match corr with
  | some k =>
    let before := s.rfld cnt 39 0
    let s := (s.setLane q j { n with miss := 0, rxLast := last }).rcount cnt 39 0 k
    let s := if before / 2 ^ 20 != s.rfld cnt 39 0 / 2 ^ 20 then s.lanePoints q j 1 else s
    if s.rbit (Reg.lnkPcnt1 q j) 41 && !n.cdr then s.lossEnd q j true else s
  | none =>
    let s := ((s.setLane q j { n with miss := n.miss + 1, rxLast := last }).rcount cnt 63 40 1).lanePoints q j 20
    if n.miss + 1 = 4 then s.lossStart q j true else s

/-- The link that a lane carries. The first codeword that decodes on the spare of an accepted sparing is the peer's switch to it:
the logical lane is received there from then on (R326 step 4). -/
def State.heardLink (s : State) (q j : Nat) (ok : Bool) : Option Nat × State :=
  match s.linkOfLane q j with
  | some (p, _) => (some p, s)
  | none =>
    let on (p : Nat) : Bool := match (s.link p).sparing with
      | some sp => sp.accepted && sp.trained && !sp.took && (p + sp.lane) / 4 == q
      | none => false
    if (s.lane q j).rxLog == some 4 && ok then
      match (s.quadLinks q).find? on with
      | some p =>
        let l := s.link p
        match l.sparing with
        | some sp => (some p, ((s.moveRx (p + sp.lane)).setLink p { l with sparing := some { sp with took := true } }).sparingDone p)
        | none => (none, s)
      | none => (none, s)
    else (none, s)

/-- A codeword that a link receives: decoded, or not, with the map received (R304, R308). -/
def State.hearWord (s : State) (p : Nat) (c : Option Codeword) (map : Nat) : State :=
  let l := s.link p
  match c with
  | some c =>
    let ctl := (upFrom 0 10).filter fun i => c.map.testBit i
    if c.map = 0x3FF then c.slots.foldl (fun s w => s.queueLcs p w) s
    else if c.seq = l.rxSeq then
      let s := s.setLink p { l with
        rxSeq := (l.rxSeq + 1) % 1024, rxAny := true, unacked := true, naking := false, nakDue := false
        rxSlots := l.rxSlots ++ ((upFrom 0 10).filter fun i => !c.map.testBit i).map fun i => c.slots.getD i [] }
      ctl.foldl (fun s i => s.queueLcs p (c.slots.getD i [])) s
    else (s.setLink p { l with naking := true, nakDue := true }).rcount (s.lcntOf p) 63 56 ctl.length
  | none => if map = 0x3FF then s else s.setLink p { l with naking := true, nakDue := true }

/-- CODEWORD_RECEIVE: the levels of a codeword, in five runs, arrive on physical lane j of quad q, and are decoded (R293, R298, R299). One that
does not decode is control-only where its control field as received says so (log 99). -/
def execCodewordReceive (q j : Nat) (r0 r1 r2 r3 r4 : List Nat) (s : State) : Host.Outcome State Fault Refusal :=
  let rx := r0 ++ r1 ++ r2 ++ r3 ++ r4
  let inv := s.rbit (Reg.lnkQmap q) (16 + j)
  let last := (s.lane q j).rxLast
  let r := receiveLevels (s.precode q) inv last rx
  let map := receivedMap (s.precode q) inv last rx
  let level := rx.getLastD 0
  let s := s.laneHears q j (r.map (·.1)) (if inv then 3 - level else level)
  match s.heardLink q j r.isSome with
  | (none, s) => .next s
  | (some p, s) =>
    .next (match (s.link p).phase with
      | .init | .live | .finit => s.hearWord p (r.map (·.2)) map
      | _ => s)

/-! Control slots. -/

/-- The kept codewords after ACK_SEQ. -/
def afterAck (kept : List Codeword) (ack : Nat) : List Codeword :=
  match kept.findIdx? (fun c => c.seq == ack) with
  | some i => kept.drop (i + 1)
  | none => kept

/-- Codewords are resent (R310). -/
def State.replay (s : State) (p : Nat) : State :=
  let l := s.link p
  let cnt := s.lcntOf p
  let before := s.rfld cnt 31 0
  let s := (s.setLink p { l with resend := l.kept }).rcount cnt 31 0 l.kept.length
  let k := s.rfld cnt 31 0 / 1024 - before / 1024
  if k = 0 then s else s.addPoints (.port p) k

/-- A credit count that moves backward, or implies more than 16,384 cells (R307). -/
def creditBad (l : Link) (v n : Nat) : Bool :=
  let used := tabGet (fun _ => 0) l.used v
  let out := (n + 65536 - used) % 65536
  decide (out > 16384) || decide (out < unconsumed l v)

/-- What every control slot brings (R304): acknowledgement, credits, the fence mark. -/
def State.commonLcs (s : State) (p : Nat) (w : List Word) : State :=
  let l := s.link p
  let w0 := w.getD 0 0
  let ack := fld w0 13 4
  let l := if bit w0 14 then
      let kept := afterAck l.kept ack
      { l with kept := kept, resend := l.resend.filter fun c => kept.contains c }
    else l
  let creds := (upFrom 0 6).map fun v => (v, if v < 4 then fld (w.getD 1 0) (16 * v + 15) (16 * v) else
    fld (w.getD 2 0) (16 * (v - 4) + 15) (16 * (v - 4)))
  let s := if creds.any (fun x => creditBad l x.1 x.2) then
      (((s.setLink p l).rcount (s.lcntOf p) 55 48 1).addPoints (.port p) 50).fastRetrain p causeCredit
    else s.setLink p { l with cred := creds.foldl (fun t x => tabSet (fun _ => 0) t x.1 x.2) l.cred }
  s.takeFenceMark p (bit w0 16)

/-- A NAK (R310, R311). -/
def State.takeNak (s : State) (p : Nat) (w : List Word) : State :=
  let w0 := w.getD 0 0
  if bit w0 15 then
    let l := s.link p
    let ack := fld w0 13 4
    let run := if l.nakSeq = some ack then l.nakRun + 1 else 1
    let s := (s.setLink p { l with nakSeq := some ack, nakRun := run }).replay p
    if max 1 (s.rfld Reg.lnkGlobal 23 16) ≤ run then
      (s.setLink p { s.link p with nakRun := 0, nakSeq := none }).fastRetrain p causeReplay
    else s
  else s

/-- Takes the oldest control slot of a link when it is of a kind. -/
def State.popLcs (s : State) (p kind : Nat) : Option (List Word × State) :=
  let l := s.link p
  match l.lcs with
  | w :: t => if lcsKind w = kind then some (w, s.setLink p { l with lcs := t }) else none
  | [] => none

/-- LCS_IDLE. -/
def execLcsIdle (p : Nat) (s : State) : Host.Outcome State Fault Refusal :=
  match s.popLcs p 0 with
  | some (w, s) => .next ((s.commonLcs p w).takeNak p w)
  | none => .next s

/-- LCS_CTRL. -/
def execLcsCtrl (p : Nat) (s : State) : Host.Outcome State Fault Refusal :=
  match s.popLcs p 1 with
  | some (w, s) => .next ((s.commonLcs p w).takeNak p w)
  | none => .next s

/-- The first field of R323 in which an INIT slot disagrees. -/
def State.initClash (s : State) (p : Nat) (w : List Word) : Option Nat :=
  let w3 := w.getD 3 0
  let id := fld w3 15 0
  if fld w3 24 23 ≠ widthCode (s.linkW p) then some 1
  else if bit w3 26 != s.precode (portQuad p) then some 2
  else if decide (30 ≤ fld w3 20 16) != decide (p = 120) then some 3
  else if p = 120 ∧ fld w3 25 25 = s.rfld Reg.twnCfg 0 0 then some 4
  else if id ≠ 0xFFFF ∧ s.flatId ≠ 0xFFFF ∧ id = s.flatId then some 5
  else none

/-- The peer as its INIT slot names it. -/
def State.notePeer (s : State) (p : Nat) (w : List Word) : State :=
  let w3 := w.getD 3 0
  let r := s.lstatOf p
  let s := ((s.rsetFld r 23 8 (fld w3 15 0)).rsetFld r 28 24 (fld w3 20 16)).rsetFld r 30 29 (fld w3 22 21)
  s.setLink p { s.link p with peerSerial := w.getD 5 0 }

def State.raiseDegraded (s : State) (p : Nat) : State :=
  s.raise evLINK_DEGRADED sevCONTAINED (s.linkItems p ++ [(8, widthCode (s.activeKeys p).length)])

/-- A link enters UP or DEGRADED, having kept its sequence state or not, and sends one INIT slot more for a peer that still
waits for it. -/
def State.goLive (s : State) (p : Nat) (kept : Bool) : State :=
  let s := s.setPhase p .live
  let l := s.link p
  s.setLink p { l with failed := 0, resumed := kept, lcsOut := l.lcsOut ++ [(2, 0)] }

/-- LCS_INIT (R320 steps 5 and 6, R323 to R325); every INIT slot that is acted on brings the fence mark (R706). -/
def execLcsInit (p : Nat) (s : State) : Host.Outcome State Fault Refusal :=
  match s.popLcs p 2 with
  | none => .next s
  | some (w, s) =>
    let s := s.takeFenceMark p (bit (w.getD 0 0) 16)
    match (s.link p).phase with
    | .init =>
      match s.initClash p w with
      | some k => .next (s.linkMismatch p k)
      | none =>
        let s := s.notePeer p w
        if bit (w.getD 0 0) 17 then .next s
        else
          let again := (s.link p).trained
          let s := s.goLive p false
          let s := s.setLink p { s.link p with trained := true }
          let s := if again then (s.rcount (s.lstatOf p) 63 48 1).addPoints (.port p) 200 else s
          let s := if (s.link p).degraded then s.raiseDegraded p else s
          .next ((s.commonLcs p w).spareOwed p)
    | .finit =>
      match s.initClash p w with
      | some k => .next (s.linkMismatch p k)
      | none =>
        if !bit (w.getD 0 0) 17 then .next (s.linkDown p causeResume)
        else
          let s := (s.notePeer p w).goLive p true
          let l := s.link p
          let s := (s.setLink p { l with unplanned := [], narrowing := false }).commonLcs p w
          let s := if (s.link p).kept.isEmpty then s else s.replay p
          let s := l.unplanned.foldl (fun s x => s.raiseSpared x 1) s
          .next ((if l.narrowing then s.raiseDegraded p else s).spareOwed p)
    | _ => .next ((s.commonLcs p w).takeNak p w)

/-- LCS_SPARE (R326, R329). -/
def execLcsSpare (p : Nat) (s : State) : Host.Outcome State Fault Refusal :=
  match s.popLcs p 3 with
  | none => .next s
  | some (w, s) =>
    let s := (s.commonLcs p w).takeNak p w
    let l := s.link p
    let w4 := w.getD 4 0
    let lane := fld w4 2 0
    let seq := fld w4 12 3
    let refuse (s : State) : State := s.setLink p { s.link p with lcsOut := (s.link p).lcsOut ++ [(3, spareWord lane seq false true)] }
    if bit w4 14 then
      .next (match l.sparing with
        | some sp => if sp.mine && !sp.accepted then s.setLink p { l with sparing := none } else s
        | none => s)
    else if bit w4 13 then
      .next (match l.sparing with
        | some sp =>
          if sp.mine && sp.lane == lane && !sp.accepted then
            (s.setLink p { l with sparing := some { sp with accepted := true } }).trainSpare ((p + lane) / 4)
          else s
        | none => s)
    else
      let peer := s.rfld (s.lstatOf p) 23 8
      let mineFirst := decide (s.flatId < peer) ||
        (s.flatId == peer && decide ((s.rget Reg.fuseSerial).toNat < l.peerSerial.toNat))
      let busy := match l.sparing with | some sp => !sp.mine || sp.accepted || mineFirst | none => false
      if busy || !s.spareReady ((p + lane) / 4) || !(s.activeKeys p).contains (p + lane) then .next (refuse s)
      else
        let left := 4096 + (seq + 1024 - l.txSeq) % 1024
        .next ((s.setLink p { l with
          sparing := some ⟨lane, seq, left, false, true, false, none, false⟩
          lcsOut := l.lcsOut ++ [(3, spareWord lane seq true false)] }).trainSpare ((p + lane) / 4))

/-! Timers. -/

/-- ACK_TIMER: an accepted codeword is acknowledged (R309). -/
def execAckTimer (p : Nat) (s : State) : Host.Outcome State Fault Refusal :=
  let l := s.link p
  .next (if l.phase.serving && l.unacked then s.setLink p { l with lcsDue := true } else s)

/-- NAK_REPEAT (R308). -/
def execNakRepeat (p : Nat) (s : State) : Host.Outcome State Fault Refusal :=
  let l := s.link p
  .next (if l.phase.serving && l.naking then s.setLink p { l with nakDue := true } else s)

/-- KEEPALIVE_SEND (R315). -/
def execKeepaliveSend (p : Nat) (s : State) : Host.Outcome State Fault Refusal :=
  let l := s.link p
  .next (if l.phase = .live then s.setLink p { l with lcsDue := true } else s)

/-- KA_TIMEOUT (R316), on a link whose lanes in use are all free of loss (R707). -/
def execKaTimeout (p : Nat) (s : State) : Host.Outcome State Fault Refusal :=
  if (s.link p).phase = .live ∧ (s.rxLanes p).all (fun x => !s.lossy x.1 x.2) = true then
    .next (((s.rcount (s.lcntOf p) 47 32 1).addPoints (.port p) 20).fastRetrain p causeKeepalive)
  else .next s

/-- FAST_RETRAIN_TIMEOUT: a fast retrain fails; the second in a row takes the link DOWN with its cause (R324, R325). -/
def execFastRetrainTimeout (p : Nat) (s : State) : Host.Outcome State Fault Refusal :=
  let l := s.link p
  if l.phase = .fmark ∨ l.phase = .finit then
    if 1 ≤ l.failed then .next (s.linkDown p l.cause)
    else .next ((s.setLink p { l with failed := 1, phase := .live }).fastRetrain p l.cause)
  else .next s

/-! Loss. -/

/-- LANE_LOSS_START: a lane enters LOS, or its clock recovery unlocks, which is LOL (R317). -/
def execLaneLossStart (q j : Nat) (lol : Bool) (s : State) : Host.Outcome State Fault Refusal :=
  .next ((if lol then s.setLane q j { s.lane q j with cdr := true } else s).lossStart q j lol)

/-- LANE_LOSS_END: LOS ends, or clock recovery locks; a lane that carries codewords then leaves LOL when one decodes (R317). -/
def execLaneLossEnd (q j : Nat) (lol : Bool) (s : State) : Host.Outcome State Fault Refusal :=
  let s := if lol then s.setLane q j { s.lane q j with cdr := false } else s
  let carries := match s.linkOfLane q j with
    | some (p, _) => (match (s.link p).phase with | .init | .live | .finit => true | _ => false)
    | none => false
  .next (if lol && carries then s else s.lossEnd q j lol)

/-- A fast retrain starts, or the one in progress starts over. -/
def State.retrainNow (s : State) (p cause : Nat) : State :=
  if (s.link p).phase = .live then s.fastRetrain p cause
  else ((s.setLink p { s.link p with cause := cause }).setPhase p .fmark).retrainLanes (s.trainLanes p) true

/-- The lanes that a fast retrain of a link may still put into use: neither condemned, nor set aside, nor lost for 10 us; the
spare only while it may be used (R318, R328, R707). -/
def State.laneHopes (s : State) (p : Nat) : List (Nat × Nat) :=
  (s.trainLanes p).filter fun x =>
    let n := s.lane x.1 x.2
    !s.rbit (Reg.lnkQmap x.1) (21 + x.2) && !n.bringCond && !(n.gone && s.lossy x.1 x.2) &&
      !(n.rxLog == some 4 && (!s.spareAuto x.1 || s.lossy x.1 x.2))

/-- A sparing of a quad that has not moved a lane gives its spare up. -/
def State.yieldSpare (s : State) (q : Nat) : State :=
  (s.quadLinks q).foldl (fun s p =>
    let l := s.link p
    match l.sparing with
    | some sp => if sp.moved.isNone && (p + sp.lane) / 4 == q then s.setLink p { l with sparing := none } else s
    | none => s) s

/-- LANE_LOSS_PERSIST: a lane has been lost for 10 us. One in use is replaced by the spare, where it may be, or the link
goes on without it, at reduced width; without any lane left it goes DOWN (R318, R328, R330, R707). -/
def execLaneLossPersist (q j : Nat) (s : State) : Host.Outcome State Fault Refusal :=
  if !s.lossy q j then .next s
  else
    let s := s.setLane q j { s.lane q j with gone := true }
    match s.linkOfLane q j with
    | none => .next s
    | some (p, key) =>
      if !(s.link p).phase.serving then .next s
      else if s.spareAuto q && s.spareReady q then
        let new := s.spareLane q
        let tx := ((upFrom (4 * q) 4).find? fun k => s.txLane k == j).getD key
        let s := ((((s.yieldSpare q).moveTx tx).moveRx key).retireLane q j new)
        let s := s.setLink p { s.link p with unplanned := (s.link p).unplanned ++ [(q, j, new)] }
        .next (s.retrainNow p causeSparing)
      else
        let s := s.setLane q j { s.lane q j with bringCond := true }
        if (s.laneHopes p).isEmpty then .next (s.linkDown p causeLoss) else .next (s.retrainNow p causeLoss)

/-- QUAD_PLL_UNLOCK: every link of the quad goes DOWN, until lock returns (R318). -/
def execQuadPllUnlock (q : Nat) (s : State) : Host.Outcome State Fault Refusal :=
  let s := { s with pllLol := tabSet (fun _ => false) s.pllLol q true }
  .next ((s.quadLinks q).foldl (fun s p =>
    if (s.link p).phase = .down then s
    else (s.linkGone p).raise evLINK_DOWN sevCONTAINED (s.linkItems p ++ [(8, causePll)])) s)

/-- QUAD_PLL_LOCK: full bring-up starts (R318), or goes on (R320 step 1). -/
def execQuadPllLock (q : Nat) (s : State) : Host.Outcome State Fault Refusal :=
  if tabGet (fun _ => false) s.pllLol q then
    let s := { s with pllLol := tabSet (fun _ => false) s.pllLol q false }
    .next (if s.quadOn q then
        (s.quadLinks q).foldl (fun s p =>
          let l := s.link p
          if l.blocked || (l.phase != .down && l.phase != .lock) then s else s.startTrain p) s
      else s)
  else .next s

/-- CLOCK_MISMATCH: wander beyond 256 UI on a lane (R297); 1 s is 1,600,000,000 cycles. -/
def execClockMismatch (q j : Nat) (s : State) : Host.Outcome State Fault Refusal :=
  let last := tabGet (fun _ => 0) s.quadMis q
  let second := last != 0 && decide (s.clock < last - 1 + 1600000000)
  let s := { s with quadMis := tabSet (fun _ => 0) s.quadMis q (s.clock + 1) }
  let s := s.raise evCLOCK_MISMATCH sevCONTAINED [(8, q), (8, j)]
  if second then
    .next ((s.quadLinks q).foldl (fun s p => if (s.link p).phase = .down then s else s.linkDown p causeClock) s)
  else
    match s.linkOfLane q j with
    | some (p, _) => .next (s.fastRetrain p causeClock)
    | none => .next s

/-- SPARE_TRAIN_DONE: training of the spare ends; on failure the sparing is abandoned and the old lane stays (R326). -/
def execSpareTrainDone (p : Nat) (ok : Bool) (s : State) : Host.Outcome State Fault Refusal :=
  let l := s.link p
  match l.sparing with
  | some sp =>
    if !sp.accepted then .next s
    else if ok then .next ((s.setLink p { l with sparing := some { sp with trained := true } }).trySwitch p)
    else .next (s.dropSparing p)
  | none => .next s

end Sys2Proof.Machine
end

