-- ==== Sys2Proof/Machine/Boundary.lean ====
section
/-! DEFINITION. Step boundaries and repairs (R267, R283, R601 to R605, R647), and disabling the lane quads (R596). -/

namespace Sys2Proof.Machine

def State.setMg (s : State) (f : Mgmt → Mgmt) : State := { s with mg := f s.mg }

/-- Every lane quad is disabled (R596). -/
def State.quadsOff (s : State) : State :=
  (upFrom 0 32).foldl (fun s q => s.writeQcfg q (setFld (s.rget (Reg.lnkQcfg q)) 0 0 0)) s

/-- The conditions of a step boundary (R601). -/
def State.boundaryOk (s : State) : Bool :=
  (upFrom 0 192).all (fun n => (s.core n).mode == .idle) && s.colls.isEmpty && s.collWaits.isEmpty

/-- A spare that may come into service. -/
def State.spareCore (s : State) (n : Nat) : Bool := s.rbit (Reg.twnHpCore n) 34 && decide (s.rfld (Reg.twnHpCore n) 33 32 < 2)
def State.spareUnit (s : State) (u : Nat) : Bool := s.rbit (Reg.twnHpStu u) 34 && decide (s.rfld (Reg.twnHpStu u) 33 32 < 2)

/-- The spare chosen for a core: of its stack group first, then its half, then the other half, the lowest number on a
tie (R602). -/
def State.chooseCore (s : State) (n : Nat) : Option Nat :=
  let l := (upFrom 0 192).filter s.spareCore
  ((l.find? fun m => groupOf m == groupOf n).orElse fun _ => l.find? fun m => m / 96 == n / 96).orElse fun _ => l.head?

/-- SPARE_IN: every physical and logical number fits in 8 bits (R614); 0xFF says that there is none. -/
def State.spareIn (s : State) (kind old new logical : Nat) : State :=
  s.raise evSPARE_IN sevCORRECTED [(8, kind), (8, old % 256), (8, new % 256), (8, logical % 256)]

/-- Logical core l moves from physical core n to spare m; copy: the banks of n read without error. -/
def State.moveCore (s : State) (l n m : Nat) (copy : Bool) : State :=
  let c := s.core n
  let s := if copy then s.setCore m { s.core m with bank0 := c.bank0, bank1 := c.bank1, active := c.active } else s
  let s := (s.rput (Reg.twnCoreMap l) (BitVec.ofNat 64 m)).rsetBit (Reg.twnHpCore m) 34 false
  if s.rbit Reg.memPoolCtrl 1 then (buildSet s l).1 else s

/-- One repair is applied (R602, R605, R648); errs: the cores whose instruction banks do not read. -/
def State.repairOne (s : State) (errs : List Nat) (r : Repair) : State :=
  match r.kind with
  | 1 =>
    let l := s.logicalOf r.old
    match (if l = 0xFF then none else s.chooseCore r.old) with
    | some m =>
      let s := s.record 1 r.old m l 0
      let s := (s.moveCore l r.old m (!errs.contains r.old)).rsetFld (Reg.twnHpCore r.old) 33 32 3
      (s.rsetFld Reg.twnSpares 7 0 (s.rfld Reg.twnSpares 7 0 - 1)).spareIn 1 r.old m l
    | none => if l = 0xFF then s else s.raise evSPARE_EXHAUSTED sevCONTAINED []
  | 2 =>
    let l := s.rfld (Reg.stuUnitStat r.old) 15 8
    match (if l = 0xFF then none else (upFrom (32 * (r.old / 32)) 32).find? s.spareUnit) with
    | some m =>
      let s := s.record 2 r.old m l 0
      let s := ((s.rsetFld (Reg.stuUnitStat r.old) 1 0 2).rsetFld (Reg.stuUnitStat r.old) 15 8 0xFF).rsetFld (Reg.twnHpStu r.old) 33 32 3
      let s := ((s.rsetFld (Reg.stuUnitStat m) 1 0 1).rsetFld (Reg.stuUnitStat m) 15 8 l).rsetBit (Reg.twnHpStu m) 34 false
      let hi := if r.old < 32 then 19 else 23
      (s.rsetFld Reg.twnSpares hi (hi - 3) (s.rfld Reg.twnSpares hi (hi - 3) - 1)).spareIn 2 r.old m l
    | none => if l = 0xFF then s else s.raise evSPARE_EXHAUSTED sevCONTAINED []
  | 3 =>
    let reg := Reg.memStackStatus r.old
    if s.rfld reg 27 16 = 0 then s
    else
      let s := s.record 3 r.old 0xFFFF 0xFFFF (BitVec.ofNat 64 r.loc)
      ((s.rsetFld reg 27 16 (s.rfld reg 27 16 - 1)).freshRow r.loc).spareIn 3 r.old 0xFFFF 0xFFFF
  | 4 =>
    let reg := Reg.memStackStatus r.old
    if s.rbit reg 11 then
      -- the spare channel is already in use (R599)
      { s with lost := tabSet (fun _ => false) s.lost r.old true }.enterTungsten 2
    else
      let s := s.record 4 r.old 0xFFFF 0xFFFF (BitVec.ofNat 64 r.loc)
      let s := (s.rsetBit reg 11 true).rsetFld (Reg.twnHpStack r.old) 33 0 0
      (s.rsetFld Reg.twnSpares 31 24 (s.rfld Reg.twnSpares 31 24 - 1)).spareIn 4 r.old 0xFFFF 0xFFFF
  | 5 => ((s.record 5 r.old 0xFFFF 0xFFFF (BitVec.ofNat 64 r.loc)).freshRow r.loc).spareIn 5 r.old 0xFFFF 0xFFFF
  | _ =>
    -- a swap: the old core returns to the spares (R605)
    let l := s.logicalOf r.old
    match (if l = 0xFF then none else s.chooseCore r.old) with
    | some m =>
      let s := s.record 6 r.old m l 0
      ((s.moveCore l r.old m (!errs.contains r.old)).rsetBit (Reg.twnHpCore r.old) 34 true).spareIn 6 r.old m l
    | none => if l = 0xFF then s else s.raise evSPARE_EXHAUSTED sevCONTAINED []

/-- A step boundary (R602). -/
def State.boundary (s : State) (errs : List Nat) : State :=
  let rs := s.repairs
  let s := rs.foldl (fun s r => s.repairOne errs r) { s with repairs := [] }
  (s.rsetBit Reg.twnStatus 8 false).rsetBit Reg.twnSwap 9 false

end Sys2Proof.Machine
end

