-- ==== Sys2Proof/Machine/Kernel.lean ====
section
/-! DEFINITION. Stream kernels (R454 to R457): the instruction words, when a kernel is well formed, and a run on one
record. -/

namespace Sys2Proof.Machine

/-- Fields of an instruction (R454). -/
def kOp (w : Nat) : Nat := bitsN w 31 26
def kD (w : Nat) : Nat := bitsN w 25 22
def kA (w : Nat) : Nat := bitsN w 21 18
def kB (w : Nat) : Nat := bitsN w 17 14
def kImm (w : Nat) : Nat := bitsN w 17 0

/-- A well-formed instruction at index i of a kernel whose last index is last (R457). -/
def kGood (i last w : Nat) : Bool :=
  let op := kOp w
  let skip := decide (1 ≤ kImm w) && decide (kImm w ≤ 63) && decide (i + kImm w + 1 ≤ last) && kD w == 0
  if op = 0 then w == 0
  else if op ≤ 0x0F then bitsN w 13 0 == 0
  else if 0x10 ≤ op ∧ op ≤ 0x19 then true
  else if op = 0x20 ∨ op = 0x21 then true
  else if op = 0x22 then decide (kImm w ≤ 7) && kA w == 0
  else if op = 0x30 ∨ op = 0x31 then skip
  else if op = 0x3F then kD w == 0 && kImm w == 0
  else false

/-- The first instruction at fault of a kernel (R457, R459); the last must be RET. -/
def kFault (ws : List Nat) : Option Nat :=
  let last := ws.length - 1
  (upFrom 0 ws.length).find? fun i => !kGood i last (ws.getD i 0) || (i == last && kOp (ws.getD i 0) != 0x3F)

/-- Registers K1 to K15; K0 reads 0. -/
def kGet (k : List Word) (i : Nat) : Word := if i = 0 then 0 else k.getD i 0
def kSet (k : List Word) (i : Nat) (v : Word) : List Word := if i = 0 then k else k.set i v

/-- A word of n bytes of the record at word index i; 0 outside it (R455). -/
def kLoad (rec_ : List Byte) (n : Nat) (i : Int) : Word :=
  if i < 0 then 0
  else
    let o := n * i.toNat
    if o + n ≤ rec_.length then BitVec.ofNat 64 (ofBytes ((rec_.drop o).take n)) else 0

/-- The value of an R-form or I-form operation on K[A], K[B] and the D it replaces (R455). -/
def kAlu (op : Nat) (a b d : Word) (imm : Nat) : Word :=
  let z : Word := BitVec.ofNat 64 imm
  let x : Word := BitVec.ofInt 64 (sextN 18 imm)
  let one (c : Bool) : Word := if c then 1 else 0
  if op = 0x01 then a + b
  else if op = 0x02 then a - b
  else if op = 0x03 then a * b
  else if op = 0x04 then a &&& b
  else if op = 0x05 then a ||| b
  else if op = 0x06 then a ^^^ b
  else if op = 0x07 then a <<< (b.toNat % 64)
  else if op = 0x08 then a >>> (b.toNat % 64)
  else if op = 0x09 then a.sshiftRight (b.toNat % 64)
  else if op = 0x0A then (if a.toNat ≤ b.toNat then a else b)
  else if op = 0x0B then (if a.toNat ≤ b.toNat then b else a)
  else if op = 0x0C then one (decide (a.toInt < b.toInt))
  else if op = 0x0D then one (decide (a.toNat < b.toNat))
  else if op = 0x0E then one (a == b)
  else if op = 0x0F then (if b = 0 then d else a)
  else if op = 0x10 then a + x
  else if op = 0x11 then a &&& z
  else if op = 0x12 then a ||| z
  else if op = 0x13 then a ^^^ z
  else if op = 0x14 then a <<< (imm % 64)
  else if op = 0x15 then a >>> (imm % 64)
  else if op = 0x16 then a.sshiftRight (imm % 64)
  else if op = 0x17 then (a <<< 18) ||| z
  else if op = 0x18 then one (decide (a.toInt < x.toInt))
  else if op = 0x19 then one (a == x)
  else d

/-- Runs a kernel from instruction i, fuel instructions at most: the value of RET, or 0 when none is met, which no
well-formed kernel comes to. -/
def kRun (ws : List Nat) (rec_ : List Byte) (ps : List Word) : Nat → Nat → List Word → Word
  | 0, _, _ => 0
  | n + 1, i, k =>
    let w := ws.getD i 0
    let op := kOp w
    let a := kGet k (kA w)
    let at_ : Int := a.toInt + sextN 18 (kImm w)
    if op = 0x3F then a
    else if op = 0x30 then kRun ws rec_ ps n (if a = 0 then i + 1 + kImm w else i + 1) k
    else if op = 0x31 then kRun ws rec_ ps n (if a = 0 then i + 1 else i + 1 + kImm w) k
    else
      let v := if op = 0x20 then kLoad rec_ 8 at_
        else if op = 0x21 then kLoad rec_ 4 at_
        else if op = 0x22 then ps.getD (kImm w) 0
        else kAlu op a (kGet k (kB w)) (kGet k (kD w)) (kImm w)
      kRun ws rec_ ps n (i + 1) (if op = 0 then k else kSet k (kD w) v)

/-- One record's result: K1 its position, K2 its input rank (R456). -/
def kernelOn (ws : List Nat) (ps : List Word) (pos rank : Nat) (rec_ : List Byte) : Word :=
  kRun ws rec_ ps 64 0 ((List.replicate 16 (0 : Word)).set 1 (BitVec.ofNat 64 pos) |>.set 2 (BitVec.ofNat 64 rank))

/-- The order of a RET value as a key (R466): a smaller number orders first. -/
def keyOrder (keyType : Nat) (v : Word) : Int :=
  match keyType with
  | 0 => (fld v 31 0 : Nat)
  | 1 => sextN 32 (fld v 31 0)
  | 2 => (v.toNat : Nat)
  | 3 => v.toInt
  | _ =>
    let k := fld v 15 0
    ((if k.testBit 15 then 0xFFFF - k else k + 0x8000 : Nat) : Int)

end Sys2Proof.Machine
end

