-- ==== Sys2Proof/Machine/Linear.lean ====
section
/-! DEFINITION. The linear check (R439 to R442). -/

namespace Sys2Proof.Machine

/-- P = 2^61 - 1 and the weight constant A (R439). -/
def chkP : Nat := 0x1FFFFFFFFFFFFFFF
def chkA : Nat := 0x0F3D9A56C21B7E45

def mulMod (x y : Nat) : Nat := x * y % chkP

/-- A^k mod P, over the bits of k from fuel of them. -/
def powGo : Nat → Nat → Nat → Nat → Nat
  | 0, _, _, r => r
  | n + 1, k, b, r => powGo n (k / 2) (mulMod b b) (if k % 2 = 1 then mulMod r b else r)

def powMod (k : Nat) : Nat := powGo (Nat.log2 k + 1) k chkA 1

/-- check_of, with weight w for the first number and c so far (R439). -/
def checkGo : List Int → Nat → Nat → Nat
  | [], _, c => c
  | n :: t, w, c => checkGo t (mulMod w chkA) ((c + mulMod (n % (chkP : Int)).toNat w) % chkP)

def checkOf (n : List Int) : Nat := checkGo n chkA 0

/-- The uint32 words of bytes (R440). -/
def bytesU32 : Nat → List Byte → List Int
  | 0, _ => []
  | n + 1, bs => ((ofBytes (bs.take 4) : Nat) : Int) :: bytesU32 n (bs.drop 4)

/-- The check of bytes as uint32 words. -/
def checkBytes (bs : List Byte) : Nat := checkOf (bytesU32 (bs.length / 4) bs)

end Sys2Proof.Machine
end

