-- ==== Sys2Proof/Machine/StreamOps.lean ====
section
/-! DEFINITION. Stream units: the fields of chunks (R436), reserving and releasing slots (R428 to R435), what a slot
sends (R436, R443, R467), its counters and events (R444, R471, R472), installed kernels (R458). -/

namespace Sys2Proof.Machine

/-! Chunks (R436). -/

def ckRank (f : Frame) : Nat := fld (hw f 2) 20 16
def ckNo (f : Frame) : Nat := fld (hw f 2) 47 32
def ckColl (f : Frame) : Nat := fld (hw f 2) 63 48
def ckFmt (f : Frame) : Nat := fld (hw f 3) 35 32
def ckRecw (f : Frame) : Nat := fld (hw f 3) 40 36
def ckLast (f : Frame) : Bool := bit (hw f 3) 41
def ckBad (f : Frame) : Bool := bit (hw f 3) 42
def ckNelem (f : Frame) : Nat := fld (hw f 3) 53 44
def ckE (f : Frame) : Int := sextN 16 (fld (hw f 4) 15 0)
def ckContrib (f : Frame) : Nat := fld (hw f 4) 32 16
def ckOffset (f : Frame) : Nat := fld (hw f 5) 47 0
def ckCheck (f : Frame) : Nat := fld (tw f 1) 60 0

/-- Bytes of an element of a chunk format; RAW records by their length. -/
def ckElemBytes (fmt recw : Nat) : Nat := if fmt = 0xA then 3 else if fmt = 0xB then 5 else 8 * (recw + 1)

/-- Elements of an E24 or E40 chunk as signed integers. -/
def ckElems (f : Frame) : List Int :=
  let b := ckElemBytes (ckFmt f) 0
  (upFrom 0 (ckNelem f)).map fun i => sextN (8 * b) (ofBytes ((f.payload.drop (b * i)).take b))

/-- check_of over a chunk's payload (R440). -/
def ckPayloadCheck (f : Frame) : Nat :=
  if ckFmt f = 0xD then checkBytes f.payload else checkOf (ckElems f)

/-- Reserved bits of word 2: those of R436 in a CHUNK frame, those of R498 in a RESULT frame. -/
def ckWord2 (f : Frame) : Bool :=
  if fType f = tyCHUNK then decide (fld (hw f 2) 15 13 = 0) && decide (fld (hw f 2) 31 21 = 0)
  else decide (fld (hw f 2) 39 33 = 0) && decide (fld (hw f 2) 63 59 = 0)

/-- A chunk that meets R436 and R437. -/
def ckGood (f : Frame) : Bool :=
  let raw := ckFmt f == 0xD
  let n := ckNelem f
  (raw || ckFmt f == 0xA || ckFmt f == 0xB) &&
  ckWord2 f && decide (fld (hw f 3) 43 43 = 0) &&
  decide (fld (hw f 3) 63 54 = 0) && decide (fld (hw f 4) 63 33 = 0) && decide (fld (hw f 5) 63 48 = 0) &&
  decide (fld (tw f 1) 63 61 = 0) &&
  (if raw then
     decide (n ≤ 4096 / (8 * (ckRecw f + 1))) && decide (fld (hw f 4) 15 0 = 0) && decide (ckContrib f = 0) && (n != 0 || ckLast f)
   else
     ckRecw f == 0 && decide (1 ≤ n) && decide (n ≤ 768) && decide (-160 ≤ ckE f) && decide (ckE f ≤ 104) &&
     decide (1 ≤ ckContrib f) && decide (ckContrib f ≤ 65536)) &&
  decide (f.payload.length = n * ckElemBytes (ckFmt f) (ckRecw f))

/-- The records of a RAW chunk. -/
def ckRecords (f : Frame) : List (List Byte) :=
  let b := 8 * (ckRecw f + 1)
  (upFrom 0 (ckNelem f)).map fun i => (f.payload.drop (b * i)).take b

/-- What a CHUNK or RESULT frame carries (R436). -/
structure ChunkSpec where
  fmt : Nat
  recw : Nat := 0
  last : Bool := false
  bad : Bool := false
  nelem : Nat
  e : Int := 0
  contrib : Nat := 0
  offset : Nat
  check : Nat
  payload : List Byte

/-- A CHUNK or RESULT frame with its word 2, as class 1 on COLL (R398). -/
def chunkFrame (src dst ty flow : Nat) (w2 arg2 : Word) (c : ChunkSpec) : Frame :=
  mkFrame
    { dst := dst, src := src, tc := 1, vc := vcCOLL, ty := ty, flow := flow, tag := 0, addr := w2
      aux := c.fmt + c.recw <<< 4 + c.last.toNat <<< 9 + c.bad.toNat <<< 10 + c.nelem <<< 12
      arg0 := BitVec.ofNat 64 (toCode 16 c.e + c.contrib <<< 16), arg1 := BitVec.ofNat 64 (c.offset % 2 ^ 48), arg2 := arg2
      targ0 := BitVec.ofNat 64 c.check, payload := c.payload }

/-- Word 2 of a CHUNK frame, and of a RESULT frame (R436, R498). -/
def chunkWord (slot rank no coll : Nat) : Word := BitVec.ofNat 64 (slot + rank <<< 16 + (no % 65536) <<< 32 + coll <<< 48)
def resultWord (coll no : Nat) (retx : Bool) : Word := BitVec.ofNat 64 (coll + (no % 65536) <<< 16 + retx.toNat <<< 32)

/-! Units. -/

/-- In-service physical units of a half, in order of logical number (R427). -/
def State.halfUnits (s : State) (half : Nat) : List Nat := (upFrom (28 * half) 28).filterMap s.unitOf

/-- The lowest free slot number of a unit, by its logical number (log 36). -/
def State.freeSlot (s : State) (l : Nat) : Option Nat := (upFrom (128 * l) 128).find? fun n => (s.slot1 n).isNone

/-- The unit with the most free pages among those of a half with a free slot and enough pages (R429). -/
def pickUnit (s : State) (pages : Nat) : List Nat → Option Nat
  | [] => none
  | u :: t =>
    let free := s.rfld (unitStat u) 31 24
    let ok := decide (pages ≤ free) && (s.freeSlot (s.rfld (unitStat u) 15 8)).isSome
    match pickUnit s pages t with
    | some v => if ok && decide (s.rfld (unitStat v) 31 24 ≤ free) then some u else some v
    | none => if ok then some u else none

/-- The stream-memory need of an operator (R432); bytes: those to be sorted. -/
def pagesNeed (x : Slot) (bytes : Nat) : Nat :=
  match x.op with
  | .sum => x.w
  | .gatherFixed => 0
  | .gatherLanes => 1
  | .filter => x.outs.length
  | .sortMerge => x.nin + 1
  | .sortLocal => max 1 (ceilDiv bytes 4096)

/-- A kernel is installed, and not being committed (R432, R461). -/
def State.kernelValid (s : State) (k : Nat) : Bool :=
  s.rbit (Reg.stuKvalid (k / 64)) (k % 64) && !(s.kernelJob.any fun x => x.1 == k)

/-- A region of this module's own tiers (R453). -/
def State.ownRegion (s : State) (a len : Nat) : Bool := addrId a == s.flatId && (s.localKey a len).isSome

/-- A slot's region checks (R453): recw: its record length. -/
def State.lanesOk (s : State) (x : Slot) (recw : Nat) : Bool :=
  let b := x.nin * x.cap * 8 * (recw + 1)
  s.ownRegion x.stage b && s.ownRegion x.final b && s.ownRegion x.counts (4 * (x.nin + 2))

/-- Reserves a slot on a half, or the other (R429, R432): its number, or none. -/
def State.reserve (s : State) (half : Nat) (x : Slot) (recw bytes : Nat) : Option Nat × State :=
  let needKernel := match x.op with | .sortLocal | .sortMerge | .filter => true | _ => false
  let bad := decide (x.pages < pagesNeed x bytes) || (needKernel && !s.kernelValid x.kernel) ||
    (match x.op with | .gatherLanes => !s.lanesOk x recw | _ => false)
  let u := if bad then none
    else (pickUnit s x.pages (s.halfUnits half)).orElse fun _ => pickUnit s x.pages (s.halfUnits (1 - half))
  match u with
  | none => (none, s)
  | some u =>
    match s.freeSlot (s.rfld (unitStat u) 15 8) with
    | none => (none, s)
    | some n =>
      let r := unitStat u
      (some n, ((s.setSlot n (some x)).rsetFld r 23 16 (s.rfld r 23 16 + 1)).rsetFld r 31 24 (s.rfld r 31 24 - x.pages))

/-- A slot with only what its operator needs. -/
def slotOf (op : SlotOp) (h coll flow stripe : Nat) (arg2 : Word) (src : List Nat) (outs : List OutTo) (pages : Nat) : Slot :=
  { op := op, coll := coll, h := h, nin := src.length, src := src, outs := outs, w := 1, base := [], cap := 1, final := 0
    stage := 0, counts := 0, kernel := 0, keyType := 0, desc := false, ps := [], pages := pages, arg2 := arg2, stripe := stripe
    flow := flow, inbox := [], low := 0, sentUp := [], held := [], badAt := [], recw := none
    ins := src.map fun _ => streamInReset, bufs := outs.map fun _ => ⟨[], 0, 0⟩, bad := false, dropped := 0, lostCheck := 0
    chkIn := 0, chkOut := 0, finished := false }

/-! Sending. -/

/-- A slot sends a chunk on output j (R436): to a slot as CHUNK, or to its own controller as RESULT. -/
def State.slotSend (s : State) (n : Nat) (x : Slot) (j no : Nat) (c : ChunkSpec) : State :=
  let port := 144 + s.slotUnit n
  match x.outs.getD j .unset with
  | .unset => s
  | .result => s.inject port (chunkFrame s.flatId s.flatId 0x11 x.flow (resultWord x.coll no false) x.arg2 c)
  | .slot id m rank => s.inject port (chunkFrame s.flatId id tyCHUNK x.flow (chunkWord m rank no x.coll) x.arg2 c)

/-! Counters and events. -/

def dropNOSLOT : Nat := 0
def dropDUP : Nat := 1
def dropWINDOW : Nat := 2
def dropBADCHUNK : Nat := 3

/-- A discard or bad chunk of a unit, with STU_DROP at the 1st, 1,025th and so on (R472). -/
def State.stuDrop (s : State) (u cause coll : Nat) : State :=
  let s := s.rcount (Reg.stuUnitDrop u) (16 * cause + 15) (16 * cause) 1
  let k := 4 * u + cause
  let n := tabGet (fun _ => 0) s.stuDrops k
  let s := { s with stuDrops := tabSet (fun _ => 0) s.stuDrops k (n + 1) }
  if n % 1024 = 0 then s.raise evSTU_DROP sevINFO [(8, u), (8, cause), (16, coll)] else s

/-- STU_MISMATCH (R444, R472): kind 0 INPUT, 1 OUTPUT, 2 CONSERVE; the latter two are counted and scored. -/
def State.stuMismatch (s : State) (u n coll no kind rank : Nat) : State :=
  let s := if kind = 0 then s else (s.rcount (unitStat u) 47 32 1).addPoints (.unit u) 500
  s.raise evSTU_MISMATCH sevCONTAINED ([(8, u), (16, n), (16, coll), (16, no), (8, kind)] ++ if kind = 0 then [(8, rank)] else [])

/-- Errors of stream memory met while a slot works (R430, R598): ce corrected, and a page with an uncorrectable one. -/
def State.stuMemory (s : State) (u n ce : Nat) (ue : Option Nat) : State :=
  let s := if ce = 0 then s else (s.rcount (unitStat u) 55 48 ce).addPoints (.unit u) (2 * ce)
  match ue with
  | some pg => ((s.rcount (unitStat u) 63 56 1).addPoints (.unit u) 1000).raise evSTU_MEM_UE sevCONTAINED [(8, u), (8, pg), (16, n)]
  | none => s

/-- The instructions of an installed kernel (R458). -/
def State.kernelWords (s : State) (k : Nat) : List Nat :=
  (upFrom 0 32).flatMap fun j =>
    let w := s.rget (Reg.stuKimage k j)
    [fld w 31 0, fld w 63 32]

/-! Reading own memory for a controller: errors known there are met (R281, R703). -/

def State.rdMem (s : State) (k len : Nat) : List Byte × State := (s.mbytes k len, s.meet (s.badIn k len))

/-! Delivered frames. -/

/-- The oldest delivered frame that a part acts on, taken from the switch, with its cells free again. -/
def State.takeDeliv (s : State) (want : Delivered → Bool) : Option (Delivered × State) :=
  match s.deliv.find? want with
  | some d => some (d, { s with deliv := s.deliv.erase d }.actedOn d)
  | none => none

end Sys2Proof.Machine
end

