-- ==== Sys2Proof/Machine/CollOps.lean ====
section
/-! DEFINITION. The collective controller (R473 to R516): descriptors, groups and trees, frames, reservation, chunks,
results, acknowledgement and pacing, ending and retrying. -/

namespace Sys2Proof.Machine

/-! Groups and trees (R474, R489, R490). -/

def gN (g : Group) : Nat := g.d0 * g.d1 * g.d2
def gRank (g : Group) (i0 i1 i2 : Nat) : Nat := i0 + g.d0 * (i1 + g.d1 * i2)
def gI0 (g : Group) (r : Nat) : Nat := r % g.d0
def gI1 (g : Group) (r : Nat) : Nat := r / g.d0 % g.d1
def gI2 (g : Group) (r : Nat) : Nat := r / (g.d0 * g.d1)

/-- The coordinate of a rank along dimension d (BOX). -/
def gCoord (g : Group) (d r : Nat) : Nat :=
  match d with
  | 0 => g.xs.getD (gI0 g r) 0 | 1 => g.ys.getD (gI1 g r) 0 | _ => g.zs.getD (gI2 g r) 0

/-- Flat ID of a rank. -/
def gId (g : Group) (r : Nat) : Nat :=
  if g.list then g.ids.getD r 0 else gCoord g 0 r + 32 * gCoord g 1 r + 1024 * gCoord g 2 r

def gPresent (g : Group) (r : Nat) : Bool := decide (r < gN g) && g.present.testBit r

def gMembers (g : Group) : List Nat := (upFrom 0 (gN g)).filter (gPresent g)

/-- The present rank of a flat ID. -/
def gRankOf (g : Group) (id : Nat) : Option Nat := (upFrom 0 (gN g)).find? fun r => gPresent g r && gId g r == id

/-- The first present rank from k upward, modulo N. -/
def gFirst (g : Group) (k : Nat) : Nat :=
  ((upFrom k (gN g)).map (· % max 1 (gN g))).find? (gPresent g) |>.getD 0

/-- row_agg and col_agg of R490, for a root. -/
def rowAgg (g : Group) (root i1 i2 : Nat) : Option Nat :=
  (upFrom 0 g.d0).findSome? fun k =>
    let r := gRank g ((gI0 g root + k) % g.d0) i1 i2
    if gPresent g r then some r else none

def colAgg (g : Group) (root i2 : Nat) : Option Nat :=
  (upFrom 0 g.d1).findSome? fun k => rowAgg g root ((gI1 g root + k) % g.d1) i2

/-- Inputs of the row, column and plane slots. -/
def rowIns (g : Group) (i1 i2 : Nat) : List Nat := ((upFrom 0 g.d0).map fun i => gRank g i i1 i2).filter (gPresent g)
def colIns (g : Group) (root i2 : Nat) : List Nat := (upFrom 0 g.d1).filterMap fun i => rowAgg g root i i2
def planeIns (g : Group) (root : Nat) : List Nat := (upFrom 0 g.d2).filterMap fun i => colAgg g root i

/-- The root of a stripe (R489); of DISPATCH, the coordinator OWN0 (log 37). -/
def collRoot (c : Coll) (s : Nat) : Nat :=
  if dKind c.desc = kDISPATCH then dOwn c.desc 0 else gFirst c.grp (s * gN c.grp / dS c.desc)

def coordinator (c : Coll) : Nat := collRoot c 0

/-- Chunks of a stripe (R488). -/
def stripeChunks (c : Coll) (s : Nat) : Nat :=
  if dSum c.desc then ceilDiv (ceilDiv (dNelem c.desc) (dCH c.desc) - s) (dS c.desc) else 0

/-- Inputs of the slot of a level that the member would host in a stripe's tree. -/
def levelIns (c : Coll) (s l : Nat) : List Nat :=
  let g := c.grp
  match l with
  | 0 => rowIns g (gI1 g c.me) (gI2 g c.me)
  | 1 => colIns g (collRoot c s) (gI2 g c.me)
  | _ => planeIns g (collRoot c s)

/-- Whether the member hosts a level's slot; one of a single input is not reserved. -/
def hostsLevel (c : Coll) (s l : Nat) : Bool :=
  let g := c.grp
  let root := collRoot c s
  decide (2 ≤ (levelIns c s l).length) &&
  (match l with
   | 0 => rowAgg g root (gI1 g c.me) (gI2 g c.me) == some c.me
   | 1 => colAgg g root (gI2 g c.me) == some c.me
   | _ => root == c.me)

/-- The member's steps down the fan-out tree (R491): dimension and receivers. -/
def fanSteps (c : Coll) (s : Nat) : List (Nat × List Nat) :=
  let g := c.grp
  let root := collRoot c s
  let i1 := gI1 g c.me
  let i2 := gI2 g c.me
  (if root = c.me then [(2, (planeIns g root).filter (· != c.me))] else []) ++
  (if colAgg g root i2 = some c.me then [(1, (colIns g root i2).filter (· != c.me))] else []) ++
  (if rowAgg g root i1 i2 = some c.me then [(0, (rowIns g i1 i2).filter (· != c.me))] else [])

def fanKids (c : Coll) (s : Nat) : List Nat := (fanSteps c s).flatMap (·.2)

/-- The member's fan-out parent. -/
def fanParent (c : Coll) (s : Nat) : Nat :=
  let g := c.grp
  let root := collRoot c s
  let i1 := gI1 g c.me
  let i2 := gI2 g c.me
  if colAgg g root i2 = some c.me then root
  else if rowAgg g root i1 i2 = some c.me then (colAgg g root i2).getD root
  else (rowAgg g root i1 i2).getD root

/-- Whether two ranks differ along one dimension only. -/
def sameBut (g : Group) (d a b : Nat) : Bool :=
  (d == 0 || gI0 g a == gI0 g b) && (d == 1 || gI1 g a == gI1 g b) && (d == 2 || gI2 g a == gI2 g b)

/-! The table. -/

def State.group (s : State) (g : Nat) : Option Group := tabGet (fun _ => none) s.groups g

def State.countStale (s : State) : State := s.rcount Reg.stuCollStat 63 48 1

/-! Frames (R497, R498). -/

def tyRESULT : Nat := 0x11
def tyREADY : Nat := 0x12
def tyPACE : Nat := 0x13
def tyACK : Nat := 0x14
def tyRETX : Nat := 0x15
def tyEND : Nat := 0x16
def tyREPORT : Nat := 0x17

/-- Word 6 of a collective's frames. -/
def collArg2 (c : Coll) (stripe : Nat) : Word :=
  BitVec.ofNat 64 (dGroup c.desc + c.attempt <<< 6 + stripe <<< 7 + dGen c.desc <<< 16)

def ctlFrame (s : State) (c : Coll) (ty dst stripe : Nat) (w2 : Word) (aux : Nat) (arg0 : Word) : Frame :=
  mkFrame { dst := dst, src := s.flatId, tc := 0, vc := vcGUAR, ty := ty, flow := c.flow, tag := 0, addr := w2, aux := aux
            arg0 := arg0, arg2 := collArg2 c stripe }

/-- Word 2 with a chunk number; with a result code, cause, RETRY and RKIND. -/
def noWord (c : Coll) (j : Nat) : Word := BitVec.ofNat 64 (dColl c.desc + (j % 65536) <<< 16)
def endWord (c : Coll) (code cause retry rkind : Nat) : Word :=
  BitVec.ofNat 64 (dColl c.desc + code <<< 40 + cause <<< 48 + retry <<< 56 + rkind <<< 57)

/-- The frame for another destination, or multicast. -/
def retarget (f : Frame) (dst : Nat) (mc : Option (Nat × Nat)) : Frame :=
  let w0 := setFld (hw f 0) 15 0 dst
  let w0 := match mc with | some (d, _) => setFld (setFld w0 44 44 1) 46 45 d | none => setFld w0 46 44 0
  let w3 := setFld (hw f 3) 31 0 (match mc with | some (_, m) => m | none => 0)
  let h := ((f.hdr.set 0 w0).set 3 w3).take 7
  { f with hdr := h ++ [(hcrcOf h).setWidth 64] }

/-- The frames of a member's steps down a stripe's fan-out tree (R491). -/
def fanFrames (c : Coll) (stripe : Nat) (f : Frame) : List Frame :=
  let g := c.grp
  (fanSteps c stripe).flatMap fun x =>
    let near := if g.list then [] else x.2.filter fun r => sameBut g x.1 c.me r
    let far := x.2.filter fun r => !near.contains r
    let mask := near.foldl (fun a r => a ||| 1 <<< gCoord g x.1 r) 0
    (if near.isEmpty then [] else [retarget f 0xFFFF (some (x.1, mask))]) ++ far.map fun r => retarget f (gId g r) none

/-- The collective that a control or RESULT frame names (R491, R498). -/
def frColl (f : Frame) : Nat := fld (hw f 2) 15 0
def frGroup (f : Frame) : Nat := fld (fArg f 2) 5 0
def frAttempt (f : Frame) : Nat := fld (fArg f 2) 6 6
def frGen (f : Frame) : Nat := fld (fArg f 2) 31 16

def names (c : Coll) (f : Frame) : Bool :=
  dColl c.desc == frColl f && dGroup c.desc == frGroup f && dGen c.desc == frGen f && dKind c.desc != kRACE

/-- Whether a frame's GEN is that of its group's current entry. -/
def State.genCurrent (s : State) (f : Frame) : Bool :=
  match s.group (frGroup f) with | some g => g.gen == frGen f | none => false

/-! Control frames and END. -/

/-- Whether a frame is one that this module sends of a collective. -/
def State.sentBy (s : State) (c : Coll) (f : Frame) : Bool :=
  fSrc f == s.flatId && dGroup c.desc == frGroup f && dGen c.desc == frGen f &&
    dColl c.desc == (if fType f = tyCHUNK then ckColl f else frColl f)

/-- A control frame is asked for under reservation 0; refused, it ends the collective here, which sends no further frame
(R413). -/
def State.sendCtl (s : State) (h stripe : Nat) (f : Frame) : State :=
  match s.coll h with
  | none => s
  | some c =>
    let (ok, s) := s.askClass0 0 (stripePort stripe) f
    if ok then s
    else { s.finish h 1 9 0xFFFF with endJobs := s.endJobs.filter fun e => e.id != h }.mute (s.sentBy c)

/-- END goes down the fan-out tree of stripe 0; a coordinator's is kept to be sent twice more (R509). -/
def State.sendEnd (s : State) (h code cause lost retry : Nat) : State :=
  match s.coll h with
  | none => s
  | some c =>
    let fs := fanFrames c 0 (ctlFrame s c tyEND 0xFFFF 0 (endWord c code cause retry 0) 0 (BitVec.ofNat 64 lost))
    let s := fs.foldl (fun s f => s.sendCtl h 0 f) s
    if (s.coll h).isSome then { s with endJobs := s.endJobs ++ [⟨h, 2, fs, stripePort 0⟩] } else s

/-! Parts done (R504). -/

/-- The stripes that hold a chunk. -/
def liveStripes (c : Coll) : List Nat := (upFrom 0 (dS c.desc)).filter fun s => stripeChunks c s != 0

/-- The ranks that owe DONE. -/
def owing (c : Coll) : List Nat :=
  if dSum c.desc then ((liveStripes c).map (collRoot c)).eraseDups
  else if dKind c.desc = kDISPATCH then gMembers c.grp
  else [coordinator c]

/-- The coordinator holds DONE from a rank. -/
def State.noteDone (s : State) (h rank : Nat) : State :=
  match s.coll h with
  | none => s
  | some c =>
    let ds := if c.dones.contains rank then c.dones else c.dones ++ [rank]
    let s := s.setColl { c with dones := ds }
    if !c.failed && (owing c).all ds.contains then (s.sendEnd h 0 0 0xFFFF 0).finish h 0 0 0xFFFF else s

/-- A member's part is done: DONE goes to the coordinator, once. -/
def State.reportDone (s : State) (h : Nat) : State :=
  match s.coll h with
  | none => s
  | some c =>
    if c.doneSent then s
    else
      let s := s.setColl { c with doneSent := true }
      if coordinator c = c.me then s.noteDone h c.me
      else s.sendCtl h 0 (ctlFrame s c tyREPORT (gId c.grp (coordinator c)) 0 (endWord c 0 0 0 0) 0 0xFFFF)

/-! Results (R499, R500). -/

/-- Writes the elements of a passing chunk to DST (R500): flags and exact magnitudes go to the record. -/
def State.writeChunk (s : State) (h stripe j off : Nat) (ns : List Int) (e : Int) : State :=
  match s.coll h with
  | none => s
  | some c =>
    let d := c.desc
    let b := dDstBytes d
    let vals := ns.map fun n => xOfInt n e
    let f := fmtOf (dDfmt d)
    let codes := vals.map fun v => convElem f v (if f = .i32 then dXout d else 0) .rne false
    let bytes := if dDfmt d = 0xB then ns.flatMap fun n => leBytes 5 (toCode 40 n) else codes.flatMap fun x => leBytes b x.1
    let fl := if dDfmt d = 0xB then noFlags else codes.foldl (fun a x => addFlags a x.2) noFlags
    let s := match s.localKey (dDst d + off * b) bytes.length with | some k => s.mputBytes k bytes | none => s
    s.setColl { c with
      sat := c.sat || fl.sat, invalid := c.invalid || fl.invalid, flush := c.flush + fl.flush
      amax := max c.amax (amaxImage (amaxOf vals)), passed := (stripe, j) :: c.passed
      visible := if dKind d = kREDUCE then (stripe, j) :: c.visible else c.visible
      misses := c.misses.filter fun x => x.1 != (stripe, j) }

/-- Memory key of a chunk's place in RETAIN. -/
def State.retainKey (s : State) (c : Coll) (stripe j len : Nat) : Option Nat :=
  s.localKey (dRetain c.desc + (stripe * dWin c.desc + j % dWin c.desc) * 4096) len

/-- The RESULT frame of a kept chunk, read from RETAIN. -/
def State.resultOf (s : State) (c : Coll) (k : Kept) (dst : Nat) (retx : Bool) : Frame :=
  let d := c.desc
  let n := 5 * k.nelem
  let bytes := match s.retainKey c k.s k.j n with | some key => s.mbytes key n | none => []
  chunkFrame s.flatId dst tyRESULT c.flow (resultWord (dColl d) k.j retx) (collArg2 c k.s)
    { fmt := 0xB, nelem := k.nelem, e := k.e, contrib := k.contrib, offset := k.off, check := k.check, payload := bytes }

/-- A passing RESULT chunk is written, and at a node with children or the root kept and forwarded (R499). -/
def State.passResult (s : State) (h stripe : Nat) (f : Frame) : State :=
  let j := fld (hw f 2) 31 16
  let s := s.writeChunk h stripe j (ckOffset f) (ckElems f) (ckE f)
  match s.coll h with
  | none => s
  | some c =>
    -- a REDUCE delivers to the root alone (R480)
    let sum := dKind c.desc != kREDUCE
    if (!sum || (fanKids c stripe).isEmpty) && collRoot c stripe != c.me then s
    else
      let k : Kept := ⟨stripe, j, ckE f, ckNelem f, ckOffset f, ckContrib f, ckCheck f⟩
      let s := match s.retainKey c stripe j f.payload.length with | some key => s.mputBytes key f.payload | none => s
      let s := s.setColl { c with kept := k :: c.kept }
      if sum then (fanFrames c stripe (s.resultOf c k 0xFFFF false)).foldl (fun s x => s.inject (stripePort stripe) x) s else s

/-! Contributions and acknowledgements (R496, R501). -/

/-- Injects chunk j of a stripe (R488); a lone member takes it as the result, which as the root it keeps in RETAIN (R490, R499). -/
def State.injectChunk (s : State) (h stripe j : Nat) (out : OutTo) : State :=
  match s.coll h with
  | none => s
  | some c =>
    let d := c.desc
    let b := dSrcBytes d
    let first := (stripe + j * dS d) * dCH d
    let n := min (dCH d) (dNelem d - first)
    match s.localKey (dSrc d + first * b) (n * b) with
    | none => s
    | some key =>
      let (bytes, s) := s.rdMem key (n * b)
      let ns := (upFrom 0 n).map fun i => sextN (8 * b) (ofBytes ((bytes.drop (b * i)).take b))
      match out with
      | .result =>
        let s := match s.retainKey c stripe j bytes.length with | some k => s.mputBytes k bytes | none => s
        s.writeChunk h stripe j first ns (dE d)
      | .unset => s
      | .slot id m rank =>
        s.inject (stripePort stripe) (chunkFrame s.flatId id tyCHUNK c.flow (chunkWord m rank j (dColl d)) (collArg2 c stripe)
          { fmt := dSfmt d, last := j + 1 == stripeChunks c stripe, nelem := n, e := dE d, contrib := dScontrib d, offset := first
            check := checkOf ns, payload := bytes })

/-- The next chunk of a stripe goes out when its window lets it (R496). -/
def State.injectNext (s : State) (h stripe : Nat) : State :=
  match s.coll h with
  | none => s
  | some c =>
    let j := tabGet (fun _ => 0) c.sent stripe
    match c.feeds.find? (fun x => x.1 == stripe) with
    | some (_, out) =>
      if j < stripeChunks c stripe ∧ (j < dWin c.desc ∨ j - dWin c.desc < tabGet (fun _ => 0) c.paced stripe) then
        (s.setColl { c with sent := tabSet (fun _ => 0) c.sent stripe (j + 1) }).injectChunk h stripe j out
      else s
    | none => s

/-- Whether chunk j may be acknowledged upward, or paced by the root (R501). -/
def ackReady (c : Coll) (stripe j : Nat) : Bool :=
  c.visible.contains (stripe, j) &&
  (dKind c.desc == kREDUCE || (fanKids c stripe).all fun r => decide (j < tabGet (fun _ => 0) c.acks (65536 * stripe + r)))

/-- Acknowledges the next chunk of a stripe, or at the root paces it; the root's last one ends its part (R501, R504). -/
def State.ackNext (s : State) (h stripe : Nat) : State :=
  match s.coll h with
  | none => s
  | some c =>
    let j := tabGet (fun _ => 0) c.up stripe
    if !ackReady c stripe j then s
    else
      let root := collRoot c stripe
      let s := s.setColl { c with
        up := tabSet (fun _ => 0) c.up stripe (j + 1), kept := c.kept.filter fun k => !(k.s == stripe && k.j == j)
        paced := if root = c.me then tabSet (fun _ => 0) c.paced stripe (j + 1) else c.paced }
      if root = c.me then
        let s := (fanFrames c stripe (ctlFrame s c tyPACE 0xFFFF stripe (noWord c j) 0 0)).foldl (fun s f => s.sendCtl h stripe f) s
        match s.coll h with
        | none => s
        | some c =>
          if ((liveStripes c).filter fun t => collRoot c t == c.me).all fun t => tabGet (fun _ => 0) c.up t == stripeChunks c t then
            s.reportDone h
          else s
      else s.sendCtl h stripe (ctlFrame s c tyACK (gId c.grp (fanParent c stripe)) stripe (noWord c j) 0 0)

/-- Where a stripe stands: chunks injected and acknowledged. -/
def collMark (s : State) (h stripe : Nat) : Option (Nat × Nat) :=
  (s.coll h).map fun c => (tabGet (fun _ => 0) c.sent stripe, tabGet (fun _ => 0) c.up stripe)

/-- Acknowledges and injects for as long as either goes on. -/
def State.pushGo (h stripe : Nat) : Nat → State → State
  | 0, s => s
  | n + 1, s =>
    let s' := (s.ackNext h stripe).injectNext h stripe
    if collMark s' h stripe = collMark s h stripe then s' else State.pushGo h stripe n s'

def State.push (s : State) (h stripe : Nat) : State :=
  match s.coll h with
  | some c => State.pushGo h stripe (2 * stripeChunks c stripe + 1) s
  | none => s

/-! Reservation (R493, R495). -/

/-- The slot of a role. -/
def roleSlot (c : Coll) (r : Role) : Slot :=
  let d := c.desc
  let g := c.grp
  let base (op : SlotOp) (src : List Nat) (outs : List OutTo) (pages : Nat) : Slot :=
    { slotOf op c.h (dColl d) c.flow r.stripe (collArg2 c r.stripe) (src.map (gId g)) outs pages with
      kernel := dKernel d, keyType := dKeyType d, desc := dDesc d, ps := dPs d }
  match r.level with
  | 3 =>
    { base .gatherLanes (gMembers g) [.result] 1 with
      cap := dCap d, final := dDst d, stage := dStage d, counts := dCounts d }
  | 4 => base .sortLocal [c.me] [r.out] (max 1 (ceilDiv (dNelem d * dReclen d) 4096))
  | 5 => base .filter [c.me] ((upFrom 0 (dNown d)).map fun j => ((c.feeds.find? fun x => x.1 == j).map (·.2)).getD .unset) (dNown d)
  | l =>
    let ins := levelIns c r.stripe l
    if dSum d then { base .sum ins [r.out] (dWin d) with w := dWin d } else base .sortMerge ins [r.out] (ins.length + 1)

/-- Records of own memory go to a slot of this module as RAW chunks (R467's packing). -/
def State.injectRecords (s : State) (h n : Nat) : State :=
  match s.coll h with
  | none => s
  | some c =>
    let d := c.desc
    let b := dReclen d
    let per := 4096 / b
    let total := ceilDiv (dNelem d) per
    (upFrom 0 (max 1 total)).foldl (fun s i =>
      let k := min per (dNelem d - i * per)
      match s.localKey (dSrc d + i * per * b) (k * b) with
      | none => s
      | some key =>
        let (bytes, s) := s.rdMem key (k * b)
        s.inject (stripePort 0) (chunkFrame s.flatId s.flatId tyCHUNK c.flow (chunkWord n 0 i (dColl d)) (collArg2 c 0)
          { fmt := 0xD, recw := dRecw d, last := i + 1 == max 1 total, nelem := k, offset := i * per, check := checkBytes bytes
            payload := bytes })) s

/-- The ranks that a role's slot takes inputs from. -/
def roleIns (c : Coll) (r : Role) : List Nat := if r.level = 3 then gMembers c.grp else levelIns c r.stripe r.level

/-- Tries a role's reservation, and on success lets its inputs know or feeds it (R493). -/
def State.tryRole (s : State) (h : Nat) (r : Role) : State :=
  match s.coll h with
  | none => s
  | some c =>
    let d := c.desc
    match s.reserve (r.stripe % 2) (roleSlot c r) (dRecw d) (dNelem d * dReclen d) with
    | (none, s) => s
    | (some n, s) =>
      let s := s.setColl { c with roles := c.roles.map fun x => if x = r then { r with slot := some n } else x }
      if r.level ≤ 3 then
        let ins := roleIns c r
        (ins.zip (upFrom 0 ins.length)).foldl (fun s x =>
          s.sendCtl h r.stripe (ctlFrame s c tyREADY (gId c.grp x.1) r.stripe (noWord c 0) (n + x.2 <<< 13 + r.level <<< 18) 0)) s
      else if r.level = 4 ∧ r.out = .unset then s
      else s.injectRecords h n

/-- Every role that may be reserved and is not (R495). -/
def State.tryRoles (s : State) (h : Nat) : State :=
  match s.coll h with
  | none => s
  | some c => (c.roles.filter fun r => r.slot.isNone && (r.out != .unset || r.level == 4)).foldl (fun s r => s.tryRole h r) s

/-- A member starts an attempt: its roles, the top slot of a tree it roots, and the work it alone feeds (R493). -/
def State.startColl (s : State) (h : Nat) : State :=
  match s.coll h with
  | none => s
  | some c =>
    let d := c.desc
    if dKind d = kDISPATCH then
      let owner := (upFrom 0 (dNown d)).any fun j => dOwn d j == c.me
      (s.setColl { c with roles := if owner then [⟨0, 3, .result, none⟩] else [] }).tryRoles h
    else
      let stripes := if dSum d then liveStripes c else [0]
      let alone := (gMembers c.grp).length == 1
      let tree := stripes.flatMap fun t =>
        let ls := (upFrom 0 3).filter (hostsLevel c t)
        let top := ls.getLastD 0
        ls.map fun l => (⟨t, l, if collRoot c t = c.me ∧ l = top then .result else .unset, none⟩ : Role)
      let own := if dSum d then [] else [(⟨0, 4, if alone then .result else .unset, none⟩ : Role)]
      let s := s.setColl { c with
        roles := own ++ tree, feeds := if dSum d && alone then stripes.map fun t => (t, .result) else [] }
      let s := s.tryRoles h
      if dSum d && alone then stripes.foldl (fun s t => s.push h t) s else s

/-! READY (R710). -/

/-- A READY for the attempt in progress. -/
def State.takeReady (s : State) (h : Nat) (f : Frame) : State :=
  match s.coll h with
  | none => s
  | some c =>
    let d := c.desc
    let aux := fAux f
    let st := frStripe f
    let l := bitsN aux 19 18
    let out : OutTo := .slot (fSrc f) (bitsN aux 12 0) (bitsN aux 17 13)
    if !dSum d && st ≠ 0 then s.countStale
    else if l = 3 then
      match (upFrom 0 (dNown d)).find? (fun j => gId c.grp (dOwn d j) == fSrc f) with
      | some j =>
        if dKind d ≠ kDISPATCH ∨ (c.feeds.any fun x => x.1 == j) then s.countStale
        else
          let feeds := c.feeds ++ [(j, out)]
          if (upFrom 0 (dNown d)).all (fun i => feeds.any fun x => x.1 == i) then
            (s.setColl { c with feeds := feeds, roles := c.roles ++ [⟨0, 5, .result, none⟩] }).tryRoles h
          else s.setColl { c with feeds := feeds }
      | none => s.countStale
    else
      match (c.roles.filter fun r => r.stripe == st && decide (r.level < l) && decide (r.level < 3)).getLast? with
      | some r =>
        if r.out = .unset then
          (s.setColl { c with roles := c.roles.map fun x => if x = r then { r with out := out } else x }).tryRoles h
        else s.countStale
      | none =>
        if dSum d then
          if (c.feeds.any fun x => x.1 == st) || decide (dS d ≤ st) || stripeChunks c st == 0 then s.countStale
          else (s.setColl { c with feeds := c.feeds ++ [(st, out)] }).push h st
        else
          match c.roles.find? (fun r => r.level == 4) with
          | some r =>
            if r.out ≠ .unset then s.countStale
            else
              let s := s.setColl { c with roles := c.roles.map fun x => if x = r then { r with out := out } else x }
              match r.slot with
              | some n =>
                match s.slot1 n with
                | some x => (s.setSlot n (some { x with outs := [out] })).injectRecords h n
                | none => s
              | none => s.tryRoles h
          | none => s.countStale

/-- The READY frames that waited for a launch, or for its second attempt, are taken. At the launch each that is held for the
collective, of either attempt, and came more than TIMEOUT_US before it is stale (R494). -/
def State.takeHeld (s : State) (h : Nat) : State :=
  match s.coll h with
  | none => s
  | some c =>
    let old (x : Nat × Frame) : Bool := names c x.2 && c.attempt == 0 && decide (1600 * dTimeout c.desc < s.clock - x.1)
    let s := (s.readies.filter old).foldl (fun s _ => s.countStale) { s with readies := s.readies.filter fun x => !old x }
    let mine := s.readies.filter fun x => names c x.2 && frAttempt x.2 == c.attempt
    mine.foldl (fun s x => s.takeReady h x.2) { s with readies := s.readies.filter fun x => !mine.contains x }

/-! Failure and retry (R503, R509). -/

/-- The second attempt starts (R503). -/
def State.retryColl (s : State) (h : Nat) : State :=
  match s.coll h with
  | none => s
  | some c =>
    let s := s.dropSlots c
    let s := s.setColl { c with
      attempt := 1, retried := true, roles := [], feeds := [], sent := [], paced := [], up := [], acks := [], passed := []
      visible := [], kept := [], misses := [], doneSent := false, dones := [], failed := false, gathered := false
      filtered := false, sat := false, invalid := false, flush := 0, amax := 0, dropped := 0 }
    (s.startColl h).takeHeld h

/-- The coordinator acts on the first FAIL of the attempt (R509). -/
def State.onFail (s : State) (h attempt code cause lost : Nat) : State :=
  match s.coll h with
  | none => s
  | some c =>
    if c.attempt ≠ attempt ∨ c.failed = true then s
    else
      let s := s.setColl { c with failed := true }
      if code = 3 ∧ attempt = 0 then (s.sendEnd h code cause lost 1).retryColl h
      else (s.sendEnd h code cause lost 0).finish h code cause lost

/-- A member reports FAIL. -/
def State.failColl (s : State) (h code cause lost : Nat) : State :=
  match s.coll h with
  | none => s
  | some c =>
    if coordinator c = c.me then s.onFail h c.attempt code cause lost
    else
      s.sendCtl h 0 (ctlFrame s c tyREPORT (gId c.grp (coordinator c)) 0 (endWord c code cause 0 1) 0 (BitVec.ofNat 64 lost))

/-! The parts of DISPATCH and SORT. -/

/-- A DISPATCH member's parts: its gather, when it is an owner, and its filter (R504; log 38). -/
def State.dispatchDone (s : State) (h : Nat) : State :=
  match s.coll h with
  | none => s
  | some c =>
    let owner := (upFrom 0 (dNown c.desc)).any fun j => dOwn c.desc j == c.me
    if c.filtered && (c.gathered || !owner) then s.reportDone h else s

/-- A gather has completed with its result check (R451): FINAL must agree with it (R504). -/
def State.gatherDone (s : State) (h check bytes : Nat) (bad : Bool) : State :=
  match s.coll h with
  | none => s
  | some c =>
    if bad then s.failColl h 3 5 0xFFFF
    else
      match s.localKey (dDst c.desc) bytes with
      | none => s
      | some key =>
        let (bs, s) := s.rdMem key bytes
        if checkBytes bs = check then (s.setColl { c with gathered := true }).dispatchDone h else s.failColl h 3 3 0xFFFF

/-- A filter has sent every LAST chunk. -/
def State.filterDone (s : State) (h dropped : Nat) : State :=
  match s.coll h with
  | none => s
  | some c => (s.setColl { c with filtered := true, dropped := dropped }).dispatchDone h

/-! Launching (R479 to R483, R708, R511). -/

/-- Whether an access lies within its tier's bounds (R248): those of another module show only its shape. -/
def State.bounded (s : State) (a len : Nat) : Bool :=
  addrShape a len && (addrId a != s.flatId || addrTier a != 0 || decide (bitsN (addrOff a) 30 23 < s.coresEnabled))

/-- Whether a descriptor meets R479 and R480 and its addresses lie in their tiers (R481). -/
def State.descGood (s : State) (d : List Word) : Bool :=
  let k := dKind d
  let own (a len : Nat) : Bool := s.ownRegion a len
  let z (i hi lo : Nat) : Bool := fld (dW d i) hi lo == 0
  let res := z 0 15 10 && z 0 63 57 && z 1 63 55 && z 6 63 49 && z 7 63 40 && (upFrom 21 3).all fun i => dW d i == 0
  let rec_ := decide (dRecord d % 64 = 0) && decide (dRecord d + 64 ≤ pewterBytes)
  let n := dNelem d
  res && rec_ && decide (k ≤ 4) &&
  (if k ≤ 1 then
     decide (16 ≤ dCH d) && decide (dCH d ≤ 768) && dCH d % 16 == 0 && (dSfmt d == 0xA || dSfmt d == 0xB) &&
     [0x6, 0x7, 0x8, 0x9, 0xB, 0xC].contains (dDfmt d) && decide (-160 ≤ dE d) && decide (dE d ≤ 104) &&
     decide (1 ≤ dScontrib d) && decide (dScontrib d ≤ 65536) && decide (n ≤ 65536 * dS d * dCH d) &&
     own (dSrc d) (n * dSrcBytes d) && own (dDst d) (n * dDstBytes d) && addrTier (dRetain d) == 1 &&
     own (dRetain d) (dS d * dWin d * 4096)
   else
     dS d == 1 && dSfmt d == 0xD && dDfmt d == 0xD &&
     (if k = 4 then dGroup d == 0 && dGen d == 0 && own (dSrc d) n && s.bounded (dDst d) n && s.bounded (dRacew d) 8
      else
        own (dSrc d) (n * dReclen d) && own (dDst d) 0 &&
        (if k = 2 then
           decide (1 ≤ dNown d) && decide (dNown d ≤ 8) && decide (1 ≤ dCap d) && own (dStage d) 0 && own (dCounts d) 0
         else decide (n * dReclen d ≤ 524288) && decide (dKeyType d ≤ 5))))

/-- A descriptor's group conditions: committed; in a DISPATCH under the current GEN, at most 32 members present, owners that are
ranks of the group, and the regions of an owner. A launch under another GEN ends at once with GROUP_REFORMED (R511), whatever
the new entry holds. -/
def State.groupGood (s : State) (d : List Word) : Bool :=
  dKind d == 4 ||
  (match s.group (dGroup d) with
   | none => false
   | some g =>
     dKind d != 2 || g.gen != dGen d ||
     (let m := (gMembers g).length
      let b := m * dCap d * dReclen d
      decide (m ≤ 32) && (upFrom 0 (dNown d)).all (fun j => decide (dOwn d j < gN g)) &&
      ((upFrom 0 (dNown d)).all (fun j => gId g (dOwn d j) != s.flatId) ||
       (s.ownRegion (dDst d) b && s.ownRegion (dStage d) b && s.ownRegion (dCounts d) (4 * (m + 2))))))

/-- Whether GROUP and COLL are in flight. -/
def State.collBusy (s : State) (d : List Word) : Bool :=
  s.colls.any fun c => dGroup c.desc == dGroup d && dColl c.desc == dColl d

/-- R481: whether a SYN.COLL of this descriptor is accepted. -/
def State.launchGood (s : State) (d : List Word) : Bool := s.descGood d && s.groupGood d && !s.collBusy d

/-- The words of a descriptor in own memory. -/
def State.descAt (s : State) (k : Nat) : List Word := (upFrom 0 24).map fun i => s.mword (k + 8 * i)

def groupNone : Group := ⟨0, false, 1, 1, 1, [], [], [], 1, []⟩

/-- Sends the requests of a race; a target that cannot be reached ends it (R513). -/
def State.raceReqs (s : State) (h : Nat) (us : List Unsent) : State :=
  match us.find? (fun u => !s.routeOpen u.req.target) with
  | some u => s.finish h 2 10 u.req.target
  | none => us.foldl State.sendReq s

/-- A request of a race, through the port of stripe 0 (R711). -/
def raceReq (s : State) (h flow : Nat) (kind : ReqKind) (ty tc a : Nat) (payload : List Byte) (aux : Nat) (arg0 arg1 : Word) : Unsent :=
  { req := { port := stripePort 0, tag := 0, kind := kind, who := .coll h, target := addrId a, dst := 0, len := 0 }
    frame := mkFrame { dst := addrId a, src := s.flatId, tc := tc, vc := vcREQ, ty := ty, flow := flow, tag := 0
                       addr := BitVec.ofNat 64 a, aux := aux, arg0 := arg0, arg1 := arg1, payload := payload } }

/-- Launches an accepted collective for its launcher, with a free entry of the table; phys: the core whose Pewter holds
the record. -/
def State.launchColl (s : State) (who : Requester) (flow : Nat) (d : List Word) (phys : Nat) : State :=
  let h := s.nextColl
  let g := if dKind d = kRACE then groupNone else (s.group (dGroup d)).getD groupNone
  let c : Coll :=
    { h := h, who := who, flow := flow, desc := d, record := pewKey phys (dRecord d), grp := g, me := (gRankOf g s.flatId).getD 0
      attempt := 0, retried := false, roles := [], feeds := [], sent := [], paced := [], up := [], acks := [], passed := []
      visible := [], kept := [], misses := [], doneSent := false, dones := [], failed := false, gathered := false
      filtered := false, sat := false, invalid := false, flush := 0, retx := 0, amax := 0, dropped := 0, won := false
      waiting := 0, old := none }
  let s := { s with colls := s.colls ++ [c], nextColl := h + 1 }
  let s := s.rsetFld Reg.stuCollStat 10 0 s.colls.length
  if dKind d ≠ kRACE ∧ g.gen ≠ dGen d then s.finish h 4 8 0xFFFF
  else if dSum d && dNelem d == 0 then s.finish h 0 0 0xFFFF
  else if dKind d = kRACE then
    if addrId (dRacew d) = s.flatId then s
    else
      (s.setColl { c with waiting := 1 }).raceReqs h
        [raceReq s h flow .atom tyATOM 2 (dRacew d) [] 2 (BitVec.ofNat 64 (s.flatId + 1)) 0]
  else (s.startColl h).takeHeld h

/-- Launches that wait take the entries that have become free, oldest first (R483). -/
def State.admitGo : Nat → State → State
  | 0, s => s
  | n + 1, s =>
    match s.collWaits with
    | w :: t =>
      if s.colls.length < 1024 then
        let s := { s with collWaits := t }
        let d := s.descAt w.key
        let s := match w.who with
          | .core k f _ =>
            let c := s.core k
            let s := s.setCore k { c with block := if c.block = .coll f then .none else c.block }
            if (findFlight c f).isNone then s
            else if s.launchGood d then s.launchColl w.who w.flow d w.phys else failFlight s k f 0x02 0x02
          | .work id =>
            if s.launchGood d then s.launchColl w.who w.flow d w.phys else s.finishWork id stBAD_DESC 0 1
          | .coll _ => s
        State.admitGo n s
      else s
    | [] => s

def State.admitColls (s : State) : State := State.admitGo s.collWaits.length s

/-- An accepted launch: at once, or when an entry frees. -/
def State.askColl (s : State) (who : Requester) (flow key phys : Nat) : State :=
  if s.colls.length < 1024 then (s.launchColl who flow (s.descAt key) phys).admitColls
  else { s with collWaits := s.collWaits ++ [⟨who, flow, key, phys⟩] }

/-! Device-side accesses of collectives and stream units (R524). -/

/-- Extents of this module's memory that a collective's descriptor lets it touch, taken generously (log 46). -/
def State.collRuns (s : State) (d : List Word) : List (Nat × Nat) :=
  let len := (dNelem d + dCap d + 4096) * max 8 (dReclen d) * 1024
  ([dSrc d, dDst d, dRetain d, dStage d, dCounts d, dRacew d]).filterMap fun a =>
    if addrId a = s.flatId then (s.localKey a 1).map fun k => (k, len) else none

/-- A row of the collective controller or of a stream unit waits until the host holds no line that a collective in flight,
or one that waits, may touch. -/
def gatedColl (s : State) (go : Host.Outcome State Fault Refusal) : Host.Outcome State Fault Refusal :=
  if s.snoops.isEmpty then go
  else gated s [] (s.colls.flatMap (fun c => s.collRuns c.desc) ++ s.collWaits.flatMap (fun w => s.collRuns (s.descAt w.key))) go

end Sys2Proof.Machine
end

