-- ==== Sys2Proof/Machine/HostOps.lean ====
section
/-! DEFINITION. The host interface (R517 to R570, R702, R712, R714): lines, rings, staging, what becomes of a descriptor,
the work of the work operations, completion entries, event records, the snoop filter, and the reset. -/

namespace Sys2Proof.Machine

/-! Lines of R522: keys 0 to 255 the doorbell lines, 256 + n the head line of CQ n, 512 that of the event ring. -/

def State.sq (s : State) (n : Nat) : Option Sq := s.sqs.find? (fun q => q.n == n)
def State.setSq (s : State) (q : Sq) : State := { s with sqs := s.sqs.map fun x => if x.n = q.n then q else x }
def State.cq (s : State) (n : Nat) : Option Cq := s.cqs.find? (fun q => q.n == n)
def State.setCq (s : State) (q : Cq) : State := { s with cqs := s.cqs.map fun x => if x.n = q.n then q else x }

/-- Host address of a line whose ring exists. -/
def State.lineAddr (s : State) (k : Nat) : Option Nat :=
  if k < 256 then (s.sq k).map (·.line)
  else if k < 512 then (s.cq (k - 256)).map (·.line)
  else if s.evr.started then some s.evr.headLine else none

def State.lineHeld (s : State) (k : Nat) : Bool := tabGet (fun _ => false) s.lines k
def State.setLine (s : State) (k : Nat) (b : Bool) : State := { s with lines := tabSet (fun _ => false) s.lines k b }
def State.lineWanted (s : State) (k : Nat) : Bool := tabGet (fun _ => false) s.wants k
def State.setWant (s : State) (k : Nat) (b : Bool) : State := { s with wants := tabSet (fun _ => false) s.wants k b }

/-- The rings are served (R712). -/
def State.serving (s : State) : Bool := s.hostUp && s.rbit Reg.hifStatus 6

/-- Requests a line with RdShared, unless it is held or asked for already. -/
def State.askLine (s : State) (k : Nat) : State :=
  match s.lineAddr k with
  | some a => if s.lineHeld k || s.lineWanted k then s else (s.setWant k true).emit (.cacheReq .rdShared a)
  | none => s

/-- Releases a line (R520). -/
def State.dropLine (s : State) (k : Nat) : State :=
  match s.lineHeld k, s.lineAddr k with
  | true, some a => ((s.setLine k false).setWant k false).emit (.cacheReq .cleanEvictNoData a)
  | _, _ => (s.setLine k false).setWant k false

/-- A CXL.cache request completed with an error. -/
def State.hostFault (s : State) : State := s.rsetBit Reg.hifErr 3 true

/-! Staging (R536). -/

/-- The near pool set of stack group 0. -/
def stageSet : Nat := 256

/-- A staging buffer is freed. -/
def State.dropStage (s : State) (a : Nat) : State :=
  match bufferOf s a with
  | some (set, k, j) => freeBuffer (s.mputWord (countKey s set k (s.pool (8 * set + k)) j) 0) set k j
  | none => s

/-- Bytes at an own address, when it lies in its tier. -/
def State.ownPut (s : State) (a : Nat) (bs : List Byte) : State :=
  match s.localKey a bs.length with | some k => s.mputBytes k bs | none => s

/-- Copies a fetched descriptor into staging, or has the fetch wait for a buffer. -/
def State.stageDesc (s : State) (q : Sq) (d : List Word) : State :=
  match poolRequest s stageSet 4096 with
  | (none, s) => s.setSq { q with stall := some d }
  | (some a, s) =>
    (s.ownPut a (wordsBytes d)).setSq { q with stall := none, staged := q.staged ++ [⟨d, a⟩], fetch := (q.fetch + 1) % 2 ^ 32 }

/-- Passes source data through staging in pieces of 4 KiB: whether a buffer was there. -/
def State.passGo : Nat → List Byte → State → Bool × State
  | 0, _, s => (true, s)
  | n + 1, bs, s =>
    if bs.isEmpty then (true, s)
    else
      match poolRequest s stageSet 4096 with
      | (none, s) => (false, s)
      | (some a, s) => State.passGo n (bs.drop 4096) ((s.ownPut a (bs.take 4096)).dropStage a)

def State.passStage (s : State) (bs : List Byte) : Bool × State := State.passGo (bs.length / 4096 + 1) bs s

/-! Rings. -/

/-- An SQ enters the error state (R533); the entry's TAG and FLOW, which name no descriptor, are free values. -/
def State.sqError (s : State) (q : Sq) (tail : Nat) : State :=
  let s := s.setSq { q with err := true, stall := none }
  if q.n = 0 then s.rsetBit Reg.hifErr 0 true
  else
    let s := s.raise evRING_ERROR sevCONTAINED [(8, q.n), (32, tail), (32, q.fetch)]
    let (w, s) := s.draw
    { s with due := s.due ++ [⟨q.n, q.cq, none, fld w 15 0, fld w 31 16, stRING_ERROR, BitVec.ofNat 64 tail, 0⟩] }

/-- A ring register's size (R568). -/
def ringLog2 (w : Word) : Nat := let l := fld w 4 0; if 6 ≤ l ∧ l ≤ 16 then l else 6

/-- The tail line of the event ring holds TAIL, or cannot be reached (R568). -/
def State.writeTail (s : State) (ok : Bool) : State :=
  let s := s.emit (.cacheReq .itoMWr s.evr.tailLine)
  if ok then s.hputBytes s.evr.tailLine (leBytes 64 s.evr.tail) else (s.rsetBit Reg.hifErr 2 true).hostFault

/-- Starts the admin pair and the event ring (R569); tail: the event ring's tail line can be reached. -/
def State.startRings (s : State) (tail : Bool) : State :=
  let addr (r : Nat) : Nat := let w := s.rget r; w.toNat - fld w 5 0
  let base (r : Nat) : Nat := let w := s.rget r; w.toNat - fld w 11 0
  let sqOk := base Reg.hifAsqBase != 0 && addr Reg.hifAsqDb != 0
  let cqOk := base Reg.hifAcqBase != 0 && addr Reg.hifAcqHead != 0
  let evOk := base Reg.hifEvrBase != 0 && addr Reg.hifEvrHead != 0 && addr Reg.hifEvrTail != 0
  let q : Sq := ⟨0, base Reg.hifAsqBase, ringLog2 (s.rget Reg.hifAsqBase), addr Reg.hifAsqDb, 0, 0, 0, false, [], none, none, none⟩
  let c : Cq := ⟨0, base Reg.hifAcqBase, ringLog2 (s.rget Reg.hifAcqBase), addr Reg.hifAcqHead, true, 0, 1, 0, 0, 0⟩
  let e : EvRing :=
    ⟨true, base Reg.hifEvrBase, ringLog2 (s.rget Reg.hifEvrBase), addr Reg.hifEvrHead, addr Reg.hifEvrTail, 0, 0, false, none⟩
  let s := { s with
    sqs := (if sqOk then [q] else []) ++ s.sqs.filter (fun (x : Sq) => x.n != 0)
    cqs := (if cqOk then [c] else []) ++ s.cqs.filter (fun (x : Cq) => x.n != 0)
    evr := if evOk then e else evRingReset }
  let s := if sqOk then s.askLine 0 else s.rsetBit Reg.hifErr 0 true
  let s := if cqOk then s.askLine 256 else s.rsetBit Reg.hifErr 1 true
  let s := if evOk then (s.askLine 512).writeTail tail else s.rsetBit Reg.hifErr 2 true
  { s with ringsUp := true }.rsetBit Reg.hifStatus 6 (sqOk && cqOk)

/-! What becomes of a descriptor (R541, R548, R551, R554). -/

def opListed (op : Nat) : Bool := decide (op ≤ 5) || (decide (0x10 ≤ op) && decide (op ≤ 0x16))

/-- Used bits of a descriptor's words (R539, R540). -/
def descMasks (op : Nat) : List Nat :=
  let w0 (opx : Nat) : Nat := 0xFFFFFFFF000003FF + opx
  let all : Nat := 0xFFFFFFFFFFFFFFFF
  if op = opLAUNCH then [w0 (bits 31 11), all, all, all, all, all, all, all]
  else if op = opPLOAD then [w0 (bits 19 11 + bits 30 30), all, bits 10 0 + bits 27 16]
  else if op = opCOPY then [w0 (bits 12 11), all, all, bits 39 0]
  else if op = opCOLL then [w0 (bits 18 11), all]
  else if op = opFLOWSEND then [w0 (bits 11 11), all, all, bits 12 0]
  else if op = opCREATE_SQ then [w0 0, all, all, bits 20 0]
  else if op = opCREATE_CQ then [w0 0, all, all, bits 13 0 + bits 31 16 + bits 47 32]
  else if op = opDELETE_SQ ∨ op = opDELETE_CQ then [w0 0, bits 7 0]
  else if op = opOPEN_FLOW then [w0 0, bits 21 0]
  else if op = opCLOSE_FLOW ∨ op = opRESET_FLOW then [w0 0, bits 15 0]
  else [w0 0]

/-- The words of a descriptor that R541 finds at fault, beyond unused bits. -/
def State.descFaults (s : State) (n : Nat) (d : List Word) : List Nat :=
  let op := wkOp d
  let log2 (v : Nat) : Bool := decide (6 ≤ v) && decide (v ≤ 16)
  let w3 := wd d 3
  let id := fld (wd d 1) 7 0
  (if !opListed op || (1 ≤ op && op ≤ 5 && n == 0) || (0x10 ≤ op && n != 0) then [0] else []) ++
  (if (op = opLAUNCH ∨ op = opPLOAD ∨ op = opCOLL) ∧ s.coresEnabled ≤ wkCore d then [0] else []) ++
  (if op = opPLOAD then
     let c := fld (wd d 2) 27 16
     if c = 0 ∨ 2048 < fld (wd d 2) 10 0 + c then [2] else []
   else if op = opCOPY then (if bit (wd d 0) 11 && bit (wd d 0) 12 then [0] else []) ++ (if fld w3 39 0 = 0 then [3] else [])
   else if op = opCOLL then
     let a := wkSource d
     match s.localKey a 192 with
     | some k => if addrId a = s.flatId ∧ addrTier a ≤ 1 ∧ a % 64 = 0 ∧ s.launchGood (s.descAt k) = true then [] else [1]
     | none => [1]
   else if op = opFLOWSEND then (if fld w3 12 0 = 0 ∨ 4096 < fld w3 12 0 then [3] else [])
   else if op = opCREATE_SQ ∨ op = opCREATE_CQ then
     (if fld (wd d 1) 11 0 = 0 then [] else [1]) ++ (if fld (wd d 2) 5 0 = 0 then [] else [2]) ++
     (let r := fld w3 7 0
      let ok := if op = opCREATE_SQ then (s.sq r).isNone && (s.cq (fld w3 15 8)).isSome && log2 (fld w3 20 16)
        else (s.cq r).isNone && log2 (fld w3 12 8)
      if r = 0 ∨ ok = false then [3] else [])
   else if op = opDELETE_SQ then (match s.sq id with | some q => if id = 0 ∨ q.deleting.isSome = true then [1] else [] | none => [1])
   else if op = opDELETE_CQ then (if id = 0 ∨ (s.cq id).isNone = true ∨ (s.sqs.any fun q => q.cq == id) = true then [1] else [])
   else if op = opOPEN_FLOW then
     let r := fld (wd d 1) 21 16
     if fld (wd d 1) 15 0 = 0 ∨ r = 1 ∨ r = 2 then [1] else []
   else if op = opCLOSE_FLOW ∨ op = opRESET_FLOW then (if fld (wd d 1) 15 0 = 0 then [1] else [])
   else [])

/-- The first word at fault (R541, R551). -/
def State.badDesc (s : State) (n : Nat) (d : List Word) : Option Nat :=
  let m := descMasks (wkOp d)
  let extra := (upFrom 0 8).filter fun i => (wd d i).toNat &&& m.getD i 0 ≠ (wd d i).toNat
  (extra ++ s.descFaults n d).foldl (fun a i => match a with | none => some i | some j => some (min i j)) none

/-- Whether a part that a run of own memory lies in is lost. -/
def partOf (k : Nat) : Nat := match keyTier k with | 0 => 49 + k / 2 ^ 23 / 96 | 1 => keyStack k | _ => 32 + keyPart k
def State.partLost (s : State) (p : Nat) : Bool := tabGet (fun _ => false) s.lost p
def State.runLost (s : State) (k len : Nat) : Bool :=
  !s.lost.isEmpty && ((upFrom 0 (len / 256 + 1)).any (fun i => s.partLost (partOf (k + 256 * i))) || s.partLost (partOf (k + len - 1)))

/-- Whether the target part of a work operation is lost (R548). -/
def State.targetLost (s : State) (d : List Word) : Bool :=
  let op := wkOp d
  let own (a len : Nat) : Bool :=
    addrId a == s.flatId && (match s.localKey a len with | some k => s.runLost k len | none => false)
  let core := s.physOf (wkCore d)
  ((op == opLAUNCH || op == opPLOAD || op == opCOLL) && (decide (192 ≤ core) || s.partLost (49 + core / 96))) ||
  ((op == opPLOAD || op == opCOPY || op == opFLOWSEND) && !wkSrcHost d && own (wkSource d) (wkLen d)) ||
  (op == opCOPY && !wkDstHost d && own (wkDest d) (wkLen d))

/-- STATUS, RESULT and DETAIL of a descriptor that does not run; none: it runs. -/
def State.judge (s : State) (n : Nat) (d : List Word) : Option (Nat × Word × Nat) :=
  match s.badDesc n d with
  | some i => some (stBAD_DESC, 0, i)
  | none =>
    let op := wkOp d
    if op = opNOP then none
    else if op ≤ 5 then
      let f := s.flow (wkFlow d)
      if f.st = 0 ∨ f.st = 3 then some (stBAD_FLOW, 0, f.st)
      else if f.st = 2 then some (stFLOW_ERROR, 0, 0)
      else if op = opFLOWSEND ∧ f.rsv = 0 then some (stBAD_FLOW, 0, f.st)
      else if s.modState = 2 ∨ s.modState = 3 ∨ s.targetLost d = true then some (stNOT_READY, BitVec.ofNat 64 s.modState, 0)
      else none
    else
      -- R554's table for the flow operations
      let st := (s.flow (fld (wd d 1) 15 0)).st
      if (op = opOPEN_FLOW ∧ st ≠ 0) ∨ ((op = opCLOSE_FLOW ∨ op = opRESET_FLOW) ∧ (st = 0 ∨ st = 3)) then
        some (stBAD_FLOW, 0, st)
      else none

/-- Whether a descriptor that runs has requests to send. -/
def State.needsEntry (s : State) (d : List Word) : Bool :=
  let op := wkOp d
  ((op == opPLOAD || op == opCOPY || op == opFLOWSEND) && !wkSrcHost d && addrId (wkSource d) != s.flatId) ||
  (op == opCOPY && !wkDstHost d && addrId (wkDest d) != s.flatId)

/-- Whether the oldest descriptor of an SQ can start (R539, R542, R552). -/
def State.canStart (s : State) (q : Sq) : Bool :=
  match q.staged with
  | [] => false
  | x :: _ =>
    let d := x.desc
    let op := wkOp d
    !(wkBarrier d && s.works.any fun w => w.sq == q.n) &&
    decide ((s.due.filter fun e => e.cq == q.cq).length < 4096) &&
    ((s.judge q.n d).isSome ||
      !((op == opLAUNCH && decide (16 ≤ (s.launches (wkCore d)).length)) || (op == opCOLL && decide (1024 ≤ s.colls.length)) ||
        (s.needsEntry d && !s.entryFree 121)))

/-- The SQ served next (R538). -/
def State.turnSq (s : State) : Option Sq :=
  let l := s.sqs.filter s.canStart
  (l.find? fun q => decide (s.lastSq < q.n)).orElse fun _ => l.head?

/-! The work of PLOAD, COPY and FLOWSEND (R544, R545, R547). -/

/-- A request of a work descriptor. -/
def workReq (s : State) (w : Work) (kind : ReqKind) (ty tc a len dst : Nat) (payload : List Byte) (aux : Nat) : Unsent :=
  { req := { port := 121, tag := 0, kind := kind, who := .work w.id, target := addrId a, dst := dst, len := len }
    frame := mkFrame { dst := addrId a, src := s.flatId, tc := tc, vc := vcREQ, ty := ty, flow := wkFlow w.desc, tag := 0
                       addr := BitVec.ofNat 64 a, aux := aux, payload := payload } }

def State.workBulk (s : State) (d : List Word) : Bool := wkOp d == opCOPY && s.bulk (wkLen d)

/-- Requests of work; a target that cannot be reached is retired at once (R256). -/
def State.workSend (s : State) (id : Nat) (us : List Unsent) : State :=
  match us.find? (fun u => !s.routeOpen u.req.target) with
  | some u => s.boundsWork id (fAddr u.frame).toNat 2
  | none => us.foldl State.sendReq s

/-- The sources of work are in: a FLOWSEND asks its reservation, a copy sends what goes to another module. -/
def State.formWork (s : State) (w : Work) : State :=
  let d := w.desc
  let op := wkOp d
  let s := s.setWork { w with formed := true }
  if s.modState ≠ 0 ∧ s.modState ≠ 1 ∧ (op = opFLOWSEND ∨ (op = opCOPY ∧ wkDstHost d = false ∧ addrId (wkDest d) ≠ s.flatId)) then
    s.failWork w.id stNOT_READY (BitVec.ofNat 64 s.modState) 0
  else if op = opFLOWSEND then
    let rsv := (s.flow (wkFlow d)).rsv
    let s := s.setWork { w with formed := true, waiting := 1 }
    let a := wkDest d
    let f := mkFrame { dst := addrId a, src := s.flatId, tc := 0, vc := vcGUAR, ty := tyFLOW, flow := wkFlow d, tag := 0
                       addr := BitVec.ofNat 64 a, payload := w.bytes }
    let (ok, s) := s.askClass0 rsv 121 f (some w.id)
    if ok then s else s.finishWork w.id stGUAR_REFUSED (BitVec.ofNat 64 rsv) 0
  else if op = opCOPY ∧ wkDstHost d = false ∧ addrId (wkDest d) ≠ s.flatId then
    let us := (piecesOf (w.bytes.length / 4096 + 2) (wkDest d) w.bytes.length).map fun x =>
      let o := x.1 - wkDest d
      workReq s w .wr tyWR (if s.workBulk d then 6 else 4) x.1 x.2 o ((w.bytes.drop o).take x.2) 0
    (s.setWork { w with formed := true, waiting := us.length }).workSend w.id us
  else s

/-- Source data from host memory passes through staging, or waits for a buffer. -/
def State.stageWork (s : State) (w : Work) : State :=
  match s.passStage w.bytes with
  | (true, s) => s.formWork { w with wantsBuf := false }
  | (false, s) => s.setWork { w with wantsBuf := true }

/-- Whether an extent that work names is at fault at issue (R256, R545). -/
def State.issueFault (s : State) (a len : Nat) : Option Nat :=
  if addrId a = s.flatId then (if (s.localKey a len).isSome then none else some 1)
  else if !addrShape a len then some 1
  else if !s.routeOpen (addrId a) then some 2
  else none

/-- PLOAD, COPY and FLOWSEND start; data: what host memory holds at the source; fail: the offset at which an access to
host memory fails. Without full operation no such access is made, and it fails at once (R518). -/
def State.beginWork (s : State) (w : Work) (data : List Byte) (fail : Option Nat) : State :=
  let d := w.desc
  let len := wkLen d
  let src := wkSource d
  let bad : Option (Nat × Nat) :=
    (if wkSrcHost d then none else (s.issueFault src len).map fun x => (src, x)).orElse fun _ =>
      if wkOp d = opCOPY ∧ wkDstHost d = false then (s.issueFault (wkDest d) len).map fun x => (wkDest d, x) else none
  match bad with
  | some (a, x) => s.boundsWork w.id a x
  | none =>
    if wkSrcHost d then
      match (if s.hostUp then fail else some 0) with
      | some k =>
        let s := if s.hostUp then (s.hostRead src (min len (k + 1))).hostFault else s
        (s.setWork { w with formed := true, bytes := data.take k }).boundsWork w.id (src + k) 3
      | none => (s.hostRead src len).stageWork { w with bytes := data.take len ++ List.replicate (len - data.length) 0 }
    else if addrId src = s.flatId then
      match s.localKey src len with
      | some k =>
        let (bytes, s) := s.rdMem k len
        s.formWork { w with bytes := bytes, hostFail := fail }
      | none => s
    else
      let us := (piecesOf (len / 4096 + 2) src len).map fun x =>
        workReq s w .rd tyRD (if s.workBulk d then 6 else 2) x.1 x.2 (x.1 - src) [] x.2
      (s.setWork { w with waiting := us.length, hostFail := fail }).workSend w.id us

/-- A started PLOAD or COPY whose sources are in and whose requests are answered ends (R540). -/
def State.endWork (s : State) (w : Work) : State :=
  let d := w.desc
  if wkOp d = opPLOAD then
    match w.load with
    | none => s.finishWork w.id stOK 0 0
    | some l =>
      let n := s.physOf (wkCore d)
      let (l, s) := landLoad s n l.count l (ploadCommands w l)
      let s := loadTold s n l
      if l.dropped = 0 then s.finishWork w.id stOK 0 0
      else s.finishWork w.id stIMEM_DROPPED (BitVec.ofNat 64 l.dropped) 0
  else if wkDstHost d then
    if w.cut then s.finishWork w.id stOK (BitVec.ofNat 64 (wkLen d)) 0
    else
      match (if s.hostUp then w.hostFail else some 0) with
      | some k =>
        let s := if s.hostUp then (s.hostWrite (wkDest d) (w.bytes.take k)).hostFault else s
        s.boundsWork w.id (wkDest d + k) 3
      | none => (s.hostWrite (wkDest d) w.bytes).finishWork w.id stOK (BitVec.ofNat 64 (wkLen d)) 0
  else
    let s := if addrId (wkDest d) = s.flatId then s.ownPut (wkDest d) w.bytes else s
    s.finishWork w.id stOK (BitVec.ofNat 64 (wkLen d)) 0

/-! Completion entries and interrupts (R549, R552, R558). -/

/-- The mask bit of a vector as the MSI-X table now has it; one that is unmasked while its bit is pending sends its message, as
PCIe lays down (log 85). -/
def State.maskSeen (s : State) (v : Nat) (masked : Bool) : State :=
  let s := { s with vmask := tabSet (fun _ => true) s.vmask v masked }
  if !masked && tabGet (fun _ => false) s.msix v then { s with msix := tabSet (fun _ => false) s.msix v false }.emit (.msix v) else s

/-- A vector signals, or sets its pending bit (R558). -/
def State.signal (s : State) (v : Nat) : State :=
  if tabGet (fun _ => true) s.vmask v then { s with msix := tabSet (fun _ => false) s.msix v true } else s.emit (.msix v)

/-- The words of an entry for CQ index i. -/
def entryWords (s : State) (c : Cq) (e : Due) : List Word :=
  let head := match e.head with | some h => h | none => match s.sq e.sq with | some q => q.fetch | none => 0
  [BitVec.ofNat 64 (e.tag + e.sq <<< 16 + e.status <<< 24 + e.flow <<< 32), e.result, BitVec.ofNat 64 (head + e.detail <<< 32),
   BitVec.ofNat 64 (((c.index / 2 ^ c.log2 + 1) % 2) <<< 63)]

/-- Whether an entry or record fits a ring. -/
def ringFits (index head log2 : Nat) : Bool := decide ((index + 2 ^ 32 - head) % 2 ^ 32 < 2 ^ log2)

/-- The oldest entry due on a CQ is written when it fits; else HEAD is read again (R552). -/
def State.writeEntry (s : State) (n : Nat) (ok : Bool) : State :=
  match s.cq n, s.due.find? (fun e => e.cq == n) with
  | some c, some e =>
    if !ringFits c.index c.head c.log2 then s.askLine (256 + n)
    else
      let a := c.base + c.index % 2 ^ c.log2 * 32
      let s := { s with due := s.due.erase e }.emit (.cacheReq .wOWrInv a)
      let s := if ok then s.hputBytes a (wordsBytes (entryWords s c e)) else s.hostFault
      let c := { c with index := (c.index + 1) % 2 ^ 32, unsig := c.unsig + 1 }
      if n = 0 ∨ (c.irq = true ∧ (max 1 c.count ≤ c.unsig ∨ c.delay = 0)) then (s.setCq { c with unsig := 0 }).signal n
      else s.setCq c
  | _, _ => s

/-- Every entry that fits. -/
def State.writeEntries (n : Nat) : Nat → State → State
  | 0, s => s
  | k + 1, s =>
    let s' := s.writeEntry n true
    if s'.due.length < s.due.length then State.writeEntries n k s' else s'

/-! Event records (R556, R557, R614). -/

/-- The 64 bytes of a record. -/
def recordBytes (l : Latched) : List Byte :=
  wordsBytes [BitVec.ofNat 64 (l.code + l.sev <<< 16 + (bitsN l.code 11 8) <<< 18 + l.suppressed <<< 32), BitVec.ofNat 64 l.seq,
    BitVec.ofNat 64 l.uptime, l.step] ++ l.payload

/-- Free slots of the event ring. -/
def evFree (e : EvRing) : Nat := 2 ^ e.log2 - (e.tail + 2 ^ 32 - e.head) % 2 ^ 32

/-- Writes a record into the ring's next slot, and once it is visible the new TAIL (R556); ok, tail: the slot, and the tail line,
can be reached. Answers whether the record is visible. -/
def State.putRecord (s : State) (l : Latched) (ok tail : Bool) : Bool × State :=
  let e := s.evr
  let a := e.base + e.tail % 2 ^ e.log2 * 64
  let s := s.emit (.cacheReq .itoMWr a)
  if ok then
    let s := ({ s.hputBytes a (recordBytes l) with evr := { e with tail := (e.tail + 1) % 2 ^ 32 } }).writeTail tail
    (true, if 2 ≤ l.sev then { s with evr := { s.evr with unsig := false } }.signal 256 else { s with evr := { s.evr with unsig := true } })
  else (false, (s.rsetBit Reg.hifErr 2 true).hostFault)

/-- Counts an event that is not written, by severity and source. -/
def lossAdd (l : Latched) (c : List Nat) : List Nat :=
  let up (i : Nat) (c : List Nat) : List Nat := c.set i (min 0xFFFF (c.getD i 0 + 1))
  up l.sev (up (4 + min 11 (bitsN l.code 11 8)) c)

/-- The EVENT_LOSS record. -/
def State.lossRecord (s : State) (seq : Nat) (counts : List Nat) : Latched :=
  { code := evEVENT_LOSS, sev := sevINFO, seq := seq, uptime := s.uptime, step := s.rget Reg.twnCommitted
    payload := (counts.take 16).flatMap fun n => leBytes 2 n, suppressed := 0, off := false }

/-- The record that waits longest is written. When only the slot kept for EVENT_LOSS is free it is counted instead, in
HIF_STATUS.EV_LOST too (R568); where the head line has been snooped, HEAD is read again first. -/
def State.writeEvent (s : State) (ok tail : Bool) : State :=
  match s.evq with
  | [] => s
  | l :: t =>
    let e := s.evr
    if e.lost.isNone && decide (2 ≤ evFree e) then
      let (seen, s) := s.putRecord l ok tail
      if seen then { s with evq := t } else s
    else if e.lost.isNone && !s.lineHeld 512 then s.askLine 512
    else
      let (seq, c) := e.lost.getD (l.seq, List.replicate 16 0)
      ({ s with evq := t, evr := { e with lost := some (seq, lossAdd l c) } }.rcount Reg.hifStatus 47 32 1).askLine 512

/-- HEAD has advanced: EVENT_LOSS first, when events went unwritten. -/
def State.writeLoss (s : State) (ok tail : Bool) : State :=
  match s.evr.lost with
  | some (seq, c) =>
    if 2 ≤ evFree s.evr then
      let (seen, s) := s.putRecord (s.lossRecord seq c) ok tail
      if seen then { s with evr := { s.evr with lost := none } } else s
    else s
  | none => s

/-! The host-interface reset (R559, R560). -/

/-- Releases every line and the rings. -/
def State.dropRings (s : State) : State :=
  let s := s.sqs.foldl (fun s q => q.staged.foldl (fun s x => s.dropStage x.buf) s) s
  let s := s.lines.foldl (fun s x => s.dropLine x.1) s
  { s with sqs := [], cqs := [], evr := evRingReset, evq := [], lines := [], wants := [], snoops := [], biWait := [], lastSq := 0, ringsUp := false }

/-- What a reset makes of a flow (R560): CLOSED, or CLOSING while work of it is outstanding. -/
def cutFlow (k : Nat) (f : Flow) : Flow :=
  if k ≠ 0 ∧ (f.st = 1 ∨ f.st = 2) then (if f.work = 0 then ⟨0, 0, 0⟩ else { f with st := 3 }) else f

def cutWork (w : Work) : Work :=
  { w with cut := true, bytes := if w.wantsBuf then List.replicate w.bytes.length 0 else w.bytes }

/-- A host-interface reset. -/
def State.hifReset (s : State) : State :=
  let late := s.due.length
  let s := s.dropRings
  let st := s.rget Reg.hifStatus
  let locked := s.rbit Reg.hifSetupLock 1
  let flows := s.flows.foldl (fun (t : Tab Flow) (x : Nat × Flow) => tabSet flowReset t x.1 (cutFlow x.1 x.2)) s.flows
  let s : State := { s with
    due := [], regs := s.regs.filter (fun x => decide (0x100000 ≤ x.1)), works := s.works.map cutWork, flows := flows }
  let s := s.rput Reg.hifStatus (BitVec.ofNat 64 (fld st 5 0 + (fld st 9 8) <<< 8))
  let s := (s.rsetBit Reg.hifSetupLock 1 locked).rsetBit Reg.coreDumpBase 0 false
  s.rcount Reg.hifStatus 31 16 late

/-- The host link goes down. -/
def State.hostDown (s : State) : State := s.rput Reg.hifStatus (setFld (s.rget Reg.hifStatus) 6 0 0)

end Sys2Proof.Machine
end

