-- ==== Sys2Proof/Machine/HostRows.lean ====
section
/-! DEFINITION. The host interface's commands and events (ch. "Host interface, rings and doorbell lines"). -/

namespace Sys2Proof.Machine

/-! Starting descriptors (R538 to R548). -/

/-- The descriptor served next (R538), when a row of operation op acts on it: the SQ, the descriptor, and the state that
has taken it from staging. A descriptor whose OP is not in R540 is taken by any row. -/
def State.takeDesc (s : State) (op : Nat) : Option (Nat × List Word × State) :=
  match s.turnSq with
  | some q =>
    match q.staged with
    | x :: rest =>
      if wkOp x.desc = op ∨ opListed (wkOp x.desc) = false then
        some (q.n, x.desc, { s.setSq { q with staged := rest } with lastSq := q.n }.dropStage x.buf)
      else none
    | [] => none
  | none => none

/-- Work begins: it is outstanding work of its flow when it is a work operation (R554). -/
def State.startWork (s : State) (n : Nat) (d : List Word) : Work × State :=
  let w : Work := { id := s.nextWork, sq := n, desc := d, waiting := 0, got := [], formed := false, bytes := [], wantsBuf := false
                    load := if wkOp d = opPLOAD then some { bank := fld (wd d 0) 30 30, first := fld (wd d 2) 10 0, count := fld (wd d 2) 27 16 } else none
                    hostFail := none, cut := false }
  let f := s.flow (wkFlow d)
  let s := if 1 ≤ wkOp d ∧ wkOp d ≤ 5 then s.setFlow (wkFlow d) { f with work := f.work + 1 } else s
  (w, { s with works := s.works ++ [w], nextWork := s.nextWork + 1 })

/-- A descriptor row: the descriptor served next completes at once when R541, R548 or R554 says so, and else acts. -/
def runDesc (s : State) (op : Nat) (act : Nat → List Word → State → State) : Host.Outcome State Fault Refusal :=
  match s.takeDesc op with
  | none => .next s
  | some (n, d, s') =>
    match s.judge n d with
    | some (st, res, det) => .next (s'.complete n d st res det false)
    | none => .next (act n d s')

/-- NOP (R714). -/
def execNop (s : State) : Host.Outcome State Fault Refusal := runDesc s opNOP fun n d s => s.complete n d stOK 0 0 false

/-- LAUNCH (R543). -/
def execLaunch (s : State) : Host.Outcome State Fault Refusal :=
  runDesc s opLAUNCH fun n d s =>
    let (w, s) := s.startWork n d
    let l := wkCore d
    let x : Launch := { work := w.id, flow := wkFlow d, logical := l, bank := fld (wd d 0) 30 30, entry := fld (wd d 0) 29 19
                        free := bit (wd d 0) 31, args := (upFrom 1 7).map (wd d) }
    s.setLaunches l (s.launches l ++ [x])

/-- PLOAD, COPY and FLOWSEND start. Host memory can be reached only while the host link is in full operation. -/
def runData (s : State) (op : Nat) (data : List Byte) (fail : Option Nat) : Host.Outcome State Fault Refusal :=
  runDesc s op fun n d s =>
    let (w, s) := s.startWork n d
    s.beginWork w data fail

/-- PLOAD (R544). -/
def execPload (data : List Byte) (fail : Option Nat) (s : State) : Host.Outcome State Fault Refusal := runData s opPLOAD data fail

/-- COPY (R545). -/
def execCopy (data : List Byte) (fail : Option Nat) (s : State) : Host.Outcome State Fault Refusal := runData s opCOPY data fail

/-- FLOWSEND (R547). -/
def execFlowsend (data : List Byte) (fail : Option Nat) (s : State) : Host.Outcome State Fault Refusal :=
  runData s opFLOWSEND data fail

/-- COLL (R546). -/
def execColl (s : State) : Host.Outcome State Fault Refusal :=
  let d := match s.turnSq with | some q => (match q.staged with | x :: _ => x.desc | [] => []) | none => []
  gated s [] (match s.localKey (wkSource d) 192 with
    | some k => if s.snoops.isEmpty then [] else (k, 192) :: s.collRuns (s.descAt k)
    | none => []) <|
  runDesc s opCOLL fun n d s =>
    let (w, s) := s.startWork n d
    match s.localKey (wkSource d) 192 with
    | some k => s.askColl (.work w.id) (wkFlow d) k (s.physOf (wkCore d))
    | none => s

/-- Rings in ascending number. -/
def addSq (q : Sq) : List Sq → List Sq
  | [] => [q]
  | x :: t => if q.n < x.n then q :: x :: t else x :: addSq q t

def addCq (c : Cq) : List Cq → List Cq
  | [] => [c]
  | x :: t => if c.n < x.n then c :: x :: t else x :: addCq c t

/-- CREATE_SQ (R540): it completes when the doorbell line has been read once. -/
def execCreateSq (s : State) : Host.Outcome State Fault Refusal :=
  runDesc s opCREATE_SQ fun n d s =>
    let (w, s) := s.startWork n d
    let k := fld (wd d 3) 7 0
    let q : Sq := { n := k, base := wkSource d, log2 := fld (wd d 3) 20 16, line := wkDest d, cq := fld (wd d 3) 15 8, tail := 0, fetch := 0
                    err := false, staged := [], stall := none, creator := some w.id, deleting := none }
    { s with sqs := addSq q s.sqs }.askLine k

/-- CREATE_CQ (R540). -/
def execCreateCq (s : State) : Host.Outcome State Fault Refusal :=
  runDesc s opCREATE_CQ fun n d s =>
    let w3 := wd d 3
    let c : Cq := { n := fld w3 7 0, base := wkSource d, log2 := fld w3 12 8, line := wkDest d, irq := bit w3 13, delay := fld w3 31 16
                    count := fld w3 47 32, index := 0, head := 0, unsig := 0 }
    { s with cqs := addCq c s.cqs }.complete n d stOK 0 0 false

/-- DELETE_SQ (R540, R551): what the SQ has not started completes ABORTED. -/
def execDeleteSq (s : State) : Host.Outcome State Fault Refusal :=
  runDesc s opDELETE_SQ fun n d s =>
    let (w, s) := s.startWork n d
    match s.sq (fld (wd d 1) 7 0) with
    | some q =>
      let s := s.setSq { q with staged := [], stall := none, deleting := some w.id }
      q.staged.foldl (fun s x => (s.complete q.n x.desc stABORTED 0 0 false).dropStage x.buf) s
    | none => s

/-- DELETE_CQ (R540). -/
def execDeleteCq (s : State) : Host.Outcome State Fault Refusal :=
  runDesc s opDELETE_CQ fun n d s =>
    let k := fld (wd d 1) 7 0
    let s := s.dropLine (256 + k)
    { s with cqs := s.cqs.filter (fun c => c.n != k), due := s.due.filter (fun e => e.cq != k) }.complete n d stOK 0 0 false

/-- OPEN_FLOW (R554, R555). -/
def execOpenFlow (s : State) : Host.Outcome State Fault Refusal :=
  runDesc s opOPEN_FLOW fun n d s =>
    let w := wd d 1
    (s.setFlow (fld w 15 0) ⟨1, fld w 21 16, 0⟩).complete n d stOK 0 0 false

/-- CLOSE_FLOW (R554, R714). -/
def execCloseFlow (s : State) : Host.Outcome State Fault Refusal :=
  runDesc s opCLOSE_FLOW fun n d s =>
    let k := fld (wd d 1) 15 0
    let f := s.flow k
    if f.work = 0 then (s.setFlow k ⟨0, 0, 0⟩).complete n d stOK 0 0 false
    else (s.setFlow k { f with st := 3 }).startWork n d |>.2

/-- RESET_FLOW (R554). -/
def execResetFlow (s : State) : Host.Outcome State Fault Refusal :=
  runDesc s opRESET_FLOW fun n d s =>
    let k := fld (wd d 1) 15 0
    (s.setFlow k { s.flow k with st := 1 }).complete n d stOK 0 0 false

/-- An SQ goes: its entries still due keep its fetch index. -/
def State.removeSq (s : State) (q : Sq) : State :=
  let s := s.dropLine q.n
  { s with sqs := s.sqs.filter (fun x => x.n != q.n)
           due := s.due.map fun e => if e.sq = q.n ∧ e.head = none then { e with head := some q.fetch } else e }

/-- DESCRIPTOR_WORK_DONE (R540, R550): a started PLOAD, COPY, DELETE_SQ or CLOSE_FLOW whose condition of R540 holds ends. -/
def execDescriptorWorkDone (id : Nat) (s : State) : Host.Outcome State Fault Refusal :=
  match s.work id with
  | none => .next s
  | some w =>
    let op := wkOp w.desc
    if op = opPLOAD ∨ op = opCOPY then
      .next (if w.formed && w.waiting == 0 && !w.wantsBuf then s.endWork w else s)
    else if op = opCREATE_SQ then .next (if w.cut then s.finishWork id stOK 0 0 else s)
    else if op = opDELETE_SQ then
      if w.cut then .next (s.finishWork id stOK 0 0)
      else
        match s.sq (fld (wd w.desc 1) 7 0) with
        | some q => .next (if s.works.any (fun x => x.sq == q.n) then s else (s.removeSq q).finishWork id stOK 0 0)
        | none => .next (s.finishWork id stOK 0 0)
    else if op = opCLOSE_FLOW then
      .next (if (s.flow (fld (wd w.desc 1) 15 0)).st = 3 then s else s.finishWork id stOK 0 0)
    else .next s

/-! Lines and rings (R521, R531 to R536, R552). -/

/-- Whether the device has to read the line of R522 with key k now. -/
def State.lineDue (s : State) (k : Nat) : Bool :=
  s.serving &&
  (if k < 256 then (s.sq k).isSome
   else if k < 512 then
     match s.cq (k - 256) with
     | some c => (s.due.any fun e => e.cq == c.n) && !ringFits c.index c.head c.log2
     | none => false
   else s.evr.started)

/-- DOORBELL_SNOOP (R521, R534): a SnpInv of the held line with key k. -/
def execDoorbellSnoop (k : Nat) (s : State) : Host.Outcome State Fault Refusal :=
  if s.lineHeld k then
    let s := (s.setLine k false).emit (.snoopRsp k false)
    .next (if s.lineDue k then s.askLine k else s)
  else .next s

/-- SNOOP_DATA (R521): a SnpData or SnpCur of the held line with key k. -/
def execSnoopData (k : Nat) (s : State) : Host.Outcome State Fault Refusal :=
  .next (if s.lineHeld k then s.emit (.snoopRsp k true) else s)

/-- DOORBELL_LINE_FILL (R533 to R535): the doorbell line of SQ n comes with TAIL, or cannot be read. -/
def execDoorbellLineFill (n tail : Nat) (ok : Bool) (s : State) : Host.Outcome State Fault Refusal :=
  match s.lineWanted n, s.sq n with
  | true, some q =>
    let s := s.setWant n false
    let s := if ok then s.setLine n true else s.hostFault
    let q0 := q.creator
    let q := { q with creator := none }
    let s :=
      if q.err then s.setSq q
      else if !ok then s.sqError q q.tail
      else if 2 ^ q.log2 < (tail + 2 ^ 32 - q.fetch) % 2 ^ 32 then s.sqError { q with tail := tail } tail
      else s.setSq { q with tail := tail }
    .next (match q0 with | some w => s.finishWork w stOK 0 0 | none => s)
  | _, _ => .next s

/-- DESCRIPTOR_FETCH (R534 to R536): the descriptor at the fetch index of SQ n comes, or cannot be read. -/
def execDescriptorFetch (n : Nat) (words : List Word) (ok : Bool) (s : State) : Host.Outcome State Fault Refusal :=
  match s.sq n with
  | some q =>
    if s.serving && !q.err && q.deleting.isNone && q.stall.isNone && q.fetch != q.tail then
      let s := s.emit (.cacheReq .rdCurr (q.base + q.fetch % 2 ^ q.log2 * 64))
      .next (if ok then s.stageDesc q words else s.hostFault.sqError q q.tail)
    else .next s
  | none => .next s

/-- STAGING_RETRY (R536): every fetch and every source that waits for a buffer asks again. -/
def execStagingRetry (s : State) : Host.Outcome State Fault Refusal :=
  let s := s.sqs.foldl (fun s q => match q.stall with | some d => s.stageDesc q d | none => s) s
  .next (s.works.foldl (fun s w => if w.wantsBuf then s.stageWork w else s) s)

/-- CQ_ENTRY_WRITE (R550, R552): the oldest entry due on CQ n; masked: its vector's mask; ok: its slot can be written. -/
def execCqEntryWrite (n : Nat) (masked ok : Bool) (s : State) : Host.Outcome State Fault Refusal :=
  let s := s.maskSeen n masked
  .next (if s.serving then s.writeEntry n ok else s)

/-- CQ_IRQ_DELAY (R558). -/
def execCqIrqDelay (n : Nat) (masked : Bool) (s : State) : Host.Outcome State Fault Refusal :=
  let s := s.maskSeen n masked
  match s.cq n with
  | some c => .next (if c.irq && c.n != 0 && decide (1 ≤ c.unsig) then (s.setCq { c with unsig := 0 }).signal n else s)
  | none => .next s

/-- EVENT_RECORD_WRITE (R556, R557): an EVENT_LOSS that is due, and else the record that waits longest; ok, tail: its slot, and
the tail line, can be reached. -/
def execEventRecordWrite (masked ok : Bool) (s : State) (tail : Bool := true) : Host.Outcome State Fault Refusal :=
  let s := s.maskSeen 256 masked
  .next (if s.evRunning then
      (if s.evr.lost.isSome && decide (2 ≤ evFree s.evr) then s.writeLoss ok tail else s.writeEvent ok tail)
    else s)

/-- EVENT_IRQ_DELAY (R558). -/
def execEventIrqDelay (masked : Bool) (s : State) : Host.Outcome State Fault Refusal :=
  let s := s.maskSeen 256 masked
  .next (if s.evr.unsig then { s with evr := { s.evr with unsig := false } }.signal 256 else s)

/-- HEAD_LINE_FILL (R552, R557, R568): the head line of CQ k, or of the event ring (k = 256), comes with HEAD, or cannot be
read. -/
def execHeadLineFill (k head : Nat) (ok masked : Bool) (s : State) : Host.Outcome State Fault Refusal :=
  if !s.lineWanted (256 + k) then .next s
  else
    let s := (s.maskSeen k masked).setWant (256 + k) false
    let s := if ok then s.setLine (256 + k) true else s.hostFault
    if k = 256 then
      if !s.evr.started then .next s
      else if !ok then .next (s.rsetBit Reg.hifErr 2 true)
      else
        let s := { s with evr := { s.evr with head := head } }
        .next (if s.evRunning then s.evq.foldl (fun s _ => s.writeEvent true true) (s.writeLoss true true) else s)
    else
      match s.cq k with
      | none => .next s
      | some c =>
        if !ok then .next (if k = 0 then s.rsetBit Reg.hifErr 1 true else s)
        else
          let s := s.setCq { c with head := head }
          .next (if s.serving then State.writeEntries k s.due.length s else s)

/-! HDM ranges (R257, R524, R525, R528, R702). -/

/-- Size of an HDM range, and the memory key of an offset in it. -/
def hdmSize (range : Nat) : Nat := if range = 0 then 256 * 2 ^ 30 else 1024 * 2 ^ 30
def hdmKey (range off : Nat) : Nat := (if range = 0 then 2 ^ 46 else 2 ^ 47) + off

/-- HDM_LOST, at most once per second (R528). -/
def State.hdmLose (s : State) (range : Nat) : State :=
  let (n, t) := tabGet (fun _ => (0, 0)) s.hdmLost range
  let keep (x : Nat × Nat) : State := { s with hdmLost := tabSet (fun _ => (0, 0)) s.hdmLost range x }
  if t = 0 ∨ t - 1 + 1600000000 ≤ s.clock then (keep (0, s.clock + 1)).raise evHDM_LOST sevCONTAINED [(8, range), (32, n + 1)]
  else keep (n + 1, t)

/-- What the filter holds of a line after a host access (R524). -/
def State.filterLine (s : State) (line : Nat) (caches : Bool) : State :=
  let rest := s.snoops.filter fun x => x.1 != line
  { s with snoops := if caches then rest ++ [(line, false)] else rest }

/-- A full filter back-invalidates its oldest line before it admits another. -/
def State.filterFull (s : State) (line : Nat) (caches : Bool) : Option Nat :=
  if caches && !(s.snoops.any fun x => x.1 == line) && decide (1048576 ≤ s.snoops.length) then s.snoops.head?.map (·.1) else none

/-- HDM_READ (R525): 64 B at an offset of a range; caches: the host takes a copy. -/
def execHdmRead (range off : Nat) (caches : Bool) (s : State) : Host.Outcome State Fault Refusal :=
  if !s.hostUp then .next s
  else
    let zeros : Output := .memData (List.replicate 64 0)
    let o := off - off % 64
    let k := hdmKey range o
    if hdmSize range ≤ o then .next ((s.rsetBit Reg.hifErr 4 true).emit zeros)
    else if s.partLost (partOf k) then .next ((s.hdmLose range).emit zeros)
    else
      match s.filterFull k caches with
      | some l => .next (s.biSend l true)
      | none =>
        let (bs, s) := s.rdMem k 64
        .next ((if caches then s.filterLine k true else s).emit (.memData bs))

/-- HDM_WRITE (R525): the bytes of a line whose enable is 1; caches: the host keeps a copy. -/
def execHdmWrite (range off : Nat) (data : List Byte) (be : Word) (caches : Bool) (s : State) : Host.Outcome State Fault Refusal :=
  if !s.hostUp then .next s
  else
    let o := off - off % 64
    let k := hdmKey range o
    if hdmSize range ≤ o then .next (s.rsetBit Reg.hifErr 4 true)
    else if s.partLost (partOf k) then .next (s.hdmLose range)
    else
      match s.filterFull k caches with
      | some l => .next (s.biSend l true)
      | none =>
        let ws : Writes := (placeAt 0 data).filterMap fun x => if be.getLsbD x.1 then some (k + x.1, x.2) else none
        .next ((s.mputs ws).filterLine k caches)

/-- BISNP_RESPONSE (R524): the host answers a snoop, with the line's data when it held it modified, and keeps a clean copy
or not. -/
def execBisnpResponse (line : Nat) (inv : Bool) (data : List Byte) (keep : Bool) (s : State) : Host.Outcome State Fault Refusal :=
  if s.biWait.contains (line, inv) then
    let s := { s with biWait := s.biWait.erase (line, inv) }
    let s := if data.length = 64 then s.mputBytes line data else s
    .next { s with snoops := s.snoops.filterMap fun x =>
      if x.1 = line then (if inv || !keep then none else some (x.1, true)) else some x }
  else .next s

/-! The host link and the host-interface reset (R518, R559 to R562, R712). -/

/-- Full operation is there: what R712 starts or resumes. -/
def State.resumeRings (s : State) (tail : Bool) : State :=
  if s.rbit Reg.hifCtrl 0 then
    if s.ringsUp then
      let s := s.rsetBit Reg.hifStatus 6 ((s.sq 0).isSome && (s.cq 0).isSome)
      let s := if s.serving then s.sqs.foldl (fun s q => s.askLine q.n) s else s
      if s.evr.lost.isSome then s.askLine 512 else s
    else s.startRings tail
  else s

/-- HOST_LINK_TRAIN (R518, R562): the link trains at a width and a rate in GT/s; tail: the event ring's tail line can be reached,
where the rings start now (R712). -/
def execHostLinkTrain (width rate : Nat) (s : State) (tail : Bool := true) : Host.Outcome State Fault Refusal :=
  if s.perst || s.partLost 48 || !s.mg.pins.hostClk || s.mg.pins.modRst then .next s
  else
    let full := rate == 64 && (width == 16 || width == 8 || width == 4)
    let s := s.rsetFld Reg.hifStatus 4 0 width
    if full then
      let s := s.rsetBit Reg.hifStatus 5 true
      let s := if width = 16 then s else s.raise evHOST_LINK_DEGRADED sevINFO [(8, width), (8, rate)]
      .next (if s.rbit Reg.hifStatus 6 then s else s.resumeRings tail)
    else .next ((s.rsetFld Reg.hifStatus 6 5 0).raise evHOST_LINK_DEGRADED sevCONTAINED [(8, width), (8, rate)])

/-- HOST_FULL_OPERATION_LOSS (R712). -/
def execHostFullOperationLoss (s : State) : Host.Outcome State Fault Refusal := .next (s.rsetFld Reg.hifStatus 6 5 0)

/-- A reset that takes the link down (R559); the MSI-X table and pending bits are as PCIe resets them. -/
def State.linkReset1 (s : State) : State := { s.hifReset.rsetFld Reg.hifStatus 6 0 0 with msix := [], vmask := [] }

/-- PERST_N is asserted (R559). -/
def execPerstN (s : State) : Host.Outcome State Fault Refusal := .next ({ s with perst := true }.linkReset1)

/-- PERST_N is deasserted (R562). -/
def execPerstNDeassert (s : State) : Host.Outcome State Fault Refusal := .next { s with perst := false }

/-- HOT_RESET (R559). -/
def execHotReset (s : State) : Host.Outcome State Fault Refusal := .next s.linkReset1

/-- LINK_DISABLE (R559). -/
def execLinkDisable (s : State) : Host.Outcome State Fault Refusal := .next s.linkReset1

/-- FUNCTION_LEVEL_RESET (R559): the link stays up. -/
def execFunctionLevelReset (s : State) : Host.Outcome State Fault Refusal := .next { s.hifReset with msix := [], vmask := [] }

/-- HIF_RESET (R559). -/
def execHifReset (s : State) : Host.Outcome State Fault Refusal := .next s.hifReset

/-- HIF_CTRL.ENABLE is written (R568, R569, R712). -/
def State.writeEnable (s : State) (v tail : Bool) : State :=
  let was := s.rbit Reg.hifCtrl 0
  if v && !was then
    let s := s.rsetBit Reg.hifCtrl 0 true
    if s.hostUp then s.startRings tail else s
  else if !v && was then s.hifReset
  else s

/-- HIF_ENABLE; tail: the event ring's tail line can be reached, where the rings start now. -/
def execHifEnable (v : Bool) (s : State) (tail : Bool := true) : Host.Outcome State Fault Refusal := .next (s.writeEnable v tail)

/-- HOST_INTERFACE_ISLAND_FAILS (R594). -/
def execHostInterfaceIslandFails (s : State) : Host.Outcome State Fault Refusal :=
  let s := { s with lost := tabSet (fun _ => false) s.lost 48 true }
  .next (((s.rsetFld Reg.hifStatus 6 0 0).flushPort 121).enterTungsten 1)

/-! The set-up lock (R565 to R567, R632). -/

/-- The RWL fields that differ from reset, as offset and word: those of the LNK, SWC, STU and TWN blocks, or the others
(R663). -/
def State.rwlFields (s : State) (fabric : Bool) : List (Nat × Word) :=
  s.regs.filterMap fun x =>
    match regRow x.1 with
    | some r =>
      let m : Word := BitVec.ofNat 64 r.rwl
      let b := x.1 / 0x100000
      let inF := b == 2 || b == 3 || b == 4 || b == 7
      if r.rwl ≠ 0 ∧ inF = fabric ∧ x.2 &&& m ≠ regReset x.1 &&& m then some (x.1, x.2 &&& m) else none
    | none => none

/-- LOCKED is set or cleared; measurement block 7 is taken (R663). -/
def State.setLocked (s : State) (v : Bool) : State :=
  let s := s.rsetBit Reg.hifSetupLock 1 v
  { s with mg := { s.mg with block7 := (v, s.rwlFields false) } }

/-- LOCK (R565). -/
def execLock (s : State) : Host.Outcome State Fault Refusal := .next (s.setLocked true)

/-- A grant, with its authorisation kind: 0 FREE, 1 AUTH (R632). -/
def State.unlock (s : State) (kind : Nat) : State :=
  ((s.rsetFld Reg.hifSetupUnlock 2 1 2).setLocked false).raise evSETUP_UNLOCKED sevINFO [(8, kind)]

/-- REQUEST (R567, R632): FREE is granted and NONE refused at once; AUTH waits for UNLOCK_AUTH. -/
def execRequest (s : State) : Host.Outcome State Fault Refusal :=
  if s.rbit Reg.hifSetupLock 1 && s.rfld Reg.hifSetupUnlock 2 1 != 1 then
    let u := s.rfld Reg.fuseSec 13 12
    .next (if u = 0 then s.unlock 0 else if u = 3 then s.rsetFld Reg.hifSetupUnlock 2 1 3 else s.rsetFld Reg.hifSetupUnlock 2 1 1)
  else .next s

/-- UNLOCK_AUTH_TIMEOUT (R632). -/
def execUnlockAuthTimeout (s : State) : Host.Outcome State Fault Refusal :=
  .next (if s.rfld Reg.hifSetupUnlock 2 1 = 1 then s.rsetFld Reg.hifSetupUnlock 2 1 3 else s)

end Sys2Proof.Machine
end

