-- ==== Sys2Proof/Machine/NetRows.lean ====
section
/-! DEFINITION. Frames delivered to the tier controllers, cores and pool managers, replies to requests, requests that
fail (R251 to R256, R351, R364, R366, R393), and memory errors and temperatures (R278 to R286, R703). -/

namespace Sys2Proof.Machine

/-- The oldest frame of a type that has been delivered. -/
def State.firstDeliv (s : State) (ty : Nat) : Option Delivered := s.deliv.find? (fun d => fType d.frame == ty)

def State.takeType (s : State) (ty : Nat) : Option (Delivered × State) := s.takeDeliv (fun d => fType d.frame == ty)

/-- A reply to a delivered request, injected where the request was delivered (R393, R399, R713). -/
def State.answer (s : State) (d : Delivered) (ty : Nat) (aux : Nat) (addr arg0 : Word) (payload : List Byte) : State :=
  let f := d.frame
  s.inject d.port (mkFrame { dst := fSrc f, src := s.flatId, tc := replyTc (fTc f), vc := vcRSP, ty := ty, flow := fFlow f, tag := fTag f
                             addr := addr, aux := aux, arg0 := arg0, payload := payload })

def State.answerErr (s : State) (d : Delivered) (cause : Nat) : State := s.answer d tyERR cause 0 0 []

/-- Whether an address of the own Pewter names a logical core of the module that has no physical core: it lies within bounds,
on a lost part (R248, R594). -/
def State.noCore (s : State) (a len : Nat) : Bool :=
  addrShape a len && addrTier a == 0 && decide (bitsN (addrOff a) 30 23 < s.coresEnabled) &&
    decide (192 ≤ s.physOf (bitsN (addrOff a) 30 23))

/-- Where an access of a delivered frame goes: its key, or the cause of ERR: 1 outside bounds, 2 target part lost while in
TUNGSTEN (R250, R351, R364). -/
def State.reach (s : State) (a len : Nat) : Except Nat Nat :=
  match s.localKey a len with
  | none => .error (if s.modState = mTUNGSTEN ∧ s.noCore a len = true then 2 else 1)
  | some k => if s.modState = mTUNGSTEN ∧ s.runLost k len = true then .error 2 else .ok k

/-- WR (R351, R364). -/
def execWr (s : State) : Host.Outcome State Fault Refusal :=
  match s.takeType tyWR with
  | none => .next s
  | some (d, s') =>
    let n := d.frame.payload.length
    match s.reach (fAddr d.frame).toNat n with
    | .error c => .next (s'.answerErr d c)
    | .ok k => gated s [] [(k, n)] (.next ((s'.mputBytes k d.frame.payload).answer d tyWRACK 0 0 0 []))

/-- RD (R351, R364); errs: the memory errors it meets, as offset and uncorrectable. RDDATA's ADDR names the requester's
destination, which RD does not carry: a free word. -/
def execRd (errs : List (Nat × Bool)) (s : State) : Host.Outcome State Fault Refusal :=
  match s.takeType tyRD with
  | none => .next s
  | some (d, s') =>
    let n := fAux d.frame % 2 ^ 13
    match s.reach (fAddr d.frame).toNat n with
    | .error c => .next (s'.answerErr d c)
    | .ok k =>
      if n = 0 ∨ 4096 < n then .next (s'.answerErr d 1)
      else
        gated s [(k, n)] [] (
          let (bs, s') := s'.rdMem k n
          let s' := s'.meet ((errs.filter fun e => decide (e.1 < n)).map fun e => (k + e.1, e.2))
          let (w, s') := s'.draw
          .next (s'.answer d tyRDDATA 0 w 0 bs))

/-- ATOM (R253, R351): a reserved SUBOP's new value is free. -/
def execAtom (s : State) : Host.Outcome State Fault Refusal :=
  match s.takeType tyATOM with
  | none => .next s
  | some (d, s') =>
    let f := d.frame
    let a := (fAddr f).toNat
    match s.reach a 8 with
    | .error c => .next (s'.answerErr d c)
    | .ok k =>
      if a % 8 ≠ 0 then .next (s'.answerErr d 1)
      else
        gated s [] [(k, 8)] (
          let (_, s') := s'.rdMem k 8
          let old := s'.mword k
          let sub := fAux f % 8
          let (w, s') := if sub < 5 then (atomNew sub old (fArg f 0) (fArg f 1), s') else s'.draw
          .next ((s'.mputWord k w).answer d tyATOMRSP 0 0 old []))

/-- SIG (R137, R250). -/
def execSig (s : State) : Host.Outcome State Fault Refusal :=
  match s.takeType tySIG with
  | none => .next s
  | some (d, s') =>
    match semOfAddr (fAddr d.frame).toNat with
    | none => .next (s'.answerErr d 1)
    | some (n, sem) =>
      if s.modState = mTUNGSTEN ∧ s.partLost (49 + n / 96) = true then .next (s'.answerErr d 2)
      else .next ((semAddOutside s' n sem (fAux d.frame % 65536)).answer d tySIGACK 0 0 0 [])

/-- FLOW (R351): no reply; what cannot be written is sunk. -/
def execFlow (s : State) : Host.Outcome State Fault Refusal :=
  match s.takeType tyFLOW with
  | none => .next s
  | some (d, s') =>
    let n := d.frame.payload.length
    match s.reach (fAddr d.frame).toNat n with
    | .error _ => .next s'
    | .ok k => gated s [] [(k, n)] (.next (s'.mputBytes k d.frame.payload))

/-! Replies (R256, R393). -/

/-- The oldest delivered reply of a type, with the request that it answers; a late reply has none. -/
def State.takeReply (s : State) (ty : Nat) : Option (Delivered × Option Req × State) :=
  match s.takeType ty with
  | none => none
  | some (d, s) => some (d, s.reqs.find? (fun r => r.tag == fTag d.frame && r.target == fSrc d.frame), s)

/-- One more reply is in: to whom, with what it changes. -/
def State.replied (s : State) (r : Req) (core : Flight → Flight) (work : Work → Work) : State :=
  let s := s.dropReq r.tag
  match r.who with
  | .core n fid _ =>
    match findFlight (s.core n) fid with
    | some f => s.setFlight n { core f with waiting := f.waiting - 1 }
    | none => s
  | .work id =>
    match s.work id with
    | some w => s.setWork { work w with waiting := w.waiting - 1 }
    | none => s
  | .coll h =>
    match s.coll h with
    | some c => s.setColl { c with waiting := c.waiting - 1 }
    | none => s

/-- The sources of a command or of work are all in. -/
def State.sourcesIn (s : State) (who : Requester) : State :=
  match who with
  | .core n fid _ =>
    match findFlight (s.core n) fid with
    | some f => if f.waiting = 0 then formFlight s n f else s
    | none => s
  | .work id =>
    match s.work id with
    | some w =>
      if w.waiting = 0 then s.formWork { w with bytes := (upFrom 0 (wkLen w.desc)).map fun i => tabGet (fun _ => 0) w.got i } else s
    | none => s
  | .coll _ => s

/-- RDDATA (R393). -/
def execRddata (s : State) : Host.Outcome State Fault Refusal :=
  match s.takeReply tyRDDATA with
  | none => .next s
  | some (d, some r, s) =>
    if r.kind = .rd then
      let put (t : Tab Byte) : Tab Byte :=
        (placeAt r.dst (d.frame.payload.take r.len)).foldl (fun t x => tabSet (fun _ => 0) t x.1 x.2) t
      let s := s.replied r (fun f => { f with got := put f.got }) (fun w => { w with got := put w.got })
      .next (s.sourcesIn r.who)
    else .next s
  | some (_, none, s) => .next s

/-- A reply that only counts. -/
def plainReply (s : State) (ty : Nat) (kind : ReqKind) : Host.Outcome State Fault Refusal :=
  match s.takeReply ty with
  | none => .next s
  | some (_, some r, s) => .next (if r.kind = kind then s.replied r id id else s)
  | some (_, none, s) => .next s

/-- WRACK (R393). -/
def execWrack (s : State) : Host.Outcome State Fault Refusal := plainReply s tyWRACK .wr

/-- SIGACK (R393). -/
def execSigack (s : State) : Host.Outcome State Fault Refusal := plainReply s tySIGACK .sig

/-- MSGACK (R366, R393). -/
def execMsgack (s : State) : Host.Outcome State Fault Refusal := plainReply s tyMSGACK .msg

/-- ATOMRSP (R126, R393): the old value goes to S[D.SBASE] with the command's completion, or to the race. -/
def execAtomrsp (s : State) : Host.Outcome State Fault Refusal :=
  match s.takeReply tyATOMRSP with
  | none => .next s
  | some (_, none, s) => .next s
  | some (d, some r, s) =>
    if r.kind = .atom then
      let old := fArg d.frame 0
      let s := s.replied r
        (fun f => { f with scalars := [((opdField (cOpd f.cmd 1)).sbase, old)], formed := true }) id
      match r.who with
      | .coll h => match s.coll h with | some c => .next (s.setColl { c with old := some old }) | none => .next s
      | _ => .next s
    else .next s

/-- A request fails: ERR with a cause, or retired (cause 3, R256). -/
def State.failFor (s : State) (r : Req) (cause : Nat) : State :=
  match r.who with
  | .core n fid detail => failFlight s n fid 0x05 detail
  | .work id =>
    match s.work id with
    | some w =>
      let a := (if r.kind = .rd then wkSource w.desc else wkDest w.desc) + r.dst
      s.boundsWork id a (if cause = 3 then 2 else if cause = 2 then 4 else 1)
    | none => s
  | .coll h => (s.finish h 2 10 r.target).admitColls

/-- An outstanding request fails, and its entry is freed. -/
def State.failReq (s : State) (r : Req) (cause : Nat) : State := (s.dropReq r.tag).failFor r cause

/-- ERR (R256, R351). -/
def execErr (s : State) : Host.Outcome State Fault Refusal :=
  match s.takeReply tyERR with
  | none => .next s
  | some (d, some r, s) => .next (s.failReq r (if fAux d.frame % 256 = 2 then 2 else 1))
  | some (_, none, s) => .next s

/-- REQUEST_TIMEOUT (R256). -/
def execRequestTimeout (port tag : Nat) (s : State) : Host.Outcome State Fault Refusal :=
  if s.rfld Reg.memReqTimeout 31 0 = 0 then .next s
  else
    match s.reqs.find? (fun r => r.port == port && r.tag == tag) with
    | some r => .next (s.failReq r 3)
    | none => .next s

/-- Requests to targets that the route table has come to mark unreachable or fenced are retired at once (R256). -/
def State.retireGo : Nat → State → State
  | 0, s => s
  | n + 1, s =>
    match s.reqs.find? (fun r => !s.routeOpen r.target), s.unsent.find? (fun u => !s.routeOpen u.req.target) with
    | some r, _ => State.retireGo n (s.failReq r 3)
    | none, some u => State.retireGo n ({ s with unsent := s.unsent.erase u }.failFor u.req 3)
    | none, none => s

def State.retireUnreachable (s : State) : State := State.retireGo (s.reqs.length + s.unsent.length) s

/-! Messages (R366). -/

/-- Tries to deliver a MSG; it waits in the switch when no buffer is granted. -/
def State.tryMsg (s : State) (d : Delivered) : State × Bool :=
  let f := d.frame
  let l := bitsN (addrOff (fAddr f).toNat) 30 23
  let set := if fAux f % 2 = 0 then l else 256 + groupOf (s.physOf l % 192)
  match poolRequest s set f.payload.length with
  | (none, s) => (s, false)
  | (some a, s) => (((s.ownPut a f.payload).actedOn d).answer d tyMSGACK 0 0 (BitVec.ofNat 64 a) [], true)

/-- The lines of the buffer that a MSG would be given, for the snoop filter. -/
def State.msgRun (s : State) (d : Delivered) : List (Nat × Nat) :=
  let f := d.frame
  let l := bitsN (addrOff (fAddr f).toNat) 30 23
  let set := if fAux f % 2 = 0 then l else 256 + groupOf (s.physOf l % 192)
  match (poolRequest s set f.payload.length).1 with
  | some a => match s.localKey a f.payload.length with | some k => [(k, f.payload.length)] | none => []
  | none => []

/-- MSG (R364, R366). -/
def execMsg (s : State) : Host.Outcome State Fault Refusal :=
  match s.firstDeliv tyMSG with
  | none => .next s
  | some d =>
    let l := bitsN (addrOff (fAddr d.frame).toNat) 30 23
    let s' := { s with deliv := s.deliv.erase d }
    if s.modState = mTUNGSTEN ∧ (s.partLost (49 + s.physOf l / 96) = true ∨ l < s.coresEnabled ∧ 192 ≤ s.physOf l) then
      .next ((s'.actedOn d).answerErr d 2)
    else
      gated s [] (s.msgRun d) (
        match s'.tryMsg d with
        | (s', true) => .next s'
        | (s', false) => .next { s' with msgWait := s'.msgWait ++ [{ d with since := some s.clock }] })

/-- MSG_DELIVER_RETRY: the i-th waiting MSG tries again (R366). -/
def execMsgDeliverRetry (i : Nat) (s : State) : Host.Outcome State Fault Refusal :=
  match s.msgWait[i]? with
  | none => .next s
  | some d =>
    gated s [] (s.msgRun d) (
      match s.tryMsg d with
      | (s', true) => .next { s' with msgWait := s'.msgWait.eraseIdx i }
      | (s', false) => .next s')

/-- DELIVER_DROP: DELIVER_TIMEOUT_US has passed since the i-th waiting MSG's first try (R366). -/
def execDeliverDrop (i : Nat) (s : State) : Host.Outcome State Fault Refusal :=
  match s.msgWait[i]? with
  | none => .next s
  | some d =>
    let s := { s with msgWait := s.msgWait.eraseIdx i }.actedOn d
    .next ((s.countCause .deliverDrop d.inPort d.port d.frame 0).answer d tyMSGACK 0 0 0 [])

/-! Memory errors and temperatures. -/

/-- MEM_ERR_CLEAR: each count ends at the increments made in the same cycle, as inc gives them in its place (R258). -/
def execMemErrClear (inc : Word) (s : State) : Host.Outcome State Fault Refusal :=
  .next (s.rput Reg.memErrStatus (BitVec.ofNat 64 (fld inc 55 0)))

/-- PATROL_SCRUB: a word of Pewter or of a stack is read; found: 1 a corrected error, 2 an uncorrectable one (R279,
R703). reader: one whose row brings no errors of its own reads the word and finds them, whether patrol scrub runs or not;
what follows is the same (R278, R703; log 95). -/
def execPatrolScrub (key found : Nat) (s : State) (reader : Bool := false) : Host.Outcome State Fault Refusal :=
  if (reader || s.rbit Reg.memScrubCtrl 0) && decide (keyTier key ≤ 1) then
    let bad := decide (found = 2) || !(s.badIn (granule key) 1).isEmpty
    .next (if bad then s.meet [(key, true)] else if found = 1 then s.meet [(key, false)] else s)
  else .next s

/-- Memory key of a byte within far package p (R247). -/
def farKey (p b : Nat) : Nat := 2 ^ 47 + (p / 8) * 2 ^ 39 + (b % 2 ^ 36 / 256) * 2048 + (p % 8) * 256 + b % 256

/-- FAR_ECC_POLL: the bytes of package p at which it reports uncorrected errors (R280); a package that does not answer is
lost (R594). -/
def execFarEccPoll (p : Nat) (answers : Bool) (errs : List Nat) (s : State) : Host.Outcome State Fault Refusal :=
  if answers then .next (s.meet (errs.map fun b => (farKey p b, true)))
  else
    let s := { s with lost := tabSet (fun _ => false) s.lost (32 + p) true }
    .next (s.enterTungsten 2)

/-- Lower end of a refresh step's range (R284). -/
def stepFloor (k : Nat) : Nat := if k ≤ 1 then 0 else if k = 2 then 85 else if k = 3 then 95 else 105

/-- The refresh step at a temperature, from the present step (R284). -/
def stepUp (k temp : Nat) : Nat := if 105 ≤ temp then 4 else if 95 ≤ temp then max k 3 else if 85 ≤ temp then max k 2 else k
def stepDown : Nat → Nat → Nat
  | 0, _ => 1
  | 1, _ => 1
  | k + 2, temp => if temp + 3 ≤ stepFloor (k + 2) then stepDown (k + 1) temp else k + 2

/-- Every byte of a stack becomes a free value, until it is written: its retention is not promised (R286). What is known of
its words' errors stays. -/
def State.loseStack (s : State) (st : Nat) : State :=
  { s with
    gone := tabSet (fun _ => 0) s.gone st (s.freeCtr + 1)
    kept := s.kept.filter fun x => keyTier x.1 != 1 || keyStack x.1 != st
    freeCtr := s.freeCtr + 1 }

/-- STACK_TEMP_CHANGE (R284, R286). -/
def execStackTempChange (st temp : Nat) (s : State) : Host.Outcome State Fault Refusal :=
  let r := Reg.memStackStatus st
  let was := s.rfld r 7 0
  let k := stepUp (s.rfld r 10 8) temp
  let s := (s.rsetFld r 7 0 temp).rsetFld r 10 8 (stepDown k temp)
  if 110 ≤ temp ∧ was < 110 then
    let s := (s.raise evSTACK_OVERTEMP sevFATAL [(8, st), (8, temp)]).setDirty.addPoints (.stack st) 1000
    let s := { s.loseStack st with lost := tabSet (fun _ => false) s.lost st true }
    .next (s.enterTungsten 2)
  else .next s

end Sys2Proof.Machine
end

