-- ==== Sys2Proof/Machine/StreamRows.lean ====
section
/-! DEFINITION. The commands and events of the stream units (R426 to R472): arrival of a chunk, one chunk's work in a
slot of each operator, and the kernel store. -/

namespace Sys2Proof.Machine

/-! Arrival (R433, R435). -/

/-- ATTEMPT of the ARG2 of a chunk or of a slot (R498). -/
def argAttempt (w : Word) : Nat := fld w 6 6

/-- A chunk of another GEN than its group's current one is stale (R491); a slot of a second attempt takes no chunk of the first
(R503). -/
def State.chunkArrive (s : State) (u : Nat) (f : Frame) : State :=
  if !s.genCurrent f then s.countStale
  else
  match s.slot1 (chunkSlot f) with
  | none => s.stuDrop u dropNOSLOT (ckColl f)
  | some x =>
    if ckColl f ≠ x.coll then s.stuDrop u dropNOSLOT (ckColl f)
    else if argAttempt (fArg f 2) < argAttempt x.arg2 then s
    else if ckRank f < x.nin ∧ x.src.getD (ckRank f) 0x10000 = fSrc f then
      { s.setSlot (chunkSlot f) (some { x with inbox := x.inbox ++ [(s.nextJoin, f)] }) with nextJoin := s.nextJoin + 1 }
    else s.stuDrop u dropBADCHUNK (ckColl f)

/-- CHUNK: the oldest CHUNK frame delivered to a unit is accepted into its slot, or discarded and counted. -/
def execChunk (u : Nat) (s : State) : Host.Outcome State Fault Refusal := gatedColl s <|
  match s.takeDeliv (fun d => d.port == 144 + u && fType d.frame == tyCHUNK) with
  | none => .next s
  | some (d, s) => .next (s.chunkArrive u d.frame)

/-! One chunk's work. -/

/-- Whether no slot of a slot's unit holds a chunk that came before the k-th: a unit takes its chunks in order of arrival
(R434). -/
def State.firstIn (s : State) (n k : Nat) : Bool :=
  s.slots.all fun e => e.1 / 128 != n / 128 || (match e.2 with
    | some y => (match y.inbox with | (i, _) :: _ => decide (k ≤ i) | [] => true)
    | none => true)

/-- The oldest chunk of a slot's inputs, taken for work when it is the oldest of its unit. -/
def State.nextChunk (s : State) (n : Nat) (op : SlotOp) : Option (Slot × Frame × State) :=
  match s.slot1 n with
  | some x =>
    match x.inbox with
    | (k, f) :: t => if x.op = op ∧ s.firstIn n k = true then some ({ x with inbox := t }, f, s.setSlot n (some { x with inbox := t })) else none
    | [] => none
  | none => none

/-- A chunk is worked on (R434, R471). -/
def State.countChunk (s : State) (n : Nat) : State :=
  let r := Reg.stuUnitChunks (s.slotUnit n)
  s.rput r (s.rget r + 1)

/-- The input test (R444): whether it failed, and the state. -/
def State.inputTest (s : State) (n : Nat) (f : Frame) : Bool × State :=
  if ckPayloadCheck f = ckCheck f then (false, s)
  else (true, s.stuMismatch (s.slotUnit n) n (ckColl f) (ckNo f) 0 (ckRank f))

/-- What stands for data that stream memory has lost or a faulty unit has formed: free bytes, one for each. -/
def State.garble (s : State) : List Byte → List Byte × State
  | [] => ([], s)
  | _ :: t =>
    let (w, s) := s.draw
    let (r, s) := s.garble t
    (w.setWidth 8 :: r, s)

def State.garbleIf (s : State) (c : Bool) (bs : List Byte) : List Byte × State := if c then s.garble bs else (bs, s)

/-! SUM (R445 to R447). -/

/-- sum_chunk of R445: the output chunk of the inputs of one chunk number, in order of rank. damaged: stream memory lost
its accumulators (R430). -/
def sumChunk (xs : List SumIn) (damaged : Bool) : ChunkSpec :=
  let good := xs.filter (·.good)
  match good with
  | [] => { fmt := 0xB, bad := true, nelem := 1, e := 0, contrib := 1, offset := 0, check := 0, payload := leBytes 5 0 }
  | r :: _ =>
    let n := ckNelem r.frame
    let odd := good.any fun x =>
      decide (ckE x.frame ≠ ckE r.frame) || decide (ckNelem x.frame ≠ n) || decide (ckOffset x.frame ≠ ckOffset r.frame)
    let contrib := (good.map fun x => ckContrib x.frame).sum
    let elems := good.map fun x => ckElems x.frame
    let sums := (upFrom 0 n).map fun i => (elems.map fun e => e.getD i 0).sum
    { fmt := 0xB, bad := damaged || xs.any (fun x => ckBad x.frame || !x.good) || odd || decide (65536 < contrib)
      nelem := n, e := ckE r.frame, contrib := min 65536 contrib, offset := ckOffset r.frame
      check := (good.map fun x => ckCheck x.frame).sum % chkP, payload := sums.flatMap fun v => leBytes 5 (toCode 40 v) }

/-- Output elements as sent, for the output test. -/
def sumElems (bs : List Byte) (n : Nat) : List Int := (upFrom 0 n).map fun i => sextN 40 (ofBytes ((bs.drop (5 * i)).take 5))

/-- The lowest chunk number not sent, past those that are. -/
def lowAfter (sent : List Nat) : Nat → Nat → Nat
  | 0, low => low
  | n + 1, low => if sent.contains low then lowAfter sent n (low + 1) else low

/-- A chunk of every input of a chunk number is there: the sum is sent and its page freed (R447). -/
def State.sumSend (s : State) (n : Nat) (x : Slot) (j : Nat) (wrong : Bool) : State :=
  let u := s.slotUnit n
  let xs := (upFrom 0 x.nin).filterMap fun k => x.held.find? fun i => i.j == j && i.rank == k
  let lost := x.badAt.contains j
  let c := sumChunk xs lost
  let (bytes, s) := s.garbleIf (wrong || lost) c.payload
  let explained := c.bad || xs.any (·.clash)
  let s := if explained || checkOf (sumElems bytes c.nelem) == c.check then s else s.stuMismatch u n x.coll j 1 0
  let s := s.slotSend n x 0 j { c with payload := bytes }
  let sent := j :: x.sentUp
  let low := lowAfter sent sent.length x.low
  s.setSlot n (some { x with
    held := x.held.filter (fun i => i.j != j), badAt := x.badAt.filter (· != j), low := low
    sentUp := sent.filter fun i => decide (low ≤ i) })

/-- STU_SUM; ce: corrected stream-memory errors met; ue: the page of an uncorrectable one; wrong: the datapath errs. -/
def execStuSum (n ce : Nat) (ue : Option Nat) (wrong : Bool) (s : State) : Host.Outcome State Fault Refusal := gatedColl s <|
  match s.nextChunk n .sum with
  | none => .next s
  | some (x, f, s) =>
    let u := s.slotUnit n
    let j := ckNo f
    if j < x.low ∨ x.sentUp.contains j = true ∨ (x.held.any fun i => i.j == j && i.rank == ckRank f) = true then
      .next (s.stuDrop u dropDUP x.coll)
    else if x.low + x.w ≤ j then .next (s.stuDrop u dropWINDOW x.coll)
    else
      let s := (s.countChunk n).stuMemory u n ce ue
      let good := ckGood f && ckFmt f != 0xD
      let s := if good then s else s.stuDrop u dropBADCHUNK x.coll
      let (clash, s) := s.inputTest n f
      let x := { x with held := x.held ++ [⟨j, ckRank f, f, good, clash⟩], badAt := if ue.isSome then j :: x.badAt else x.badAt }
      if (x.held.filter fun i => i.j == j).length = x.nin then .next (s.sumSend n x j wrong)
      else .next (s.setSlot n (some x))

/-! GATHER_FIXED (R449). -/

/-- The frame that a GATHER_FIXED slot sends on. -/
def gatherFrame (own : Nat) (x : Slot) (f : Frame) (bad : Bool) (bytes : List Byte) : Frame :=
  let k := ckRank f
  let off := ckOffset f + x.base.getD k 0
  let w3 := setFld (setFld (hw f 3) 41 41 0) 42 42 (ckBad f || bad).toNat
  let (dst, ty, w2) := match x.outs.getD 0 .unset with
    | .slot id m rank => (id, tyCHUNK, setFld (setFld (hw f 2) 12 0 m) 20 16 rank)
    | _ => (own, tyRESULT, resultWord x.coll (ckNo f) false)
  mkFrame { dst := dst, src := own, tc := 1, vc := vcCOLL, ty := ty, flow := fFlow f, tag := 0, addr := w2, aux := fld w3 63 32
            arg0 := hw f 4, arg1 := setFld (hw f 5) 47 0 (off % 2 ^ 48), arg2 := hw f 6, targ0 := tw f 1, payload := bytes }

/-- STU_GATHER_FIXED. -/
def execStuGatherFixed (n ce : Nat) (ue : Option Nat) (wrong : Bool) (s : State) : Host.Outcome State Fault Refusal := gatedColl s <|
  match s.nextChunk n .gatherFixed with
  | none => .next s
  | some (x, f, s) =>
    let u := s.slotUnit n
    let s := (s.countChunk n).stuMemory u n ce ue
    let good := ckGood f
    let s := if good then s else s.stuDrop u dropBADCHUNK x.coll
    let (_, s) := s.inputTest n f
    let (bytes, s) := s.garbleIf (wrong || ue.isSome) f.payload
    let fr := gatherFrame s.flatId x f (!good || ue.isSome) bytes
    .next (if x.outs.getD 0 .unset = .unset then s else s.inject (144 + u) fr)

/-! Record streams. -/

/-- A RAW chunk of the slot's record length that meets R436 and R437 (R462). -/
def recGood (x : Slot) (f : Frame) : Bool :=
  ckGood f && ckFmt f == 0xD && (match x.recw with | some w => w == ckRecw f | none => true)

/-- Starts a record slot's work on its next chunk: errors, tests, the record length, and BAD from a bad input on
(R437, R438, R430). Answers the slot, the chunk's records and its frame. -/
def State.recChunk (s : State) (n : Nat) (op : SlotOp) (ce : Nat) (ue : Option Nat) :
    Option (Slot × Frame × List (List Byte) × State) :=
  match s.nextChunk n op with
  | none => none
  | some (x, f, s) =>
    let u := s.slotUnit n
    let s := (s.countChunk n).stuMemory u n ce ue
    let good := recGood x f
    let s := if good then s else s.stuDrop u dropBADCHUNK x.coll
    let (_, s) := s.inputTest n f
    let x := { x with
      bad := x.bad || !good || ckBad f || ue.isSome, recw := if good && x.recw.isNone then some (ckRecw f) else x.recw }
    some (x, f, if good then ckRecords f else [], s)

def slotRecBytes (x : Slot) : Nat := 8 * (x.recw.getD 0 + 1)

/-- An input of a slot, and its change. -/
def slotIn (x : Slot) (k : Nat) : StreamIn := x.ins.getD k streamInReset
def setIn (x : Slot) (k : Nat) (i : StreamIn) : Slot := { x with ins := x.ins.set k i }

/-- Every input has ended. -/
def allEnded (x : Slot) : Bool := x.ins.all (·.ended)

/-! Packing (R467). -/

/-- Sends an output's chunk of the records that wait. -/
def State.packSend (s : State) (n : Nat) (x : Slot) (j : Nat) (last : Bool) : Slot × State :=
  let o := x.bufs.getD j ⟨[], 0, 0⟩
  let payload := o.recs.flatten
  let s := s.slotSend n x j o.chunks
    { fmt := 0xD, recw := x.recw.getD 0, last := last, bad := x.bad, nelem := o.recs.length, offset := o.sent
      check := checkBytes payload, payload := payload }
  ({ x with bufs := x.bufs.set j ⟨[], o.sent + o.recs.length, o.chunks + 1⟩ }, s)

/-- Appends a record to an output; a full chunk goes out. -/
def State.packRec (s : State) (n : Nat) (x : Slot) (j : Nat) (r : List Byte) (wrong : Bool) : Slot × State :=
  let (r, s) := s.garbleIf wrong r
  let o := x.bufs.getD j ⟨[], 0, 0⟩
  let o := { o with recs := o.recs ++ [r] }
  let x := { x with bufs := x.bufs.set j o, chkOut := (x.chkOut + checkBytes r) % chkP }
  if o.recs.length = 4096 / slotRecBytes x then s.packSend n x j false else (x, s)

/-- Appends records to one output. -/
def State.packAll (s : State) (n : Nat) (x : Slot) (j : Nat) (wrong : Bool) : List (List Byte) → Slot × State
  | [] => (x, s)
  | r :: t =>
    let (x, s) := s.packRec n x j r wrong
    s.packAll n x j wrong t

/-- Ends every output with its LAST chunk, and tests that no record was lost or made (R444). -/
def State.packEnd (s : State) (n : Nat) (x : Slot) (no : Nat) : Slot × State :=
  let (x, s) := (upFrom 0 x.outs.length).foldl (fun (a : Slot × State) j => a.2.packSend n a.1 j true) (x, s)
  let s := if x.chkIn % chkP = (x.chkOut + x.lostCheck) % chkP then s else s.stuMismatch (s.slotUnit n) n x.coll no 2 0
  ({ x with finished := true }, s)

/-! Sorts (R462 to R466). -/

/-- Whether a key orders before another (R463). -/
def before (desc : Bool) (a b : Int) : Bool := if desc then decide (b < a) else decide (a < b)

/-- Inserts after every record that does not order after it. -/
def insertRec (desc : Bool) (r : Int × List Byte) : List (Int × List Byte) → List (Int × List Byte)
  | [] => [r]
  | x :: t => if before desc r.1 x.1 then r :: x :: t else x :: insertRec desc r t

/-- The stable order of R463. -/
def sortRecs (desc : Bool) (l : List (Int × List Byte)) : List (Int × List Byte) := l.foldl (fun a r => insertRec desc r a) []

/-- A chunk's records with their keys (R462). -/
def State.keyed (s : State) (x : Slot) (f : Frame) (rs : List (List Byte)) : List (Int × List Byte) :=
  let ws := s.kernelWords x.kernel
  (rs.zip (upFrom (ckOffset f) rs.length)).map fun r => (keyOrder x.keyType (kernelOn ws x.ps r.2 (ckRank f) r.1), r.1)

/-- A chunk's records join their input's. -/
def addRecs (x : Slot) (f : Frame) (ks : List (Int × List Byte)) : Slot :=
  let i := slotIn x (ckRank f)
  { setIn x (ckRank f) { i with recs := i.recs ++ ks, seen := i.seen + ks.length, ended := i.ended || ckLast f } with
    chkIn := (x.chkIn + (ks.map fun k => checkBytes k.2).sum) % chkP }

/-- STU_SORT_LOCAL. -/
def execStuSortLocal (n ce : Nat) (ue : Option Nat) (wrong : Bool) (s : State) : Host.Outcome State Fault Refusal := gatedColl s <|
  match s.recChunk n .sortLocal ce ue with
  | none => .next s
  | some (x, f, rs, s) =>
    if x.finished then .next (s.setSlot n (some x))
    else
      let x := addRecs x f (s.keyed x f rs)
      if x.pages * 4096 < (x.ins.map (·.seen)).sum * slotRecBytes x then
        -- more records than the pages hold (R464)
        let (x, s) := s.packSend n { x with bad := true, ins := x.ins.map fun i => { i with recs := [] } } 0 true
        .next (s.setSlot n (some { x with finished := true }))
      else if allEnded x then
        let out := (sortRecs x.desc (x.ins.flatMap (·.recs))).map (·.2)
        let (x, s) := s.packAll n { x with ins := x.ins.map fun i => { i with recs := [] } } 0 wrong out
        let (x, s) := s.packEnd n x (ckNo f)
        .next (s.setSlot n (some x))
      else .next (s.setSlot n (some x))

/-- The input whose waiting record goes next: the first of those whose key orders before no other's (R463). -/
def nextIn (desc : Bool) : List (Nat × Int) → Option (Nat × Int)
  | [] => none
  | a :: t =>
    match nextIn desc t with
    | none => some a
    | some b => if before desc b.2 a.2 then some b else some a

/-- The records that a merge may emit now, at most fuel of them, and what its inputs then hold. -/
def mergeGo (desc : Bool) : Nat → List StreamIn → List (List Byte) × List StreamIn
  | 0, ins => ([], ins)
  | m + 1, ins =>
    if ins.all fun i => i.ended || !i.recs.isEmpty then
      let heads := (ins.zip (upFrom 0 ins.length)).filterMap fun x => (x.1.recs.head?).map fun r => (x.2, r.1)
      match nextIn desc heads with
      | none => ([], ins)
      | some (k, _) =>
        let i := ins.getD k streamInReset
        let (out, ins') := mergeGo desc m (ins.set k { i with recs := i.recs.drop 1 })
        (((i.recs.head?).map (·.2)).getD [] :: out, ins')
    else ([], ins)

/-- Whether each key orders before none of those before it, from prev on; and the last key. -/
def inOrder (desc : Bool) : Option Int → List Int → Bool × Option Int
  | p, [] => (true, p)
  | none, k :: t => inOrder desc (some k) t
  | some p, k :: t => let (r, q) := inOrder desc (some k) t; (r && !before desc k p, q)

/-- STU_SORT_MERGE. -/
def execStuSortMerge (n ce : Nat) (ue : Option Nat) (wrong : Bool) (s : State) : Host.Outcome State Fault Refusal := gatedColl s <|
  match s.recChunk n .sortMerge ce ue with
  | none => .next s
  | some (x, f, rs, s) =>
    let ks := s.keyed x f rs
    let (sorted, prev) := inOrder x.desc (slotIn x (ckRank f)).prev (ks.map (·.1))
    let x := addRecs x f ks
    let x := { setIn x (ckRank f) { slotIn x (ckRank f) with prev := prev } with bad := x.bad || !sorted }
    let (out, ins) := mergeGo x.desc ((x.ins.map fun i => i.recs.length).sum) x.ins
    let (x, s) := s.packAll n { x with ins := ins } 0 wrong out
    if allEnded x && (x.ins.all fun i => i.recs.isEmpty) && !x.finished then
      let (x, s) := s.packEnd n x (ckNo f)
      .next (s.setSlot n (some x))
    else .next (s.setSlot n (some x))

/-! FILTER (R468, R469). -/

/-- One record of a filter: copies to the outputs of its mask, or dropped. -/
def State.filterRec (s : State) (n : Nat) (x : Slot) (mask : Word) (r : List Byte) (wrong : Bool) : Slot × State :=
  let js := (upFrom 0 x.outs.length).filter (bit mask)
  let c := checkBytes r
  if js.isEmpty then
    ({ x with dropped := x.dropped + 1, lostCheck := (x.lostCheck + c) % chkP, chkIn := (x.chkIn + c) % chkP }, s)
  else
    js.foldl (fun (a : Slot × State) j => a.2.packRec n a.1 j r wrong) ({ x with chkIn := (x.chkIn + js.length * c) % chkP }, s)

/-- The records of a chunk, from stream position pos. -/
def State.filterAll (s : State) (n : Nat) (x : Slot) (ws : List Nat) (wrong : Bool) : Nat → List (List Byte) → Slot × State
  | _, [] => (x, s)
  | pos, r :: t =>
    let (x, s) := s.filterRec n x (kernelOn ws x.ps pos 0 r) r wrong
    s.filterAll n x ws wrong (pos + 1) t

/-- STU_FILTER. -/
def execStuFilter (n ce : Nat) (ue : Option Nat) (wrong : Bool) (s : State) : Host.Outcome State Fault Refusal := gatedColl s <|
  match s.recChunk n .filter ce ue with
  | none => .next s
  | some (x, f, rs, s) =>
    let (x, s) := s.filterAll n x (s.kernelWords x.kernel) wrong (ckOffset f) rs
    if ckLast f && !x.finished then
      let (x, s) := s.packEnd n x (ckNo f)
      .next (((s.setSlot n (some x)).filterDone x.h x.dropped).admitColls)
    else .next (s.setSlot n (some x))

/-! GATHER_LANES (R450 to R452). -/

/-- A chunk joins its lane: the first CAP records are kept, with the check of a chunk of which any is kept and those of
the records of it that are not (R451). -/
def laneAdd (x : Slot) (f : Frame) (rs : List (List Byte)) : Slot :=
  let k := ckRank f
  let i := slotIn x k
  let room := x.cap - i.seen
  let kept := rs.take room
  let lost := rs.drop room
  let first := i.seen
  setIn x k { i with
    recs := i.recs ++ kept.map fun r => (0, r), seen := i.seen + rs.length, ended := i.ended || ckLast f
    parts := if kept.isEmpty then i.parts else i.parts ++ [(first, ckCheck f)]
    drops := if kept.isEmpty then i.drops
      else i.drops ++ (lost.zip (upFrom (first + kept.length) lost.length)).map fun d => (d.2, checkBytes d.1) }

/-- Lane starts: the kept counts of the lanes below. -/
def laneStarts : Nat → List StreamIn → List Nat
  | _, [] => []
  | k, i :: t => k :: laneStarts (k + i.recs.length) t

/-- The result check C (R451), w being the words of a record. -/
def laneCheck (x : Slot) (w : Nat) : Nat :=
  let term (start : Nat) (p : Nat × Nat) : Nat := mulMod (powMod ((start + p.1) * w)) p.2
  let lanes := x.ins.zip (laneStarts 0 x.ins)
  let plus := (lanes.flatMap fun l => l.1.parts.map (term l.2)).sum
  let minus := (lanes.flatMap fun l => l.1.drops.map (term l.2)).sum
  (plus % chkP + (chkP - minus % chkP)) % chkP

/-- Writes at a fabric address of own memory. -/
def State.putAt (s : State) (a : Nat) (bs : List Byte) : State :=
  match s.localKey a bs.length with | some k => s.mputBytes k bs | none => s

/-- STAGE, NIN x CAP records, holds free bytes (R452). -/
def State.stageFree (s : State) (x : Slot) : State :=
  let (bs, s) := s.garble (List.replicate (x.nin * x.cap * slotRecBytes x) 0)
  s.putAt x.stage bs

/-- Every lane has ended: FINAL, the count area and the completion (R451). -/
def State.lanesEnd (s : State) (n : Nat) (x : Slot) (wrong : Bool) : State :=
  let s := s.stageFree x
  let recs := x.ins.flatMap fun i => i.recs.map (·.2)
  let (bytes, s) := s.garbleIf wrong recs.flatten
  let s := s.putAt x.final bytes
  let total := recs.length
  let lost := (x.ins.map fun i => i.seen - i.recs.length).sum
  let s := s.putAt x.counts ((x.ins.map fun i => i.recs.length) ++ [total, lost] |>.flatMap fun c => leBytes 4 c)
  let s := s.setSlot n (some { x with finished := true, ins := x.ins.map fun i => { i with recs := [] } })
  s.gatherDone x.h (laneCheck x (2 * (x.recw.getD 0 + 1))) bytes.length x.bad

/-- STU_GATHER_LANES. -/
def execStuGatherLanes (n ce : Nat) (ue : Option Nat) (wrong : Bool) (s : State) : Host.Outcome State Fault Refusal := gatedColl s <|
  match s.recChunk n .gatherLanes ce ue with
  | none => .next s
  | some (x, f, rs, s) =>
    let x := laneAdd x f rs
    if allEnded x && !x.finished then .next ((s.lanesEnd n x wrong).admitColls) else .next (s.setSlot n (some x))

/-! Registers (R458 to R461, R471). -/

/-- STU_CLEAR_CNT: the counts of a unit's registers are cleared, one that is incremented in the same cycle to its
increments (R62, R471). -/
def execStuClearCnt (u : Nat) (s : State) (incs : List (Nat × Nat) := []) : Host.Outcome State Fault Refusal :=
  .next (s.clearCounters [(unitStat u, bits 63 32), (Reg.stuUnitDrop u, bits 63 0)] incs)

/-- Whether a reserved slot names a kernel. -/
def State.kernelUsed (s : State) (k : Nat) : Bool :=
  s.slots.any fun x => match x.2 with
    | some y => (y.op == .sortLocal || y.op == .sortMerge || y.op == .filter) && y.kernel == k
    | none => false

/-- STU_KCTRL is written (R458 to R460). -/
def State.writeKctrl (s : State) (v : Word) (rwl : Bool) : State :=
  let busy := s.rfld Reg.stuKctrl 19 17 == 1
  let s := if rwl then s.rsetFld Reg.stuKctrl 14 0 (fld v 14 0) else s
  if !bit v 16 || busy then s
  else
    let k := s.rfld Reg.stuKctrl 7 0
    let len := s.rfld Reg.stuKctrl 14 8
    let ws := ((upFrom 0 32).flatMap fun j => let w := s.rget (Reg.stuKstage j); [fld w 31 0, fld w 63 32]).take len
    let wrongAt : Option Nat := if len = 0 ∨ 64 < len then some 0x7F else kFault ws
    match wrongAt with
    | some i => (s.rsetFld Reg.stuKctrl 19 17 3).rsetFld Reg.stuKctrl 26 20 i
    | none =>
      if s.kernelUsed k then s.rsetFld Reg.stuKctrl 19 17 4
      else { s.rsetFld Reg.stuKctrl 19 17 1 with kernelJob := some (k, len) }

/-- KCTRL_COMMIT: a write of 1 to COMMIT, with the INDEX and LENGTH of v; fw: by firmware. -/
def execKctrlCommit (v : Word) (fw : Bool) (s : State) : Host.Outcome State Fault Refusal :=
  .next (s.writeKctrl (setBit v 16 true) (s.rwlOpen fw))

/-- KERNEL_INSTALL_DONE. -/
def execKernelInstallDone (s : State) : Host.Outcome State Fault Refusal :=
  match s.kernelJob with
  | none => .next s
  | some (k, len) =>
    let s := (upFrom 0 32).foldl (fun s j =>
      let w := s.rget (Reg.stuKstage j)
      let w := if 2 * j + 1 < len then w else if 2 * j < len then setFld w 63 32 0 else 0
      s.rput (Reg.stuKimage k j) w) s
    .next { (s.rsetBit (Reg.stuKvalid (k / 64)) (k % 64) true).rsetFld Reg.stuKctrl 19 17 2 with kernelJob := none }

end Sys2Proof.Machine
end

