-- ==== Sys2Proof/Machine/RegOps.lean ====
section
/-! DEFINITION. The set-up window (R11 to R19, R563 to R566): what a register reads, what a write of it does, and the
commands REG_WRITE, CONFIG_REQUEST and those of the sr_word probe (R90 to R92). -/

namespace Sys2Proof.Machine

/-- Index of an offset in an array of count registers from base on, stride apart. -/
def regIdx (base stride count off : Nat) : Option Nat :=
  if base ≤ off ∧ (off - base) % stride = 0 ∧ (off - base) / stride < count then some ((off - base) / stride) else none

/-- A register of core n, at r from its first (R61, R139). -/
def State.coreRead (s : State) (n r off : Nat) : Word :=
  let c := s.core n
  -- a boot assigns the logical numbers; LOGICAL keeps its reset value until then (R139, R644; DESIGN CHOICE, log 92)
  if r = 0x10 then statusImage c (if s.modState = 0 ∧ s.mg.bootStep < 7 then 0xFF else s.logicalOf n)
  else if r = 0x18 then haltImage c
  else if r = 0x100 then numImage c.num
  else if 0x800 ≤ r ∧ r < 0xA00 then BitVec.ofNat 64 (cSem c ((r - 0x800) / 8))
  else s.rget off

/-- LNK_OPT_MOD of connector c: AGE_MS counts on since the last complete read (R340). -/
def State.optRead (s : State) (c : Nat) : Word :=
  let w := s.rget (Reg.lnkOptMod c)
  match tabGet (fun _ => 0) s.mg.optAt c with
  | 0 => w
  | k + 1 => setFld w 47 32 (min 0xFFFF ((s.clock - k) / 1600000))

/-- What the register at an offset reads (R15, R17, R564). -/
def State.regRead (s : State) (off : Nat) : Word :=
  if portHole off then 0
  else if 0x510000 ≤ off ∧ off < 0x5D0000 then s.coreRead ((off - 0x510000) / 0x1000) ((off - 0x510000) % 0x1000) off
  else if off = Reg.swcBufStat then setBit s.bufImage 38 (s.rbit off 38)
  else if 0x630000 ≤ off ∧ off < 0x633000 then
    (if (off - 0x630000) % 0x40 / 8 < 5 then poolImage (s.pool (8 * ((off - 0x630000) / 0x40) + (off - 0x630000) % 0x40 / 8)) else 0)
  else if 0x640000 ≤ off ∧ off < 0x640400 then
    (if (off - 0x640000) % 0x40 / 8 < 5 then poolImage (s.pool (8 * (256 + (off - 0x640000) / 0x40) + (off - 0x640000) % 0x40 / 8)) else 0)
  else
    match regIdx (Reg.swcPortOcc 0) 0x40 208 off, regIdx (Reg.lnkOptMod 0) 0x100 8 off with
    | some p, _ => s.occImage p
    | none, some c => s.optRead c
    | none, none =>
      -- quad 31 shows the Solder link, which quad 30 holds (R289)
      if off = Reg.lnkLstat 31 0 then s.rget (Reg.lnkLstat 30 0)
      else if off = Reg.lnkLcnt 31 0 then s.rget (Reg.lnkLcnt 30 0)
      else s.rget off

/-- What a read access of size bytes at an offset of the set-up window returns: a register, the half of it that bit 2 of
the offset names, or 0 for any other size or alignment (R12 to R14). -/
def State.windowRead (s : State) (off size : Nat) : Word :=
  if size = 8 ∧ off % 8 = 0 then s.regRead off
  else if size = 4 ∧ off % 4 = 0 then
    if off % 8 = 0 then BitVec.ofNat 64 (fld (s.regRead off) 31 0) else BitVec.ofNat 64 (fld (s.regRead (off - 4)) 63 32)
  else 0

/-- Whether an offset holds a field that a management message may write (R623). -/
def mgWritable (off : Nat) : Bool :=
  let b := off / 0x100000
  (b == 2 || b == 3 || b == 4 || b == 7) && !portHole off &&
    (match regRow off with | some r => r.rw != 0 || r.rwl != 0 | none => false)

/-- CORE_NUM_STATUS: flags written as 1 are cleared (R61), but for those that an engine sets in the same switch-island
cycle, bits 2:0 of sets (R62). -/
def State.clearNum (s : State) (n : Nat) (v : Word) (sets : Nat) : State :=
  let c := s.core n
  let after (old : Bool) (i : Nat) : Bool := if bit v i then sets.testBit i else old
  s.setCore n { c with num := { c.num with
    sat := after c.num.sat 0, invalid := after c.num.invalid 1, flushOvf := after c.num.flushOvf 2 } }

/-- The new value of a register is put in place, with what its own rules make of it. -/
def State.regPut (s : State) (off base : Nat) (new : Word) : State :=
  if base = Reg.lnkQcfg 0 then s.writeQcfg ((off - base) / 0x200) new
  else if base = Reg.swcPortCfg 0 then
    let p := (off - base) / 0x40
    (s.rsetBit off 0 (bit new 0)).writeFence p (bit new 1)
  else if base = Reg.swcPortGmin 0 then s.writeGmin ((off - base) / 0x40) new
  else if base = Reg.swcRsv 0 then s.writeRsv ((off - base) / 8) new
  else if base = Reg.swcRoute 0 then (s.rput off new).retireUnreachable
  else if base = Reg.swcId then
    let was := s.flatId
    let s := (s.rput off new).retireUnreachable
    if s.flatId = was then s else s.configChanged (upFrom 0 121)
  else if base = Reg.twnCfg then
    let was := s.rbit off 0
    let s := s.rput off new
    if s.rbit off 0 = was then s else s.configChanged [120]
  else if base = Reg.swcInjCtrl then (121 :: upFrom 128 16).foldl State.throttle (s.rput off new)
  else if base = Reg.stuKctrl then s.writeKctrl (setBit new 16 false) true
  else if base = Reg.stuKstage 0 then (if s.rfld Reg.stuKctrl 19 17 = 1 then s else s.rput off new)
  else if base = Reg.hifCtrl then s.writeEnable (bit new 0) true
  else if 0x100 ≤ base ∧ base ≤ 0x130 then (if s.rbit Reg.hifCtrl 0 then s else s.rput off new)
  else s.rput off new

/-- A write of the bits half of a register: RW fields, RWL fields while they may be written, and, from CXL.io, RW1C bits
(R15, R19, R566); sets: R62. WO fields, and CORE_SR_CTRL.GO, act through rows of their own. -/
def State.regWrite (s : State) (off : Nat) (v half : Word) (fw : Bool) (sets : Nat := 0) : State :=
  if portHole off then s
  else
    match regRow off with
    | none => s
    | some r =>
      let m := (BitVec.ofNat 64 r.rw ||| (if s.rwlOpen fw then BitVec.ofNat 64 r.rwl else 0)) &&& half
      let m := if off = Reg.coreSrCtrl then setBit m 32 false else m
      let clr := if fw then 0 else BitVec.ofNat 64 r.w1c &&& v &&& half
      let s := if clr = 0 then s
        else if r.base = Reg.coreNumStatus 0 then s.clearNum ((off - r.base) / 0x1000) clr sets
        else s.rput off (s.rget off &&& ~~~clr)
      if m = 0 then s else s.regPut off r.base ((s.rget off &&& ~~~m) ||| (v &&& m))

/-- REG_WRITE (R12 to R16); sets: the flag bits of a CORE_NUM_STATUS that engines set in the same cycle (R62). -/
def execRegWrite (off size : Nat) (v : Word) (s : State) (sets : Nat := 0) : Host.Outcome State Fault Refusal :=
  if size = 8 ∧ off % 8 = 0 then .next (s.regWrite off v (BitVec.allOnes 64) false sets)
  else if size = 4 ∧ off % 4 = 0 then
    .next (if off % 8 = 0 then s.regWrite off v 0xFFFFFFFF#64 false sets
           else s.regWrite (off - 4) (v <<< 32) 0xFFFFFFFF00000000#64 false sets)
  else .next s

/-- CONFIG_REQUEST (R562, R644): Retry Status until step 5, where configuration space answers normally; early: step 5
is not yet reached, though the start-up that this model runs as one is under way (log 53). A module whose host
interface island is lost, or that is held in reset, answers nothing. -/
def execConfigRequest (early : Bool) (s : State) : Host.Outcome State Fault Refusal :=
  if s.partLost 48 || s.perst || s.mg.bootStep == 0 then .next s
  else .next (s.emit (.cfgCpl (s.mg.bootStep < 5 || (s.mg.bootStep == 7 && early))))

/-- SR_GO: CORE_SR_CTRL is written with GO = 1 (R90 to R92). -/
def execSrGo (tensor : Nat) (s : State) : Host.Outcome State Fault Refusal :=
  if !s.rwlOpen false then .next s
  else
    let s := s.rsetFld Reg.coreSrCtrl 31 0 tensor
    if s.rbit Reg.coreSrCtrl 33 then
      let w := (srWord (s.rget Reg.coreSrSeed) (s.rget Reg.coreSrStep) tensor (s.rget Reg.coreSrIndex)).setWidth 64
      .next { s.rsetBit Reg.coreSrCtrl 33 false with mg := { s.mg with srJob := some w } }
    else .next s

/-- SR_EVAL_DONE (R90). -/
def execSrEvalDone (s : State) : Host.Outcome State Fault Refusal :=
  match s.mg.srJob with
  | some w => .next { (s.rput Reg.coreSrOut w).rsetBit Reg.coreSrCtrl 33 true with mg := { s.mg with srJob := none } }
  | none => .next s

end Sys2Proof.Machine
end

