-- ==== Sys2Proof/Machine/TwinRows.lean ====
section
/-! DEFINITION. The twin's commands and events (R571 to R584, R599 to R613, R655): commits, the mirror and what a twin
holds, restarts and boundaries, cross-checks and replays, event handling and the log, the watchdog. -/

namespace Sys2Proof.Machine

/-! Regions and commits (R572 to R582). -/

def State.rgnBase (s : State) (i : Nat) : Nat := s.rfld (Reg.twnRgnBase i) 63 12 * 4096
/-- Bytes of one bank. -/
def State.rgnBytes (s : State) (i : Nat) : Nat := s.rfld (Reg.twnRgnSize i) 27 0 * 4096
def State.rgnHold (s : State) (i : Nat) : Nat := s.rfld (Reg.twnRgnSize i) 55 28 * 4096
def State.regions (s : State) : List Nat := upFrom 0 (min 256 (s.rfld Reg.twnCfg 16 8))

/-- Region i is well placed: its two banks in the own near or far tier, with PAGES not 0 (R572, R578). -/
def State.rgnGood (s : State) (i : Nat) : Bool :=
  let a := s.rgnBase i
  s.rgnBytes i != 0 && addrId a == s.flatId && (addrTier a == 1 || addrTier a == 2) && (s.localKey a (2 * s.rgnBytes i)).isSome

def State.rgnApart (s : State) (i j : Nat) : Bool :=
  decide (s.rgnBase i + 2 * s.rgnBytes i ≤ s.rgnBase j) || decide (s.rgnBase j + 2 * s.rgnBytes j ≤ s.rgnBase i)

def State.regionsGood (s : State) : Bool :=
  s.regions.all fun i => s.rgnGood i && s.regions.all fun j => i == j || s.rgnApart i j

/-- The reason to refuse a commit, in the order of precedence of R578. -/
def State.commitReason (s : State) (step : Word) : Nat :=
  let c := s.rget Reg.twnCommitted
  if s.rbit Reg.twnStatus 3 then 1
  else if !s.rbit Reg.twnCfg 1 || s.modState != mREADY then 2
  else if !(c == BitVec.allOnes 64 || step == c + 1) then 3
  else if !s.regionsGood then 4
  else 0

/-- The commit is done (R581). -/
def State.committed (s : State) (step : Word) : State :=
  (s.rput Reg.twnCommitted step).rput Reg.twnStatus (setFld (setFld (s.rget Reg.twnStatus) 7 4 0) 2 0 2)

/-- TWN_COMMIT (R578, R581). -/
def execTwnCommit (step : Word) (s : State) : Host.Outcome State Fault Refusal :=
  if s.rfld Reg.twnStatus 2 0 = 1 then .next (s.rcount Reg.twnStatus 31 16 1)
  else
    let r := s.commitReason step
    if r ≠ 0 then
      .next (((s.rsetFld Reg.twnStatus 2 0 3).rsetFld Reg.twnStatus 7 4 r).raise evCOMMIT_REFUSED sevCONTAINED [(64, step.toNat), (8, r)])
    else
      let s := { s with mirrorStep := step }
      if s.rbit Reg.twnCfg 2 || s.regions.isEmpty then .next ((s.committed step).setMg fun m => { m with mirror := none })
      else
        let s := (s.rsetFld Reg.twnStatus 2 0 1).rsetFld Reg.twnStatus 7 4 0
        .next (s.setMg fun m => { m with mirror := some ⟨step, 0, 0, 0, [], false⟩ })

/-- A MIRROR frame or SEAL (R583). -/
def State.mirrorFrame (s : State) (x : MirrorTx) (addr aux off : Nat) (payload : List Byte) : Frame :=
  let peer := s.rfld (s.lstatOf 120) 23 8
  mkFrame { dst := peer, src := s.flatId, tc := 6, vc := vcREQ, ty := tyMIRROR, flow := 0, tag := 0, addr := BitVec.ofNat 64 addr
            aux := aux + (x.step.toNat % 2) <<< 8, arg0 := x.step, arg1 := BitVec.ofNat 64 off, payload := payload }

/-- MIRROR_INJECT: the mirror engine sends its next MIRROR frame, or the SEAL after the last (R581, R583). -/
def execMirrorInject (s : State) : Host.Outcome State Fault Refusal :=
  match s.mg.mirror with
  | none => .next s
  | some x =>
    if x.done || s.rfld Reg.twnStatus 2 0 != 1 then .next s
    else if s.regions.length ≤ x.region then
      let bytes := x.manifest.flatMap fun m => leBytes 8 m.1 ++ leBytes 8 m.2
      let s := s.inject 143 (s.mirrorFrame x 0 (1 <<< 9) 0 bytes)
      .next (s.setMg fun m => { m with mirror := some { x with done := true } })
    else
      let i := x.region
      let len := s.rgnBytes i
      let bank := x.step.toNat % 2
      match s.localKey (s.rgnBase i + bank * len + x.off) 4096 with
      | none => .next s
      | some k =>
        gated s [(k, 4096)] [] <|
        let (bytes, s) := s.rdMem k 4096
        if s.rfld Reg.twnStatus 2 0 ≠ 1 then .next s
        else
          let peer := s.rfld (s.lstatOf 120) 23 8
          let addr := peer <<< 48 + 2 <<< 46 + s.rgnHold i + bank * len + x.off
          let s := s.inject 143 (s.mirrorFrame x addr i x.off bytes)
          let sum := (x.sum + mulMod (powMod (x.off / 4)) (checkBytes bytes)) % chkP
          let x := if len ≤ x.off + 4096 then { x with region := i + 1, off := 0, sum := 0, manifest := x.manifest ++ [(sum, len)] }
            else { x with off := x.off + 4096, sum := sum }
          .next (s.setMg fun m => { m with mirror := some x })

/-- A delivered MIRROR frame, or SEAL, in order. -/
def State.mirrorIn (s : State) (isSeal : Bool) : Option (Delivered × State) :=
  s.takeDeliv fun d => fType d.frame == tyMIRROR && bit (hw d.frame 3) 41 == isSeal

/-- A twin that holds for its partner (R583). -/
def State.twinReady (s : State) : Bool := s.modState == mREADY && s.rfld Reg.twnHoldPages 28 0 != 0

/-- The first frame of a mirror: region 0 at OFFSET 0, with which the mirror engine begins (R581). -/
def mirrorFirst (f : Frame) : Bool := !bit (hw f 3) 41 && fld (hw f 3) 39 32 == 0 && fArg f 1 == 0

/-- What has been received of a frame's step; on the first frame of a mirror HELD of the bank becomes all ones (R581), and
nothing counts any more of a mirror of that step that was broken off (R583). -/
def State.twinFor (s : State) (f : Frame) : TwinRx × State :=
  let step := fArg f 0
  let bank := (bit (hw f 3) 40).toNat
  match s.mg.twinIn with
  | some x =>
    if x.step = step ∧ x.bank = bank ∧ mirrorFirst f = false then (x, s)
    else (⟨step, bank, [], false, none, fSrc f⟩, s.rput (Reg.twnHeld bank) (BitVec.allOnes 64))
  | none => (⟨step, bank, [], false, none, fSrc f⟩, s.rput (Reg.twnHeld bank) (BitVec.allOnes 64))

/-- Bytes of the hold area, which lies whole within one half of the far tier (R577); an area that does not holds nothing. -/
def State.holdBytes (s : State) : Nat :=
  let n := s.rfld Reg.twnHoldPages 28 0 * 4096
  if (s.localKey (s.flatId <<< 48 + 2 <<< 46 + s.rfld Reg.twnHoldBase 39 12 * 4096) n).isSome then n else 0

/-- MIRROR at the twin (R577, R581, R583). -/
def execMirror (s : State) : Host.Outcome State Fault Refusal :=
  match s.mirrorIn false with
  | none => .next s
  | some (d, s') =>
    if !s'.twinReady then .next s'
    else
      let f := d.frame
      let o := bitsN (fAddr f).toNat 45 0
      let n := f.payload.length
      let place := if o + n ≤ s'.holdBytes then s'.localKey (s'.flatId <<< 48 + 2 <<< 46 + s'.rfld Reg.twnHoldBase 39 12 * 4096 + o) n else none
      gated s [] (match place with | some k => [(k, n)] | none => []) <|
      let (x, s') := s'.twinFor f
      match place with
      | none => .next (s'.setMg fun m => { m with twinIn := some { x with bounds := true } })
      | some k =>
        let s' := s'.mputBytes k f.payload
        let r := fld (hw f 3) 39 32
        let sum := (tabGet (fun _ => 0) x.checks r + mulMod (powMod ((fArg f 1).toNat / 4)) (checkBytes f.payload)) % chkP
        .next (s'.setMg fun m => { m with twinIn := some { x with checks := tabSet (fun _ => 0) x.checks r sum } })

/-- SEAL at the twin (R583). -/
def execSeal (s : State) : Host.Outcome State Fault Refusal :=
  match s.mirrorIn true with
  | none => .next s
  | some (d, s) =>
    let (x, s) := s.twinFor d.frame
    .next (s.setMg fun m => { m with twinIn := some { x with manifest := some d.frame.payload, src := fSrc d.frame } })

/-- The status that a SEAL is answered with (R583). -/
def State.sealStatus (s : State) (x : TwinRx) (manifest : List Byte) : Nat :=
  if !s.twinReady then 8
  else if x.bounds then 7
  else if (upFrom 0 (manifest.length / 16)).all fun i =>
      ofBytes ((manifest.drop (16 * i)).take 8) == tabGet (fun _ => 0) x.checks i then 0
  else 6

/-- SEAL_VERIFY: every write of the step is visible (R581, R583). -/
def execSealVerify (s : State) : Host.Outcome State Fault Refusal :=
  match s.mg.twinIn with
  | some x =>
    match x.manifest with
    | some man =>
      if s.deliv.any (fun d => fType d.frame == tyMIRROR) then .next s
      else
        let st := s.sealStatus x man
        let s := if st = 0 then s.rput (Reg.twnHeld x.bank) x.step else s
        let s := s.setMg fun m => { m with twinIn := none }
        let f := mkFrame { dst := x.src, src := s.flatId, tc := 0, vc := vcGUAR, ty := tyMIRRORACK, flow := 0, tag := 0, addr := 0
                           aux := st + x.bank <<< 8, arg0 := x.step }
        .next (s.askClass0 1 143 f).2
    | none => .next s
  | none => .next s

/-- MIRRORACK (R581, R582). -/
def execMirrorack (s : State) : Host.Outcome State Fault Refusal :=
  match s.takeDeliv (fun d => fType d.frame == tyMIRRORACK) with
  | none => .next s
  | some (d, s) =>
    let f := d.frame
    match s.mg.mirror with
    | some x =>
      if x.done && s.rfld Reg.twnStatus 2 0 == 1 && fArg f 0 == x.step && (bit (hw f 3) 40).toNat == x.step.toNat % 2 then
        let st := fld (hw f 3) 39 32
        .next (if st = 0 then s.committed x.step else s.mirrorFail st)
      else .next s
    | none => .next s

/-- MIRROR_ACK_TIMEOUT (R582). -/
def execMirrorAckTimeout (s : State) : Host.Outcome State Fault Refusal :=
  match s.mg.mirror with
  | some x => .next (if x.done then s.mirrorFail 5 else s)
  | none => .next s

/-! Restarts, boundaries, swaps (R584, R601, R605). -/

/-- TWN_RESTART (R584); errs: the cores whose instruction banks do not read. -/
def execTwnRestart (c : Word) (errs : List Nat) (s : State) : Host.Outcome State Fault Refusal :=
  let now := s.rget Reg.twnCommitted
  let none_ : Word := BitVec.allOnes 64
  if s.boundaryOk && (c == none_ || now == none_ || c == now || c == now - 1) then
    let s := s.rput Reg.twnCommitted c
    let s := s.rput Reg.twnStatus (setFld (setFld (s.rget Reg.twnStatus) 7 3 0) 2 0 0)
    .next ((s.setMg fun m => { m with mirror := none }).boundary errs)
  else .next (s.rsetBit Reg.twnStatus 10 true)

/-- BOUNDARY (R601, R602). -/
def execBoundary (errs : List Nat) (s : State) : Host.Outcome State Fault Refusal :=
  .next (if s.boundaryOk then s.boundary errs else s.rsetBit Reg.twnStatus 10 true)

/-- TWN_SWAP: a write with LOGICAL and REQUEST (R605). -/
def execTwnSwap (l : Nat) (request : Bool) (s : State) : Host.Outcome State Fault Refusal :=
  if request && decide (l < s.coresEnabled) && decide (s.physOf l < 192) then
    .next ((s.addRepair ⟨6, s.physOf l, 0⟩).rsetBit Reg.twnSwap 9 true)
  else .next s

/-- HEALTH_DECAY (R599). -/
def execHealthDecay (s : State) : Host.Outcome State Fault Refusal :=
  .next (s.regs.foldl (fun s x =>
    if 0x702000 ≤ x.1 ∧ x.1 < 0x703C00 ∧ s.rfld x.1 33 32 < 2 then s.rsetFld x.1 31 0 (s.rfld x.1 31 0 - s.rfld x.1 31 0 / 16) else s) s)

/-! Sampled cross-checks and replays (R606 to R609). -/

/-- Address of capture slot k. -/
def State.slotAddr (s : State) (k : Nat) : Nat := s.rfld Reg.twnXchkCfg 63 12 * 4096 + k * captureSlot

/-- The record of a mismatch (R608); the two activity shares are free values. -/
def State.captureRecord (s : State) (c : Capture) : List Word × State :=
  let w := c.cmd
  let (fa, fb, fd) := (opdField (cOpd w 2), opdField (cOpd w 3), opdField (cOpd w 1))
  let code (i : Nat) : Nat := bitsN (cOpd w i) 3 0
  let half := c.phys / 96
  let sens := s.rget (Reg.mgtSensH half)
  let clk := 50 * (if half = 0 then s.rfld Reg.mgtThrottle 17 12 else s.rfld Reg.mgtThrottle 23 18)
  let (act, s) := s.draw
  let w0 := c.phys + c.logical <<< 8 + c.check1 <<< 16 + c.check2 <<< 24 + c.verdict <<< 32 + c.bank <<< 34 + c.idx <<< 35 + (cOpcode w) <<< 46
  let w1 := c.dims.getD 0 0 + (c.dims.getD 1 0) <<< 16 + (c.dims.getD 2 0) <<< 32 + (code 2) <<< 48 + (code 3) <<< 52 + (code 1) <<< 56 +
    fa.trans.toNat <<< 60 + fb.trans.toNat <<< 61 + (cAccum w).toNat <<< 62
  let w2 := fld sens 15 0 + (fld sens 31 16) <<< 16 + clk <<< 32 + (fld act 9 0) <<< 44 + (fld act 19 10) <<< 54
  let _ := fd
  ([BitVec.ofNat 64 w0, BitVec.ofNat 64 w1, BitVec.ofNat 64 w2, s.rget Reg.twnCommitted, BitVec.ofNat 64 s.uptime, 0, 0, 0], s)

/-- A verdict is reached (R606, R608, R580). -/
def State.verdict (s : State) (k : Nat) (c : Capture) (v : Nat) : State :=
  let c := { c with verdict := v, kept := true }
  let s := (s.setCapture k (some c)).rcount Reg.twnXchkStat 47 32 1
  let (ws, s) := s.captureRecord c
  let s := match s.captureKey k with | some key => s.mputBytes (key + 4 * 2 ^ 20) (wordsBytes ws) | none => s
  let s := s.raise evXCHK_MISMATCH sevCONTAINED [(8, k)]
  let s := if v = 0 ∨ v = 2 then s.addPoints (.core c.check1) 500 else s
  if v = 0 then s else (s.addPoints (.core c.phys) 500).setDirty

/-- Pewter of a core is all zero. -/
def State.clearPewter (s : State) (n : Nat) : State :=
  { s with mem := s.mem.filter (fun x => x.1 / 2 ^ 23 != n), memBad := s.memBad.filter (fun x => x.1 / 2 ^ 23 != n) }

/-- XCHK_SPARE_DONE: the spare that runs the command of capture k has written these bytes of D, in the order of the
sampled core's writes (R606). -/
def execXchkSpareDone (k : Nat) (bytes : List Byte) (s : State) : Host.Outcome State Fault Refusal :=
  match s.capture k with
  | none => .next s
  | some c =>
    if c.kept then .next s
    else
      let want := c.expect.map (·.2)
      if c.check2 = 0xFF then
        if bytes = want then .next (s.setCapture k none)
        else
          let c := { c with result := (c.expect.map (·.1)).zip bytes }
          match (upFrom 0 192).find? (fun n => n != c.check1 && s.spareFree n) with
          | none => .next (s.verdict k c 2)
          | some sp =>
            -- the sources go from the first spare's Pewter to the second's, which then holds nothing else
            let s := s.setCapture k (some { c with check2 := sp })
            .next ((s.clearPewter sp).mputs ((s.mem.filter fun x => decide (x.1 / 2 ^ 23 = c.check1)).map fun x => (pewKey sp (x.1 % 2 ^ 23), x.2)))
      else .next (s.verdict k c (if bytes = want then 0 else if bytes = c.result.map (·.2) then 1 else 2))

/-- FREE: TWN_REPLAY is written with FREE (R608). -/
def execFree (slot : Nat) (s : State) : Host.Outcome State Fault Refusal :=
  let s := s.rsetFld Reg.twnReplay 3 0 slot
  match s.capture slot with
  | some c => .next (if c.kept then s.setCapture slot none else s)
  | none => .next s

/-- The arithmetic clock of a half in MGT_THROTTLE. -/
def State.setClock (s : State) (half n : Nat) : State := if half = 0 then s.rsetFld Reg.mgtThrottle 17 12 n else s.rsetFld Reg.mgtThrottle 23 18 n
def State.clockOf (s : State) (half : Nat) : Nat := if half = 0 then s.rfld Reg.mgtThrottle 17 12 else s.rfld Reg.mgtThrottle 23 18

/-- GO: TWN_REPLAY is written with GO (R609). -/
def execGo (slot count : Nat) (s : State) : Host.Outcome State Fault Refusal :=
  let s := (s.rsetFld Reg.twnReplay 3 0 slot).rsetFld Reg.twnReplay 19 4 count
  match s.capture slot, s.captureKey slot with
  | some c, some key =>
    let st := s.rfld Reg.twnReplay 23 22
    if c.kept && s.boundaryOk && (st == 0 || st == 3) then
      let half := c.phys / 96
      let clk := fld (s.mword (key + 4 * 2 ^ 20 + 16)) 43 32 / 50
      let s := s.setMg fun m => { m with replayHalf := half, replayClk := s.clockOf half }
      .next (((s.setClock half clk).rsetFld Reg.twnReplay 23 22 1).rsetBit Reg.twnReplay 24 false)
    else .next s
  | _, _ => .next s

/-- Step 4 of a replay: the clock is restored (R609). -/
def State.replayDone (s : State) (mism temp vdd : Nat) : State :=
  let s := (s.setClock s.mg.replayHalf s.mg.replayClk).rsetFld Reg.twnReplay 23 22 3
  (s.rsetFld Reg.twnReplay 55 40 mism).raise evREPLAY_DONE sevINFO [(16, mism), (16, temp), (16, vdd)]

/-- REPLAY_HEAT_DONE (R609). -/
def execReplayHeatDone (s : State) : Host.Outcome State Fault Refusal :=
  .next (if s.rfld Reg.twnReplay 23 22 = 1 then s.rsetFld Reg.twnReplay 23 22 2 else s)

/-- REPLAY_HEAT_TIMEOUT: ABORTED; step 4 follows (R609). -/
def execReplayHeatTimeout (temp vdd : Nat) (s : State) : Host.Outcome State Fault Refusal :=
  .next (if s.rfld Reg.twnReplay 23 22 = 1 then (s.rsetBit Reg.twnReplay 24 true).replayDone 0 temp vdd else s)

/-- REPLAY_RUN_DONE: the repetitions have ended, with so many mismatches (R609). -/
def execReplayRunDone (mism temp vdd : Nat) (s : State) : Host.Outcome State Fault Refusal :=
  .next (if s.rfld Reg.twnReplay 23 22 = 2 then s.replayDone mism temp vdd else s)

/-- FATAL_CLEAR (R613). -/
def execFatalClear (s : State) : Host.Outcome State Fault Refusal := .next ((s.rput Reg.twnFatal0 0).rput Reg.twnFatal1 0)

/-! Handling and logging events (R611, R612, R619, R655 to R657). -/

/-- The event handled next: highest severity, then raised first. -/
def nextLatch (l : List Latched) : Option Latched :=
  l.foldl (fun a x => match a with | none => some x | some y => if y.sev < x.sev then some x else a) none

/-- EVENT_HANDLE: its record goes to the event ring, unless it was raised while the ring was not running, and waits to be
logged (R556, R557, R611, R612). -/
def execEventHandle (s : State) : Host.Outcome State Fault Refusal :=
  match nextLatch s.ev.latches with
  | none => .next s
  | some l =>
    let go := match s.ev.handling with | [] => true | [h] => decide (h.sev < l.sev) | _ => false
    if go then
      let s := { s with ev := { s.ev with latches := s.ev.latches.filter (fun x => x.code != l.code), handling := l :: s.ev.handling } }
      .next (if l.off || !s.evr.started then s else { s with evq := s.evq ++ [l] })
    else .next s

def evLOG_LOSS : Nat := 0x010C

/-- A record is written to the ring of the log; a full ring loses its oldest erase block of 1,024 records (R656). -/
def State.logPut (s : State) (l : Latched) : State :=
  s.setMg fun m =>
    if logPlaces ≤ m.log.length then { m with log := m.log.drop 1024 ++ [l], logGone := m.logGone + 1024 } else { m with log := m.log ++ [l] }

/-- A record is logged; beyond 4,096 in a second it is counted instead, and LOG_LOSS tells of those counts once the rate
has fallen (R655 to R657). ALERT_N is asserted for CONTAINED and FATAL (R619). -/
def State.logOne (s : State) (l : Latched) : State :=
  let sec := s.clock / 1600000000
  let fresh := s.mg.logSec != sec
  let n := if fresh then 0 else s.mg.logIn
  let lost := s.mg.logLost
  let s := s.setMg fun m => { m with logWait := m.logWait.erase l, logSec := sec, logIn := n }
  if 4096 ≤ n then
    let c := (List.range 4).map fun i => lost.getD i 0 + (if l.sev = i then 1 else 0)
    s.setMg fun m => { m with logLost := c }
  else
    let s := if fresh && !lost.isEmpty then
        (s.setMg fun m => { m with logLost := [] }).raise evLOG_LOSS sevINFO (lost.map fun x => (32, x))
      else s
    let s := s.logPut l
    s.setMg fun m => { m with logIn := n + 1, alert := m.alert || decide (2 ≤ l.sev) }

/-- The record that is logged next: a FATAL one at once, any other in SEQ order, once no event raised before it waits
(R655). -/
def State.logNext (s : State) : Option Latched :=
  match s.mg.logWait.find? (fun l => l.sev == sevFATAL) with
  | some l => some l
  | none =>
    let first (a : Option Latched) (x : Latched) : Option Latched :=
      match a with | none => some x | some y => if x.seq < y.seq then some x else a
    match s.mg.logWait.foldl first none with
    | some l => if (s.ev.latches ++ s.ev.handling).all (fun x => decide (l.seq < x.seq)) then some l else none
    | none => none

def State.logAll : Nat → State → State
  | 0, s => s
  | n + 1, s =>
    match s.logNext with
    | some l => State.logAll n (s.logOne l)
    | none => s

/-- LOG_WRITE: the handling in hand ends, and every record that may be is logged. -/
def execLogWrite (s : State) : Host.Outcome State Fault Refusal :=
  match s.ev.handling with
  | [] => .next s
  | l :: t =>
    let s := { s with ev := { s.ev with handling := t } }
    let s := s.setMg fun m => { m with logWait := m.logWait ++ [l] }
    .next (State.logAll s.mg.logWait.length s)

/-! The watchdog (R597). -/

/-- WATCHDOG_STROBE. -/
def execWatchdogStrobe (s : State) : Host.Outcome State Fault Refusal := .next (s.setMg fun m => { m with strobeAt := s.clock })

/-- WATCHDOG_EXPIRE: 10 ms without a strobe. -/
def execWatchdogExpire (s : State) : Host.Outcome State Fault Refusal :=
  .next (if s.mg.strobeAt + 16000000 ≤ s.clock then s.quadsOff else s)

end Sys2Proof.Machine
end

