-- ==== Sys2Proof/Machine/PinRows.lean ====
section
/-! DEFINITION. Optics, supplies, sensors, throttling, pins and boundary scan (R336 to R340, R595, R619, R650 to R654, R675,
R676, R687, R694 to R698). -/

namespace Sys2Proof.Machine

/-- Bit i of a set of parts. -/
def setPart (n i : Nat) (b : Bool) : Nat := if n.testBit i = b then n else if b then n + 2 ^ i else n - 2 ^ i

def State.setPins (s : State) (f : Pins → Pins) : State := s.setMg fun m => { m with pins := f m.pins }
def State.setThr (s : State) (f : Throttle → Throttle) : State := s.setMg fun m => { m with thr := f m.thr }

/-! Optics. -/

/-- A reading of a quantity (0 temperature, 1 supply voltage, 2 bias, 3 and 4 transmit and receive power) as a number. -/
def reading (q v : Nat) : Int := if q = 0 then sextN 8 (v % 256) else (v : Int)

/-- Whether a reading lies beyond the highest, or the lowest, of the two thresholds of its quantity, in the list's order. -/
def beyond (thr : List Nat) (q : Nat) (high : Bool) (v : Nat) : Bool :=
  if high then decide (reading q (thr.getD (2 * q) 0) < reading q v) else decide (reading q v < reading q (thr.getD (2 * q + 1) 0))

/-- One reading is compared with the one before it, when there was one: OPTICS_ALARM once per crossing of either threshold
(R340). -/
def State.opticsCheck (s : State) (c lane q : Nat) (thr : List Nat) (old : Option Nat) (v : Nat) : State :=
  let crosses (high : Bool) : Bool := beyond thr q high v && !(match old with | some o => beyond thr q high o | none => false)
  if crosses true || crosses false then
    let s := (s.raise evOPTICS_ALARM sevINFO [(8, c), (8, lane), (8, q), (16, v)]).rsetBit (Reg.lnkOptMod c) 5 true
    if lane < 20 then s.lanePoints (4 * c + lane / 5) (lane % 5) 200 else s
  else s

/-- One lane's readings. -/
def State.opticsLane (s : State) (c n : Nat) (thr : List Nat) (w : Word) : State :=
  let r := Reg.lnkOptLane c n
  let old := s.rget r
  let was (hi lo : Nat) : Option Nat := if bit old 49 then some (fld old hi lo) else none
  let s := s.rput r (setBit (w &&& 0x0001FFFFFFFFFFFF#64) 49 true)
  let s := s.opticsCheck c n 2 thr (was 15 0) (fld w 15 0)
  let s := s.opticsCheck c n 3 thr (was 31 16) (fld w 31 16)
  let s := s.opticsCheck c n 4 thr (was 47 32) (fld w 47 32)
  let snr := s.rfld (Reg.lnkPcnt1 (4 * c + n / 5) (n % 5)) 39 32
  if snr ≠ 0 ∧ snr < 60 then s.lanePoints (4 * c + n / 5) (n % 5) 50 else s

/-- OPTICS_POLL: firmware reads connector c. modw and lanes are the readings, laid out as LNK_OPT_MOD and LNK_OPT_LANE; thr is
Page 02h, which is read once at insertion (R336, R339, R340); a module found then is released from low power (R337). -/
def execOpticsPoll (c : Nat) (cmis : Bool) (modw : Word) (lanes : List Word) (thr : List Nat) (s : State) :
    Host.Outcome State Fault Refusal :=
  let r := Reg.lnkOptMod c
  let fitted := s.mg.pins.fitted.testBit c
  let s := s.rsetBit r 0 fitted
  if fitted && cmis then
    let old := s.rget r
    let t := match tabGet (fun _ => []) s.mg.optThr c with | [] => thr | l => l
    let s := s.setMg fun m => { m with optThr := tabSet (fun _ => []) m.optThr c t, optAt := tabSet (fun _ => 0) m.optAt c (s.clock + 1) }
    let was (hi lo : Nat) : Option Nat := if bit old 1 then some (fld old hi lo) else none
    let s := if s.mg.pins.optUp.testBit c then s
      else (s.setPins fun p => { p with optUp := setPart p.optUp c true }).emit (.cmisRelease c)
    let s := (((s.rsetBit r 1 true).rsetFld r 4 2 (fld modw 4 2)).rsetFld r 15 8 (fld modw 15 8)).rsetFld r 31 16 (fld modw 31 16)
    let s := s.opticsCheck c 0xFF 0 t (was 15 8) (fld modw 15 8)
    let s := s.opticsCheck c 0xFF 1 t (was 31 16) (fld modw 31 16)
    .next ((upFrom 0 20).foldl (fun s n => s.opticsLane c n t (lanes.getD n 0)) s)
  else .next ((upFrom 0 20).foldl (fun s n => s.rsetBit (Reg.lnkOptLane c n) 49 false) (s.rsetBit r 1 false))

/-! VCC_OPT (R675, R676, R687). -/

/-- AUX_12V lies within 11.4 to 12.6 V. -/
def auxOk (p : Pins) : Bool := decide (11400 ≤ p.auxMv) && decide (p.auxMv ≤ 12600)

/-- VCC_OPT of every connector follows its conditions; one that comes on has its module reset. -/
def State.vccUpdate (s : State) : State :=
  (upFrom 0 8).foldl (fun s c =>
    let p := s.mg.pins
    let on := auxOk p && p.fitted.testBit c && !p.optHold.testBit c
    let s' := s.setPins fun p => { p with optOn := setPart p.optOn c on, optUp := if on then p.optUp else setPart p.optUp c false }
    if on && !p.optOn.testBit c then s'.emit (.optReset c) else s') s

/-- OPT_PRESENT_CHANGE: OPT_PRESENT_N of connector c goes low or high. -/
def execOptPresentChange (c : Nat) (low : Bool) (s : State) : Host.Outcome State Fault Refusal :=
  let s := s.setPins fun p => { p with fitted := setPart p.fitted c low }
  let s := s.rsetBit (Reg.lnkOptMod c) 0 low
  let s := if low then s else s.setMg fun m => { m with optThr := tabSet (fun _ => []) m.optThr c [] }
  .next s.vccUpdate

/-- AUX_12V_CHANGE: AUX_12V in mV. -/
def execAux12vChange (mv : Nat) (s : State) : Host.Outcome State Fault Refusal :=
  .next (s.setPins fun p => { p with auxMv := mv }).vccUpdate

/-- VCC_OPT_OVERCURRENT. -/
def execVccOptOvercurrent (c : Nat) (s : State) : Host.Outcome State Fault Refusal :=
  if s.mg.pins.optOn.testBit c then
    .next ((s.setPins fun p => { p with optHold := setPart p.optHold c true }).vccUpdate.rsetBit Reg.mgtPins (8 + c) true)
  else .next s

/-- VCC_OPT_RETRY: the supply of connector c is tried again, and the try succeeds or not. -/
def execVccOptRetry (c : Nat) (ok : Bool) (s : State) : Host.Outcome State Fault Refusal :=
  if s.mg.pins.optHold.testBit c && ok then
    .next ((s.setPins fun p => { p with optHold := setPart p.optHold c false }).vccUpdate.rsetBit Reg.mgtPins (8 + c) false)
  else .next s

/-! Pins (R597, R619, R680, R698). -/

/-- PINS_UPDATE: MGT_PINS from the sideband pins and supplies; TWIN_PRESENT_N low, and the two reference clocks. -/
def execPinsUpdate (twin fab host : Bool) (s : State) : Host.Outcome State Fault Refusal :=
  let was := s.mg.pins.fabClk
  let s := s.setPins fun p => { p with twin := twin, fabClk := fab, hostClk := host }
  let p := s.mg.pins
  let w := twin.toNat + 2 * s.perst.toNat + 4 * (auxOk p).toNat + 8 * fab.toNat + 16 * host.toNat + (p.optHold % 256) <<< 8 + (p.auxMv % 65536) <<< 16
  let s := s.rput Reg.mgtPins (BitVec.ofNat 64 w)
  .next (if was && !fab then s.quadsOff else s)

/-- ALERT_RESPONSE. -/
def execAlertResponse (s : State) : Host.Outcome State Fault Refusal := .next (s.setMg fun m => { m with alert := false })

/-! Sensors and throttling (R26, R27, R650 to R654). -/

/-- Thermal design power in W (R2). -/
def State.designPower (s : State) : Nat := if s.rfld Reg.fusePartId 11 8 = 0xA then 2400 else 2000

/-- Stacks of a half (R247). -/
def halfStacks (h : Nat) : List Nat := upFrom (16 * h) 16

/-- TJ of a half, in units of 0.25 C. -/
def State.tj (s : State) (h : Nat) : Int := sextN 16 (s.rfld (Reg.mgtSensH h) 15 0)

def demandLvl (t : Throttle) (h d : Nat) : Nat := tabGet (fun _ => 38) t.lvl (3 * h + d)
def demandMs (t : Throttle) (h d : Nat) : Nat := tabGet (fun _ => 0) t.ms (3 * h + d)
def setDemand (t : Throttle) (h d lvl ms : Nat) : Throttle :=
  { t with lvl := tabSet (fun _ => 38) t.lvl (3 * h + d) lvl, ms := tabSet (fun _ => 0) t.ms (3 * h + d) ms }

/-- A demand that has been released raises its ceiling 50 MHz every 10 ms. -/
def raiseDemand (t : Throttle) (h d : Nat) : Throttle :=
  let l := demandLvl t h d
  if l ≥ 38 then t
  else if 10 ≤ demandMs t h d + 1 then setDemand t h d (l + 1) 0
  else setDemand t h d l (demandMs t h d + 1)

/-- One ms of the demands of half h, whose clock is clk, on the sensors of s. -/
def State.demands (s : State) (h clk : Nat) (t : Throttle) : Throttle :=
  let temps := (halfStacks h).map fun k => s.rfld (Reg.memStackStatus k) 7 0
  let low (d k : Nat) : Nat := max 12 (min (demandLvl t h d) clk - k)
  let pin := s.rfld Reg.mgtSensIn 31 16
  let pin1 := s.rfld Reg.mgtSensIn 47 32
  let t := if temps.any (fun x => decide (100 ≤ x)) ∨ 400 ≤ s.tj h then setDemand t h 0 (low 0 1) 0
    else if temps.all (fun x => decide (x < 97)) ∧ s.tj h < 388 then raiseDemand t h 0
    else setDemand t h 0 (demandLvl t h 0) 0
  let t := if 2800 < pin then setDemand t h 1 (low 1 (if t.peakOn then 1 else 4)) 0
    else if pin < 2600 then raiseDemand t h 1
    else setDemand t h 1 (demandLvl t h 1) 0
  if s.designPower < pin1 then
    (if demandLvl t h 2 = 38 ∨ 10 ≤ demandMs t h 2 + 1 then setDemand t h 2 (low 2 1) 0 else setDemand t h 2 (demandLvl t h 2) (demandMs t h 2 + 1))
  else if 100 * pin1 < 97 * s.designPower then raiseDemand t h 2
  else setDemand t h 2 (demandLvl t h 2) 0

/-- The cap of a half, brought into 12 to 38. -/
def State.capOf (s : State) (h : Nat) : Nat := max 12 (min 38 (s.rfld Reg.mgtThrottle (6 * h + 5) (6 * h)))

/-- The half whose clock a replay has set (R609). -/
def State.replayHalf (s : State) : Option Nat :=
  let st := s.rfld Reg.twnReplay 23 22
  if st = 1 ∨ st = 2 then some s.mg.replayHalf else none

/-- The lowest of the cap and the demands of a half, with CAUSE: 0 none, 1 cap, 2 temperature, 3 peak and 4 average power,
the first of equals. -/
def lowestDemand (cap : Nat) (t : Throttle) (h : Nat) : Nat × Nat :=
  let pick (a : Nat × Nat) (x : Nat × Nat) : Nat × Nat := if x.1 < a.1 then x else a
  [(cap, 1), (demandLvl t h 0, 2), (demandLvl t h 1, 3), (demandLvl t h 2, 4)].foldl pick (38, 0)

/-- The clock and CAUSE of a half are set; THROTTLE at most once per 100 ms. -/
def State.throttleHalf (s : State) (h : Nat) : State :=
  let was := s.clockOf h
  let t := s.demands h was s.mg.thr
  let cap := if s.replayHalf = some h then was else s.capOf h
  let (clk, cause) := lowestDemand cap t h
  let s := (s.setThr fun _ => t).setClock h clk
  let s := s.rsetFld Reg.mgtThrottle (26 + 3 * h) (24 + 3 * h) cause
  let none_ : Nat × Nat := (0, 0)
  let low := tabGet (fun _ => none_) t.low h
  let low := if clk < was ∧ (low = none_ ∨ clk < low.1) then (clk, cause) else low
  let told := tabGet (fun _ => 0) t.told h
  if low ≠ none_ ∧ (told = 0 ∨ 101 ≤ told + 1) then
    let s := s.raise 0x0107 sevINFO [(8, h), (16, 50 * low.1), (8, low.2)]
    s.setThr fun t => { t with low := tabSet (fun _ => none_) t.low h none_, told := tabSet (fun _ => 0) t.told h 1 }
  else
    s.setThr fun t => { t with low := tabSet (fun _ => none_) t.low h low
                               told := tabSet (fun _ => 0) t.told h (if told = 0 then 0 else min 101 (told + 1)) }

/-- What the heat of a half brings (R652); tsw: its TSW in the last sample. -/
def State.trip (s : State) (h tsw : Nat) : State :=
  let s := if s.clockOf h = 12 ∧ 460 ≤ s.tj h ∧ s.partLost (49 + h) = false then
      let s := s.raiseFatal 0x0108 [(8, h), (8, 0), (16, s.rfld (Reg.mgtSensH h) 15 0)]
      { s with lost := tabSet (fun _ => false) s.lost (49 + h) true }
    else s
  let now := s.rfld (Reg.mgtSensH h) 55 48
  if 115 ≤ now ∧ tsw < 115 then (s.raiseFatal 0x0108 [(8, h), (8, 1), (16, 4 * now)]).quadsOff else s

/-- Lane quads with an UP link (R595). -/
def State.quadsUp (s : State) : Nat :=
  ((upFrom 0 32).filter fun q => (s.quadLinks (min q 30)).any fun p => s.rfld (s.lstatOf p) 2 0 == 2 || s.rfld (s.lstatOf p) 2 0 == 3).length

/-- SENSOR_SAMPLE: the three sensor images (R650 to R654), and the switch slices that work and the ROM: a module that has lost
its last slice, its ROM, or all but one of its working quads disables every quad (R595, R596). -/
def execSensorSample (inw h0 h1 : Word) (s : State) (slices : Nat := 0xFF) (rom : Bool := true) : Host.Outcome State Fault Refusal :=
  let t0 := s.rfld (Reg.mgtSensH 0) 55 48
  let t1 := s.rfld (Reg.mgtSensH 1) 55 48
  let s := ((s.rput Reg.mgtSensIn (inw &&& 0x0000FFFFFFFFFFFF#64)).rput (Reg.mgtSensH 0) (h0 &&& 0x00FFFFFFFFFFFFFF#64)).rput
    (Reg.mgtSensH 1) (h1 &&& 0x00FFFFFFFFFFFFFF#64)
  let s := (s.throttleHalf 0).throttleHalf 1
  let s := s.setThr fun t => { t with peakOn := decide (2800 < s.rfld Reg.mgtSensIn 31 16) }
  let s := (s.trip 0 t0).trip 1 t1
  let vin := s.rfld Reg.mgtSensIn 15 0
  let out := decide (vin < 37800) || decide (46200 < vin)
  let s := if out && !s.mg.thr.out then s.raise 0x0109 sevCONTAINED [(16, vin)] else s
  let up := decide (2 ≤ s.quadsUp)
  let lost := (s.mg.thr.served && !up) || slices == 0 || !rom
  let s := s.setThr fun t => { t with out := out, served := up, slices := slices, rom := rom }
  .next (if lost then s.quadsOff else s)

/-! Boundary scan (R694, R695). -/

def State.setJtag (s : State) (f : Jtag → Jtag) : State := s.setMg fun m => { m with jtag := f m.jtag }

/-- Instructions as Jtag.ir holds them. -/
def jIDCODE : Nat := 0
def jBYPASS : Nat := 1
def jSAMPLE : Nat := 2
def jPRELOAD : Nat := 3
def jEXTEST : Nat := 4

/-- TRST_N: the test access port is reset, to IDCODE. -/
def execTrstN (s : State) : Host.Outcome State Fault Refusal := .next (s.setJtag fun j => { j with ir := jIDCODE, bypass := false })

/-- The identification code: version 1, part 0x5A09, the manufacturer, and the 1 of IEEE 1149.1. -/
def idcode : Nat := 1 + Config.jtagManufacturer.toNat <<< 1 + 0x5A09 <<< 12 + 1 <<< 28

/-- IDCODE: the code is shifted out, least significant bit first. -/
def execIdcode (s : State) : Host.Outcome State Fault Refusal :=
  .next ((s.setJtag fun j => { j with ir := jIDCODE }).emit (.tdo ((upFrom 0 32).map fun i => idcode.testBit i)))

/-- The bits on TDI pass through the one bypass bit, which captures 0. -/
def State.bypassShift (s : State) (tdi : List Bool) : State :=
  let bits := false :: tdi
  (s.setJtag fun j => { j with ir := jBYPASS, bypass := bits.getLast?.getD false }).emit (.tdo (bits.take tdi.length))

/-- BYPASS. -/
def execBypass (tdi : List Bool) (s : State) : Host.Outcome State Fault Refusal := .next (s.bypassShift tdi)

/-- SAMPLE: the boundary register captures the pins and is shifted out. -/
def execSample (image : List Bool) (s : State) : Host.Outcome State Fault Refusal :=
  .next ((s.setJtag fun j => { j with ir := jSAMPLE, boundary := image }).emit (.tdo image))

/-- PRELOAD: the boundary register is loaded. -/
def execPreload (image : List Bool) (s : State) : Host.Outcome State Fault Refusal :=
  .next (s.setJtag fun j => { j with ir := jPRELOAD, boundary := image })

/-- EXTEST: the boundary register drives the pins while MOD_RESET_N is asserted; at any other time it acts as BYPASS. -/
def execExtest (tdi : List Bool) (s : State) : Host.Outcome State Fault Refusal :=
  if s.mg.pins.modRst then .next ((s.setJtag fun j => { j with ir := jEXTEST }).emit (.drive s.mg.jtag.boundary))
  else .next (s.bypassShift tdi)

end Sys2Proof.Machine
end

