-- ==== Sys2Proof/Machine/Boot.lean ====
section
/-! DEFINITION. Start-up (R633 to R639, R644 to R649, R658, R668 to R673, R695 to R697): slots, the boot sequence, resets
and the power input. -/

namespace Sys2Proof.Machine

/-! Slots and their directory. -/

/-- The copy of the slot directory in force, and whether it is the second (R634). -/
def Mgmt.dirNow (m : Mgmt) : Bool × Dir :=
  if m.dir1.good && (!m.dir0.good || decide (m.dir0.count < m.dir1.count)) then (true, m.dir1) else (false, m.dir0)

/-- A changed directory goes into the other copy. -/
def Mgmt.putDir (m : Mgmt) (active trial tries : Nat) : Mgmt :=
  let (one, d) := m.dirNow
  let x : Dir := ⟨true, d.count + 1, active, trial, tries⟩
  if one then { m with dir0 := x } else { m with dir1 := x }

def Mgmt.slot (m : Mgmt) (k : Nat) : FwSlot := if k = 0 then m.fw0 else m.fw1
def Mgmt.setSlot (m : Mgmt) (k : Nat) (x : FwSlot) : Mgmt := if k = 0 then { m with fw0 := x } else { m with fw1 := x }

/-- Word i of an image header (R635). -/
def hdrWord (h : List Byte) (i : Nat) : Nat := ofBytes ((h.drop (8 * i)).take 8)

/-- SVN and VERSION of a slot; the release that ships has SVN 0 (R700; log 51). -/
def slotSvn : FwSlot → Nat
  | .image (some h) _ => bitsN (hdrWord h 1) 31 0
  | _ => 0
def slotVersion : FwSlot → Nat
  | .image (some h) _ => bitsN (hdrWord h 0) 63 32
  | .shipped => Config.shipVersion.toNat
  | _ => 0

/-- The 48 bytes of a SHA-384 digest. -/
def shaBytes (bs : List Byte) : List Byte := leBytes 48 (Config.sha384 bs).toNat

/-- The first check of R636 that a slot fails, as its position in that list. -/
def State.slotFault (s : State) : FwSlot → Option Nat
  | .erased => some 0
  | .shipped => if slotSvn .shipped < s.rfld Reg.fuseSec 6 0 then some 1 else none
  | .image none _ => some 0
  | .image (some h) body =>
    let w := hdrWord h
    let key := bitsN (w 1) 33 32
    let pub := (h.drop 72).take 97
    let used := body.take (bitsN (w 2) 31 0)
    let held := (upFrom 0 6).flatMap fun i => leBytes 8 (s.rget (Reg.fuseKeyHash key i)).toNat
    if h.length ≠ 512 ∨ bitsN (w 0) 31 0 ≠ 0x4A4C444E ∨ bitsN (w 1) 63 34 ≠ 0 ∨ (upFrom 34 30).any (fun i => w i != 0) = true then some 0
    else if bitsN (w 1) 31 0 < s.rfld Reg.fuseSec 6 0 then some 1
    else if s.rbit Reg.fuseSec (8 + key) then some 2
    else if shaBytes pub ≠ held then some 3
    else if shaBytes used ≠ (h.drop 24).take 48 then some 4
    else if !Config.ecdsaVerify pub (shaBytes (h.take 176)) ((h.drop 176).take 48) ((h.drop 224).take 48) then some 5
    else none

/-- The ROM's choice (R638): the slot that boots, none in recovery, and the slot that failed with the check, or 6 for TRIES. -/
def State.chooseSlot (s : State) : Option Nat × Option (Nat × Nat) × State :=
  let (_, d) := s.mg.dirNow
  let spent := d.trial == 1 && d.tries == 2
  let s := if d.trial == 1 && !spent then s.setMg fun m => m.putDir d.active 1 (d.tries + 1) else s
  match (if spent then some 6 else s.slotFault (s.mg.slot d.active)) with
  | none => (some d.active, none, s)
  | some i =>
    let b := 1 - d.active
    let s := s.setMg fun m => m.putDir b 0 m.dirNow.2.tries
    (if (s.slotFault (s.mg.slot b)).isNone then some b else none, some (d.active, i), s)

/-! Replayed repairs (R649). -/

/-- Whether a record's part is retired already. -/
def State.retired (s : State) (r : RepairRec) : Bool :=
  match r.kind with
  | 0 => s.rfld (Reg.twnHpLane r.old) 33 32 == 3
  | 1 => s.rfld (Reg.twnHpCore r.old) 33 32 == 3
  | 2 => s.rfld (Reg.twnHpStu r.old) 33 32 == 3
  | 4 => s.rbit (Reg.memStackStatus r.old) 11
  | 6 => s.logicalOf r.old == 0xFF
  -- no record of a row retires the stack or core that it names: each spends a spare row (DEDUCED, log 96)
  | _ => false

def State.replayRec (s : State) (r : RepairRec) : State :=
  match r.kind with
  | 0 =>
    let q := r.old / 5
    let s := match (upFrom (4 * q) 4).find? (fun k => s.txLane k == r.old % 5) with
      | some k => s.setTxLane k (r.new % 5)
      | none => s
    let s := (s.rsetFld (Reg.lnkQmap q) 14 12 7).rsetBit (Reg.lnkQmap q) (21 + r.old % 5) true
    ((s.rsetFld (Reg.twnHpLane r.old) 33 32 3).rsetBit (Reg.twnHpLane r.new) 34 false).useSpare 15 8
  | 1 => ((s.moveCore r.logical r.old r.new false).rsetFld (Reg.twnHpCore r.old) 33 32 3).useSpare 7 0
  | 2 =>
    let s := ((s.rsetFld (Reg.stuUnitStat r.old) 1 0 2).rsetFld (Reg.stuUnitStat r.old) 15 8 0xFF).rsetFld (Reg.twnHpStu r.old) 33 32 3
    let s := ((s.rsetFld (Reg.stuUnitStat r.new) 1 0 1).rsetFld (Reg.stuUnitStat r.new) 15 8 r.logical).rsetBit (Reg.twnHpStu r.new) 34 false
    if r.old < 32 then s.useSpare 19 16 else s.useSpare 23 20
  | 3 => s.rsetFld (Reg.memStackStatus r.old) 27 16 (s.rfld (Reg.memStackStatus r.old) 27 16 - 1)
  | 4 => (s.rsetBit (Reg.memStackStatus r.old) 11 true).useSpare 31 24
  | 6 => (s.moveCore r.logical r.old r.new false).rsetBit (Reg.twnHpCore r.old) 34 true
  | _ => s

/-- The records from number i on; bad: those of which neither copy has a good CRC (R648). -/
def State.replayRecs (s : State) (bad : List Nat) : Nat → List RepairRec → State
  | _, [] => s
  | i, r :: t =>
    let s := if bad.contains i then s.raise 0x010D sevCONTAINED [(8, 4), (64, flashRecordAt 0 i)]
      else if s.retired r then s
      else (s.replayRec r).setMg fun m => { m with replayed := m.replayed ++ [r] }
    s.replayRecs bad (i + 1) t

/-! The boot sequence (R644). -/

/-- The ROM shows the part's fuses: TWN_CORE_MAP, TWN_SPARES and the SPARE bits of the health registers follow the grade,
which FUSE_PART_ID tells (R2, R600, R605); those of grade A are what the registers reset to (log 10). -/
def State.fuseCores (s : State) : State :=
  let e := s.coresEnabled
  if e = fusedCores then s
  else
    let s := (upFrom 0 192).foldl (fun s l =>
      (s.rput (Reg.twnCoreMap l) (BitVec.ofNat 64 (if l < e then l else 0xFF))).rsetBit (Reg.twnHpCore l) 34 (decide (e ≤ l))) s
    s.rsetFld Reg.twnSpares 7 0 (s.rfld Reg.fusePartId 31 24)

/-- Step 5: the stream units in service (R427). -/
def State.startUnits (s : State) : State :=
  (upFrom 0 64).foldl (fun s u =>
    if u % 32 < 28 then (s.rsetFld (Reg.stuUnitStat u) 1 0 1).rsetFld (Reg.stuUnitStat u) 15 8 (28 * (u / 32) + u % 32) else s) s

/-- Step 6: a core fails its test; one that no spare can replace leaves its logical core without a physical one (log 54). -/
def State.failCore (s : State) (n : Nat) : State :=
  let l := s.logicalOf n
  if l = 0xFF then s
  else
    let s := s.repairOne [n] ⟨1, n, 0⟩
    if s.physOf l = n then s.rput (Reg.twnCoreMap l) 0xFF else s

def State.bist (s : State) (fails : List Nat) : State :=
  let s := fails.foldl (fun s n =>
    let s := (s.raise 0x0103 sevCORRECTED [(8, n)]).rsetFld (Reg.twnHpCore n) 33 32 2
    if s.rbit (Reg.twnHpCore n) 34 then s.loseSpare (Reg.twnHpCore n) 7 0 else s) s
  fails.foldl State.failCore s

def allOnes64 : Word := BitVec.allOnes 64

/-- Step 7: the route image, the pairs, then the quads that they enable (R646). -/
def State.applyProfile (s : State) : State :=
  match s.mg.profile with
  | none => s
  | some p =>
    let s := p.routes.foldl (fun s x => s.regWrite (Reg.swcRoute x.1) x.2 allOnes64 true) s
    let isQ (o : Nat) : Bool := (regIdx (Reg.lnkQcfg 0) 0x200 32 o).isSome
    let s := p.pairs.foldl (fun s x => s.regWrite x.1 (if isQ x.1 then setBit x.2 0 false else x.2) allOnes64 true) s
    (upFrom 0 32).foldl (fun s q =>
      match (p.pairs.filter fun x => x.1 == Reg.lnkQcfg q).getLast? with
      | some x => if bit x.2 0 then s.writeQcfg q (setBit (s.rget (Reg.lnkQcfg q)) 0 true) else s
      | none => s) s

/-- A module reset takes the module from state old to BOOT, which MODULE_STATE tells when it is a change (R591). -/
def State.bootState (s : State) (old : Nat) : State :=
  if old = mBOOT then s else s.raise evMODULE_STATE sevCONTAINED [(8, old), (8, mBOOT), (8, 5)]

/-- Steps 1 to 7 on a module just reset, which was in state old: fails are the cores that fail their test, bad the repair
records that cannot be read. In recovery the module stays in BOOT (R638). -/
def State.boot (s : State) (old : Nat) (fails bad : List Nat) : State :=
  let s := { s with boots := s.boots + 1 }
  let (slot, fb, s) := s.chooseSlot
  let fell (s : State) : State := match fb with | some (k, i) => s.raise 0x0104 sevCONTAINED [(8, k), (8, i)] | none => s
  match slot with
  | none => ((fell s).bootState old).setMg fun m => { m with recovery := true, bootStep := 3 }
  | some k =>
    let x := s.mg.slot k
    let s := s.raise 0x0101 sevINFO [(32, s.boots), (8, k), (32, slotVersion x), (8, slotSvn x)]
    let s := fell s
    let s := s.bootState old
    let s := (s.fuseCores.startUnits.replayRecs bad 0 s.recs).bist (fails.filter fun n => decide (n < 192))
    s.applyProfile.setMg fun m => { m with running := k, bootStep := 7 }

/-! Resets (R695 to R697). -/

/-- Everything is as State.reset has it but for fuses, flash, pins, the test access port, host memory and the queue; warm:
TWN_FATAL0, TWN_FATAL1 and WAS_ISOLATED are kept too. Nothing runs until the boot sequence does. -/
def State.cleared (s : State) (warm : Bool) : State :=
  let m := s.mg
  let keep (o : Nat) : Bool := decide (0x800000 ≤ o) || (warm && (o == Reg.twnFatal0 || o == Reg.twnFatal1))
  let was := warm && s.rbit Reg.twnStatus 9
  let z : State := { State.reset with
    pending := s.pending, freeCtr := s.freeCtr, regs := s.regs.filter fun x => keep x.1, hostMem := s.hostMem, recs := s.recs
    boots := s.boots, perst := s.perst, out := s.out
    mg := { mgmtReset with
      log := m.log, logGone := m.logGone, profile0 := m.profile0, profile1 := m.profile1
      profUse := if m.profNew then 1 - m.profUse else m.profUse, dir0 := m.dir0, dir1 := m.dir1, fw0 := m.fw0, fw1 := m.fw1
      jtag := m.jtag, pins := m.pins, bootStep := 0 } }
  z.rsetBit Reg.twnStatus 9 was

/-- A module reset (R644). -/
def State.moduleReset (s : State) (old : Nat) (fails bad : List Nat) : State := (s.cleared true).boot old fails bad

/-- MOD_RESET_N_ASSERT: quads and host link go down, every island stops (R696). -/
def execModResetNAssert (s : State) : Host.Outcome State Fault Refusal :=
  if s.mg.pins.modRst then .next s
  else
    let old := if s.mg.pins.good then s.modState else mBOOT
    .next (((s.cleared true).setPins fun p => { p with modRst := true }).setMg fun m => { m with modeWas := old })

/-- MOD_RESET_N_DEASSERT (R644, R697). -/
def execModResetNDeassert (fails bad : List Nat) (s : State) : Host.Outcome State Fault Refusal :=
  if !s.mg.pins.modRst then .next s
  else
    let old := s.mg.modeWas
    let s := s.setPins fun p => { p with modRst := false }
    .next (if s.mg.pins.good then s.moduleReset old fails bad else s)

/-- Why a module that enters READY at boot cannot stay there, as a position in R594. -/
def State.lacks (s : State) : Option Nat :=
  if (upFrom 0 s.coresEnabled).any (fun l => decide (192 ≤ s.physOf l)) || s.partLost 49 || s.partLost 50 then some 0
  else if s.partLost 48 then some 1
  else if (upFrom 0 48).any s.partLost then some 2
  else none

/-- Boot completes (R591, R639, R645, R680). -/
def State.bootDone (s : State) : State :=
  let (_, d) := s.mg.dirNow
  let s := if d.trial ≠ 0 ∨ d.tries ≠ 0 then s.setMg fun m => m.putDir d.active 0 0 else s
  let s := s.setMg fun m => { m with bootStep := 9 }
  let fenced := (upFrom 0 121).any s.fenceIn
  let new := if fenced then mISOLATED else mREADY
  let s := s.raise 0x0102 sevINFO [(16, min 0xFFFF (s.clock / 1600000)), (8, new)]
  let s := if fenced then s.enterIsolated 1 else s.changeMode mREADY 0
  let s := match s.lacks with | some c => s.enterTungsten c | none => s
  if s.mg.pins.fabClk then s else s.quadsOff

/-- BOOT_COMPLETE (R644, R645). From State.reset, where the sequence stands at step 1, it runs the whole of it (log 53). -/
def execBootComplete (s : State) : Host.Outcome State Fault Refusal :=
  let s := if s.mg.bootStep = 1 then s.boot mBOOT [] [] else s
  .next (if s.mg.bootStep = 7 then s.bootDone else s)

/-! The 42 V input (R653, R668, R672, R673). -/

/-- VIN_RISE: VIN, in mV, has been at 36.5 V or above for 10 ms. -/
def execVinRise (vin : Nat) (s : State) : Host.Outcome State Fault Refusal :=
  if 36500 ≤ vin ∧ s.mg.pins.good = false then .next (s.setPins fun p => { p with vin := vin, rising := true }) else .next s

/-- POWER_GOOD: the first is a module reset, which waits for MOD_RESET_N (R672, R697). -/
def execPowerGood (fails bad : List Nat) (s : State) : Host.Outcome State Fault Refusal :=
  if s.mg.pins.rising && !s.mg.pins.good then
    let s := s.setPins fun p => { p with good := true }
    .next (if s.mg.pins.modRst then s else s.moduleReset mBOOT fails bad)
  else .next s

/-- The record of INPUT_RANGE that the power-off writes itself. -/
def State.rangeRecord (s : State) (vin : Nat) : Latched :=
  { code := 0x0109, sev := sevCONTAINED, seq := s.ev.nextSeq, uptime := s.uptime, step := s.rget Reg.twnCommitted
    payload := payloadOf [(16, vin)], suppressed := 0, off := true }

/-- POWER_OFF: VIN, in mV, has left its limits for long enough (R668, R673); firmware, when it runs, logs INPUT_RANGE. -/
def execPowerOff (vin : Nat) (s : State) : Host.Outcome State Fault Refusal :=
  if 35500 ≤ vin ∧ vin ≤ 50000 then .next s
  else
    let s := if s.mg.pins.good && decide (5 ≤ s.mg.bootStep) then s.logPut (s.rangeRecord vin) else s
    .next ((s.cleared false).setPins fun p => { p with vin := vin, rising := false, good := false })

end Sys2Proof.Machine
end

