-- ==== Sys2Proof/Machine/CollRows.lean ====
section
/-! DEFINITION. The commands and events of the collective controller (R473 to R516): SYN.COLL, group commits, delivered
control and RESULT frames, timers, polls and races. -/

namespace Sys2Proof.Machine

/-! Launch by a core (R479 to R483). -/

/-- SYN.COLL; occ: the cycles it occupies SYN. -/
def execSynColl (n occ : Nat) (s : State) : Host.Outcome State Fault Refusal :=
  match issueCmd s n (· == 0xCD) with
  | .nothing => .next s
  | .ended s => .next s
  | .go s t w offs =>
    let c := s.core n
    let a := synAddr c w
    let k := pewKey n a
    let inside := decide (a + 192 ≤ pewterBytes)
    let d := s.descAt k
    gated s [] (if s.snoops.isEmpty then [] else (k, 192) :: s.collRuns d) <|
    let p : Plan :=
      { faults := (if inside then [] else [(0x05, 0x00)]) ++ (if a % 64 = 0 ∧ (inside = false ∨ s.launchGood d = true) then [] else [(0x02, 0x02)])
        accs := readsS [cSA w] ++ [⟨.plane false k 1 192 0, false, false⟩, ⟨.scalar (cSD w), true, false⟩,
          ⟨.plane false (pewKey n (dRecord d)) 1 64 0, true, false⟩]
        occ := occ, rd := 0, ws := 0, wv := 0, vlat := true, waiting := 1, formed := false }
    let (ok, s') := issuePlan s n t w offs p
    if !ok then .next s'
    else
      let s' := s'.meet (s'.badIn k 192)
      let who : Requester := .core n c.nextFlight 0
      let s' := if s'.colls.length < 1024 then s' else s'.setCore n { s'.core n with block := .coll c.nextFlight }
      .next (s'.askColl who (coreFlow c) k n)

/-! Groups (R473, R476, R511). -/

/-- Group entry g as memory holds it. -/
def State.readGroup (s : State) (k : Nat) : Group :=
  let w0 := s.mword k
  let n (a len : Nat) : List Nat := (upFrom 0 len).map fun i => (s.mget (k + a + i)).toNat
  let d0 := fld w0 23 18
  let d1 := fld w0 29 24
  let d2 := fld w0 35 30
  let list := bit w0 16
  { gen := fld w0 15 0, list := list, d0 := d0, d1 := d1, d2 := d2, xs := n 16 32, ys := n 48 32, zs := n 80 32
    present := s.mnat (k + 256) 4096
    ids := if list then (upFrom 0 (min 32768 (d0 * d1 * d2))).map fun r => s.mnat (k + 4352 + 2 * r) 2 else [] }

/-- The check of R476. -/
def State.groupOk (s : State) (k : Nat) (g : Group) : Bool :=
  let ext (d : Nat) : Bool := decide (1 ≤ d) && decide (d ≤ 32)
  let used (d : Nat) (l : List Nat) : Bool := (l.take d).all fun c => decide (c ≤ 31)
  let w0 := s.mword k
  let w1 := s.mword (k + 8)
  let n := gN g
  let count := ((upFrom 0 n).filter fun r => g.present.testBit r).length
  !bit w0 17 && fld w0 63 36 == 0 && fld w1 63 16 == 0 && (upFrom (k + 112) 144).all (fun a => s.mget a == 0) &&
  ext g.d0 && ext g.d1 && ext g.d2 && (g.list || (used g.d0 g.xs && used g.d1 g.ys && used g.d2 g.zs)) &&
  decide (g.present < 2 ^ n) && fld w1 15 0 == count && count != 0 && (gRankOf g s.flatId).isSome

/-- STU_COLL_GSET is written with COMMIT = 1 (R476). -/
def State.commitGroup (s : State) (g : Nat) : State :=
  if s.rfld Reg.stuCollGset 9 8 = 1 then s
  else
    let s := s.rsetFld Reg.stuCollGset 9 8 1
    let a := (s.rget Reg.stuCollGbase).toNat + 0x20000 * g
    match (if s.ownRegion a 0x20000 && addrTier a == 1 then s.localKey a 0x20000 else none) with
    | some k =>
      let s := s.meet (s.badIn k 0x11100)
      let e := s.readGroup k
      { s with groupPend := some (g, if s.groupOk k e then some e else none) }
    | none => { s with groupPend := some (g, none) }

/-- GSET_COMMIT. -/
def execGsetCommit (g : Nat) (s : State) : Host.Outcome State Fault Refusal :=
  let a := (s.rget Reg.stuCollGbase).toNat + 0x20000 * g
  gated s (match s.localKey a 0x20000 with | some k => [(k, 0x20000)] | none => []) [] (.next (s.commitGroup g))

/-- The entry becomes current; with a new GEN, the group's collectives of the older GEN end and the READY frames held for
it are stale (R511, R494). -/
def State.setGroup (s : State) (g : Nat) (e : Group) : State :=
  let s' := { s with groups := tabSet (fun _ => none) s.groups g (some e) }
  match s.group g with
  | none => s'
  | some old =>
    if old.gen = e.gen then s'
    else
      let mine (c : Coll) : Bool := dKind c.desc != kRACE && dGroup c.desc == g && dGen c.desc != e.gen
      let held := s'.readies.filter fun x => frGroup x.2 == g
      let s' := { s' with readies := s'.readies.filter fun x => frGroup x.2 != g }
      let s' := held.foldl (fun s _ => s.countStale) s'
      (s'.colls.filter mine).foldl (fun s c => s.finish c.h 4 8 0xFFFF) s'

/-- GROUP_COMMIT_DONE. -/
def execGroupCommitDone (s : State) : Host.Outcome State Fault Refusal := gatedColl s <|
  match s.groupPend with
  | none => .next s
  | some (g, e) =>
    let s := { s with groupPend := none }
    match e with
    | none => .next (s.rsetFld Reg.stuCollGset 9 8 3)
    | some e => .next (((s.setGroup g e).rsetFld Reg.stuCollGset 9 8 2).admitColls)

/-! Reservation (R495). -/

/-- RESERVE_RETRY: the reservations of a collective that have failed are tried again. -/
def execReserveRetry (h : Nat) (s : State) : Host.Outcome State Fault Refusal := gatedColl s <| .next ((s.tryRoles h).admitColls)

/-! Delivered frames (R491, R494, R503). -/

/-- A READY that waits for its launch, or for its second attempt. -/
def State.holdReady (s : State) (f : Frame) : State :=
  if s.readies.length < 256 then { s with readies := s.readies ++ [(s.clock, f)] } else s.countStale

/-- An END that ends the collective acts on a member of either attempt (R505). -/
def endsNow (f : Frame) : Bool := fType f == tyEND && !bit (fAddr f) 56

/-- The oldest delivered frame of a type acts on the collective in flight that it names. -/
def State.takeColl (s : State) (ty : Nat) (act : State → Coll → Frame → State) : State :=
  match s.takeDeliv (fun d => fType d.frame == ty) with
  | none => s
  | some (d, s) =>
    let f := d.frame
    if !s.genCurrent f then s.countStale
    else
      match s.colls.find? (fun c => names c f) with
      | none => if ty = tyREADY then s.holdReady f else s.countStale
      | some c =>
        if frAttempt f < c.attempt then s
        else if c.attempt < frAttempt f then
          if ty = tyREADY then s.holdReady f else if endsNow f then (act s c f).admitColls else s
        else (act s c f).admitColls

/-- READY (R493, R710). -/
def execReady (s : State) : Host.Outcome State Fault Refusal := gatedColl s <| .next (s.takeColl tyREADY fun s c f => s.takeReady c.h f)

/-- A failing copy is re-requested, or reported after the third (R502). -/
def State.missResult (s : State) (c : Coll) (stripe j : Nat) : State :=
  let k := ((c.misses.find? fun x => x.1 == (stripe, j)).map (·.2)).getD 0 + 1
  let c' := { c with misses := ((stripe, j), k) :: c.misses.filter fun x => x.1 != (stripe, j) }
  if 3 ≤ k then (s.setColl c').failColl c.h 3 4 0xFFFF
  else
    let s := (s.setColl { c' with retx := c.retx + 1 }).rcount Reg.stuCollStat 47 32 1
    s.sendCtl c.h stripe (ctlFrame s c tyRETX (gId c.grp (collRoot c stripe)) stripe (noWord c j) 0 0)

/-- A RESULT chunk of a sum (R499). -/
def State.sumResult (s : State) (c : Coll) (f : Frame) : State :=
  let st := frStripe f
  let j := fld (hw f 2) 31 16
  if stripeChunks c st ≤ j ∨ dS c.desc ≤ st ∨ c.passed.contains (st, j) = true then s
  else if ckBad f then s.failColl c.h 3 5 0xFFFF
  else if ckGood f && ckFmt f == 0xB && checkOf (ckElems f) == ckCheck f then (s.passResult c.h st f).push c.h st
  else if collRoot c st = c.me then s.failColl c.h 3 3 0xFFFF
  else s.missResult c st j

/-- A RESULT chunk of a sort, at the coordinator (R499, R503, R504). -/
def State.sortResult (s : State) (c : Coll) (f : Frame) : State :=
  let j := fld (hw f 2) 31 16
  let d := c.desc
  if coordinator c ≠ c.me ∨ c.passed.contains (0, j) = true then s
  else if ckBad f then s.failColl c.h 3 5 0xFFFF
  else if ckGood f && ckFmt f == 0xD && ckPayloadCheck f == ckCheck f then
    let s := match s.localKey (dDst d + ckOffset f * dReclen d) f.payload.length with
      | some k => s.mputBytes k f.payload
      | none => s
    let s := s.setColl { c with passed := (0, j) :: c.passed }
    if ckLast f then s.reportDone c.h else s
  else s.failColl c.h 3 3 0xFFFF

/-- RESULT. -/
def execResult (s : State) : Host.Outcome State Fault Refusal := gatedColl s <|
  .next (s.takeColl tyRESULT fun s c f =>
    if dSum c.desc then s.sumResult c f else if dKind c.desc = kSORT then s.sortResult c f else s)

/-- RESULT_VISIBLE: the writes of a passed chunk are visible (R499, R501). -/
def execResultVisible (h stripe j : Nat) (s : State) : Host.Outcome State Fault Refusal := gatedColl s <|
  match s.coll h with
  | none => .next s
  | some c =>
    if c.passed.contains (stripe, j) && !c.visible.contains (stripe, j) then
      .next (((s.setColl { c with visible := (stripe, j) :: c.visible }).push h stripe).admitColls)
    else .next s

/-- ACK: every chunk up to CHUNKNO is acknowledged by a child (R501). -/
def execAck (s : State) : Host.Outcome State Fault Refusal := gatedColl s <|
  .next (s.takeColl tyACK fun s c f =>
    let st := frStripe f
    match gRankOf c.grp (fSrc f) with
    | none => s
    | some r =>
      let k := 65536 * st + r
      let j := max (fld (hw f 2) 31 16 + 1) (tabGet (fun _ => 0) c.acks k)
      (s.setColl { c with acks := tabSet (fun _ => 0) c.acks k j }).push c.h st)

/-- PACE: it goes on down the fan-out tree, and the window opens (R491, R496). -/
def execPace (s : State) : Host.Outcome State Fault Refusal := gatedColl s <|
  .next (s.takeColl tyPACE fun s c f =>
    let st := frStripe f
    let j := fld (hw f 2) 31 16
    if collRoot c st = c.me ∨ j < tabGet (fun _ => 0) c.paced st then s
    else
      let s := s.setColl { c with paced := tabSet (fun _ => 0) c.paced st (j + 1) }
      let s := (fanFrames c st (ctlFrame s c tyPACE 0xFFFF st (noWord c j) 0 0)).foldl (fun s x => s.sendCtl c.h st x) s
      s.push c.h st)

/-- RETX: the root sends the chunk again from RETAIN (R502). -/
def execRetx (s : State) : Host.Outcome State Fault Refusal := gatedColl s <|
  .next (s.takeColl tyRETX fun s c f =>
    let st := frStripe f
    let j := fld (hw f 2) 31 16
    match c.kept.find? fun k => k.s == st && k.j == j with
    | some k => if collRoot c st = c.me then s.inject (stripePort st) (s.resultOf c k (fSrc f) true) else s
    | none => s)

/-- RETX_REPEAT: a chunk re-requested and still missing is asked for again (R502). -/
def execRetxRepeat (h stripe j : Nat) (s : State) : Host.Outcome State Fault Refusal := gatedColl s <|
  match s.coll h with
  | none => .next s
  | some c =>
    if (c.misses.any fun x => x.1 == (stripe, j)) && !c.passed.contains (stripe, j) then
      let s := (s.setColl { c with retx := c.retx + 1 }).rcount Reg.stuCollStat 47 32 1
      .next ((s.sendCtl h stripe (ctlFrame s c tyRETX (gId c.grp (collRoot c stripe)) stripe (noWord c j) 0 0)).admitColls)
    else .next s

/-- REPORT: DONE or FAIL, at the coordinator (R504, R509). -/
def execReport (s : State) : Host.Outcome State Fault Refusal := gatedColl s <|
  .next (s.takeColl tyREPORT fun s c f =>
    if coordinator c ≠ c.me then s
    else
      match fld (hw f 2) 58 57 with
      | 0 => match gRankOf c.grp (fSrc f) with | some r => s.noteDone c.h r | none => s
      | 1 => s.onFail c.h (frAttempt f) (fld (hw f 2) 47 40) (fld (hw f 2) 55 48) (fld (fArg f 0) 15 0)
      | _ => s)

/-- END: it goes on down the fan-out tree of stripe 0, and ends the collective or starts the second attempt (R491, R503,
R505). -/
def execCollEnd (s : State) : Host.Outcome State Fault Refusal := gatedColl s <|
  .next (s.takeColl tyEND fun s c f =>
    let code := fld (hw f 2) 47 40
    let cause := fld (hw f 2) 55 48
    let retry := fld (hw f 2) 56 56
    let lost := fld (fArg f 0) 15 0
    let out := ctlFrame s { c with attempt := frAttempt f } tyEND 0xFFFF 0 (endWord c code cause retry 0) 0 (BitVec.ofNat 64 lost)
    let s := (fanFrames c 0 out).foldl (fun s x => s.sendCtl c.h 0 x) s
    if retry = 1 then s.retryColl c.h else s.finish c.h code cause lost)

/-- The frames of an END go out again; after one that is refused none does (R413). -/
def repeatEnd (e : EndJob) : List Frame → State → State
  | [], s => s
  | f :: t, s =>
    if (s.coll e.id).isSome then
      let s := s.sendCtl e.id 0 f
      if (s.coll e.id).isSome then repeatEnd e t s else s
    else
      let (ok, s) := s.askClass0 0 e.port f
      if ok then repeatEnd e t s else { s with endJobs := s.endJobs.filter fun x => x.id != e.id }

/-- END_REPEAT: the i-th END that is still to be sent again (R509). -/
def execEndRepeat (i : Nat) (s : State) : Host.Outcome State Fault Refusal := gatedColl s <|
  match s.endJobs[i]? with
  | none => .next s
  | some e =>
    let jobs := if e.left ≤ 1 then s.endJobs.eraseIdx i else s.endJobs.set i { e with left := e.left - 1 }
    .next ((repeatEnd e e.frames { s with endJobs := jobs }).admitColls)

/-! Timers and polls (R506, R507). -/

/-- A reservation that has failed and is retried. -/
def wantsSlot (c : Coll) : Bool := c.roles.any fun r => r.slot.isNone && (r.out != .unset || r.level == 4)

/-- The cause of a timeout: NOSLOT while a reservation is retried (R495), else PROGRESS. -/
def stallCause (c : Coll) : Nat := if wantsSlot c then 1 else 2

/-- The present member whose flat ID the route table marks FENCED (R507). -/
def State.fencedMember (s : State) (c : Coll) : Option Nat :=
  ((gMembers c.grp).map (gId c.grp)).find? fun id => s.rfld (Reg.swcRoute id) 41 40 == 2

/-- COLL_PROGRESS_TIMEOUT. -/
def execCollProgressTimeout (h : Nat) (s : State) : Host.Outcome State Fault Refusal := gatedColl s <|
  match s.coll h with
  | none => .next s
  | some c => .next (if dKind c.desc = kRACE then s else (s.failColl h 1 (stallCause c) 0xFFFF).admitColls)

/-- COLL_SELF_END: at twice TIMEOUT_US without END. -/
def execCollSelfEnd (h : Nat) (s : State) : Host.Outcome State Fault Refusal := gatedColl s <|
  match s.coll h with
  | none => .next s
  | some c =>
    if dKind c.desc = kRACE then .next s
    else
      match s.fencedMember c with
      | some id => .next ((s.finish h 2 6 id).admitColls)
      | none => .next ((s.finish h 1 (stallCause c) 0xFFFF).admitColls)

/-- MEMBER_POLL. -/
def execMemberPoll (h : Nat) (s : State) : Host.Outcome State Fault Refusal := gatedColl s <|
  match s.coll h with
  | none => .next s
  | some c =>
    if dKind c.desc = kRACE then .next s
    else
      match s.fencedMember c with
      | some id => .next ((s.failColl h 2 6 id).admitColls)
      | none => .next s

/-! Races (R513). -/

/-- The winner's copy: into own memory at once, or as WR requests of at most 4,096 B; from or to a core that is lost it fails. -/
def State.raceCopy (s : State) (c : Coll) : State :=
  let d := c.desc
  let n := dNelem d
  match s.localKey (dSrc d) n with
  | none => s.finish c.h 2 10 s.flatId
  | some k =>
    let (bytes, s) := s.rdMem k n
    if addrId (dDst d) = s.flatId then
      match s.localKey (dDst d) n with
      | some k' => s.mputBytes k' bytes
      | none => s.finish c.h 2 10 s.flatId
    else
      let us := (piecesOf (n / 4096 + 2) (dDst d) n).map fun x =>
        raceReq s c.h c.flow .wr tyWR (if s.bulk n then 6 else 4) x.1 ((bytes.drop (x.1 - dDst d)).take x.2) 0 0 0
      (s.setColl { c with waiting := us.length }).raceReqs c.h us

/-- RACE_CAS_REPLY: the old value of the race word is known. -/
def execRaceCasReply (h : Nat) (s : State) : Host.Outcome State Fault Refusal := gatedColl s <|
  match s.coll h with
  | none => .next s
  | some c =>
    if dKind c.desc ≠ kRACE ∨ c.won = true ∨ c.waiting ≠ 0 then .next s
    else
      -- a race word of this module is taken here, as one indivisible step
      let (old, s) := match c.old with
        | some v => (some v, s)
        | none =>
          if addrId (dRacew c.desc) = s.flatId then
            match s.localKey (dRacew c.desc) 8 with
            | some k =>
              let s := s.meet (s.badIn k 8)
              let v := s.mword k
              (some v, s.mputWord k (atomNew 2 v (BitVec.ofNat 64 (s.flatId + 1)) 0))
            | none => (none, s)
          else (none, s)
      match old with
      | none => .next (if addrId (dRacew c.desc) = s.flatId then (s.finish h 2 10 s.flatId).admitColls else s)
      | some v =>
        if v = 0 then
          let c := { c with old := some v, won := true }
          .next (((s.setColl c).raceCopy c).admitColls)
        else .next ((s.finish h 0 0 0xFFFF).admitColls)

/-- RACE_COPY_DONE: every write of the winner's copy is visible. -/
def execRaceCopyDone (h : Nat) (s : State) : Host.Outcome State Fault Refusal := gatedColl s <|
  match s.coll h with
  | none => .next s
  | some c => if dKind c.desc = kRACE ∧ c.won = true ∧ c.waiting = 0 then .next ((s.finish h 0 0 0xFFFF).admitColls) else .next s

end Sys2Proof.Machine
end

