-- ==== Sys2Proof/Machine/MgmtOps.lean ====
section
/-! DEFINITION. Management messages (R617 to R626): which is handled, who may send it, its answer; fence commands (R585
to R588). -/

namespace Sys2Proof.Machine

/-- Jaldon runs and takes messages (R638, R644). -/
def State.mgRuns (s : State) : Bool := decide (5 ≤ s.mg.bootStep) && !s.mg.recovery && s.mg.pins.good && !s.mg.pins.modRst

/-- Interfaces in the order of R617: 0 SMBUS, 1 HOST, 2 FABRIC; a message's way in is one of them, or 3 the mailbox of
HOST. -/
def viaIface (via : Nat) : Nat := if via = 3 then 1 else via

/-- A message in hand: its way in, the session that secures it, whether that is an owner session, its bytes, and the frame
that brought it. -/
structure MgReq where
  via : Nat
  sess : Option Nat
  owner : Bool
  bytes : List Byte
  deliv : Option Delivered
  deriving DecidableEq, Repr

/-- Word i of a message, and its fields (R621). -/
def mgWord (b : List Byte) (i : Nat) : Nat := ofBytes ((b.drop (8 * i)).take 8)
def mgOp (b : List Byte) : Nat := bitsN (mgWord b 0) 7 0
def mgTag (b : List Byte) : Nat := bitsN (mgWord b 0) 15 8
def mgLen (b : List Byte) : Nat := bitsN (mgWord b 0) 24 16
def mgBody (b : List Byte) : List Byte := (b.drop 16).take (mgLen b)

def opFENCE : Nat := 0x03

/-- A header of R621 whose message is as long as it says. -/
def mgFormed (b : List Byte) : Bool :=
  let w := mgWord b 0
  decide (16 + mgLen b ≤ b.length) && decide (mgLen b ≤ 496) && bitsN w 31 25 == 0 && bitsN w 63 32 == 0 && mgWord b 1 == 0

/-- Class of an operation: 0 R, 1 O, 2 C, 3 S; none for an operation that R622 does not list. -/
def mgClass (op : Nat) : Option Nat :=
  if op = 0x01 ∨ op = 0x07 ∨ op = 0x08 ∨ op = 0x09 then some 0
  else if op = 0x05 ∨ op = 0x06 then some 1
  else if op = 0x02 ∨ op = 0x03 ∨ op = 0x04 ∨ op = 0x0B ∨ op = 0x0C ∨ op = 0x0F then some 2
  else if op = 0x0A ∨ op = 0x0D ∨ op = 0x0E then some 3
  else none

/-- Whether an interface and a session may have an operation (R625). -/
def State.mgAllowed (s : State) (iface op : Nat) (owner : Bool) : Bool :=
  let sec (i : Nat) : Bool := s.rbit Reg.fuseSec i
  match mgClass op with
  | some 2 => if iface = 1 then !sec 15 else !sec (if iface = 0 then 16 else 17) && (!sec 14 || owner)
  | some 3 => if iface = 1 then false else if iface = 0 then owner || (op == 0x0E && !sec 19) else owner && op != 0x0E
  | _ => true

/-- An established session of an interface. -/
def State.session (s : State) (iface id : Nat) : Option Session :=
  s.mg.sessions.find? fun x => x.id == id && x.iface == iface && x.est

/-- MGMT frames that wait for the management core, of a message type (R620). -/
def isMgmt (types : List Byte) (d : Delivered) : Bool :=
  fType d.frame == tyMGMT && d.port == 122 && (match d.frame.payload with | b :: _ => types.contains b | [] => false)

/-- The session that a secured frame names (log 55), and its type byte and message once opened. -/
def frameSession (d : Delivered) : Nat := ofBytes ((d.frame.payload.drop 1).take 4)
def State.openFrame (s : State) (d : Delivered) : List Byte :=
  match s.session 2 (frameSession d) with
  | some x => Config.opened x.id x.gen d.frame.payload
  | none => []

/-- A message that waits: the frame that holds it, none for the mailbox's; the session that secures it; its bytes. -/
structure Waiting where
  deliv : Option Delivered
  sess : Option Nat
  bytes : List Byte
  deriving DecidableEq, Repr

/-- The management message of a frame that waits. -/
def State.frameMsg (s : State) (d : Delivered) : Option Waiting :=
  if isMgmt [0x7F] d then some ⟨some d, none, d.frame.payload.drop 1⟩
  else if isMgmt [0x06] d && (s.openFrame d).head? == some 0x7F then some ⟨some d, some (frameSession d), (s.openFrame d).drop 1⟩
  else none

/-- The management messages that wait, in order of arrival (R626). -/
def State.waitingMsgs (s : State) : List Waiting :=
  let before := s.deliv.filter s.mg.mbxAfter.contains
  let after := s.deliv.filter fun d => !s.mg.mbxAfter.contains d
  before.filterMap s.frameMsg ++ (match s.mg.mbx with | some w => [⟨none, none, wordsBytes w⟩] | none => []) ++ after.filterMap s.frameMsg

def Waiting.isFence (w : Waiting) : Bool := mgOp w.bytes == opFENCE

/-- Whether a FENCE message waits, and the message that is handled next: the first FENCE, or the first of all (R626). -/
def State.fenceWaits (s : State) : Bool := s.waitingMsgs.any Waiting.isFence
def State.nextMsg (s : State) : Option Waiting := (s.waitingMsgs.find? Waiting.isFence).orElse fun _ => s.waitingMsgs.head?

/-- SESSION_FAIL, with the interface and the SPDM error code (R661). -/
def State.sessionFail (s : State) (iface code : Nat) : State := s.raise 0x010B sevCONTAINED [(8, iface), (8, code)]

def spdmInvalidSession : Nat := 0x02

/-- The oldest secured frame of a session that is not there. -/
def strayFrame (id : Nat) (d : Delivered) : Bool := isMgmt [0x06] d && frameSession d == id

/-- The message that a row handles, and the state that has taken it: the one that is next of those that wait in the mailbox and
in frames (R626), or, from the other ways in, msg. A frame secured by a session that is not there is taken by itself. -/
def State.mgTake (s : State) (op via : Nat) (sess : Option Nat) (msg : List Word) : Option (MgReq × State) :=
  let iface := viaIface via
  let plain := wordsBytes msg
  let x := match sess with | some id => s.session iface id | none => none
  let owner := match x with | some y => y.owner | none => false
  let mine (b : List Byte) : Bool := mgOp b == op || (mgClass (mgOp b)).isNone
  if !s.mgRuns || (op != opFENCE && s.fenceWaits) then none
  else if via = 2 ∧ sess.isSome = true ∧ x.isNone = true then
    if mine plain then (s.takeDeliv (strayFrame (sess.getD 0))).map fun y => (⟨2, sess, false, plain, some y.1⟩, y.2) else none
  else if via = 2 ∨ via = 3 then
    match s.nextMsg with
    | some w =>
      if w.deliv.isSome = decide (via = 2) ∧ w.sess = sess ∧ mine w.bytes = true then
        match w.deliv with
        | some d => (s.takeDeliv (· == d)).map fun y => (⟨2, sess, owner, w.bytes, some d⟩, y.2)
        | none => some (⟨3, none, false, w.bytes, none⟩, s)
      else none
    | none => none
  else if mine plain then some (⟨via, sess, owner, plain, none⟩, s)
  else none

/-- What AES-256-GCM makes of a message: its session's header and tag add 27 bytes (log 55). -/
def State.secure (s : State) (bs : List Byte) : List Byte × State :=
  ((upFrom 0 (bs.length + 27)).map fun i => Config.cipherByte s.freeCtr bs i, { s with freeCtr := s.freeCtr + 1 })

/-- The MGMT frame that answers the one that brought a request, to its SRC with its TAG (R620). -/
def State.mgmtReply (s : State) (d : Delivered) (bytes : List Byte) : Frame :=
  let f := d.frame
  mkFrame { dst := fSrc f, src := s.flatId, tc := replyTc (fTc f), vc := vcRSP, ty := tyMGMT, flow := fFlow f, tag := fTag f
            addr := 0, payload := bytes }

def State.mgmtFrame (s : State) (d : Delivered) (bytes : List Byte) : State := s.inject 122 (s.mgmtReply d bytes)

/-- The frame that answers a management message of a frame, in its session or not. -/
def State.mgFrame (s : State) (d : Delivered) (sess : Option Nat) (bytes : List Byte) : Frame × State :=
  match sess with
  | none => (s.mgmtReply d (0x7F :: bytes), s)
  | some _ => let (c, s) := s.secure (0x7F :: bytes); (s.mgmtReply d (0x06 :: c), s)

/-- The answer of a message (R621, R628). -/
def State.mgAnswer (s : State) (r : MgReq) (status : Nat) (body : List Byte) : State :=
  let w0 : Word := BitVec.ofNat 64 (mgOp r.bytes + (mgTag r.bytes) <<< 8 + body.length <<< 16 + status <<< 32)
  let bytes := wordsBytes [w0, 0] ++ body
  if r.via = 3 then
    let ws := bytesWords (ceilDiv bytes.length 8) bytes
    let s := (upFrom 0 (min 64 ws.length)).foldl (fun s i => s.rput (Reg.mgtMbxRsp i) (ws.getD i 0)) s
    ((s.rsetBit Reg.mgtMbxCtrl 1 false).rsetBit Reg.mgtMbxCtrl 2 true).setMg fun m => { m with mbx := none, mbxAfter := [] }
  else
    match r.deliv with
    | some d => let (f, s) := s.mgFrame d r.sess bytes; s.inject 122 f
    | none => s.emit (.mgmtRsp r.via r.sess bytes)

def mgOK : Nat := 0
def mgBAD_MSG : Nat := 1
def mgNOT_PERMITTED : Nat := 2
def mgBUSY : Nat := 3
def mgNOT_READY : Nat := 4

/-- A refused message changes nothing, is answered NOT_PERMITTED and raises MGMT_REJECTED (R625). -/
def State.mgRefuse (s : State) (r : MgReq) : State :=
  (s.raise 0x010A sevCONTAINED [(8, viaIface r.via), (8, mgOp r.bytes), (8, mgNOT_PERMITTED)]).mgAnswer r mgNOT_PERMITTED []

/-- A row's message is handled: in a session that is not there it fails; then its operation and its permission are tested, and
its form, fits being what the body must be; act says what it does. -/
def mgHandle (s : State) (op via : Nat) (sess : Option Nat) (msg : List Word) (fits : List Byte → Bool)
    (act : State → MgReq → List Byte → State) : Host.Outcome State Fault Refusal :=
  match s.mgTake op via sess msg with
  | none => .next s
  | some (r, s') =>
    let iface := viaIface via
    let known := match sess with | some id => (s.session iface id).isSome | none => true
    let b := mgBody r.bytes
    if !known then .next (s'.sessionFail iface spdmInvalidSession)
    else if mgOp r.bytes ≠ op then .next (s'.mgAnswer r mgBAD_MSG [])
    else if !s'.mgAllowed iface op r.owner then .next (s'.mgRefuse r)
    else if mgFormed r.bytes && fits b then .next (act s' r b)
    else .next (s'.mgAnswer r mgBAD_MSG [])

/-- Word i of a body. -/
def bodyWord (b : List Byte) (i : Nat) : Word := BitVec.ofNat 64 (mgWord b i)

/-! Fence commands (R585 to R588). -/

/-- A fence command's fields. -/
def fcOp (b : List Byte) : Nat := bitsN (mgWord b 0) 3 0
def fcTarget (b : List Byte) : Nat := bitsN (mgWord b 0) 31 16
def fcEpoch (b : List Byte) : Nat := bitsN (mgWord b 0) 63 32
def fcPorts (b : List Byte) : Nat := mgWord b 1 + (bitsN (mgWord b 2) 56 0) <<< 64
def fcAck (b : List Byte) : Nat := mgWord b 3
def fcIndex (b : List Byte) : Nat := bitsN (mgWord b 4) 15 0

/-- A command that R586 rejects; a reserved OP is one of its reserved fields' values (log 56). -/
def fcRejected (b : List Byte) : Bool :=
  let op := fcOp b
  !(decide (1 ≤ op) && decide (op ≤ 7)) || bitsN (mgWord b 0) 15 4 != 0 || bitsN (mgWord b 2) 63 57 != 0 || bitsN (mgWord b 4) 63 16 != 0 ||
    (upFrom 5 3).any (fun i => mgWord b i != 0) || (op != 3 && op != 4 && fcTarget b != 0) ||
    (op != 1 && op != 2 && fcPorts b != 0) || fcAck b % 64 != 0

/-- What an applied command does (R586). -/
def State.fcEffect (s : State) (b : List Byte) : State :=
  let entry := Reg.swcRoute (fcTarget b)
  match fcOp b with
  | 1 => ((upFrom 0 121).filter (fcPorts b).testBit).foldl (fun s p => s.writeFence p true) s
  | 2 => ((upFrom 0 121).filter (fcPorts b).testBit).foldl (fun s p => s.writeFence p false) s
  | 3 => (s.rsetFld entry 41 40 2).retireUnreachable
  | 4 => if s.rfld entry 41 40 = 2 then s.rsetFld entry 41 40 1 else s
  | 5 => s.rsetBit Reg.twnCfg 2 true
  | 6 => s.rsetBit Reg.twnCfg 2 false
  | 7 => s.enterTungsten 4
  | _ => s

/-- The acknowledgment (R587). -/
def State.fcAckBytes (s : State) (b : List Byte) (result : Nat) : List Byte :=
  let fenced (lo n : Nat) : Word := BitVec.ofNat 64 (((upFrom lo n).map fun p => if s.fenced p then 2 ^ (p - lo) else 0).sum)
  wordsBytes [BitVec.ofNat 64 (s.flatId + (fcIndex b) <<< 16 + (fcEpoch b) <<< 32), BitVec.ofNat 64 (fcOp b + result <<< 4),
    fenced 0 64, fenced 64 57, 0, 0, 0, 0]

/-- The acknowledgment frame, unless ACK_ADDR is 0 or not aligned; whether it was refused (R413). -/
def State.fcSend (s : State) (b : List Byte) (result : Nat) : Bool × State :=
  if fcAck b = 0 ∨ fcAck b % 64 ≠ 0 then (false, s)
  else
    let a := fcAck b + 64 * fcIndex b
    let f := mkFrame { dst := addrId a, src := s.flatId, tc := 0, vc := vcGUAR, ty := tyFLOW, flow := 0, tag := 0
                       addr := BitVec.ofNat 64 a, payload := s.fcAckBytes b result }
    let (ok, s) := s.askClass0 2 122 f
    (!ok, s)

/-- A fence command is applied or not (R586, R588), with its acknowledgment as the response carries it. -/
def State.fenceCommand (s : State) (b : List Byte) : List Byte × State :=
  let result := if fcRejected b then 1 else if fcEpoch b < s.rfld Reg.twnFence 31 0 then 2 else 0
  let s := if result = 0 then
      (((s.fcEffect b).rsetFld Reg.twnFence 31 0 (fcEpoch b)).rcount Reg.twnFence 47 32 1).raise evFENCE_APPLIED sevINFO []
    else (s.rcount Reg.twnFence 63 48 1).raise evFENCE_REJECTED sevCONTAINED []
  let (refused, s) := s.fcSend b result
  (s.fcAckBytes b (if result = 0 ∧ refused = true then 3 else result), s)

/-- A row's fence command: the message's command has the row's OP, or a reserved one. -/
def fenceRow (fop via : Nat) (sess : Option Nat) (msg : List Word) (s : State) : Host.Outcome State Fault Refusal :=
  let due := match s.mgTake opFENCE via sess msg with
    | some (r, _) => let o := fcOp (mgBody r.bytes); o == fop || o == 0 || decide (7 < o) || decide (mgLen r.bytes ≠ 64)
    | none => false
  if due then
    mgHandle s opFENCE via sess msg (fun b => b.length == 64) fun s r b =>
      let (ack, s) := s.fenceCommand b
      s.mgAnswer r mgOK ack
  else .next s

end Sys2Proof.Machine
end

