-- ==== Sys2Proof/Machine/MgmtRows.lean ====
section
/-! DEFINITION. The mailbox, the fence commands and the management messages, row by row (R586, R594, R622 to R632, R637,
R644, R646, R656). -/

namespace Sys2Proof.Machine

/-! Fence commands. -/

/-- FENCE_PORTS (R586, R587). -/
def execFencePorts (via : Nat) (sess : Option Nat) (msg : List Word) (s : State) : Host.Outcome State Fault Refusal := fenceRow 1 via sess msg s

/-- UNFENCE_PORTS. -/
def execUnfencePorts (via : Nat) (sess : Option Nat) (msg : List Word) (s : State) : Host.Outcome State Fault Refusal := fenceRow 2 via sess msg s

/-- MARK_FENCED. -/
def execMarkFenced (via : Nat) (sess : Option Nat) (msg : List Word) (s : State) : Host.Outcome State Fault Refusal := fenceRow 3 via sess msg s

/-- MARK_VALID. -/
def execMarkValid (via : Nat) (sess : Option Nat) (msg : List Word) (s : State) : Host.Outcome State Fault Refusal := fenceRow 4 via sess msg s

/-- SOLO_ON. -/
def execSoloOn (via : Nat) (sess : Option Nat) (msg : List Word) (s : State) : Host.Outcome State Fault Refusal := fenceRow 5 via sess msg s

/-- SOLO_OFF. -/
def execSoloOff (via : Nat) (sess : Option Nat) (msg : List Word) (s : State) : Host.Outcome State Fault Refusal := fenceRow 6 via sess msg s

/-- ENTER_TUNGSTEN (R594). -/
def execEnterTungsten (via : Nat) (sess : Option Nat) (msg : List Word) (s : State) : Host.Outcome State Fault Refusal := fenceRow 7 via sess msg s

/-! The mailbox. -/

/-- MAILBOX_GO: MGT_MBX_CTRL.GO is written 1 (R628). -/
def execMailboxGo (s : State) : Host.Outcome State Fault Refusal :=
  if s.rbit Reg.mgtMbxCtrl 1 then .next s
  else
    let ws := (upFrom 0 64).map fun i => s.rget (Reg.mgtMbxReq i)
    .next (((s.rsetBit Reg.mgtMbxCtrl 1 true).rsetBit Reg.mgtMbxCtrl 2 false).setMg fun m => { m with mbx := some ws, mbxAfter := s.deliv })

/-! Registers. -/

/-- READ_REG: 8 bytes, aligned, else 0 (R14, R622). -/
def execReadReg (via : Nat) (sess : Option Nat) (msg : List Word) (s : State) : Host.Outcome State Fault Refusal :=
  mgHandle s 0x01 via sess msg (fun b => b.length == 8) fun s r b =>
    let off := mgWord b 0
    s.mgAnswer r mgOK (leBytes 8 (s.windowRead off 8).toNat)

/-- WRITE_REG (R623). -/
def execWriteReg (via : Nat) (sess : Option Nat) (msg : List Word) (s : State) : Host.Outcome State Fault Refusal :=
  mgHandle s 0x02 via sess msg (fun b => b.length == 16) fun s r b =>
    let off := mgWord b 0
    if mgWritable off then (s.regWrite off (bodyWord b 1) allOnes64 true).mgAnswer r mgOK [] else s.mgRefuse r

/-! The boot profile (R646). -/

/-- n of a PROFILE_WRITE, and of a PROFILE_ROUTE. -/
def pwCount (b : List Byte) : Nat := bitsN (mgWord b 0) 6 2
def prCount (b : List Byte) : Nat := bitsN (mgWord b 0) 21 16

/-- PROFILE_WRITE. -/
def execProfileWrite (via : Nat) (sess : Option Nat) (msg : List Word) (s : State) : Host.Outcome State Fault Refusal :=
  mgHandle s 0x04 via sess msg (fun b => b.length == 8 + 16 * pwCount b && decide (pwCount b ≤ 30)) fun s r b =>
    let new := (upFrom 0 (pwCount b)).map fun i => (mgWord b (1 + 2 * i), bodyWord b (2 + 2 * i))
    let base := if bit (bodyWord b 0) 0 then some ⟨[], []⟩ else s.mg.building
    match base with
    | none => s.mgAnswer r mgBAD_MSG []
    | some p =>
      if !new.all (fun x => mgWritable x.1) then s.mgRefuse r
      else if 4096 < p.pairs.length + new.length then s.mgAnswer r mgBAD_MSG []
      else
        let p : Profile := { p with pairs := p.pairs ++ new }
        let s := s.setMg fun m => if bit (bodyWord b 0) 1 then { m.putProfile p with building := none } else { m with building := some p }
        s.mgAnswer r mgOK []

/-- PROFILE_ROUTE. -/
def execProfileRoute (via : Nat) (sess : Option Nat) (msg : List Word) (s : State) : Host.Outcome State Fault Refusal :=
  mgHandle s 0x0F via sess msg
    (fun b => b.length == 8 + 8 * prCount b && decide (1 ≤ prCount b) && decide (prCount b ≤ 61) &&
      decide (bitsN (mgWord b 0) 15 0 + prCount b ≤ 65536)) fun s r b =>
    match s.mg.building with
    | none => s.mgAnswer r mgBAD_MSG []
    | some p =>
      let routes := (upFrom 0 (prCount b)).foldl (fun t i =>
        tabSet (fun k => regReset (Reg.swcRoute k)) t (bitsN (mgWord b 0) 15 0 + i) (bodyWord b (1 + i))) p.routes
      (s.setMg fun m => { m with building := some { p with routes := routes } }).mgAnswer r mgOK []

/-! Kernels, clocks, sensors, records. -/

/-- KERNEL_COMMIT (R624): answered at once with the image that the write of COMMIT leaves. -/
def execKernelCommit (via : Nat) (sess : Option Nat) (msg : List Word) (s : State) : Host.Outcome State Fault Refusal :=
  mgHandle s 0x05 via sess msg (fun b => b.length == 8 + 4 * bitsN (mgWord b 0) 14 8) fun s r b =>
    if s.rfld Reg.stuKctrl 19 17 = 1 then s.mgAnswer r mgBUSY []
    else
      let len := bitsN (mgWord b 0) 14 8
      let s := (upFrom 0 (min 64 len)).foldl (fun s i =>
        let v := ofBytes ((b.drop (8 + 4 * i)).take 4)
        s.rsetFld (Reg.stuKstage (i / 2)) (32 * (i % 2) + 31) (32 * (i % 2)) v) s
      let s := s.writeKctrl (setBit (BitVec.ofNat 64 (bitsN (mgWord b 0) 14 0)) 16 true) true
      s.mgAnswer r mgOK (leBytes 8 (s.regRead Reg.stuKctrl).toNat)

/-- THROTTLE_CAP (R622). -/
def execThrottleCap (via : Nat) (sess : Option Nat) (msg : List Word) (s : State) : Host.Outcome State Fault Refusal :=
  mgHandle s 0x06 via sess msg (fun b => b.length == 8) fun s r b =>
    let s := s.rsetFld Reg.mgtThrottle 11 0 (bitsN (mgWord b 0) 11 0)
    s.mgAnswer r mgOK (leBytes 8 (s.rget Reg.mgtThrottle).toNat)

/-- LOG_READ (R656): the records of the range that stand in the log. -/
def execLogRead (via : Nat) (sess : Option Nat) (msg : List Word) (s : State) : Host.Outcome State Fault Refusal :=
  mgHandle s 0x07 via sess msg (fun b => b.length == 16 && decide (1 ≤ mgWord b 1) && decide (mgWord b 1 ≤ 7)) fun s r b =>
    let gone := s.mg.logGone
    let got := (upFrom (mgWord b 0) (mgWord b 1)).filterMap fun i => if i < gone then none else s.mg.log[i - gone]?
    s.mgAnswer r mgOK (leBytes 8 got.length ++ got.flatMap recordBytes)

/-- SENSOR_READ. -/
def execSensorRead (via : Nat) (sess : Option Nat) (msg : List Word) (s : State) : Host.Outcome State Fault Refusal :=
  mgHandle s 0x08 via sess msg (fun b => b.isEmpty) fun s r _ =>
    s.mgAnswer r mgOK (wordsBytes [s.rget Reg.mgtSensIn, s.rget (Reg.mgtSensH 0), s.rget (Reg.mgtSensH 1)] ++
      (upFrom 0 32).map fun k => BitVec.ofNat 8 (s.rfld (Reg.memStackStatus k) 7 0))

/-- The 32 bytes of a repair record (R647). -/
def repairBytes (x : RepairRec) : List Byte :=
  let b := wordsBytes [BitVec.ofNat 64 (x.kind + (x.old % 65536) <<< 16 + (x.new % 65536) <<< 32 + (x.logical % 65536) <<< 48), x.loc, x.step] ++
    leBytes 4 x.boots
  b ++ leBytes 4 (crc32c b).toNat

/-- REPAIR_READ. -/
def execRepairRead (via : Nat) (sess : Option Nat) (msg : List Word) (s : State) : Host.Outcome State Fault Refusal :=
  mgHandle s 0x09 via sess msg (fun b => b.length == 16 && decide (1 ≤ mgWord b 1) && decide (mgWord b 1 ≤ 15)) fun s r b =>
    let got := (s.recs.drop (mgWord b 0)).take (mgWord b 1)
    s.mgAnswer r mgOK (leBytes 8 got.length ++ got.flatMap repairBytes)

/-! Unlock, reset, fuses. -/

/-- UNLOCK_AUTH (R632). -/
def execUnlockAuth (via : Nat) (sess : Option Nat) (msg : List Word) (s : State) : Host.Outcome State Fault Refusal :=
  mgHandle s 0x0A via sess msg (fun b => b.isEmpty) fun s r _ =>
    if s.rfld Reg.hifSetupUnlock 2 1 = 1 then
      let s := s.unlock 1
      s.mgAnswer r mgOK (leBytes 8 (s.rget Reg.hifSetupUnlock).toNat)
    else s.mgAnswer r mgNOT_READY []

/-- MODULE_RESET (R620, R622, R644): the answer leaves before the reset takes effect. fails and bad are what the boot finds. -/
def execModuleReset (via : Nat) (sess : Option Nat) (msg : List Word) (fails bad : List Nat) (s : State) : Host.Outcome State Fault Refusal :=
  mgHandle s 0x0B via sess msg (fun b => b.isEmpty) fun s r _ =>
    let old := s.modState
    let bytes := wordsBytes [BitVec.ofNat 64 (mgOp r.bytes + (mgTag r.bytes) <<< 8), 0]
    let s := if r.via = 3 then s
      else match r.deliv with
        | some d => let (f, s) := s.mgFrame d r.sess bytes; s.emit (.mgmtFrame f)
        | none => s.emit (.mgmtRsp r.via r.sess bytes)
    s.moduleReset old fails bad

/-- FUSE_SEC, as an answer's body. -/
def State.fuseImage (s : State) : List Byte := leBytes 8 (s.rget Reg.fuseSec).toNat

/-- FW_COMMIT_SVN (R637). -/
def execFwCommitSvn (via : Nat) (sess : Option Nat) (msg : List Word) (s : State) : Host.Outcome State Fault Refusal :=
  mgHandle s 0x0C via sess msg (fun b => b.isEmpty) fun s r _ =>
    let old := s.rfld Reg.fuseSec 6 0
    let new := slotSvn (s.mg.slot s.mg.running)
    let s := if old < new ∧ s.mg.dirNow.2.trial = 0 then
        (s.rsetFld Reg.fuseSec 6 0 new).raise 0x0106 sevINFO [(8, old), (8, new)]
      else s
    s.mgAnswer r mgOK s.fuseImage

/-- Bits of FUSE_SEC are blown (R630, R665). -/
def State.blow (s : State) (bits_ : Nat) : State :=
  let new := bits_ &&& ((2 ^ 64 - 1) ^^^ (s.rget Reg.fuseSec).toNat)
  if new = 0 then s
  else (s.rput Reg.fuseSec (s.rget Reg.fuseSec ||| BitVec.ofNat 64 new)).raise 0x010E sevINFO [(32, Reg.fuseSec), (32, new)]

/-- FUSE_BLOW_MAP (R630). -/
def execFuseBlowMap (via : Nat) (sess : Option Nat) (msg : List Word) (s : State) : Host.Outcome State Fault Refusal :=
  mgHandle s 0x0D via sess msg (fun b => b.length == 8) fun s r b =>
    if s.rbit Reg.fuseSec 18 then s.mgRefuse r
    else
      let s := s.blow (mgWord b 0 &&& 0x7F000)
      s.mgAnswer r mgOK s.fuseImage

/-- FUSE_BLOW_OWNER (R631): refused a second time, and once MAP_SEALED forbids OWNER_SET (R629). -/
def execFuseBlowOwner (via : Nat) (sess : Option Nat) (msg : List Word) (s : State) : Host.Outcome State Fault Refusal :=
  mgHandle s 0x0E via sess msg (fun b => b.length == 48) fun s r b =>
    if s.rbit Reg.fuseSec 18 || s.rbit Reg.fuseSec 19 then s.mgRefuse r
    else
      let s := (upFrom 0 6).foldl (fun s i => s.rput (Reg.fuseOwnerHash i) (bodyWord b i)) s
      let s := s.blow 0x80000
      s.mgAnswer r mgOK s.fuseImage

end Sys2Proof.Machine
end

