-- ==== Sys2Proof/Machine/SpdmRows.lean ====
section
/-! DEFINITION. MCTP control, SPDM and IDE_KM (R618, R659 to R664). What DSP0236 and DSP0274 lay down of messages is
PRESUMED (log 57). -/

namespace Sys2Proof.Machine

/-! MCTP control (R618). Bindings: 0 SMBUS, 1 HOST. -/

/-- The endpoint answers on a binding; in recovery, on SMBUS alone (R638). -/
def State.mctpRuns (s : State) (b : Nat) : Bool := s.mgRuns || (s.mg.recovery && s.mg.pins.good && !s.mg.pins.modRst && b == 0)

/-- n free bytes (log 5). -/
def State.drawBytes (s : State) (n : Nat) : List Byte × State :=
  ((upFrom 0 n).map fun i => BitVec.ofNat 8 (fld (Config.freeWord (s.freeCtr + i / 8)) (8 * (i % 8) + 7) (8 * (i % 8))),
   { s with freeCtr := s.freeCtr + ceilDiv n 8 })

/-- SET_ENDPOINT_ID: the bus owner assigns an endpoint ID; 0 and 0xFF are none. -/
def execSetEndpointId (b eid : Nat) (s : State) : Host.Outcome State Fault Refusal :=
  if !s.mctpRuns b then .next s
  else if eid = 0 ∨ eid = 0xFF then .next (s.emit (.mctpRsp b 0x01 [2]))
  else .next ((s.setMg fun m => { m with eids := tabSet (fun _ => 0) m.eids b eid }).emit (.mctpRsp b 0x01 [0, 0, BitVec.ofNat 8 eid, 0]))

/-- GET_ENDPOINT_ID. -/
def execGetEndpointId (b : Nat) (s : State) : Host.Outcome State Fault Refusal :=
  if !s.mctpRuns b then .next s
  else .next (s.emit (.mctpRsp b 0x02 [0, BitVec.ofNat 8 (tabGet (fun _ => 0) s.mg.eids b), 0, 0]))

/-- Message types of a binding (R617). -/
def State.mctpTypes (s : State) (b : Nat) : List Byte :=
  if s.mg.recovery then [0x00, 0x01] else if b = 0 then [0x00, 0x01, 0x05, 0x06, 0x7F] else [0x00, 0x05, 0x06, 0x7F]

/-- GET_MCTP_VERSION_SUPPORT: one version of a supported type, whose four bytes the spec does not give. -/
def execGetMctpVersionSupport (b ty : Nat) (s : State) : Host.Outcome State Fault Refusal :=
  if !s.mctpRuns b then .next s
  else if ty = 0xFF ∨ (s.mctpTypes b).contains (BitVec.ofNat 8 ty) = true then
    let (v, s) := s.drawBytes 4
    .next (s.emit (.mctpRsp b 0x04 ([0, 1] ++ v)))
  else .next (s.emit (.mctpRsp b 0x04 [0x80]))

/-- GET_MESSAGE_TYPE_SUPPORT. -/
def execGetMessageTypeSupport (b : Nat) (s : State) : Host.Outcome State Fault Refusal :=
  if !s.mctpRuns b then .next s
  else
    let t := s.mctpTypes b
    .next (s.emit (.mctpRsp b 0x05 ([0, BitVec.ofNat 8 t.length] ++ t)))

/-- GET_VENDOR_DEFINED_MESSAGE_SUPPORT: one set, of Lumfen's enterprise number (R617, R629). -/
def execGetVendorDefinedMessageSupport (b sel : Nat) (s : State) : Host.Outcome State Fault Refusal :=
  if !s.mctpRuns b then .next s
  else if sel = 0 then
    let (v, s) := s.drawBytes 2
    .next (s.emit (.mctpRsp b 0x06 ([0, 0xFF, 1] ++ (leBytes 4 (s.rfld Reg.fuseSec 63 32)).reverse ++ v)))
  else .next (s.emit (.mctpRsp b 0x06 [2]))

/-! SPDM (R659 to R664). -/

def spdmInvalidRequest : Nat := 0x01
def spdmBusy : Nat := 0x03
def spdmUnexpectedRequest : Nat := 0x04
def spdmDecryptError : Nat := 0x06
def spdmUnsupportedRequest : Nat := 0x07
def spdmSessionLimitExceeded : Nat := 0x0A

/-- An SPDM 1.3 message. -/
def spdmMsg (code p1 p2 : Nat) (body : List Byte) : List Byte := [0x13, BitVec.ofNat 8 code, BitVec.ofNat 8 p1, BitVec.ofNat 8 p2] ++ body

/-- How far the connection of an interface has come: 1 version, 2 capabilities, 3 algorithms. -/
def State.spdmAt (s : State) (iface : Nat) : Nat := tabGet (fun _ => 0) s.mg.spdm iface
def State.setSpdm (s : State) (iface k : Nat) : State := s.setMg fun m => { m with spdm := tabSet (fun _ => 0) m.spdm iface k }

/-- The request of a row: on FABRIC the oldest frame that carries it. -/
def State.spdmTake (s : State) (iface code : Nat) (sess : Option Nat) : Option (Option Delivered × State) :=
  if !s.mgRuns then none
  else if iface = 2 then
    let fits (d : Delivered) : Bool :=
      match sess with
      | some id => strayFrame id d && (s.frameMsg d).isNone
      | none => isMgmt [0x05] d && (d.frame.payload.getD 2 0).toNat == code
    (s.takeDeliv fits).map fun x => (some x.1, x.2)
  else some (none, s)

/-- A response goes back the way its request came. -/
def State.spdmAnswer (s : State) (iface : Nat) (sess : Option Nat) (d : Option Delivered) (bytes : List Byte) : State :=
  match d, sess with
  | some d, none => s.mgmtFrame d (0x05 :: bytes)
  | some d, some _ => let (c, s) := s.secure (0x05 :: bytes); s.mgmtFrame d (0x06 :: c)
  | none, _ => s.emit (.spdmRsp iface sess bytes)

def State.spdmError (s : State) (iface : Nat) (sess : Option Nat) (d : Option Delivered) (e : Nat) : State :=
  s.spdmAnswer iface sess d (spdmMsg 0x7F e 0 [])

/-- A row's request is handled: out of order it is unexpected, and in a session that is not there it fails. -/
def spdmHandle (s : State) (iface code : Nat) (sess : Option Nat) (need : Nat) (act : State → Option Delivered → State) :
    Host.Outcome State Fault Refusal :=
  match s.spdmTake iface code sess with
  | none => .next s
  | some (d, s) =>
    let known := match sess with | some id => (s.session iface id).isSome | none => true
    if !known then .next ((s.sessionFail iface spdmInvalidSession).spdmError iface none d spdmInvalidSession)
    else if s.spdmAt iface < need then .next (s.spdmError iface sess d spdmUnexpectedRequest)
    else .next (act s d)

/-- GET_VERSION: SPDM 1.3, and the connection starts anew. -/
def execGetVersion (i : Nat) (s : State) : Host.Outcome State Fault Refusal :=
  spdmHandle s i 0x84 none 0 fun s d => (s.setSpdm i 1).spdmAnswer i none d ([0x10, 0x04, 0, 0] ++ [0, 1, 0x00, 0x13])

/-- Capabilities: certificate, challenge, signed measurements, encryption, authentication, mutual authentication, key exchange,
heartbeat and key update. -/
def spdmCaps : Nat := 0x02 + 0x04 + 0x10 + 0x40 + 0x80 + 0x100 + 0x200 + 0x2000 + 0x4000

/-- GET_CAPABILITIES; its timing exponent and sizes the spec does not give. -/
def execGetCapabilities (i : Nat) (s : State) : Host.Outcome State Fault Refusal :=
  spdmHandle s i 0xE1 none 1 fun s d =>
    let (v, s) := s.drawBytes 9
    (s.setSpdm i 2).spdmAnswer i none d (spdmMsg 0x61 0 0 ([0] ++ v.take 1 ++ [0, 0] ++ leBytes 4 spdmCaps ++ v.drop 1))

/-- NEGOTIATE_ALGORITHMS: ECDSA P-384, SHA-384, secp384r1 and AES-256-GCM, when the requester offers them. -/
def execNegotiateAlgorithms (i : Nat) (offered : Bool) (s : State) : Host.Outcome State Fault Refusal :=
  spdmHandle s i 0xE3 none 2 fun s d =>
    if offered then (s.setSpdm i 3).spdmAnswer i none d (spdmMsg 0x63 0 0 (leBytes 4 0x80 ++ leBytes 4 0x02 ++ leBytes 2 0x10 ++ leBytes 2 0x02))
    else s.spdmError i none d spdmInvalidRequest

/-- GET_DIGESTS: the digest of the chain of slot 0 (R660). -/
def execGetDigests (i : Nat) (sess : Option Nat) (s : State) : Host.Outcome State Fault Refusal :=
  spdmHandle s i 0x81 sess 3 fun s d => s.spdmAnswer i sess d (spdmMsg 0x01 0 1 (shaBytes Config.certChain))

/-- GET_CERTIFICATE: a portion of the chain of slot 0, the one that the device holds. -/
def execGetCertificate (i : Nat) (sess : Option Nat) (slot off len : Nat) (s : State) : Host.Outcome State Fault Refusal :=
  spdmHandle s i 0x82 sess 3 fun s d =>
    if slot ≠ 0 then s.spdmError i sess d spdmInvalidRequest
    else
      let part := (Config.certChain.drop off).take len
      let rest := Config.certChain.length - off - part.length
      s.spdmAnswer i sess d (spdmMsg 0x02 0 0 (leBytes 2 part.length ++ leBytes 2 rest ++ part))

/-- CHALLENGE: signed with the device key over the exchange. -/
def execChallenge (i slot : Nat) (nonce : List Byte) (s : State) : Host.Outcome State Fault Refusal :=
  spdmHandle s i 0x83 none 3 fun s d =>
    if slot ≠ 0 then s.spdmError i none d spdmInvalidRequest
    else
      let (mine, s) := s.drawBytes 32
      let body := spdmMsg 0x03 0 1 (shaBytes Config.certChain ++ mine ++ leBytes 2 0)
      s.spdmAnswer i none d (body ++ Config.deviceSign (nonce ++ body))

/-! Measurements (R663, R664). -/

def dirBytes (d : Dir) : List Byte := [BitVec.ofNat 8 d.good.toNat] ++ leBytes 8 d.count ++ [BitVec.ofNat 8 d.active, BitVec.ofNat 8 d.trial, BitVec.ofNat 8 d.tries]
def pairBytes (l : List (Nat × Word)) : List Byte := l.flatMap fun x => leBytes 8 x.1 ++ leBytes 8 x.2.toNat

/-- What a block's digest is over, registers being listed where they differ from reset. -/
def State.measured (s : State) (k : Nat) : List Byte :=
  let slot := s.mg.slot s.mg.running
  match k with
  | 1 => Config.romBytes
  | 2 => match slot with | .shipped => Config.shipBytes | .image h b => h.getD [] ++ b | .erased => []
  | 3 => leBytes 4 (slotVersion slot) ++ leBytes 4 (slotSvn slot) ++ dirBytes s.mg.dirNow.2
  | 4 => pairBytes (s.regs.filter fun x => decide (0x800000 ≤ x.1))
  | 5 => match s.mg.inForce with
    | some p => leBytes 8 p.pairs.length ++ pairBytes p.pairs ++ pairBytes p.routes
    | none => []
  | 6 => s.mg.replayed.flatMap fun x => leBytes 8 x.kind ++ leBytes 8 x.old ++ leBytes 8 x.new ++ leBytes 8 x.logical ++ leBytes 8 x.loc.toNat ++
      leBytes 8 x.step.toNat ++ leBytes 8 x.boots
  | 7 => [BitVec.ofNat 8 s.mg.block7.1.toNat] ++ pairBytes s.mg.block7.2
  | 8 => pairBytes (s.regs.filter fun x => (decide (0x400008 ≤ x.1) && decide (x.1 < 0x400028)) || (decide (0x410000 ≤ x.1) && decide (x.1 < 0x420000)))
  | _ => pairBytes (s.rwlFields true)

/-- DMTF type of a block. -/
def measureType (k : Nat) : Nat := if k = 1 then 0 else if k = 2 then 1 else if k = 4 ∨ k = 6 then 2 else 3

def State.measureBlock (s : State) (k : Nat) : List Byte :=
  [BitVec.ofNat 8 k, 1] ++ leBytes 2 51 ++ [BitVec.ofNat 8 (measureType k)] ++ leBytes 2 48 ++ shaBytes (s.measured k)

/-- GET_MEASUREMENTS: op 0 asks for their number, 1 to 9 for one, 0xFF for all; restarts is how often a change of block 9 had the
digest formed again. -/
def execGetMeasurements (i : Nat) (sess : Option Nat) (op : Nat) (sign : Bool) (nonce : List Byte) (restarts : Nat) (s : State) :
    Host.Outcome State Fault Refusal :=
  spdmHandle s i 0xE0 sess 3 fun s d =>
    let ks := if op = 0xFF then upFrom 1 9 else if 1 ≤ op ∧ op ≤ 9 then [op] else []
    if op ≠ 0 ∧ ks.isEmpty then s.spdmError i sess d spdmInvalidRequest
    else if 8 < restarts ∧ ks.contains 9 = true then s.spdmError i sess d spdmBusy
    else
      let rec_ := ks.flatMap s.measureBlock
      let (mine, s) := s.drawBytes 32
      let m := spdmMsg 0x60 (if op = 0 then 9 else 0) 0 ([BitVec.ofNat 8 ks.length] ++ leBytes 3 rec_.length ++ rec_ ++ mine ++ leBytes 2 0)
      s.spdmAnswer i sess d (if sign then m ++ Config.deviceSign (nonce ++ m) else m)

/-! Sessions (R661). -/

def State.setSessions (s : State) (f : List Session → List Session) : State := s.setMg fun m => { m with sessions := f m.sessions }

/-- KEY_EXCHANGE: a session opens, of four at most; ok: the request is a good one. -/
def execKeyExchange (i : Nat) (mut_ ok : Bool) (s : State) : Host.Outcome State Fault Refusal :=
  spdmHandle s i 0xE4 none 3 fun s d =>
    if !ok then (s.sessionFail i spdmInvalidRequest).spdmError i none d spdmInvalidRequest
    else if 4 ≤ s.mg.sessions.length then s.spdmError i none d spdmSessionLimitExceeded
    else
      let id := s.mg.nextSession
      let (mine, s) := s.drawBytes 128
      let m := spdmMsg 0x64 0 0 (leBytes 2 id ++ [BitVec.ofNat 8 mut_.toNat, 0] ++ mine)
      let s := s.setMg fun g => { g with sessions := g.sessions ++ [⟨id, i, mut_, false, false, 0⟩], nextSession := id + 1 }
      s.spdmAnswer i none d (m ++ Config.deviceSign m)

/-- The SHA-384 hash of a root certificate is the one in FUSE_OWNER_HASH (R625). -/
def State.ownerRoot (s : State) (root : List Byte) : Bool :=
  s.rbit Reg.fuseSec 19 && shaBytes root == (upFrom 0 6).flatMap fun i => leBytes 8 (s.rget (Reg.fuseOwnerHash i)).toNat

/-- A session that waits for FINISH. -/
def State.openSession (s : State) (iface id : Nat) : Option Session :=
  s.mg.sessions.find? fun x => x.id == id && x.iface == iface && !x.est

/-- FINISH: ok, the requester's signature, when asked for, and its check hold; root is its chain's root certificate. -/
def execFinish (i id : Nat) (root : List Byte) (ok : Bool) (s : State) : Host.Outcome State Fault Refusal :=
  match s.spdmTake i 0xE5 (some id) with
  | none => .next s
  | some (d, s) =>
    match s.openSession i id with
    | none => .next ((s.sessionFail i spdmInvalidSession).spdmError i none d spdmInvalidSession)
    | some x =>
      if ok then
        let own := x.mutAuth && s.ownerRoot root
        let s := s.setSessions fun l => l.map fun y => if y.id = id then { y with est := true, owner := own } else y
        .next (s.spdmAnswer i (some id) d (spdmMsg 0x65 0 0 []))
      else
        let s := s.setSessions fun l => l.filter fun y => y.id != id
        .next ((s.sessionFail i spdmDecryptError).spdmError i none d spdmDecryptError)

/-- A request in a session; ok: it decrypts. -/
def sessionRow (s : State) (i id code : Nat) (ok : Bool) (act : State → State) : Host.Outcome State Fault Refusal :=
  spdmHandle s i code (some id) 0 fun s d =>
    if ok then (act s).spdmAnswer i (some id) d (spdmMsg (code - 0x80) 0 0 [])
    else (s.sessionFail i spdmDecryptError).spdmError i none d spdmDecryptError

/-- HEARTBEAT. -/
def execHeartbeat (i id : Nat) (ok : Bool) (s : State) : Host.Outcome State Fault Refusal := sessionRow s i id 0xE8 ok fun s => s

/-- KEY_UPDATE: the session's keys are the next ones. -/
def execKeyUpdate (i id : Nat) (ok : Bool) (s : State) : Host.Outcome State Fault Refusal :=
  sessionRow s i id 0xE9 ok fun s => s.setSessions fun l => l.map fun y => if y.id = id then { y with gen := y.gen + 1 } else y

/-- END_SESSION. -/
def execEndSession (i id : Nat) (ok : Bool) (s : State) : Host.Outcome State Fault Refusal :=
  sessionRow s i id 0xEC ok fun s => s.setSessions fun l => l.filter fun y => y.id != id

/-! IDE_KM (R662). -/

/-- An IDE_KM response. -/
def ideMsg (obj : Nat) (body : List Byte) : List Byte := spdmMsg 0x7E 0 0 ([0x01, BitVec.ofNat 8 obj] ++ body)

/-- VENDOR_DEFINED_REQUEST: an IDE_KM message, only in a session on HOST: QUERY 0, KEY_PROG 2, K_SET_STOP 5, GETKEY 7; any other
vendor's request, or object, is not supported. -/
def execVendorDefinedRequest (i : Nat) (sess : Option Nat) (obj : Nat) (data : List Byte) (s : State) : Host.Outcome State Fault Refusal :=
  spdmHandle s i 0xFE sess 0 fun s d =>
    if i ≠ 1 ∨ sess = none then s.spdmError i sess d spdmUnsupportedRequest
    else if obj = 0 then
      let (v, s) := s.drawBytes 8
      s.spdmAnswer i sess d (ideMsg 1 v)
    else if obj = 2 then (s.setMg fun m => { m with ideNext := m.ideNext ++ data }).spdmAnswer i sess d (ideMsg 3 [0])
    else if obj = 5 then (s.setMg fun m => { m with ideNext := [], ideLive := [] }).spdmAnswer i sess d (ideMsg 6 [0])
    else if obj = 7 then
      let (v, s) := s.drawBytes 44
      s.spdmAnswer i sess d (ideMsg 8 v)
    else s.spdmError i sess d spdmUnsupportedRequest

/-- K_SET_GO: the keys programmed take effect. -/
def execKSetGo (i : Nat) (sess : Option Nat) (s : State) : Host.Outcome State Fault Refusal :=
  spdmHandle s i 0xFE sess 0 fun s d =>
    if i ≠ 1 ∨ sess = none then s.spdmError i sess d spdmUnsupportedRequest
    else (s.setMg fun m => { m with ideLive := m.ideNext }).spdmAnswer i sess d (ideMsg 6 [0])

end Sys2Proof.Machine
end

