-- ==== Sys2Proof/Machine/PldmRows.lean ====
section
/-! DEFINITION. PLDM for Firmware Update (R640 to R642). What DSP0267 lays down of messages is PRESUMED (log 57). -/

namespace Sys2Proof.Machine

def State.setPldm (s : State) (f : Pldm → Pldm) : State := s.setMg fun m => { m with pldm := f m.pldm }

/-- The slot that an update writes (R641). -/
def State.updSlot (s : State) : Nat := 1 - s.mg.dirNow.2.active

/-- FW_UPDATE: 0 start, 1 verified, 2 activated, 3 cancelled. -/
def State.raiseUpdate (s : State) (phase : Nat) : State := s.raise 0x0105 sevINFO [(8, phase), (8, s.updSlot)]

/-- A command of the update, taken on SMBUS; others than st wait for another state, and are answered so. -/
def pldmRow (s : State) (cmd : Nat) (st : List Nat) (act : State → State) : Host.Outcome State Fault Refusal :=
  if !s.mctpRuns 0 then .next s
  else if st.contains s.mg.pldm.st then .next (act s)
  else .next (s.emit (.pldmMsg cmd (if s.mg.pldm.st = 0 then 0x80 else 0x84) []))

/-- The header and body of the image that has come. -/
def Pldm.hdr (p : Pldm) : List Byte := p.data.take 512
def Pldm.body (p : Pldm) : List Byte := p.data.drop 512

/-- QUERY_DEVICE_IDENTIFIERS: one descriptor, the enterprise number. -/
def execQueryDeviceIdentifiers (s : State) : Host.Outcome State Fault Refusal :=
  if !s.mctpRuns 0 then .next s
  else .next (s.emit (.pldmMsg 0x01 0 (leBytes 4 8 ++ [1] ++ leBytes 2 1 ++ leBytes 2 4 ++ leBytes 4 (s.rfld Reg.fuseSec 63 32))))

/-- GET_FIRMWARE_PARAMETERS: one component, classification Firmware, identifier 1, with the running VERSION. -/
def execGetFirmwareParameters (s : State) : Host.Outcome State Fault Refusal :=
  if !s.mctpRuns 0 then .next s
  else .next (s.emit (.pldmMsg 0x02 0 (leBytes 2 1 ++ leBytes 2 0x000A ++ leBytes 2 1 ++ leBytes 4 (slotVersion (s.mg.slot s.mg.running)))))

/-- REQUEST_UPDATE (R642). -/
def execRequestUpdate (s : State) : Host.Outcome State Fault Refusal :=
  if !s.mctpRuns 0 then .next s
  else if s.mg.pldm.st ≠ 0 then .next (s.emit (.pldmMsg 0x10 0x81 []))
  else if s.mg.pldm.activated then .next (s.emit (.pldmMsg 0x10 0x8A []))
  else .next ((s.setPldm fun p => { p with st := 1, len := 0, data := [] }).emit (.pldmMsg 0x10 0 []))

/-- PASS_COMPONENT_TABLE: the module has the one component. -/
def execPassComponentTable (id : Nat) (s : State) : Host.Outcome State Fault Refusal :=
  pldmRow s 0x13 [1] fun s =>
    if id = 1 then (s.setPldm fun p => { p with st := 2 }).emit (.pldmMsg 0x13 0 [0]) else s.emit (.pldmMsg 0x13 0 [1])

/-- UPDATE_COMPONENT: the header of the slot that is not ACTIVE is erased first (R641). -/
def execUpdateComponent (id size : Nat) (s : State) : Host.Outcome State Fault Refusal :=
  pldmRow s 0x14 [2] fun s =>
    if id = 1 ∧ 512 ≤ size ∧ size ≤ (flashRegion (1 + s.updSlot)).2 then
      let s := (s.setMg fun m => m.setSlot (1 - m.dirNow.2.active) (.image none [])).raiseUpdate 0
      (s.setPldm fun p => { p with st := 3, len := size, data := [] }).emit (.pldmMsg 0x14 0 [0])
    else s.emit (.pldmMsg 0x14 0 [1])

/-- REQUEST_FIRMWARE_DATA: the device asks for the next bytes, and writes those that come to the slot, all but the header. -/
def execRequestFirmwareData (data : List Byte) (s : State) : Host.Outcome State Fault Refusal :=
  if !s.mctpRuns 0 || s.mg.pldm.st != 3 || s.mg.pldm.data.length == s.mg.pldm.len then .next s
  else
    let p := s.mg.pldm
    let got := p.data ++ data.take (p.len - p.data.length)
    let s := s.emit (.pldmMsg 0x15 0 (leBytes 4 p.data.length ++ leBytes 4 data.length))
    let s := s.setPldm fun p => { p with data := got }
    .next (s.setMg fun m => m.setSlot (1 - m.dirNow.2.active) (.image none (got.drop 512)))

/-- TRANSFER_COMPLETE: the device says that the whole image has come. -/
def execTransferComplete (s : State) : Host.Outcome State Fault Refusal :=
  if !s.mctpRuns 0 || s.mg.pldm.st != 3 || s.mg.pldm.data.length != s.mg.pldm.len then .next s
  else .next ((s.setPldm fun p => { p with st := 4 }).emit (.pldmMsg 0x16 0 [0]))

/-- VERIFY_COMPLETE: the checks of R636 on what was written. -/
def execVerifyComplete (s : State) : Host.Outcome State Fault Refusal :=
  if !s.mctpRuns 0 || s.mg.pldm.st != 4 then .next s
  else if (s.slotFault (.image (some s.mg.pldm.hdr) s.mg.pldm.body)).isNone then
    .next (((s.setPldm fun p => { p with st := 5 }).raiseUpdate 1).emit (.pldmMsg 0x17 0 [0]))
  else .next ((s.setPldm fun p => { p with st := 2 }).emit (.pldmMsg 0x17 0 [1]))

/-- APPLY_COMPLETE: the header is written last (R641). -/
def execApplyComplete (s : State) : Host.Outcome State Fault Refusal :=
  if !s.mctpRuns 0 || s.mg.pldm.st != 5 then .next s
  else
    let p := s.mg.pldm
    let s := s.setMg fun m => m.setSlot (1 - m.dirNow.2.active) (.image (some p.hdr) p.body)
    .next ((s.setPldm fun p => { p with st := 6 }).emit (.pldmMsg 0x18 0 [0]))

/-- ACTIVATE_FIRMWARE: the directory names the new slot, on trial, from the next module reset (R641). -/
def execActivateFirmware (s : State) : Host.Outcome State Fault Refusal :=
  if !s.mctpRuns 0 then .next s
  else if s.mg.pldm.st = 6 then
    let s := (s.raiseUpdate 2).setMg fun m => m.putDir (1 - m.dirNow.2.active) 1 0
    .next ((s.setPldm fun _ => ⟨0, 0, [], true⟩).emit (.pldmMsg 0x1A 0 []))
  else .next (s.emit (.pldmMsg 0x1A (if s.mg.pldm.st = 0 then 0x80 else 0x85) []))

/-- GET_STATUS. -/
def execGetStatus (s : State) : Host.Outcome State Fault Refusal :=
  if !s.mctpRuns 0 then .next s
  else
    -- DSP0267's states: idle, learn components, ready, download, verify, apply; applied, the device is ready again
    .next (s.emit (.pldmMsg 0x1B 0 [BitVec.ofNat 8 (if s.mg.pldm.st = 6 then 2 else s.mg.pldm.st)]))

/-- CANCEL_UPDATE_COMPONENT. -/
def execCancelUpdateComponent (s : State) : Host.Outcome State Fault Refusal :=
  pldmRow s 0x1C [3, 4, 5] fun s => (s.setPldm fun p => { p with st := 2, len := 0, data := [] }).emit (.pldmMsg 0x1C 0 [])

/-- CANCEL_UPDATE (R641). -/
def execCancelUpdate (s : State) : Host.Outcome State Fault Refusal :=
  pldmRow s 0x1D [1, 2, 3, 4, 5, 6] fun s =>
    ((s.raiseUpdate 3).setPldm fun p => { p with st := 0, len := 0, data := [] }).emit (.pldmMsg 0x1D 0 [0])

end Sys2Proof.Machine
end

