-- ==== Sys2Proof/Machine/Vec.lean ====
section
/-! DEFINITION. The VEC commands other than VEC.UPD (R118 to R125, R704). -/

namespace Sys2Proof.Machine

/-- Latencies of a VEC command (R128): O, WS and WV; RD is O. -/
inductive VecKind
  | simple | trans | row
  deriving DecidableEq, Repr

def vecTimes (k : VecKind) (d0 d1 : Nat) : Nat × Nat × Nat :=
  match k with
  | .simple => let o := 8 + ceilDiv (d0 * d1) 256; (o, 12, o + 12)
  | .trans => let o := 8 + 4 * ceilDiv (d0 * d1) 256; (o, 24, o + 20)
  | .row => let o := 8 + ceilDiv d0 256 * d1; (o, 16, o + 16)

/-- The halt conditions of a VEC command with sources srcs (2 A, 3 B, 1 D itself), destination formats dOk and dCols
columns of D (R155, R119, R120, R704). Scale bytes are looked at where nothing else is wrong (DESIGN CHOICE, log 105). -/
def vecFaults (s : State) (n : Nat) (w : Cmd) (offs : List Int) (srcs : List Nat) (dOk : Fmt → Bool) (dCols : Nat) :
    List (Nat × Nat) :=
  let c := s.core n
  let d0 := cDim0 w
  let d1 := cDim1 w
  let gA := resolve s c n w offs 2 d0 d1
  let gB := resolve s c n w offs 3 d0 d1
  let gD := resolve s c n w offs 1 d0 dCols
  let useB := srcs.contains 3
  let static :=
    (if d0 = 0 ∨ d1 = 0 then [(0x02, 0x00)] else []) ++
    fmtBad dOk w 1 ++ fmtBad isTyped w 2 ++ (if useB then fmtBad isTyped w 3 else []) ++
    fabricBad w 1 ++ fabricBad w 2 ++ (if useB then fabricBad w 3 else []) ++
    fixedBad w ++ gD.faults ++ gA.faults ++ (if useB then gB.faults else [])
  if static ≠ [] then static
  else (if badScale s.view gA then [(0x02, 0x02)] else []) ++ (if useB && badScale s.view gB then [(0x02, 0x03)] else []) ++
    (if srcs.contains 1 && badScale s.view gD then [(0x02, 0x01)] else [])

/-- The plan of a VEC command, which reads every source byte on its issue cycle (DESIGN CHOICE, log 89): val is the exact value of each element of D, with the flags that forming it raises. -/
def vecPlan (s : State) (n : Nat) (w : Cmd) (offs : List Int) (kind : VecKind) (srcs : List Nat) (dOk : Fmt → Bool)
    (dCols : Nat) (val : View → Opd → Opd → Opd → Nat → Nat → XVal × NFlags) : Plan :=
  let c := s.core n
  let d0 := cDim0 w
  let d1 := cDim1 w
  let gA := resolve s c n w offs 2 d0 d1
  let gB := resolve s c n w offs 3 d0 d1
  let gD := resolve s c n w offs 1 d0 dCols
  let srcG := [gA] ++ (if srcs.contains 3 then [gB] else []) ++ (if srcs.contains 1 then [gD] else [])
  let faults := vecFaults s n w offs srcs dOk dCols
  let (o, ws, wv) := vecTimes kind d0 d1
  let base : Plan :=
    { faults := faults
      accs := opdScalars w 1 ++ opdScalars w 2 ++ (if srcs.contains 3 then opdScalars w 3 else []) ++
        srcG.flatMap (planeAccs n · false) ++ planeAccs n gD true ++ sideAccs w
      occ := o, rd := o, ws := ws, wv := wv, vlat := false }
  if faults ≠ [] then base
  else
    let v := val s.view gD.opd gA.opd gB.opd
    let (ws, fl) := writeTensor gD.opd (cWriteMode w) d0 dCols (fun r q => (v r q).1)
    let fl := (rowMajor d0 dCols).foldl (fun a x => addFlags a (v x.1 x.2).2) fl
    let amax := if cAmaxS w = 0 then none
      else some (cAmaxS w, amaxImage (amaxOf ((rowMajor d0 dCols).map fun x => (v x.1 x.2).1)))
    { base with writes := ws, flags := fl, amax := amax }

/-- Issues a VEC command. -/
def vecIssue (s : State) (n op : Nat) (kind : VecKind) (srcs : Cmd → List Nat) (dOk : Fmt → Bool) (dCols : Cmd → Nat)
    (val : Cmd → View → Opd → Opd → Opd → Nat → Nat → XVal × NFlags) : Host.Outcome State Fault Refusal :=
  match issueCmd s n (· == op) with
  | .nothing => .next s
  | .ended s => .next s
  | .go s t w offs =>
    let p := vecPlan s n w offs kind (srcs w) dOk (dCols w) (val w)
    let (ok, s') := issuePlan s n t w offs p
    if ok then
      let c := s.core n
      .next (s'.meet (meetGot s ((srcs w).map fun k => resolve s c n w offs k (cDim0 w) (cDim1 w))))
    else .next s'

/-- A two-source command of the typed formats. -/
def vecBinary (s : State) (n op : Nat) (f : XVal → XVal → XVal) : Host.Outcome State Fault Refusal :=
  vecIssue s n op .simple (fun _ => [2, 3]) isTyped cDim1
    fun _ rd _ a b r q => (plusZero (f (elemVal rd a r q) (elemVal rd b r q)), noFlags)

/-- A one-source command of the typed formats. -/
def vecUnary (s : State) (n op : Nat) (kind : VecKind) (f : XVal → XVal × NFlags) : Host.Outcome State Fault Refusal :=
  vecIssue s n op kind (fun _ => [2]) isTyped cDim1 fun _ rd _ a _ r q => f (elemVal rd a r q)

/-- The destination formats of the row commands (R119). -/
def isRowDest : Fmt → Bool
  | .bf16 | .hf16 | .uf16 | .i32 | .acc => true
  | _ => false

/-- VEC.ADD: D = A + B, rounded once from the exact sum (R120). -/
def execVecAdd (n : Nat) (s : State) : Host.Outcome State Fault Refusal := vecBinary s n 0x40 xAdd

/-- VEC.MUL (R120). -/
def execVecMul (n : Nat) (s : State) : Host.Outcome State Fault Refusal := vecBinary s n 0x41 xMul

/-- VEC.FMA: D = A x B, plus D when ACCUM is 1, rounded once (R118, R120). -/
def execVecFma (n : Nat) (s : State) : Host.Outcome State Fault Refusal :=
  vecIssue s n 0x42 .simple (fun w => if cAccum w then [2, 3, 1] else [2, 3]) isTyped cDim1
    fun w rd d a b r q =>
      let p := xMul (elemVal rd a r q) (elemVal rd b r q)
      (plusZero (if cAccum w then xAdd p (elemVal rd d r q) else p), noFlags)

/-- VEC.MAX: maximumNumber; a zero result is +0 (R124, R58). -/
def execVecMax (n : Nat) (s : State) : Host.Outcome State Fault Refusal := vecBinary s n 0x43 xMax

/-- VEC.MIN: minimumNumber; a zero result is +0 (R124, R58). -/
def execVecMin (n : Nat) (s : State) : Host.Outcome State Fault Refusal := vecBinary s n 0x44 xMin

/-- VEC.NEG: the sign of a zero is flipped (R58). -/
def execVecNeg (n : Nat) (s : State) : Host.Outcome State Fault Refusal :=
  vecUnary s n 0x45 .simple fun v => (xNeg v, noFlags)

/-- VEC.ABS: a zero is written as +0 (R58). -/
def execVecAbs (n : Nat) (s : State) : Host.Outcome State Fault Refusal :=
  vecUnary s n 0x46 .simple fun v => (xAbs v, noFlags)

/-- VEC.CVT: conversion by R57, which keeps the sign of a zero in BF16, HF16 and ACC. -/
def execVecCvt (n : Nat) (s : State) : Host.Outcome State Fault Refusal :=
  vecUnary s n 0x47 .simple fun v => (v, noFlags)

/-- VEC.EXP2 (R122, R124). -/
def execVecExp2 (n : Nat) (s : State) : Host.Outcome State Fault Refusal := vecUnary s n 0x48 .trans xExp2

/-- VEC.LOG2 (R122, R124). -/
def execVecLog2 (n : Nat) (s : State) : Host.Outcome State Fault Refusal := vecUnary s n 0x49 .trans xLog2

/-- VEC.RCP (R122, R124). -/
def execVecRcp (n : Nat) (s : State) : Host.Outcome State Fault Refusal :=
  vecUnary s n 0x4A .trans fun v => (xRcp v, noFlags)

/-- VEC.RSQRT (R122, R124). -/
def execVecRsqrt (n : Nat) (s : State) : Host.Outcome State Fault Refusal := vecUnary s n 0x4B .trans xRsqrt

/-- VEC.ROWSUM: ascending columns, each addition rounded into the accumulator (R123), the first one to +0 (DESIGN CHOICE,
log 103). -/
def execVecRowsum (n : Nat) (s : State) : Host.Outcome State Fault Refusal :=
  vecIssue s n 0x4C .row (fun _ => [2]) isRowDest (fun _ => 1)
    fun w rd _ a _ r _ => ((upFrom 0 (cDim1 w)).foldl (fun acc q => accAdd acc (elemVal rd a r q)) (.zero false), noFlags)

/-- VEC.ROWMAX: maximumNumber over each row; a row of NaN gives NaN (R123). -/
def execVecRowmax (n : Nat) (s : State) : Host.Outcome State Fault Refusal :=
  vecIssue s n 0x4D .row (fun _ => [2]) isRowDest (fun _ => 1)
    fun w rd _ a _ r _ =>
      (plusZero ((upFrom 0 (cDim1 w)).foldl (fun acc q => xMax acc (elemVal rd a r q)) .nan), noFlags)

end Sys2Proof.Machine
end

