-- ==== Sys2Proof/Machine/Dispatch.lean ====
section
/-! DEFINITION. The dispatch: one arm per row of the table. -/

namespace Sys2Proof.Machine

/-- The effect of a command on everything but the queue. -/
def exec (i : Instr) (s : State) : Host.Outcome State Fault Refusal :=
  match i with
  | .regWrite off size v sets => Sys2Proof.Machine.execRegWrite off size v s sets
  | .configRequest early => Sys2Proof.Machine.execConfigRequest early s
  | .flushClear n inc => Sys2Proof.Machine.execFlushClear n inc s
  | .srGo tensor => Sys2Proof.Machine.execSrGo tensor s
  | .srEvalDone => Sys2Proof.Machine.execSrEvalDone s
  | .launchStart n => Sys2Proof.Machine.execLaunchStart n s
  | .undefinedOpcode n => Sys2Proof.Machine.execUndefinedOpcode n s
  | .matMm n => Sys2Proof.Machine.execMatMm n s
  | .matMmp n => Sys2Proof.Machine.execMatMmp n s
  | .matMms n => Sys2Proof.Machine.execMatMms n s
  | .matPadd n occ => Sys2Proof.Machine.execMatPadd n occ s
  | .vecAdd n => Sys2Proof.Machine.execVecAdd n s
  | .vecMul n => Sys2Proof.Machine.execVecMul n s
  | .vecFma n => Sys2Proof.Machine.execVecFma n s
  | .vecMax n => Sys2Proof.Machine.execVecMax n s
  | .vecMin n => Sys2Proof.Machine.execVecMin n s
  | .vecNeg n => Sys2Proof.Machine.execVecNeg n s
  | .vecAbs n => Sys2Proof.Machine.execVecAbs n s
  | .vecCvt n => Sys2Proof.Machine.execVecCvt n s
  | .vecExp2 n => Sys2Proof.Machine.execVecExp2 n s
  | .vecLog2 n => Sys2Proof.Machine.execVecLog2 n s
  | .vecRcp n => Sys2Proof.Machine.execVecRcp n s
  | .vecRsqrt n => Sys2Proof.Machine.execVecRsqrt n s
  | .vecRowsum n => Sys2Proof.Machine.execVecRowsum n s
  | .vecRowmax n => Sys2Proof.Machine.execVecRowmax n s
  | .vecUpd n => Sys2Proof.Machine.execVecUpd n s
  | .movCopy n occ errs => Sys2Proof.Machine.execMovCopy n occ errs s
  | .movCvt n occ => Sys2Proof.Machine.execMovCvt n occ s
  | .movMxin n occ => Sys2Proof.Machine.execMovMxin n occ s
  | .movMxout n occ => Sys2Proof.Machine.execMovMxout n occ s
  | .movAtom n occ => Sys2Proof.Machine.execMovAtom n occ s
  | .movStash n => Sys2Proof.Machine.execMovStash n s
  | .stashPoolReply n cyc occ => Sys2Proof.Machine.execStashPoolReply n cyc occ s
  | .movRelease n occ => Sys2Proof.Machine.execMovRelease n occ s
  | .movImload n occ => Sys2Proof.Machine.execMovImload n occ s
  | .synNop n => Sys2Proof.Machine.execSynNop n s
  | .synWait n => Sys2Proof.Machine.execSynWait n s
  | .waitSatisfied n cyc => Sys2Proof.Machine.execWaitSatisfied n cyc s
  | .waitTimeout n cyc => Sys2Proof.Machine.execWaitTimeout n cyc s
  | .synSignal n => Sys2Proof.Machine.execSynSignal n s
  | .synRsignal n occ => Sys2Proof.Machine.execSynRsignal n occ s
  | .synSetp n => Sys2Proof.Machine.execSynSetp n s
  | .synSkip n => Sys2Proof.Machine.execSynSkip n s
  | .synRepeat n => Sys2Proof.Machine.execSynRepeat n s
  | .synSwap n => Sys2Proof.Machine.execSynSwap n s
  | .synEnd n => Sys2Proof.Machine.execSynEnd n s
  | .synSalu n => Sys2Proof.Machine.execSynSalu n s
  | .synSld n => Sys2Proof.Machine.execSynSld n s
  | .synSst n => Sys2Proof.Machine.execSynSst n s
  | .synFlags n => Sys2Proof.Machine.execSynFlags n s
  | .synColl n occ => Sys2Proof.Machine.execSynColl n occ s
  | .fixedWriteback n => Sys2Proof.Machine.execFixedWriteback n s
  | .varCommandComplete n f cyc => Sys2Proof.Machine.execVarCommandComplete n f cyc s
  | .haltLimit n => Sys2Proof.Machine.execHaltLimit n s
  | .endDrainDone n => Sys2Proof.Machine.execEndDrainDone n s
  | .haltDrainDone n => Sys2Proof.Machine.execHaltDrainDone n s
  | .haltDrainTimeout n cyc => Sys2Proof.Machine.execHaltDrainTimeout n s cyc
  | .haltHost n cyc => Sys2Proof.Machine.execHaltHost n cyc s
  | .clearHalt n => Sys2Proof.Machine.execClearHalt n s
  | .coreReset n => Sys2Proof.Machine.execCoreReset n s
  | .poolInit => Sys2Proof.Machine.execPoolInit s
  | .poolInitDone => Sys2Proof.Machine.execPoolInitDone s
  | .memErrClear inc => Sys2Proof.Machine.execMemErrClear inc s
  | .requestTimeout port tag => Sys2Proof.Machine.execRequestTimeout port tag s
  | .patrolScrub key found reader => Sys2Proof.Machine.execPatrolScrub key found s reader
  | .farEccPoll p answers errs => Sys2Proof.Machine.execFarEccPoll p answers errs s
  | .stackTempChange st temp => Sys2Proof.Machine.execStackTempChange st temp s
  | .hdmRead range off caches => Sys2Proof.Machine.execHdmRead range off caches s
  | .hdmWrite range off data be caches => Sys2Proof.Machine.execHdmWrite range off data be caches s
  | .bisnpResponse line inv data keep => Sys2Proof.Machine.execBisnpResponse line inv data keep s
  | .enable q v fw => Sys2Proof.Machine.execEnable q v fw s
  | .retrain q => Sys2Proof.Machine.execRetrain q s
  | .lnkClearCnt q incs => Sys2Proof.Machine.execLnkClearCnt q s incs
  | .spareNow q lane sub => Sys2Proof.Machine.execSpareNow q lane sub s
  | .trainingMarker q j inv snr sat w => Sys2Proof.Machine.execTrainingMarker q j inv snr sat w s
  | .bringupRetry q => Sys2Proof.Machine.execBringupRetry q s
  | .equaliserTimeout q => Sys2Proof.Machine.execEqualiserTimeout q s
  | .codewordSend p => Sys2Proof.Machine.execCodewordSend p s
  | .codewordReceive q j r0 r1 r2 r3 r4 => Sys2Proof.Machine.execCodewordReceive q j r0 r1 r2 r3 r4 s
  | .lcsIdle p => Sys2Proof.Machine.execLcsIdle p s
  | .lcsCtrl p => Sys2Proof.Machine.execLcsCtrl p s
  | .lcsInit p => Sys2Proof.Machine.execLcsInit p s
  | .lcsSpare p => Sys2Proof.Machine.execLcsSpare p s
  | .ackTimer p => Sys2Proof.Machine.execAckTimer p s
  | .nakRepeat p => Sys2Proof.Machine.execNakRepeat p s
  | .keepaliveSend p => Sys2Proof.Machine.execKeepaliveSend p s
  | .kaTimeout p => Sys2Proof.Machine.execKaTimeout p s
  | .fastRetrainTimeout p => Sys2Proof.Machine.execFastRetrainTimeout p s
  | .laneLossStart q j lol => Sys2Proof.Machine.execLaneLossStart q j lol s
  | .laneLossEnd q j lol => Sys2Proof.Machine.execLaneLossEnd q j lol s
  | .laneLossPersist q j => Sys2Proof.Machine.execLaneLossPersist q j s
  | .quadPllUnlock q => Sys2Proof.Machine.execQuadPllUnlock q s
  | .quadPllLock q => Sys2Proof.Machine.execQuadPllLock q s
  | .clockMismatch q j => Sys2Proof.Machine.execClockMismatch q j s
  | .spareTrainDone p ok => Sys2Proof.Machine.execSpareTrainDone p ok s
  | .opticsPoll c cmis modw lanes thr => Sys2Proof.Machine.execOpticsPoll c cmis modw lanes thr s
  | .optPresentChange c low => Sys2Proof.Machine.execOptPresentChange c low s
  | .vccOptOvercurrent c => Sys2Proof.Machine.execVccOptOvercurrent c s
  | .vccOptRetry c ok => Sys2Proof.Machine.execVccOptRetry c ok s
  | .frameArrive p => Sys2Proof.Machine.execFrameArrive p s
  | .frameTail p => Sys2Proof.Machine.execFrameTail p s
  | .adaptiveChoice id => Sys2Proof.Machine.execAdaptiveChoice id s
  | .outputSelect p => Sys2Proof.Machine.execOutputSelect p s
  | .creditGrant p v => Sys2Proof.Machine.execCreditGrant p v s
  | .ageCheck => Sys2Proof.Machine.execAgeCheck s
  | .fence p v fw => Sys2Proof.Machine.execFence p v fw s
  | .gminWrite p v fw => Sys2Proof.Machine.execGminWrite p v fw s
  | .swcClearCnt incs => Sys2Proof.Machine.execSwcClearCnt s incs
  | .rsvWrite r v fw => Sys2Proof.Machine.execRsvWrite r v fw s
  | .refill => Sys2Proof.Machine.execRefill s
  | .policerAccept r => Sys2Proof.Machine.execPolicerAccept r s
  | .wr => Sys2Proof.Machine.execWr s
  | .rd errs => Sys2Proof.Machine.execRd errs s
  | .rddata => Sys2Proof.Machine.execRddata s
  | .wrack => Sys2Proof.Machine.execWrack s
  | .atom => Sys2Proof.Machine.execAtom s
  | .atomrsp => Sys2Proof.Machine.execAtomrsp s
  | .sig => Sys2Proof.Machine.execSig s
  | .sigack => Sys2Proof.Machine.execSigack s
  | .err => Sys2Proof.Machine.execErr s
  | .msg => Sys2Proof.Machine.execMsg s
  | .msgDeliverRetry i1 => Sys2Proof.Machine.execMsgDeliverRetry i1 s
  | .deliverDrop i1 => Sys2Proof.Machine.execDeliverDrop i1 s
  | .msgack => Sys2Proof.Machine.execMsgack s
  | .flow => Sys2Proof.Machine.execFlow s
  | .chunk u => Sys2Proof.Machine.execChunk u s
  | .stuSum n ce ue wrong => Sys2Proof.Machine.execStuSum n ce ue wrong s
  | .stuGatherFixed n ce ue wrong => Sys2Proof.Machine.execStuGatherFixed n ce ue wrong s
  | .stuGatherLanes n ce ue wrong => Sys2Proof.Machine.execStuGatherLanes n ce ue wrong s
  | .stuSortLocal n ce ue wrong => Sys2Proof.Machine.execStuSortLocal n ce ue wrong s
  | .stuSortMerge n ce ue wrong => Sys2Proof.Machine.execStuSortMerge n ce ue wrong s
  | .stuFilter n ce ue wrong => Sys2Proof.Machine.execStuFilter n ce ue wrong s
  | .stuClearCnt u incs => Sys2Proof.Machine.execStuClearCnt u s incs
  | .kctrlCommit v fw => Sys2Proof.Machine.execKctrlCommit v fw s
  | .kernelInstallDone => Sys2Proof.Machine.execKernelInstallDone s
  | .gsetCommit g => Sys2Proof.Machine.execGsetCommit g s
  | .groupCommitDone => Sys2Proof.Machine.execGroupCommitDone s
  | .reserveRetry h => Sys2Proof.Machine.execReserveRetry h s
  | .ready => Sys2Proof.Machine.execReady s
  | .result => Sys2Proof.Machine.execResult s
  | .resultVisible h stripe j => Sys2Proof.Machine.execResultVisible h stripe j s
  | .ack => Sys2Proof.Machine.execAck s
  | .pace => Sys2Proof.Machine.execPace s
  | .retx => Sys2Proof.Machine.execRetx s
  | .retxRepeat h stripe j => Sys2Proof.Machine.execRetxRepeat h stripe j s
  | .report => Sys2Proof.Machine.execReport s
  | .collEnd => Sys2Proof.Machine.execCollEnd s
  | .endRepeat i1 => Sys2Proof.Machine.execEndRepeat i1 s
  | .collProgressTimeout h => Sys2Proof.Machine.execCollProgressTimeout h s
  | .collSelfEnd h => Sys2Proof.Machine.execCollSelfEnd h s
  | .memberPoll h => Sys2Proof.Machine.execMemberPoll h s
  | .raceCasReply h => Sys2Proof.Machine.execRaceCasReply h s
  | .raceCopyDone h => Sys2Proof.Machine.execRaceCopyDone h s
  | .doorbellSnoop k => Sys2Proof.Machine.execDoorbellSnoop k s
  | .snoopData k => Sys2Proof.Machine.execSnoopData k s
  | .doorbellLineFill n tail ok => Sys2Proof.Machine.execDoorbellLineFill n tail ok s
  | .descriptorFetch n words ok => Sys2Proof.Machine.execDescriptorFetch n words ok s
  | .stagingRetry => Sys2Proof.Machine.execStagingRetry s
  | .nop => Sys2Proof.Machine.execNop s
  | .launch => Sys2Proof.Machine.execLaunch s
  | .pload data fail => Sys2Proof.Machine.execPload data fail s
  | .copy data fail => Sys2Proof.Machine.execCopy data fail s
  | .coll => Sys2Proof.Machine.execColl s
  | .flowsend data fail => Sys2Proof.Machine.execFlowsend data fail s
  | .createSq => Sys2Proof.Machine.execCreateSq s
  | .createCq => Sys2Proof.Machine.execCreateCq s
  | .deleteSq => Sys2Proof.Machine.execDeleteSq s
  | .deleteCq => Sys2Proof.Machine.execDeleteCq s
  | .openFlow => Sys2Proof.Machine.execOpenFlow s
  | .closeFlow => Sys2Proof.Machine.execCloseFlow s
  | .resetFlow => Sys2Proof.Machine.execResetFlow s
  | .descriptorWorkDone id => Sys2Proof.Machine.execDescriptorWorkDone id s
  | .cqEntryWrite n masked ok => Sys2Proof.Machine.execCqEntryWrite n masked ok s
  | .eventRecordWrite masked ok tail => Sys2Proof.Machine.execEventRecordWrite masked ok s tail
  | .cqIrqDelay n masked => Sys2Proof.Machine.execCqIrqDelay n masked s
  | .eventIrqDelay masked => Sys2Proof.Machine.execEventIrqDelay masked s
  | .hostLinkTrain width rate tail => Sys2Proof.Machine.execHostLinkTrain width rate s tail
  | .hostFullOperationLoss => Sys2Proof.Machine.execHostFullOperationLoss s
  | .perstN => Sys2Proof.Machine.execPerstN s
  | .perstNDeassert => Sys2Proof.Machine.execPerstNDeassert s
  | .hotReset => Sys2Proof.Machine.execHotReset s
  | .linkDisable => Sys2Proof.Machine.execLinkDisable s
  | .functionLevelReset => Sys2Proof.Machine.execFunctionLevelReset s
  | .hifReset => Sys2Proof.Machine.execHifReset s
  | .hifEnable v tail => Sys2Proof.Machine.execHifEnable v s tail
  | .lock => Sys2Proof.Machine.execLock s
  | .request => Sys2Proof.Machine.execRequest s
  | .unlockAuthTimeout => Sys2Proof.Machine.execUnlockAuthTimeout s
  | .twnCommit step => Sys2Proof.Machine.execTwnCommit step s
  | .mirrorInject => Sys2Proof.Machine.execMirrorInject s
  | .mirror => Sys2Proof.Machine.execMirror s
  | .twnSeal => Sys2Proof.Machine.execSeal s
  | .sealVerify => Sys2Proof.Machine.execSealVerify s
  | .mirrorack => Sys2Proof.Machine.execMirrorack s
  | .mirrorAckTimeout => Sys2Proof.Machine.execMirrorAckTimeout s
  | .twnRestart c errs => Sys2Proof.Machine.execTwnRestart c errs s
  | .boundary errs => Sys2Proof.Machine.execBoundary errs s
  | .twnSwap l request => Sys2Proof.Machine.execTwnSwap l request s
  | .fencePorts via sess msg => Sys2Proof.Machine.execFencePorts via sess msg s
  | .unfencePorts via sess msg => Sys2Proof.Machine.execUnfencePorts via sess msg s
  | .markFenced via sess msg => Sys2Proof.Machine.execMarkFenced via sess msg s
  | .markValid via sess msg => Sys2Proof.Machine.execMarkValid via sess msg s
  | .soloOn via sess msg => Sys2Proof.Machine.execSoloOn via sess msg s
  | .soloOff via sess msg => Sys2Proof.Machine.execSoloOff via sess msg s
  | .enterTungsten via sess msg => Sys2Proof.Machine.execEnterTungsten via sess msg s
  | .healthDecay => Sys2Proof.Machine.execHealthDecay s
  | .xchkSpareDone k bytes => Sys2Proof.Machine.execXchkSpareDone k bytes s
  | .go slot count => Sys2Proof.Machine.execGo slot count s
  | .free slot => Sys2Proof.Machine.execFree slot s
  | .replayHeatDone => Sys2Proof.Machine.execReplayHeatDone s
  | .replayHeatTimeout temp vdd => Sys2Proof.Machine.execReplayHeatTimeout temp vdd s
  | .replayRunDone mism temp vdd => Sys2Proof.Machine.execReplayRunDone mism temp vdd s
  | .fatalClear => Sys2Proof.Machine.execFatalClear s
  | .eventHandle => Sys2Proof.Machine.execEventHandle s
  | .logWrite => Sys2Proof.Machine.execLogWrite s
  | .watchdogStrobe => Sys2Proof.Machine.execWatchdogStrobe s
  | .watchdogExpire => Sys2Proof.Machine.execWatchdogExpire s
  | .sensorSample inw h0 h1 slices rom => Sys2Proof.Machine.execSensorSample inw h0 h1 s slices rom
  | .pinsUpdate twin fab host => Sys2Proof.Machine.execPinsUpdate twin fab host s
  | .alertResponse => Sys2Proof.Machine.execAlertResponse s
  | .mailboxGo => Sys2Proof.Machine.execMailboxGo s
  | .readReg via sess msg => Sys2Proof.Machine.execReadReg via sess msg s
  | .writeReg via sess msg => Sys2Proof.Machine.execWriteReg via sess msg s
  | .profileWrite via sess msg => Sys2Proof.Machine.execProfileWrite via sess msg s
  | .profileRoute via sess msg => Sys2Proof.Machine.execProfileRoute via sess msg s
  | .kernelCommit via sess msg => Sys2Proof.Machine.execKernelCommit via sess msg s
  | .throttleCap via sess msg => Sys2Proof.Machine.execThrottleCap via sess msg s
  | .logRead via sess msg => Sys2Proof.Machine.execLogRead via sess msg s
  | .sensorRead via sess msg => Sys2Proof.Machine.execSensorRead via sess msg s
  | .repairRead via sess msg => Sys2Proof.Machine.execRepairRead via sess msg s
  | .unlockAuth via sess msg => Sys2Proof.Machine.execUnlockAuth via sess msg s
  | .moduleReset via sess msg fails bad => Sys2Proof.Machine.execModuleReset via sess msg fails bad s
  | .fwCommitSvn via sess msg => Sys2Proof.Machine.execFwCommitSvn via sess msg s
  | .fuseBlowMap via sess msg => Sys2Proof.Machine.execFuseBlowMap via sess msg s
  | .fuseBlowOwner via sess msg => Sys2Proof.Machine.execFuseBlowOwner via sess msg s
  | .setEndpointId b eid => Sys2Proof.Machine.execSetEndpointId b eid s
  | .getEndpointId b => Sys2Proof.Machine.execGetEndpointId b s
  | .getMctpVersionSupport b ty => Sys2Proof.Machine.execGetMctpVersionSupport b ty s
  | .getMessageTypeSupport b => Sys2Proof.Machine.execGetMessageTypeSupport b s
  | .getVendorDefinedMessageSupport b sel => Sys2Proof.Machine.execGetVendorDefinedMessageSupport b sel s
  | .getVersion i1 => Sys2Proof.Machine.execGetVersion i1 s
  | .getCapabilities i1 => Sys2Proof.Machine.execGetCapabilities i1 s
  | .negotiateAlgorithms i1 offered => Sys2Proof.Machine.execNegotiateAlgorithms i1 offered s
  | .getDigests i1 sess => Sys2Proof.Machine.execGetDigests i1 sess s
  | .getCertificate i1 sess slot off len => Sys2Proof.Machine.execGetCertificate i1 sess slot off len s
  | .challenge i1 slot nonce => Sys2Proof.Machine.execChallenge i1 slot nonce s
  | .getMeasurements i1 sess op sign nonce restarts => Sys2Proof.Machine.execGetMeasurements i1 sess op sign nonce restarts s
  | .keyExchange i1 mut_ ok => Sys2Proof.Machine.execKeyExchange i1 mut_ ok s
  | .finish i1 id root ok => Sys2Proof.Machine.execFinish i1 id root ok s
  | .heartbeat i1 id ok => Sys2Proof.Machine.execHeartbeat i1 id ok s
  | .keyUpdate i1 id ok => Sys2Proof.Machine.execKeyUpdate i1 id ok s
  | .endSession i1 id ok => Sys2Proof.Machine.execEndSession i1 id ok s
  | .vendorDefinedRequest i1 sess obj data => Sys2Proof.Machine.execVendorDefinedRequest i1 sess obj data s
  | .kSetGo i1 sess => Sys2Proof.Machine.execKSetGo i1 sess s
  | .queryDeviceIdentifiers => Sys2Proof.Machine.execQueryDeviceIdentifiers s
  | .getFirmwareParameters => Sys2Proof.Machine.execGetFirmwareParameters s
  | .requestUpdate => Sys2Proof.Machine.execRequestUpdate s
  | .passComponentTable id => Sys2Proof.Machine.execPassComponentTable id s
  | .updateComponent id size => Sys2Proof.Machine.execUpdateComponent id size s
  | .requestFirmwareData data => Sys2Proof.Machine.execRequestFirmwareData data s
  | .transferComplete => Sys2Proof.Machine.execTransferComplete s
  | .verifyComplete => Sys2Proof.Machine.execVerifyComplete s
  | .applyComplete => Sys2Proof.Machine.execApplyComplete s
  | .activateFirmware => Sys2Proof.Machine.execActivateFirmware s
  | .getStatus => Sys2Proof.Machine.execGetStatus s
  | .cancelUpdateComponent => Sys2Proof.Machine.execCancelUpdateComponent s
  | .cancelUpdate => Sys2Proof.Machine.execCancelUpdate s
  | .vinRise vin => Sys2Proof.Machine.execVinRise vin s
  | .powerGood fails bad => Sys2Proof.Machine.execPowerGood fails bad s
  | .powerOff vin => Sys2Proof.Machine.execPowerOff vin s
  | .aux12vChange mv => Sys2Proof.Machine.execAux12vChange mv s
  | .modResetNAssert => Sys2Proof.Machine.execModResetNAssert s
  | .modResetNDeassert fails bad => Sys2Proof.Machine.execModResetNDeassert fails bad s
  | .bootComplete => Sys2Proof.Machine.execBootComplete s
  | .trstN => Sys2Proof.Machine.execTrstN s
  | .idcode => Sys2Proof.Machine.execIdcode s
  | .bypass tdi => Sys2Proof.Machine.execBypass tdi s
  | .sample image => Sys2Proof.Machine.execSample image s
  | .preload image => Sys2Proof.Machine.execPreload image s
  | .extest tdi => Sys2Proof.Machine.execExtest tdi s
  | .headLineFill k head ok masked => Sys2Proof.Machine.execHeadLineFill k head ok masked s
  | .hostInterfaceIslandFails => Sys2Proof.Machine.execHostInterfaceIslandFails s

end Sys2Proof.Machine
end

