-- ==== Sys2Proof/Safety.lean ====
section
/-! DEFINITION. What statements about the module speak of: the canonical form of its tables, and, for each family of
commands, when a command finds what it needs. -/

namespace Sys2Proof.Machine

/-! Canonical form. -/

/-- The canonical form of the machine's memory, and of what it holds of the bytes written since a stack was lost. -/
def State.memWf (s : State) : Bool := tabWf memDefault s.mem && tabWf (fun _ => false) s.kept

/-! The whole machine. -/

/-- The canonical form of the set-up registers, and of the table of cores. -/
def RegsWf (s : State) : Prop := tabWf regReset s.regs = true
def CoresWf (s : State) : Prop := tabWf (fun _ => coreReset) s.cores = true

/-- Identities of commands in flight lie below the next one's. -/
def FreshIds (c : Core) : Prop := ∀ f ∈ c.flights, f.id < c.nextFlight

/-- A core whose scalars are in canonical form and whose next command's identity is new. -/
def CoreOk (c : Core) : Prop := tabWf (fun _ => (0 : Word)) c.scalars = true ∧ FreshIds c

/-- What every step keeps: the canonical form of memory, of the set-up registers and of the tables of cores, buffer pools,
lanes and reservations, and cores that are as CoreOk says. -/
structure Inv (s : State) : Prop where
  mem : s.memWf = true
  regs : RegsWf s
  cores : CoresWf s
  core : ∀ n, CoreOk (s.core n)
  pools : tabWf (fun _ => poolReset) s.pools = true
  lanes : tabWf (fun _ => laneReset) s.lanes = true
  rsv : tabWf (fun _ => rsvReset) s.rsv = true

/-- t is s but for the event latches, their next SEQ and the set-up registers. -/
def EventsOnly (s t : State) : Prop := t = { s with ev := t.ev, regs := t.regs }

/-! Tensor cores. -/

/-- The next command of core n, and the cycle on which it issues (R106). -/
def nextCmd (s : State) (n : Nat) : Cmd := cFetch (s.core n) (s.core n).active (s.core n).index
def issueAt (s : State) (n : Nat) : Nat := issueCycle (s.core n) (nextCmd s n)

/-- The module as core n's next command finds it: every fixed-latency command due by then has landed (R132). -/
def landed (s : State) (n : Nat) : State := landUpTo s n (issueAt s n)

/-- Core n reaches its next command, of opcode op, and that command is to run: the core is RUNNING, unblocked, within
its bank and below its limit; the word is legal and its predicate holds; nothing is checked for hazards. -/
def Ready (s : State) (n op : Nat) : Prop :=
  (s.core n).mode = .running ∧ blocked (s.core n) = false ∧ (s.core n).index < 2048 ∧
  ((s.core n).limit = 0 ∨ (s.core n).issued < (s.core n).limit) ∧ cOpcode (nextCmd s n) = op ∧
  ((landed s n).core n).mode = .running ∧ illegalHere ((landed s n).core n) (nextCmd s n) = false ∧
  cP ((landed s n).core n) (cPred (nextCmd s n)) = cSense (nextCmd s n) ∧ ((landed s n).core n).check = false

/-- No stored word of the module is known to be uncorrectable. -/
def Clean (s : State) : Prop := s.memBad = []

/-- Core c once it has issued its command w at cycle i: counted, past it, its engine occupied for occ cycles, and f left
in flight. -/
def gone (c : Core) (w : Cmd) (i occ : Nat) (f : Flight) : Core :=
  { engineSet (advance { c with issued := c.issued + 1, tp := i }) (cOpcode w) i occ with
    flights := c.flights ++ [f], nextFlight := c.nextFlight + 1, pends := [] }

/-- What the next command of core n issues into: the effective offsets of its operands. -/
def offsAt (s : State) (n : Nat) : List Int := effOffs ((landed s n).core n) (nextCmd s n)

/-- Operand k (1 D, 2 A, 3 B) of the next command of core n, its shape being rows x cols. -/
def opdAt (s : State) (n k rows cols : Nat) : Got :=
  resolve (landed s n) ((landed s n).core n) n (nextCmd s n) (offsAt s n) k rows cols

/-- Scalar k as the next command of core n reads it. -/
def scalarAt (s : State) (n k : Nat) : Word := cS ((landed s n).core n) k

/-- Core n issues its next command into flight f and nothing else of the module changes. -/
def Issues (s : State) (n occ : Nat) (f : Flight) (t : State) : Prop :=
  t = (landed s n).setCore n (gone ((landed s n).core n) (nextCmd s n) (issueAt s n) occ f) ∧
  f.id = ((landed s n).core n).nextFlight ∧ f.cmd = nextCmd s n ∧ f.op = cOpcode (nextCmd s n) ∧
  f.bank = ((landed s n).core n).active.toNat ∧ f.idx = ((landed s n).core n).index ∧
  f.sig = (if cSigEn (nextCmd s n) then some (cSigSem (nextCmd s n)) else none)

/-- The halt conditions of R155 that a VEC command of core n, with sources srcs and destination formats dOk, meets at
its issue. -/
def vecHalts (s : State) (n : Nat) (srcs : List Nat) (dOk : Fmt → Bool) (dCols : Nat) : List (Nat × Nat) :=
  vecFaults (landed s n) n (nextCmd s n) (offsAt s n) srcs dOk dCols

/-- What core n's next VEC command leaves in flight: visible wv cycles after issue, it writes v, element by element, to
D of rows x cols, the largest magnitude of v to S[AMAX_S], and the number flags that forming and writing v raises (R57,
R61, R125, R128). -/
def VecFlight (s : State) (n cols wv : Nat) (v : Nat → Nat → XVal × NFlags) (f : Flight) : Prop :=
  let w := nextCmd s n
  let d := writeTensor (opdAt s n 1 (cDim0 w) cols).opd (cWriteMode w) (cDim0 w) cols fun r q => (v r q).1
  f.vlat = false ∧ f.wv = issueAt s n + wv ∧ f.writes = d.1 ∧
  f.flags = (rowMajor (cDim0 w) cols).foldl (fun a x => addFlags a (v x.1 x.2).2) d.2 ∧
  f.scalars = [] ∧ f.preds = [] ∧ f.semAdd = [] ∧
  f.amax = (if cAmaxS w = 0 then none else some (cAmaxS w, amaxImage (amaxOf ((rowMajor (cDim0 w) cols).map fun x => (v x.1 x.2).1))))

/-- Element (r, q) of operand k of core n's next command. -/
def elemAt (s : State) (n k r q : Nat) : XVal :=
  elemVal (landed s n).view (opdAt s n k (cDim0 (nextCmd s n)) (cDim1 (nextCmd s n))).opd r q

/-- VEC commands of two sources, and of one: the value of each element of D, with the flags that forming it raises. -/
def vecTwo (s : State) (n : Nat) (fn : XVal → XVal → XVal) (r q : Nat) : XVal × NFlags :=
  (plusZero (fn (elemAt s n 2 r q) (elemAt s n 3 r q)), noFlags)
def vecOne (s : State) (n : Nat) (fn : XVal → XVal × NFlags) (r q : Nat) : XVal × NFlags := fn (elemAt s n 2 r q)

/-- Element (i, k) of A and (k, j) of B of core n's next product, M x N x K. -/
def prodA (s : State) (n i k : Nat) : XVal :=
  elemVal (landed s n).view (opdAt s n 2 (16 * cDim0 (nextCmd s n)) (16 * cDim2 (nextCmd s n))).opd i k
def prodB (s : State) (n k j : Nat) : XVal :=
  elemVal (landed s n).view (opdAt s n 3 (16 * cDim2 (nextCmd s n)) (16 * cDim1 (nextCmd s n))).opd k j

/-- D of core n's next product, and its element (i, j) before it. -/
def prodD (s : State) (n : Nat) : Got := opdAt s n 1 (16 * cDim0 (nextCmd s n)) (16 * cDim1 (nextCmd s n))

/-- mat_element of R174 for row i and column j, from init. -/
def prodAt (s : State) (n i j : Nat) (init : XVal) : XVal :=
  matElement (prodA s n i) (fun k => prodB s n k j) (upFrom 0 (cDim2 (nextCmd s n))) init

/-- The amax that a command of core n leaves to S[AMAX_S] for the results v (R125). -/
def amaxAt (s : State) (n rows cols : Nat) (v : Nat → Nat → XVal) : Option (Nat × Nat) :=
  if cAmaxS (nextCmd s n) = 0 then none
  else some (cAmaxS (nextCmd s n), amaxImage (amaxOf ((rowMajor rows cols).map fun x => v x.1 x.2)))

/-- u is t once its MAT.MM or MAT.MMP command has been counted (R606): a command that is not sampled changes nothing
else, a sampled one the capture slots, the bytes copied for the spare, and TWN_XCHK_STAT. -/
def Counted (t u : State) : Prop :=
  u = { t with xchkCount := t.xchkCount + 1, regs := u.regs, mem := u.mem, memBad := u.memBad, kept := u.kept, caps := u.caps } ∧
  (t.rbit Reg.twnXchkCfg 0 = false ∨ t.captureKey 0 = none ∨ (t.xchkCount + 1) % 2 ^ max 8 (t.rfld Reg.twnXchkCfg 5 1) ≠ 0 →
    u = { t with xchkCount := t.xchkCount + 1 })

/-- What core n's next MAT.MMS names. -/
def mmsAt (s : State) (n : Nat) : MmsOpds := mmsOperands (landed s n) n (nextCmd s n) (offsAt s n)

/-- D and A of core n's next copying command. -/
def movAt (s : State) (n : Nat) : MovOpds := movOperands (landed s n) ((landed s n).core n) n (nextCmd s n) (offsAt s n)


/-- The module once every fixed-latency command of core n in flight has landed (R132). -/
def drained (s : State) (n : Nat) : State := landUpTo s n (lastWv (s.core n))

/-- A running core that a halt condition of a CODE and DETAIL stops, recorded against a command of its active bank at a
cycle: it drains, with SECOND_CODE left alone (R153, R155, R156). -/
def haltingAs (c : Core) (code detail idx cyc : Nat) : Core :=
  { c with
    mode := .draining, haltCode := code, haltDetail := detail, haltBank := c.active, haltIndex := idx, haltCycle := cyc
    haltSeq := c.haltSeq + 1, rep := none, ending := none
    block := match c.block with | .stash f => .stash f | .coll f => .coll f | _ => .none }

/-- A drained core n of a module whose dump is written enters HALTED: CORE_HALT is raised, and the work of its launch
completes with an error (R153, R166). -/
def haltedOf (v : State) (n : Nat) (l : Launch) : State :=
  let k := v.core n
  ((v.raise evCORE_HALT (if k.haltCode = 0x04 ∨ k.haltCode = 0x08 then sevINFO else sevCONTAINED)
    [(8, n), (8, v.logicalOf n), (8, k.haltCode), (8, k.haltDetail), (8, k.haltBank.toNat), (16, k.haltIndex % 2048)]).setCore n
    { k with mode := .halted, launch := none, pends := [], block := .none }).finishWork l.work stHALTED (haltImage k) 0

/-! Registers and memory. -/

/-- A register whose fields only take what is written to them: none of the rules that make a write of it act is its own
(R93, R145, R327, R370, R410, R440, R512, R543 and the rest name those). -/
def plainReg (off : Nat) (r : RegRow) : Bool :=
  [Reg.lnkQcfg 0, Reg.swcPortCfg 0, Reg.swcPortGmin 0, Reg.swcRsv 0, Reg.swcRoute 0, Reg.swcId, Reg.stuKctrl, Reg.stuKstage 0,
    Reg.hifCtrl, Reg.coreNumStatus 0, Reg.twnCfg, Reg.swcInjCtrl].all (fun b => b != r.base) && !(0x100 ≤ r.base && r.base ≤ 0x130) && off != Reg.coreSrCtrl

/-! Frames delivered to the module's own parts. -/

/-- The bytes of a reply as the requester's buffer takes them, from byte dst on. -/
def gotWith (r : Req) (f : Frame) (t : Tab Byte) : Tab Byte :=
  (placeAt r.dst (f.payload.take r.len)).foldl (fun t x => tabSet (fun _ => 0) t x.1 x.2) t

/-- The core of a message's logical core, and the pool set that it asks for (R366). -/
def msgCore (d : Delivered) : Nat := bitsN (addrOff (fAddr d.frame).toNat) 30 23
def msgSet (s : State) (d : Delivered) : Nat :=
  if fAux d.frame % 2 = 0 then msgCore d else 256 + groupOf (s.physOf (msgCore d) % 192)

/-! The host interface. -/

/-- Descriptor d of SQ n, of operation op, is served next, and u is the module that has taken it from staging; it runs
(R538 to R541, R548, R551, R554). -/
def Served (s : State) (op n : Nat) (d : List Word) (u : State) : Prop :=
  s.takeDesc op = some (n, d, u) ∧ s.judge n d = none

/-- The row of each operation of R540. -/
def descRow (data : List Byte) (fail : Option Nat) : List (Nat × Instr) :=
  [(opNOP, .nop), (opLAUNCH, .launch), (opPLOAD, .pload data fail), (opCOPY, .copy data fail), (opCOLL, .coll),
   (opFLOWSEND, .flowsend data fail), (opCREATE_SQ, .createSq), (opCREATE_CQ, .createCq), (opDELETE_SQ, .deleteSq),
   (opDELETE_CQ, .deleteCq), (opOPEN_FLOW, .openFlow), (opCLOSE_FLOW, .closeFlow), (opRESET_FLOW, .resetFlow)]

/-- The work that starts on descriptor d of SQ n of a module whose next work is id. -/
def newWork (id n : Nat) (d : List Word) : Work :=
  { id := id, sq := n, desc := d, waiting := 0, got := [], formed := false, bytes := [], wantsBuf := false
    load := if wkOp d = opPLOAD then some { bank := fld (wd d 0) 30 30, first := fld (wd d 2) 10 0, count := fld (wd d 2) 27 16 } else none
    hostFail := none, cut := false }

/-- The module once that work has started; f says what becomes of its flow. -/
def started (u : State) (n : Nat) (d : List Word) : State :=
  let v := if 1 ≤ wkOp d ∧ wkOp d ≤ 5 then u.setFlow (wkFlow d) { u.flow (wkFlow d) with work := (u.flow (wkFlow d)).work + 1 } else u
  { v with works := v.works ++ [newWork u.nextWork n d], nextWork := v.nextWork + 1 }

/-- A link reset: a host-interface reset after which the link is down and no vector is pending (R559). -/
def linkDown (s : State) : State := { s.hifReset.rsetFld Reg.hifStatus 6 0 0 with msix := [], vmask := [] }

/-! Commits and the twin mirror. -/

/-- The commit in progress: the module mirrors x, and has not sent its SEAL. -/
def Mirrors (s : State) (x : MirrorTx) : Prop :=
  s.mg.mirror = some x ∧ x.done = false ∧ s.rfld Reg.twnStatus 2 0 = 1

/-- The module with the mirror engine at x. -/
def mirrorAt (s : State) (x : Option MirrorTx) : State := s.setMg fun m => { m with mirror := x }

/-- The module with what has been received of a step. -/
def twinAt (s : State) (x : Option TwinRx) : State := s.setMg fun m => { m with twinIn := x }

/-- The 64 bytes of the manifest that a SEAL carries are 16 for each region: its check and its length (R583). -/
def manifestBytes (l : List (Nat × Nat)) : List Byte := l.flatMap fun m => leBytes 8 m.1 ++ leBytes 8 m.2

/-! Management. -/

/-- The row of operation op finds its message: r, and the module u that has taken it; it is known in its session, of that
operation, permitted, well formed, and its body fits (R617 to R626). -/
def Handles (s u : State) (op via : Nat) (sess : Option Nat) (msg : List Word) (r : MgReq) (fits : List Byte → Bool) : Prop :=
  s.mgTake op via sess msg = some (r, u) ∧ (∀ id, sess = some id → (s.session (viaIface via) id).isSome = true) ∧
    mgOp r.bytes = op ∧ u.mgAllowed (viaIface via) op r.owner = true ∧ mgFormed r.bytes = true ∧ fits (mgBody r.bytes) = true

/-- The row of each operation of R622 but FENCE and MODULE_RESET. -/
def mgRow (via : Nat) (sess : Option Nat) (msg : List Word) : List (Nat × Instr) :=
  [(0x01, .readReg via sess msg), (0x02, .writeReg via sess msg), (0x04, .profileWrite via sess msg), (0x05, .kernelCommit via sess msg),
   (0x06, .throttleCap via sess msg), (0x07, .logRead via sess msg), (0x08, .sensorRead via sess msg), (0x09, .repairRead via sess msg),
   (0x0A, .unlockAuth via sess msg), (0x0C, .fwCommitSvn via sess msg), (0x0D, .fuseBlowMap via sess msg),
   (0x0E, .fuseBlowOwner via sess msg), (0x0F, .profileRoute via sess msg)]

/-- An SPDM row of interface i finds its request d and has taken it (u); its session is there, and the connection has come
as far as the request needs (R659 to R661). -/
def Asked (s u : State) (i code : Nat) (sess : Option Nat) (need : Nat) (d : Option Delivered) : Prop :=
  s.spdmTake i code sess = some (d, u) ∧ (∀ id, sess = some id → (u.session i id).isSome = true) ∧ need ≤ u.spdmAt i

/-! Stream units and collectives. -/

/-- Slot n's next chunk f, the oldest of its unit, is taken for work by operator op; t is what then waits in the slot (R434). -/
def Takes (s : State) (n : Nat) (op : SlotOp) (x : Slot) (f : Frame) (t : List (Nat × Frame)) : Prop :=
  s.slot1 n = some x ∧ x.op = op ∧ ∃ k, x.inbox = (k, f) :: t ∧ s.firstIn n k = true

/-- The module once slot n has taken its next chunk, counted it and met the stream-memory errors that the command brings
(R430, R434, R471). -/
def workedOn (s : State) (n ce : Nat) (ue : Option Nat) (x : Slot) (t : List (Nat × Frame)) : State :=
  let u := s.setSlot n (some { x with inbox := t })
  (u.countChunk n).stuMemory (u.slotUnit n) n ce ue

/-- The unit of a slot that has taken its next chunk. -/
def unitNow (s : State) (n : Nat) (x : Slot) (t : List (Nat × Frame)) : Nat := (s.setSlot n (some { x with inbox := t })).slotUnit n

/-- The module with a bad chunk counted at unit u and slot n's input test made (R437, R444). -/
def testedIn (s : State) (u n : Nat) (good : Bool) (x : Slot) (f : Frame) : State :=
  ((if good then s else s.stuDrop u dropBADCHUNK x.coll).inputTest n f).2

/-- A record slot with its next chunk taken: BAD from a bad input on, and the record length that its first good chunk
fixes (R430, R437, R438). -/
def recSlot (x : Slot) (f : Frame) (t : List (Nat × Frame)) (ue : Option Nat) : Slot :=
  { x with
    inbox := t, bad := x.bad || !recGood x f || ckBad f || ue.isSome
    recw := if recGood x f && x.recw.isNone then some (ckRecw f) else x.recw }

/-- The records that a chunk brings to a slot. -/
def recsIn (x : Slot) (f : Frame) : List (List Byte) := if recGood x f then ckRecords f else []

/-- The oldest delivered frame of a type is of the group's current GEN and of the attempt in progress of collective c: c, the
frame and the module without it (R494, R503). -/
def Names (s u : State) (ty : Nat) (c : Coll) (f : Frame) : Prop :=
  ∃ d, s.takeDeliv (fun d => fType d.frame == ty) = some (d, u) ∧ d.frame = f ∧ u.genCurrent f = true ∧
    u.colls.find? (fun c => names c f) = some c ∧ frAttempt f = c.attempt


end Sys2Proof.Machine
end

