-- ==== Sys2Proof/Certificates/Slice0/Obligations.lean ====
section
/-! DEFINITION. The statements about the Z9 module for the provers. -/

open Sys2Proof Sys2Proof.Machine

/-- A step runs the command at the front of the queue on the module with the rest of the queue; on an empty queue one
cycle of the switch island passes and nothing else changes (log 11). -/
def Obligations.StepRunsFrontCommand : Prop :=
  ∀ (s : State),
    (∀ (c : Instr) (rest : List Instr), step { s with pending := c :: rest } = exec c { s with pending := rest }) ∧
    (s.pending = [] → step s = .next { s with clock := s.clock + 1 })

/-- Every command, with any operands, in any state, answers a next state: none stops the machine. -/
def Obligations.EveryCommandAnswers : Prop :=
  ∀ (c : Instr) (s : State), ∃ t, exec c s = .next t

/-- From any state that meets the invariant (memory, set-up registers, cores, buffer pools, lanes and reservations in
canonical form, each core's scalars too and its commands in flight numbered below the next), a step gives such a
state, and takes from the queue the command at its front and no other. -/
def Obligations.StepKeepsMemoryAndQueue : Prop :=
  ∀ (s t : State), Inv s → step s = .next t → Inv t ∧ t.pending = s.pending.tail

/-- Right after reset: the invariant holds, memory lists nothing, the queue is empty, the module is in BOOT and not
locked, no step is committed, every core is IDLE with its registers 0, flow 0 is OPEN and the others CLOSED, no event
is latched (R103, R263, R554, R571, R591). -/
def Obligations.ResetHolds : Prop :=
  let s := State.reset
  Inv s ∧ s.mem = [] ∧ s.pending = [] ∧ s.modState = mBOOT ∧ s.rbit Reg.hifSetupLock 1 = false ∧
  s.rget Reg.twnCommitted = BitVec.allOnes 64 ∧ (∀ b, s.rget (Reg.twnHeld b) = regReset (Reg.twnHeld b)) ∧
  (∀ n k, (s.core n).mode = .idle ∧ cS (s.core n) k = 0 ∧ cSem (s.core n) k = 0) ∧
  (s.flow 0).st = 1 ∧ (∀ f, f ≠ 0 → (s.flow f).st = 0) ∧ s.ev.latches = [] ∧ s.ev.nextSeq = 0 ∧
  (∀ k, s.mget k = 0)

/-- Memory reads what was written last: after a run of bytes is written, each reads as written and every other address
as before, words are little-endian, and the invariant stands (R7). -/
def Obligations.MemoryReadsLastWrite : Prop :=
  ∀ (s : State) (k : Nat) (bs : List Byte) (w : Word), Inv s →
    (∀ a, (s.mputBytes k bs).mget a = if k ≤ a ∧ a < k + bs.length then bs.getD (a - k) 0 else s.mget a) ∧
    Inv (s.mputBytes k bs) ∧ (s.mputWord k w).mword k = w ∧ (∀ i < 8, (s.mputWord k w).mget (k + i) = w.extractLsb' (8 * i) 8)

/-- Raising an event fills its latch when that is empty, with the next SEQ, the committed step and its payload, and
otherwise counts there; nothing but the latches, the counts and the FATAL registers changes (R611, R613, R614). -/
def Obligations.RaisingFillsLatch : Prop :=
  ∀ (s : State) (code sev : Nat) (items : List (Nat × Nat)), RegsWf s → sev ≤ 3 →
    let t := s.raise code sev items
    EventsOnly s t ∧
    (∀ off, off ≠ Reg.twnEvtCount → off ≠ Reg.hifStatus → off ≠ Reg.twnFatal0 → off ≠ Reg.twnFatal1 → t.rget off = s.rget off) ∧
    (∀ hi lo, hi < 32 → t.rfld Reg.hifStatus hi lo = s.rfld Reg.hifStatus hi lo) ∧
    ((∀ l ∈ s.ev.latches, l.code ≠ code) →
      (∃ l, t.ev.latches = s.ev.latches ++ [l] ∧ l.code = code ∧ l.sev = sev ∧ l.seq = s.ev.nextSeq ∧ l.suppressed = 0 ∧
        l.step = s.rget Reg.twnCommitted ∧ l.payload = payloadOf items) ∧ t.ev.nextSeq = (s.ev.nextSeq + 1) % 2 ^ 32) ∧
    ((∃ l ∈ s.ev.latches, l.code = code) → t.ev.nextSeq = s.ev.nextSeq ∧ t.ev.latches =
      s.ev.latches.map fun l => if l.code = code then { l with suppressed := min 0xFFFF (l.suppressed + 1) } else l) ∧
    (sev = 3 → (∀ l ∈ s.ev.latches, l.code ≠ code) → code < 65536 → s.ev.nextSeq < 2 ^ 32 →
      (s.rfld Reg.twnFatal0 15 0 = 0 → t.rfld Reg.twnFatal0 15 0 = code ∧ t.rfld Reg.twnFatal0 63 32 = s.ev.nextSeq) ∧
      (s.rfld Reg.twnFatal0 15 0 ≠ 0 → t.rget Reg.twnFatal0 = s.rget Reg.twnFatal0 ∧ t.rget Reg.twnFatal1 = s.rget Reg.twnFatal1))

/-- A semaphore increment, from a command of the core or from outside, that reaches a core that is neither RUNNING nor
DRAINING is discarded: the module is as before. -/
def Obligations.LateIncrementsDiscarded : Prop :=
  ∀ (s : State) (n sem k : Nat), (s.core n).mode ≠ .running → (s.core n).mode ≠ .draining →
    semAddOutside s n sem k = s ∧ ∀ bank idx cyc, semAdd s n sem k bank idx cyc = s

/-- The one function that reads a BF16 code, for every engine and every conversion, takes a subnormal as a zero of the
same sign. -/
def Obligations.Bf16SubnormalsReadZero : Prop :=
  ∀ (b : Nat) (X : Int), b < 65536 → (b / 128) % 256 = 0 → b % 128 ≠ 0 → decodeElem .bf16 b X = .zero (decide (32768 ≤ b))

/-- REG_WRITE of 4 or 8 aligned bytes: RW fields take the written value, RWL fields only before the set-up lock, a 1
clears an RW1C bit, and RO and reserved bits keep theirs; every other register and all else is unchanged (R15, R16,
R19). -/
def Obligations.RegWriteByAccessType : Prop :=
  ∀ (s : State) (off size : Nat) (v : Word) (sets : Nat) (r : RegRow), RegsWf s →
    (size = 8 ∧ off % 8 = 0) ∨ (size = 4 ∧ off % 4 = 0) →
    let o := off - off % 8
    let half : Word := if size = 8 then BitVec.allOnes 64 else if off % 8 = 0 then 0xFFFFFFFF#64 else 0xFFFFFFFF00000000#64
    let val := if off % 8 = 0 then v else v <<< 32
    let m := (BitVec.ofNat 64 r.rw ||| (if s.rbit Reg.hifSetupLock 1 then 0 else BitVec.ofNat 64 r.rwl)) &&& half
    let clr := BitVec.ofNat 64 r.w1c &&& val &&& half
    portHole o = false → regRow o = some r → plainReg o r = true →
    ∃ t, exec (.regWrite off size v sets) s = .next t ∧ t = { s with regs := t.regs } ∧
      t.rget o = ((s.rget o &&& ~~~clr) &&& ~~~m) ||| (val &&& m) ∧ (∀ p, p ≠ o → t.rget p = s.rget p)

/-- CORE_SR_CTRL.GO while DONE is 1 samples the inputs and clears DONE; the evaluation's end writes WORD and sets
DONE; a GO while DONE is 0 only writes TENSOR; a configuration request is answered with Retry Status before step 5 of
the start-up and normally after (R90, R91, R92, R562, R644). -/
def Obligations.SrProbeAndConfig : Prop :=
  ∀ (s : State) (tensor : Nat) (w : Word),
    let s1 := s.rsetFld Reg.coreSrCtrl 31 0 tensor
    let word := (srWord (s1.rget Reg.coreSrSeed) (s1.rget Reg.coreSrStep) tensor (s1.rget Reg.coreSrIndex)).setWidth 64
    (s.rbit Reg.hifSetupLock 1 = false → s1.rbit Reg.coreSrCtrl 33 = true →
      exec (.srGo tensor) s = .next { s1.rsetBit Reg.coreSrCtrl 33 false with mg := { s.mg with srJob := some word } }) ∧
    (s.rbit Reg.hifSetupLock 1 = false → s1.rbit Reg.coreSrCtrl 33 = false → exec (.srGo tensor) s = .next s1) ∧
    (s.mg.srJob = some w →
      exec .srEvalDone s = .next { (s.rput Reg.coreSrOut w).rsetBit Reg.coreSrCtrl 33 true with mg := { s.mg with srJob := none } }) ∧
    (s.partLost 48 = false → s.perst = false → s.mg.bootStep ≠ 0 → ∀ early, exec (.configRequest early) s =
      .next { s with out := s.out ++ [.cfgCpl (decide (s.mg.bootStep < 5) || (decide (s.mg.bootStep = 7) && early))] })

/-- Ready, nothing uncorrectable in store, and no halt condition: VEC.ADD, MUL, MAX and MIN issue, and write the exact
sum, product, maximumNumber or minimumNumber of each pair of elements, rounded once, with the flags that writing it
raises (R57, R61, R120, R124, R128). The one-source commands: VEC.NEG, ABS and CVT with their latencies, and the four
transcendentals with theirs, write the exact or correctly rounded value of each element, with the number flags that
forming and writing it raises (R57, R58, R61, R122, R124, R128). VEC.FMA writes A x B, plus D when ACCUM is 1, rounded
once; VEC.ROWSUM the sum of each row, rounded into the accumulator after each column in ascending order; VEC.ROWMAX
the maximumNumber of each row (R118, R120, R123); that the first column of a sum is rounded as the others are is the
model's choice (log 103). -/
def Obligations.VecCommandsIssue : Prop :=
  (∀ (s : State) (n : Nat), Clean (landed s n) →
    let d1 := cDim1 (nextCmd s n)
    let o := 8 + ceilDiv (cDim0 (nextCmd s n) * d1) 256
    let two := vecHalts s n [2, 3] isTyped d1
    (Ready s n 0x40 → two = [] → ∃ t f, exec (.vecAdd n) s = .next t ∧ Issues s n o f t ∧ VecFlight s n d1 (o + 12) (vecTwo s n xAdd) f) ∧
    (Ready s n 0x41 → two = [] → ∃ t f, exec (.vecMul n) s = .next t ∧ Issues s n o f t ∧ VecFlight s n d1 (o + 12) (vecTwo s n xMul) f) ∧
    (Ready s n 0x43 → two = [] → ∃ t f, exec (.vecMax n) s = .next t ∧ Issues s n o f t ∧ VecFlight s n d1 (o + 12) (vecTwo s n xMax) f) ∧
    (Ready s n 0x44 → two = [] → ∃ t f, exec (.vecMin n) s = .next t ∧ Issues s n o f t ∧ VecFlight s n d1 (o + 12) (vecTwo s n xMin) f)) ∧
  (∀ (s : State) (n : Nat), Clean (landed s n) →
    let d1 := cDim1 (nextCmd s n)
    let o := 8 + ceilDiv (cDim0 (nextCmd s n) * d1) 256
    let x := 8 + 4 * ceilDiv (cDim0 (nextCmd s n) * d1) 256
    let one := vecHalts s n [2] isTyped d1
    (Ready s n 0x45 → one = [] → ∃ t f, exec (.vecNeg n) s = .next t ∧ Issues s n o f t ∧ VecFlight s n d1 (o + 12) (vecOne s n (fun v => (xNeg v, noFlags))) f) ∧
    (Ready s n 0x46 → one = [] → ∃ t f, exec (.vecAbs n) s = .next t ∧ Issues s n o f t ∧ VecFlight s n d1 (o + 12) (vecOne s n (fun v => (xAbs v, noFlags))) f) ∧
    (Ready s n 0x47 → one = [] → ∃ t f, exec (.vecCvt n) s = .next t ∧ Issues s n o f t ∧ VecFlight s n d1 (o + 12) (vecOne s n (fun v => (v, noFlags))) f) ∧
    (Ready s n 0x48 → one = [] → ∃ t f, exec (.vecExp2 n) s = .next t ∧ Issues s n x f t ∧ VecFlight s n d1 (x + 20) (vecOne s n xExp2) f) ∧
    (Ready s n 0x49 → one = [] → ∃ t f, exec (.vecLog2 n) s = .next t ∧ Issues s n x f t ∧ VecFlight s n d1 (x + 20) (vecOne s n xLog2) f) ∧
    (Ready s n 0x4A → one = [] → ∃ t f, exec (.vecRcp n) s = .next t ∧ Issues s n x f t ∧ VecFlight s n d1 (x + 20) (vecOne s n (fun v => (xRcp v, noFlags))) f) ∧
    (Ready s n 0x4B → one = [] → ∃ t f, exec (.vecRsqrt n) s = .next t ∧ Issues s n x f t ∧ VecFlight s n d1 (x + 20) (vecOne s n xRsqrt) f)) ∧
  (∀ (s : State) (n : Nat), Clean (landed s n) →
    let w := nextCmd s n
    let d0 := cDim0 w
    let d1 := cDim1 w
    let o := 8 + ceilDiv (d0 * d1) 256
    let y := 8 + ceilDiv d0 256 * d1
    (Ready s n 0x42 → vecHalts s n (if cAccum w then [2, 3, 1] else [2, 3]) isTyped d1 = [] →
      ∃ t f, exec (.vecFma n) s = .next t ∧ Issues s n o f t ∧ VecFlight s n d1 (o + 12) (fun r q =>
        let p := xMul (elemAt s n 2 r q) (elemAt s n 3 r q)
        (plusZero (if cAccum w then xAdd p (elemAt s n 1 r q) else p), noFlags)) f) ∧
    (Ready s n 0x4C → vecHalts s n [2] isRowDest 1 = [] →
      ∃ t f, exec (.vecRowsum n) s = .next t ∧ Issues s n y f t ∧ VecFlight s n 1 (y + 16) (fun r _ =>
        ((upFrom 0 d1).foldl (fun a q => accAdd a (elemAt s n 2 r q)) (.zero false), noFlags)) f) ∧
    (Ready s n 0x4D → vecHalts s n [2] isRowDest 1 = [] →
      ∃ t f, exec (.vecRowmax n) s = .next t ∧ Issues s n y f t ∧ VecFlight s n 1 (y + 16) (fun r _ =>
        (plusZero ((upFrom 0 d1).foldl (fun a q => xMax a (elemAt s n 2 r q)) .nan), noFlags)) f))

/-- VEC.UPD issues, of variable latency: it occupies VEC for the cycles of R243 and does its work when it completes.
-/
def Obligations.VecUpdIssues : Prop :=
  ∀ (s : State) (n : Nat), Ready s n 0x50 → Clean (landed s n) →
    let x := updOf (landed s n) ((landed s n).core n) n (nextCmd s n) (offsAt s n)
    x.2.2.2 = [] →
    ∃ t f, exec (.vecUpd n) s = .next t ∧ Issues s n (updOcc x.1) f t ∧ f.vlat = true ∧ f.formed = true ∧ f.waiting = 0

/-- MAT.MM issues and writes mat_element of every (i, j), started from D when ACCUM is 1, with the occupancy and WV of
R128; the count of R606 rises, and nothing else changes but where the command is sampled. MAT.MMP writes each
accumulator value as hi and lo, hi being D's element and lo that of the plane at S[SBASE]; with ACCUM the sum of the
pair starts the product (R182, R183). MAT.MMS issues, of variable latency: without PARTIAL it writes mms_element over
the non-zero squares of each of its rows, and the amax of those values; with PARTIAL the exact sum of its segments'
E24 contributions at E (R193 to R206). -/
def Obligations.MatCommandsIssue : Prop :=
  (∀ (s : State) (n : Nat), Ready s n 0x01 → Clean (landed s n) →
    matFaults (landed s n) n (nextCmd s n) (offsAt s n) false = [] →
    let w := nextCmd s n
    let o := matOcc (opdField (cOpd w 2)).fmt (opdField (cOpd w 3)).fmt (16 * cDim0 w) (16 * cDim1 w) (16 * cDim2 w)
    let v := fun i j => prodAt s n i j (if cAccum w then elemVal (landed s n).view (prodD s n).opd i j else .zero false)
    ∃ t f u, exec (.matMm n) s = .next u ∧ Issues s n o f t ∧ Counted t u ∧
      f.vlat = false ∧ f.wv = issueAt s n + (o + 32) ∧
      f.writes = (writeTensor (prodD s n).opd (cWriteMode w) (16 * cDim0 w) (16 * cDim1 w) v).1 ∧
      f.amax = amaxAt s n (16 * cDim0 w) (16 * cDim1 w) v) ∧
  (∀ (s : State) (n : Nat), Ready s n 0x02 → Clean (landed s n) →
    matFaults (landed s n) n (nextCmd s n) (offsAt s n) true = [] →
    let w := nextCmd s n
    let o := matOcc (opdField (cOpd w 2)).fmt (opdField (cOpd w 3)).fmt (16 * cDim0 w) (16 * cDim1 w) (16 * cDim2 w)
    let d := (prodD s n).opd
    let l := (resolveLo (landed s n) ((landed s n).core n) n w (offsAt s n) (prodD s n)).opd
    let v := fun i j => prodAt s n i j
      (if cAccum w then roundAcc (xAdd (elemVal (landed s n).view d i j) (elemVal (landed s n).view l i j)) else .zero false)
    ∃ t f u, exec (.matMmp n) s = .next u ∧ Issues s n o f t ∧ Counted t u ∧
      f.vlat = false ∧ f.wv = issueAt s n + (o + 48) ∧
      f.writes = (rowMajor (16 * cDim0 w) (16 * cDim1 w)).flatMap (fun x =>
        placeAt (d.eKey + (x.1 * d.pitch + x.2) * 2) (leBytes 2 (pairOf d.fmt (v x.1 x.2)).1) ++
        placeAt (l.eKey + (x.1 * d.pitch + x.2) * 2) (leBytes 2 (pairOf d.fmt (v x.1 x.2)).2.1)) ∧
      f.amax = amaxAt s n (16 * cDim0 w) (16 * cDim1 w) v) ∧
  (∀ (s : State) (n : Nat),
    let g := mmsAt s n
    let w := nextCmd s n
    Ready s n 0x03 → Clean (landed s n) → mmsFaults (landed s n) w g = [] → mmsInner (landed s n) n w g = [] →
    let rows := mmsRows (landed s n) n w g
    let occ := mmsOcc (opdField (cOpd w 2)).fmt (opdField (cOpd w 3)).fmt g.k g.img.kb (16 * cDim1 w) (rows.map (·.length))
    let v := fun r j => (mmsElement (landed s n).view n g.img g.b.opd (rows.getD (r / 16) []) g.k.e (r % 16) j).1
    let z := fun i j => (segmentSum (landed s n).view n g.img g.b.opd (rows.headD []) g.k.e (mmsSegs g.k (rows.headD []).length).1
      (mmsSegs g.k (rows.headD []).length).2 i j).1
    ∃ t f, exec (.matMms n) s = .next t ∧ Issues s n occ f t ∧ f.vlat = true ∧ f.formed = true ∧ f.waiting = 0 ∧
      (g.k.part = false →
        f.writes = (writeTensor g.d.opd (cWriteMode w) (16 * cDim0 w) (16 * cDim1 w) v).1 ∧
        f.amax = amaxAt s n (16 * cDim0 w) (16 * cDim1 w) v) ∧
      (g.k.part = true →
        f.writes = (writeTensor { g.d.opd with chunkE := g.k.e } (cWriteMode w) 16 (16 * cDim1 w) (fun i j => xOfInt (z i j) g.k.e)).1))

/-- MOV.COPY, CVT, MXIN and MXOUT with both operands in own Pewter are of fixed latency: COPY moves codes and scale
bytes, CVT converts each element once, MXIN and MXOUT exchange square blocks with MX blocks, each with the number
flags of its rounding (R48, R57, R61, R67, R68, R128, R251). MAT.PADD, and COPY, CVT, MXIN and MXOUT with a fabric
operand of this module, are of variable latency: with their source here they issue and form what they write at once;
MAT.PADD's is round_acc of D + A, element by element (R118, R129, R181, R249). -/
def Obligations.MovCommandsIssue : Prop :=
  (∀ (s : State) (n op occ : Nat) (errs : List (Nat × Bool)),
    Ready s n op → Clean (landed s n) → (landed s n).snoops = [] →
    let w := nextCmd s n
    let g := movAt s n
    let rd := (landed s n).view
    let o := 4 + ceilDiv (cDim0 w * cDim1 w) 128
    let quiet := fun (f : Flight) => f.vlat = false ∧ f.scalars = [] ∧ f.preds = [] ∧ f.semAdd = []
    g.d.fabric = false → g.a.fabric = false → g.a.remote = false → movFaults (landed s n) w g = [] →
    (op = 0x80 → ∃ t f, exec (.movCopy n occ errs) s = .next (t.meet errs) ∧
      let o := 4 + ceilDiv (g.a.planes.map fun p => p.rows * p.len).sum 256
      Issues s n o f t ∧ quiet f ∧ f.wv = issueAt s n + (o + 8) ∧
      f.writes = copyWrites rd (cDim0 w) (cDim1 w) g.d.opd g.a.opd ∧ f.amax = none ∧ f.flags = noFlags) ∧
    (op = 0x81 → ∃ t f, exec (.movCvt n occ) s = .next t ∧ Issues s n o f t ∧ quiet f ∧ f.wv = issueAt s n + (o + 12) ∧
      (f.writes, f.flags) = writeTensor g.d.opd (cWriteMode w) (cDim0 w) (cDim1 w) (elemVal rd g.a.opd) ∧
      f.amax = amaxAt s n (cDim0 w) (cDim1 w) (elemVal rd g.a.opd)) ∧
    (op = 0x82 → ∃ t f, exec (.movMxin n occ) s = .next t ∧ Issues s n o f t ∧ quiet f ∧ f.wv = issueAt s n + (o + 12) ∧
      (f.writes, f.flags) = writeTensor g.d.opd ⟨false, 0, false⟩ (cDim0 w) (cDim1 w)
        (mxElem (mxType (cSubop w)) rd g.a.opd (cDim1 w)) ∧ f.amax = none) ∧
    (op = 0x83 → ∃ t f, exec (.movMxout n occ) s = .next t ∧ Issues s n o f t ∧ quiet f ∧ f.wv = issueAt s n + (o + 12) ∧
      (f.writes, f.flags) = mxoutWrites (mxType (cSubop w)) rd (cDim0 w) (cDim1 w) g.d.opd g.a.opd ∧ f.amax = none)) ∧
  (∀ (s : State) (n op occ : Nat) (errs : List (Nat × Bool)),
    let w := nextCmd s n
    let g := movAt s n
    let e := movForm w (landed s n).view g.d.opd g.a.opd
    let forms := fun (t : State) (f : Flight) => Issues s n occ f t ∧ f.vlat = true ∧ f.formed = true ∧ f.waiting = 0 ∧
      f.writes = e.writes ∧ f.flags = e.flags ∧
      f.amax = match e.amax with | some v => if cAmaxS w = 0 then none else some (cAmaxS w, amaxImage v) | none => none
    Ready s n op → Clean (landed s n) → (landed s n).snoops = [] → CoresWf (landed s n) → FreshIds ((landed s n).core n) →
    movFixed op g = false → g.a.remote = false → movFaults (landed s n) w g = [] → (∀ x ∈ e.writes, x.1 < 2 ^ 64) →
    (op = 0x04 → ∃ t f, exec (.matPadd n occ) s = .next t ∧ forms t f ∧
      (f.writes, f.flags) = writeTensor g.d.opd ⟨false, 0, false⟩ (16 * cDim0 w) (16 * cDim1 w) fun r q =>
        roundAcc (xAdd (elemVal (landed s n).view g.d.opd r q) (elemVal (landed s n).view g.a.opd r q))) ∧
    (op = 0x80 → errs = [] → ∃ t f, exec (.movCopy n occ errs) s = .next t ∧ forms t f) ∧
    (op = 0x81 → ∃ t f, exec (.movCvt n occ) s = .next t ∧ forms t f) ∧
    (op = 0x82 → ∃ t f, exec (.movMxin n occ) s = .next t ∧ forms t f) ∧
    (op = 0x83 → ∃ t f, exec (.movMxout n occ) s = .next t ∧ forms t f))

/-- MOV.ATOM on an aligned word of this module, its D carrying no reserved format, and MOV.IMLOAD from its memory,
issue with nothing awaited; the load names the bank that was inactive, DIM1 as first index and DIM0 commands (R145,
R146, R253). MOV.STASH issues and blocks the core until the pool manager answers; MOV.RELEASE issues, and the count of
the buffer that it names falls, to 0 freeing the buffer: an address that no buffer starts at halts the core (R127,
R273, R274). -/
def Obligations.MovMemoryCommandsIssue : Prop :=
  (∀ (s : State) (n occ : Nat), Clean (landed s n) →
    let w := nextCmd s n
    let c := (landed s n).core n
    let d := opdField (cOpd w 1)
    let off := (offsAt s n).getD 0 0
    (Ready s n 0x84 → (((cS c d.ebase).toNat : Int) + off) % 2 ^ 64 % 8 = 0 → d.fmt ≠ .rsvE → d.fmt ≠ .rsvF →
      ∀ k, planeKey (landed s n) n d.fabric (cS c d.ebase).toNat off 8 = some k → k < 2 ^ 64 →
      ∃ t f, exec (.movAtom n occ) s = .next t ∧ Issues s n occ f t ∧ f.vlat = true ∧ f.formed = true ∧ f.waiting = 0) ∧
    (Ready s n 0x87 → 1 ≤ cDim0 w → cDim1 w ≤ 2047 → cDim0 w + cDim1 w ≤ 2048 → (opdField (cOpd w 2)).fmt = .raw →
      let g := imloadSource (landed s n) c n w (offsAt s n)
      g.faults = [] → g.remote = false →
      ∃ t f, exec (.movImload n occ) s = .next t ∧ Issues s n occ f t ∧ f.vlat = true ∧ f.formed = true ∧ f.waiting = 0 ∧
        f.load = some { bank := (!c.active).toNat, first := cDim1 w, count := cDim0 w })) ∧
  (∀ (s : State) (n occ : Nat), CoresWf (landed s n) →
    let w := nextCmd s n
    let c := (landed s n).core n
    (Ready s n 0x85 → (opdField (cOpd w 2)).fmt = .raw → 1 ≤ cDim0 w → 1 ≤ cDim1 w → cDim0 w * cDim1 w ≤ 65536 →
      (stashSource (landed s n) c n w (offsAt s n)).faults = [] →
      ∃ t f, exec (.movStash n) s = .next t ∧ (t.core n).block = .stash c.nextFlight ∧ (t.core n).issued = c.issued + 1 ∧
        (t.core n).flights = c.flights ++ [f] ∧ f.id = c.nextFlight ∧ f.vlat = true ∧ f.formed = false ∧
        (∀ m ≠ n, t.core m = (landed s n).core m) ∧ t.mem = (landed s n).mem ∧ t.regs = (landed s n).regs) ∧
    (Ready s n 0x86 → (landed s n).snoops = [] →
      let a := (cS c (bitsN (cOpd w 2) 4 0)).toNat
      ∃ t f, Issues s n occ f t ∧ f.vlat = true ∧ f.formed = true ∧ f.waiting = 0 ∧
        exec (.movRelease n occ) s = .next ((poolRelease t a n).getD (failFlight t n c.nextFlight 0x02 0x02))))

/-- SYN.NOP, SIGNAL, SALU, SETP, SST and SLD issue, occupy SYN for one cycle, and leave what R126 and R132 give them
to be visible at the WV of R128. SYN.FLAGS leaves the number flags as they stand on its issue cycle to S[SD], and
clears them when IMM[0] is 1 (R705). SYN.WAIT ends at once when its semaphore holds COUNT, which it takes, and blocks
otherwise; SKIP, REPEAT, SWAP and END, none of which is ever repeated (R144), do what R141, R143, R149 and R152 give
them, and leave nothing in flight; before a SWAP the loads in progress have got as far as they have (R147; how far is
a free value, log 93). -/
def Obligations.SynCommandsIssue : Prop :=
  (∀ (s : State) (n : Nat), Clean (landed s n) →
    let w := nextCmd s n
    let c := (landed s n).core n
    let i := issueAt s n
    let x := cS c (cSA w)
    let y := cS c (cSB w) + cImmW w
    let a := (cS c (cSA w) + cImmW w).toNat
    let pq := fun k => cP c (k % 16)
    (Ready s n 0xC0 → ∃ t f, exec (.synNop n) s = .next t ∧ Issues s n 1 f t ∧ f.vlat = false ∧ f.wv = i + 1 ∧
      f.writes = [] ∧ f.scalars = [] ∧ f.preds = [] ∧ f.semAdd = []) ∧
    (Ready s n 0xC2 → ∃ t f, exec (.synSignal n) s = .next t ∧ Issues s n 1 f t ∧ f.vlat = false ∧ f.wv = i + 3 ∧
      f.semAdd = [(bitsN (cImm w) 5 0, cCount w)] ∧ f.writes = [] ∧ f.scalars = [] ∧ f.preds = []) ∧
    (Ready s n 0xC9 → ∃ t f, exec (.synSalu n) s = .next t ∧ Issues s n 1 f t ∧ f.vlat = false ∧ f.wv = i + 2 ∧
      f.scalars = [(cSD w, match cSubop w with
        | 0 => x + y | 1 => x - y | 2 => x &&& y | 3 => x ||| y | 4 => x ^^^ y | 5 => x <<< (y.toNat % 64)
        | 6 => x >>> (y.toNat % 64) | _ => x.sshiftRight (y.toNat % 64))] ∧ f.writes = [] ∧ f.preds = [] ∧ f.semAdd = []) ∧
    (Ready s n 0xC4 → cSD w % 16 ≠ 0 → cSD w % 16 ≠ 15 → ∃ t f, exec (.synSetp n) s = .next t ∧ Issues s n 1 f t ∧
      f.vlat = false ∧ f.wv = i + 2 ∧
      f.preds = [(cSD w % 16, match cSubop w with
        | 0 => x == y | 1 => x != y | 2 => x.ult y | 3 => y.ule x | 4 => x.slt y | 5 => y.sle x
        | 6 => pq (cSA w) && pq (cSB w) | _ => pq (cSA w) || pq (cSB w))] ∧ f.writes = [] ∧ f.scalars = [] ∧ f.semAdd = []) ∧
    (Ready s n 0xCB → a % 8 = 0 → a + 8 ≤ pewterBytes → ∃ t f, exec (.synSst n) s = .next t ∧ Issues s n 1 f t ∧
      f.vlat = false ∧ f.wv = i + 14 ∧ f.writes = placeAt (pewKey n a) (leBytes 8 (cS c (cSB w)).toNat) ∧
      f.scalars = [] ∧ f.preds = [] ∧ f.semAdd = []) ∧
    (Ready s n 0xCA → a % 8 = 0 → a + 8 ≤ pewterBytes → ∃ t f, exec (.synSld n) s = .next t ∧ Issues s n 1 f t ∧
      f.vlat = false ∧ f.wv = i + 14 ∧ f.scalars = [(cSD w, (landed s n).mword (pewKey n a))] ∧
      f.writes = [] ∧ f.preds = [] ∧ f.semAdd = [])) ∧
  (∀ (s : State) (n : Nat), Ready s n 0xCC → CoresWf (landed s n) →
    let w := nextCmd s n
    let c := (landed s n).core n
    ∃ t f, exec (.synFlags n) s = .next t ∧
      t = (landed s n).setCore n { gone c w (issueAt s n) 1 f with num := if (cImm w).testBit 0 then numFlagsReset else c.num } ∧
      f.vlat = false ∧ f.wv = issueAt s n + 4 ∧ f.scalars = [(cSD w, numImage c.num)]) ∧
  (∀ (s : State) (n : Nat), CoresWf (landed s n) → FreshIds ((landed s n).core n) → ((landed s n).core n).rep = none →
    let w := nextCmd s n
    let c := (landed s n).core n
    let i := issueAt s n
    let sem := bitsN (cImm w) 5 0
    let went := fun (t : State) => (t.core n).issued = c.issued + 1 ∧ (t.core n).flights = c.flights ∧
      t = (landed s n).setCore n (t.core n)
    (Ready s n 0xC1 → ∃ t, exec (.synWait n) s = .next t ∧ went t ∧ (t.core n).index = c.index + 1 ∧
      (cSem c sem ≥ cCount w → (t.core n).block = .none ∧ (t.core n).tp = i ∧ (t.core n).sems = (cSetSem c sem (cSem c sem - cCount w)).sems) ∧
      (cSem c sem < cCount w → (t.core n).block = .wait sem (cCount w) c.index i ∧ (t.core n).sems = c.sems)) ∧
    (Ready s n 0xC5 → c.index + bitsN (cImm w) 10 0 ≤ 2047 → ∃ t, exec (.synSkip n) s = .next t ∧ went t ∧
      (t.core n).index = c.index + bitsN (cImm w) 10 0 + 1) ∧
    (Ready s n 0xC6 → ∃ t, exec (.synRepeat n) s = .next t ∧ went t ∧ (t.core n).index = c.index + 1 ∧
      (t.core n).rep = some ⟨0, cDim0 w, sextN 32 (fld w 95 64), sextN 32 (fld w 159 128), sextN 32 (fld w 223 192)⟩) ∧
    (Ready s n 0xC7 →
      let u := loadsPass (landed s n) n
      CoresWf u → FreshIds (u.core n) → (u.core n).check = false → ∃ t, exec (.synSwap n) s = .next t ∧
        t = u.setCore n (t.core n) ∧ (t.core n).issued = (u.core n).issued + 1 ∧ (t.core n).flights = (u.core n).flights ∧
        (t.core n).active = (!(u.core n).active) ∧ (t.core n).index = bitsN (cImm w) 10 0 ∧ (t.core n).swapGate = i + 8) ∧
    (Ready s n 0xC8 → ∃ t, exec (.synEnd n) s = .next t ∧ went t ∧ (t.core n).mode = .draining ∧
      (t.core n).ending = some (bitsN (cImm w) 31 0)))

/-- The commands that act through another part: RSIGNAL sends one SIG frame to the module of its semaphore, COLL hands
a good descriptor to the stream units, and the pool manager's answer to a STASH writes S[D.EBASE] and P15 and ends the
blocking (R127, R137, R479). -/
def Obligations.SynActsOutside : Prop :=
  ∀ (s : State) (n occ : Nat),
    let w := nextCmd s n
    let c := (landed s n).core n
    (Ready s n 0xC3 → (semOfAddr (cS c (cSA w)).toNat).isSome = true →
      ∃ t f, Issues s n occ f t ∧ f.vlat = true ∧ f.waiting = 1 ∧
        exec (.synRsignal n occ) s = .next (sendAll t n c.nextFlight
          [coreReq t n c.nextFlight 0x00 .sig tySIG 2 (cS c (cSA w)).toNat 0 0 [] (cCount w) 0 0])) ∧
    (let a := (cS c (cSA w) + cImmW w).toNat
     let d := (landed s n).descAt (pewKey n a)
     Ready s n 0xCD → Clean (landed s n) → (landed s n).snoops = [] → a % 64 = 0 → a + 192 ≤ pewterBytes →
      (landed s n).launchGood d = true → (landed s n).colls.length < 1024 →
      ∃ t f, Issues s n occ f t ∧ f.vlat = true ∧ f.formed = false ∧
        exec (.synColl n occ) s = .next (t.askColl (.core n c.nextFlight 0) (coreFlow c) (pewKey n a) n)) ∧
    (∀ fid f cyc, (s.core n).block = .stash fid → findFlight (s.core n) fid = some f → s.snoops = [] →
      let u := landUpTo s n cyc
      let r := stashRequest u n (cSubop f.cmd) (cDim0 f.cmd * cDim1 f.cmd)
      let e := bitsN (cOpd f.cmd 1) 4 0
      let k := fun (a : Nat) (p : Bool) =>
        { cSetP (cSetS (r.2.core n) e (BitVec.ofNat 64 a)) 15 p with
          block := .none, tp := max (r.2.core n).tp cyc, movEnd := max (r.2.core n).tp cyc + occ }
      (r.1 = none → exec (.stashPoolReply n cyc occ) s =
        .next (completeFlight (r.2.setCore n (k 0 true)) n { f with formed := true } cyc)) ∧
      (∀ a, r.1 = some a → Clean (r.2.setCore n (k a false)) →
        let v := r.2.setCore n (k a false)
        let g := { f with buffer := BitVec.ofNat 64 a }
        (stashSource s (coreAtIssue (s.core n) f) n f.cmd f.offs).remote = false →
        exec (.stashPoolReply n cyc occ) s = .next (v.setFlight n
          { g with writes := stashWrites v v.view (coreAtIssue (k a false) g) n g, formed := true })))

/-- LAUNCH_START: an IDLE core of a module that starts work takes the oldest launch of its logical core's queue and
sets its state as R103 says; before it the loads into its banks in progress have got as far as they have (R147; how
far is a free value, log 93), and no other part of the module changes. -/
def Obligations.LaunchStartsProgram : Prop :=
  ∀ (s : State) (n : Nat) (x : Launch) (q : List Launch),
    (s.core n).mode = .idle → s.logicalOf n ≠ 0xFF → s.modState ≠ 2 → s.modState ≠ 3 →
    s.launches (s.logicalOf n) = x :: q →
    let u := loadsPass s n
    ∃ c, exec (.launchStart n) s = .next ((u.setLaunches (s.logicalOf n) q).setCore n c) ∧
      c.mode = .running ∧ c.index = x.entry ∧ c.active = decide (x.bank = 1) ∧
      (∀ k, 1 ≤ k → k ≤ 7 → cS c k = x.args.getD (k - 1) 0) ∧ (∀ k, 8 ≤ k → k ≤ 29 → cS c k = 0) ∧
      cS c 30 = BitVec.ofNat 64 u.flatId ∧ cS c 31 = BitVec.ofNat 64 (u.logicalOf n) ∧
      (∀ k, 1 ≤ k → cP c k = false) ∧ (∀ k, cSem c k = 0) ∧ c.issued = 0 ∧ c.launch = some x ∧ c.order = x.free ∧
      c.check = u.rbit (Reg.coreIssueReg n) 0 ∧ c.limit = u.rfld (Reg.coreCmdLimit n) 31 0 ∧ c.flights = [] ∧
      c.bank0 = (u.core n).bank0 ∧ c.bank1 = (u.core n).bank1 ∧ c.num = (u.core n).num ∧ c.haltSeq = (u.core n).haltSeq

/-- The halts that no command of the program raises by its operands: an unlisted opcode whatever its predicate, the
command limit, CORE_CTRL.HALT while RUNNING, and the timeout of a WAIT. Each stops issue, enters DRAINING and records
its code against its command (R118, R136, R151, R153, R155, R163). What leaves DRAINING and HALTED: END's drain posts
the end code and enters IDLE; a halt's drain writes the dump, raises CORE_HALT, posts the error completion and enters
HALTED, after 100 us (190,000 cycles) with every command then in flight, of fixed latency too, abandoned and counted;
CLEAR_HALT clears CORE_HALT and enters IDLE; a warm reset keeps the banks alone; FLUSH_COUNT ends at what its own
cycle adds (R61, R140, R152, R153, R154). -/
def Obligations.HaltsAndLeaves : Prop :=
  (∀ (s : State) (n cyc : Nat),
    let c := s.core n
    let halt := fun (u : State) (code detail idx at_ : Nat) => u.setCore n (haltingAs (u.core n) code detail idx at_)
    (c.mode = .running → blocked c = false → c.index < 2048 → (c.limit = 0 ∨ c.issued < c.limit) →
      opcodeListed (cOpcode (nextCmd s n)) = false → ((landed s n).core n).mode = .running →
      exec (.undefinedOpcode n) s = .next (halt (landed s n) 0x01 0 ((landed s n).core n).index (issueAt s n))) ∧
    (c.mode = .running → blocked c = false → c.index < 2048 → c.limit ≠ 0 → c.limit ≤ c.issued →
      ((landed s n).core n).mode = .running →
      exec (.haltLimit n) s = .next (halt (landed s n) 0x04 0 ((landed s n).core n).index (issueAt s n))) ∧
    (c.mode = .running → ((landUpTo s n (max cyc c.tp)).core n).mode = .running →
      exec (.haltHost n cyc) s = .next (halt (landUpTo s n (max cyc c.tp)) 0x08 0 ((landUpTo s n (max cyc c.tp)).core n).index (max cyc c.tp))) ∧
    (∀ sem count idx since, c.block = .wait sem count idx since → s.rfld Reg.coreSemTimeout 31 0 ≠ 0 →
      cSem ((landUpTo s n cyc).core n) sem < count → ((landUpTo s n cyc).core n).mode = .running →
      exec (.waitTimeout n cyc) s = .next (halt (landUpTo s n cyc) 0x06 sem idx cyc))) ∧
  (∀ (s : State) (n : Nat),
    let u := drained s n
    let c := u.core n
    (∀ code l, (s.core n).mode = .draining → (s.core n).ending = some code → noVariable (s.core n) = true →
      c.ending.isSome = true → ((loadsPass u n).core n).launch = some l →
      let v := loadsPass u n
      exec (.endDrainDone n) s = .next ((v.setCore n { v.core n with mode := .idle, launch := none, ending := none, pends := [] }).finishWork
        l.work stOK (BitVec.ofNat 64 code) 0)) ∧
    (∀ l, (s.core n).mode = .draining → (s.core n).ending = none → noVariable (s.core n) = true →
      lastWv (s.core n) ≤ (s.core n).haltCycle + drainCycles →
      let v := writeDump (loadsPass u n) n 0
      (v.core n).launch = some l → exec (.haltDrainDone n) s = .next (haltedOf v n l)) ∧
    (∀ cyc l, (s.core n).mode = .draining → (s.core n).ending = none →
      let x := landUpTo s n (min (max cyc (s.core n).haltCycle) ((s.core n).haltCycle + drainCycles))
      let v := writeDump (loadsPass (abandonCore x n) n) n (x.core n).flights.length
      (v.core n).launch = some l → exec (.haltDrainTimeout n cyc) s = .next (haltedOf v n l)) ∧
    ((s.core n).mode = .halted → ∃ c', exec (.clearHalt n) s = .next (s.setCore n c') ∧ c'.mode = .idle ∧
      haltImage c' = 0 ∧ c'.scalars = (s.core n).scalars ∧ c'.preds = (s.core n).preds ∧ c'.sems = (s.core n).sems ∧
      c'.num = (s.core n).num ∧ c'.bank0 = (s.core n).bank0 ∧ c'.bank1 = (s.core n).bank1) ∧
    (let v := abandonCore s n
     (v.core n).launch = none →
     ∃ c', exec (.coreReset n) s = .next (v.setCore n c') ∧ c'.mode = .idle ∧ c'.scalars = [] ∧ c'.preds = [] ∧ c'.sems = [] ∧
      c'.num = numFlagsReset ∧ haltImage c' = 0 ∧ c'.flights = [] ∧ c'.block = .none ∧ c'.launch = none ∧
      c'.bank0 = (v.core n).bank0 ∧ c'.bank1 = (v.core n).bank1) ∧
    (∀ inc, inc < 2 ^ 32 → ∃ c', exec (.flushClear n inc) s = .next (s.setCore n c') ∧ c'.num.flushCount.toNat = inc ∧
      c' = { s.core n with num := { (s.core n).num with flushCount := c'.num.flushCount } }))

/-- A command in flight completes: the fixed-latency one of the earliest WV, when nothing can issue before, and a
variable-latency one whose result is formed (VEC.UPD, ATOM and IMLOAD do their work first); and a blocked WAIT whose
semaphore holds its count, with nothing of its core due to land on that cycle, takes it and goes on (R128, R129, R132
to R134). -/
def Obligations.CommandsComplete : Prop :=
  ∀ (s : State) (n : Nat),
    (∀ f, nextFixed (s.core n) (lastWv (s.core n)) = some f → (∀ i, nextIssue (s.core n) = some i → f.wv ≤ i) →
      let u := completeFlight s n f f.wv
      ∃ b, exec (.fixedWriteback n) s = .next (u.setCore n { u.core n with block := b }) ∧
        (∀ sem count idx since, (u.core n).block = .wait sem count idx since → ∃ at_, b = .wait sem count idx at_) ∧
        ((∀ sem count idx since, (u.core n).block ≠ .wait sem count idx since) → b = (u.core n).block)) ∧
    (∀ fid cyc x, findFlight (s.core n) fid = some x → x.vlat = true → x.formed = true → x.waiting = 0 →
      x.op ≠ 0xCD → s.snoops = [] → findFlight ((landUpTo s n cyc).core n) fid = some x →
      exec (.varCommandComplete n fid cyc) s = .next (finishFlight (landUpTo s n cyc) n x cyc) ∧
      (x.op ∉ [0x50, 0x84, 0x87] → finishFlight (landUpTo s n cyc) n x cyc = completeFlight (landUpTo s n cyc) n x cyc)) ∧
    (∀ sem count idx since cyc, (s.core n).block = .wait sem count idx since → cSem (s.core n) sem ≥ count →
      since = (s.core n).tp → nextFixed (s.core n) cyc = none →
      ∃ c, exec (.waitSatisfied n cyc) s = .next (s.setCore n c) ∧ c.block = .none ∧
        c.sems = (cSetSem (s.core n) sem (cSem (s.core n) sem - count)).sems ∧ c.tp = max (s.core n).tp cyc ∧
        c.index = (s.core n).index ∧ c.scalars = (s.core n).scalars ∧ c.preds = (s.core n).preds ∧ c.flights = (s.core n).flights)

/-- What every completion does: all of the command's writes stand in memory, in order, and nothing else of memory
changes; its scalars and predicates are written, its number flags become sticky, and it leaves the core; with no
increment of its own it touches no semaphore (R61, R125, R129, R132). -/
def Obligations.CompletionLandsWholeCommand : Prop :=
  ∀ (s : State) (n cyc : Nat) (f : Flight), CoresWf s → tabWf (fun _ => (0 : Word)) (s.core n).scalars = true →
    f.semAdd = [] → f.sig = none →
    let t := completeFlight s n f cyc
    (∀ k, t.mget k = (s.mputs f.writes).mget k) ∧ t.memBad = (s.mputs f.writes).memBad ∧
    (∀ k, 1 ≤ k → (f.amax.all fun x => x.1 != k) = true → cS (t.core n) k = (f.scalars.foldl (fun v x => if x.1 = k then x.2 else v) (cS (s.core n) k))) ∧
    (∀ k, (f.amax.all fun x => x.1 != k) = true → (f.scalars.all fun x => x.1 != k) = true → cS (t.core n) k = cS (s.core n) k) ∧
    (∀ k m, f.amax = some (k, m) → k ≠ 0 → (f.scalars.all fun x => x.1 != k) = true →
      cS (t.core n) k = BitVec.ofNat 64 (max m (cS (s.core n) k).toNat)) ∧
    (t.core n).sems = (s.core n).sems ∧ (t.core n).num = raiseNum (s.core n).num f.flags ∧
    (t.core n).flights = (s.core n).flights.filter (fun x => x.id != f.id) ∧
    (t.core n).mode = (s.core n).mode ∧ (t.core n).index = (s.core n).index ∧
    (t.core n).bank0 = (s.core n).bank0 ∧ (t.core n).bank1 = (s.core n).bank1 ∧
    (∀ m, m ≠ n → t.core m = s.core m) ∧ t.regs = s.regs ∧ t.due = s.due ∧ t.out = s.out ∧ t.hostMem = s.hostMem

/-- MEM_POOL_CTRL.INIT while every core is IDLE or HALTED and none is in progress sets BUSY and clears READY and
CFG_ERR, and nothing else; a build that ends, with every set as its check left it, sets READY, clears BUSY and reports
the first failing pool; MEM_ERR_STATUS.CLEAR leaves the increments of its own cycle (R258, R264, R265). Building a
pool that passes its check: the free list runs through its buffers in order and ends in 0, every count word is 0, FREE
is COUNT, BROKEN and FAILS are 0, and memory outside the region is as before (R262, R264, R270). -/
def Obligations.PoolsBuilt : Prop :=
  (∀ (s : State) (inc : Word),
    ((∀ n, n < 192 → (s.core n).mode = .idle ∨ (s.core n).mode = .halted) → s.rbit Reg.memPoolCtrl 3 = false →
      exec .poolInit s = .next (s.rput Reg.memPoolCtrl (setFld (setFld (s.rget Reg.memPoolCtrl) 3 1 0) 3 3 1))) ∧
    (s.rbit Reg.memPoolCtrl 3 = true →
      let build := poolSets.foldl (fun (acc : State × Option (Nat × Nat)) set =>
        let x := buildSet acc.1 set
        (x.1, acc.2.orElse fun _ => x.2.map fun k => (set, k))) (s, none)
      let done := setFld (setFld (build.1.rget Reg.memPoolCtrl) 3 3 0) 1 1 1
      (build.2 = none → exec .poolInitDone s = .next (build.1.rput Reg.memPoolCtrl done)) ∧
      (∀ set k, build.2 = some (set, k) → exec .poolInitDone s =
        .next (build.1.rput Reg.memPoolCtrl (setFld (setFld (setFld done 2 2 1) 24 16 set) 27 25 k)))) ∧
    exec (.memErrClear inc) s = .next (s.rput Reg.memErrStatus (BitVec.ofNat 64 (fld inc 55 0)))) ∧
  (∀ (s : State) (set k base count : Nat), s.memWf = true → tabWf (fun _ => poolReset) s.pools = true → k < 5 → 1 ≤ count →
    let t := buildPool s set k base count
    let key := fun b => setKey s set b
    (∀ i, i + 1 < count → t.mword (key base + i * bufSize k) = BitVec.ofNat 64 (setAddr s set (base + (i + 1) * bufSize k))) ∧
    t.mword (key base + (count - 1) * bufSize k) = 0 ∧
    (∀ i, i < count → t.mword (key base + count * bufSize k + 8 * i) = 0) ∧
    (∀ a, a < key base ∨ key base + regionLen k count ≤ a → t.mget a = s.mget a) ∧
    t.pool (8 * set + k) = { base := base, count := count, head := setAddr s set base, free := count, broken := false, fails := 0 } ∧
    (∀ i, i ≠ 8 * set + k → t.pool i = s.pool i) ∧ t.regs = s.regs ∧ t.cores = s.cores)

/-- A pool of valid links grants the buffer at its head: FREE falls by one, the head moves to the link, and the
buffer's count word becomes 1 (R268, R270, R271, R276). A release of a held buffer whose count word reads well lowers
that word; at 1 it frees the buffer, which becomes the head of the free list and links to the head before; a release
of a count of 0 raises POOL_DOUBLE_FREE and changes no pool (R270, R273, R274). -/
def Obligations.PoolsGrantAndFree : Prop :=
  (∀ (s : State) (set bytes k j : Nat),
    let p := s.pool (8 * set + k)
    let key := setKey s set (p.base + j * bufSize k)
    sizeCode bytes = some k → s.rbit Reg.memPoolCtrl 1 = true → p.broken = false → p.count ≠ 0 → p.free ≠ 0 →
    (256 ≤ set ∨ set < s.coresEnabled) → isBuffer s set k p p.head = some j → s.badIn key 8 = [] →
    (s.mnat key 8 = 0 ∨ (isBuffer s set k p (s.mnat key 8)).isSome = true) →
    bytes ≤ bufSize k ∧ (∀ k', k' < k → bufSize k' < bytes) ∧
    poolRequest s set bytes = (some p.head,
      (s.setPool (8 * set + k) { p with head := s.mnat key 8, free := p.free - 1 }).mputWord (countKey s set k p j) 1)) ∧
  (∀ (s : State) (a phys set k j : Nat), bufferOf s a = some (set, k, j) →
    let p := s.pool (8 * set + k)
    let ck := countKey s set k p j
    let c := s.mnat ck 8
    let s1 := s.mputWord ck (BitVec.ofNat 64 (c - 1))
    s.badIn ck 8 = [] →
    (c = 0 → ∃ t, poolRelease s a phys = some t ∧ t = { s with regs := t.regs, ev := t.ev } ∧
      (s.ev.latches.all (fun l => l.code != evPOOL_DOUBLE_FREE) = true →
        ∃ l, t.ev.latches = s.ev.latches ++ [l] ∧ l.code = evPOOL_DOUBLE_FREE ∧ l.sev = sevCONTAINED)) ∧
    (1 < c → poolRelease s a phys = some s1) ∧
    (c = 1 → poolRelease s a phys = some ((s1.mputWord (setKey s set (p.base + j * bufSize k)) (BitVec.ofNat 64 p.head)).setPool (8 * set + k)
      { p with head := setAddr s set (p.base + j * bufSize k), free := p.free + 1 })))

/-- A request with no reply is retired, and a core's command halts with HALT_BOUNDS and its operand; a patrol read, or
a reader whose row brings no errors of its own, meets the error it finds; the errors a far package reports are
uncorrectable words, and one that does not answer is lost; a stack's TEMP and refresh step follow its temperature, and
110 °C raises STACK_OVERTEMP, FATAL (R256, R278 to R286). CXL.mem: a host read returns the 64 bytes of the line as
they stand and, when the host caches it, the filter takes the line as its youngest; a host write puts each enabled
byte, at once visible to the device; a snoop response ends the wait, brings the data the host held modified and drops
the line, or keeps it as answered (R524, R525). -/
def Obligations.MemoryUpkeepAndHost : Prop :=
  (∀ (s : State) (n fid d port tag key st temp : Nat) (r : Req),
    (s.rfld Reg.memReqTimeout 31 0 ≠ 0 → s.reqs.find? (fun r => r.port == port && r.tag == tag) = some r →
      exec (.requestTimeout port tag) s = .next (s.failReq r 3) ∧
      (r.who = .core n fid d → s.failReq r 3 = failFlight (s.dropReq r.tag) n fid 0x05 d)) ∧
    (∀ reader, reader = true ∨ s.rbit Reg.memScrubCtrl 0 = true → keyTier key ≤ 1 → s.badIn (granule key) 1 = [] →
      exec (.patrolScrub key 0 reader) s = .next s ∧ exec (.patrolScrub key 1 reader) s = .next (s.memCorrected (granule key)) ∧
      exec (.patrolScrub key 2 reader) s = .next { s.memUncorrectable (granule key) with
        memBad := tabSet (fun _ => false) s.memBad (granule key) true }) ∧
    (∀ p errs, exec (.farEccPoll p true errs) s = .next (s.meet (errs.map fun b => (farKey p b, true))) ∧
      exec (.farEccPoll p false errs) s = .next ({ s with lost := tabSet (fun _ => false) s.lost (32 + p) true }.enterTungsten 2)) ∧
    (let r := Reg.memStackStatus st
     let was := s.rfld r 10 8
     let new := stepDown (stepUp was temp) temp
     temp < 110 → 1 ≤ was → was ≤ 4 → exec (.stackTempChange st temp) s = .next ((s.rsetFld r 7 0 temp).rsetFld r 10 8 new) ∧
       1 ≤ new ∧ new ≤ 4 ∧ (85 ≤ temp → 2 ≤ new) ∧ (95 ≤ temp → 3 ≤ new) ∧ (105 ≤ temp → new = 4) ∧
       (was < new → stepFloor new ≤ temp) ∧ (new < was → temp + 3 ≤ stepFloor (new + 1))) ∧
    (let r := Reg.memStackStatus st
     110 ≤ temp → s.rfld r 7 0 < 110 →
       let s1 := (s.rsetFld r 7 0 temp).rsetFld r 10 8 4
       let s2 := ((s1.raise evSTACK_OVERTEMP sevFATAL [(8, st), (8, temp)]).setDirty.addPoints (.stack st) 1000)
       exec (.stackTempChange st temp) s = .next ({ s2.loseStack st with lost := tabSet (fun _ => false) s2.lost st true }.enterTungsten 2))) ∧
  (∀ (s : State) (range off : Nat) (caches : Bool) (data : List Byte) (be : Word) (line : Nat) (inv keep : Bool),
    let k := hdmKey range (off - off % 64)
    let young := fun (t : State) => { t with snoops := t.snoops.filter (fun x => x.1 != k) ++ [(k, false)] }
    (s.hostUp = true → off - off % 64 < hdmSize range → s.partLost (partOf k) = false → s.filterFull k caches = none →
      s.badIn k 64 = [] →
      exec (.hdmRead range off caches) s = .next ((if caches then young s else s).emit (.memData (s.mbytes k 64)))) ∧
    (s.hostUp = true → off - off % 64 < hdmSize range → s.partLost (partOf k) = false → s.filterFull k caches = none →
      exec (.hdmWrite range off data be caches) s = .next
        (let t := s.mputs ((placeAt 0 data).filterMap fun x => if be.getLsbD x.1 then some (k + x.1, x.2) else none)
         if caches then young t else { t with snoops := t.snoops.filter fun x => x.1 != k })) ∧
    ((line, inv) ∈ s.biWait → data.length = 64 ∨ data = [] →
      let u := if data = [] then s else s.mputBytes line data
      exec (.bisnpResponse line inv data keep) s = .next { u with
        biWait := s.biWait.erase (line, inv)
        snoops := s.snoops.filterMap fun x => if x.1 = line then (if inv || !keep then none else some (x.1, true)) else some x }))

/-- WR, RD, ATOM, SIG and FLOW at the module they reach: the access within its tier is done whole, the answer goes
back on the reply's class at the port where the request was delivered, and FLOW has none; an access outside every tier
is answered by ERR with cause 1, and one of a lost part in TUNGSTEN, a logical core without a physical one among them,
by ERR with cause 2 (R250, R253, R351, R364). -/
def Obligations.RequestFramesServed : Prop :=
  ∀ (s s' : State) (d : Delivered), s.snoops = [] →
    let a := (fAddr d.frame).toNat
    let n := d.frame.payload.length
    let m := fAux d.frame % 2 ^ 13
    (∀ k, s.takeType tyWR = some (d, s') → s.reach a n = .ok k →
      exec .wr s = .next ((s'.mputBytes k d.frame.payload).answer d tyWRACK 0 0 0 [])) ∧
    (∀ k, s.takeType tyRD = some (d, s') → s.reach a m = .ok k → 1 ≤ m → m ≤ 4096 → s'.badIn k m = [] →
      exec (.rd []) s = .next ((s'.draw.2).answer d tyRDDATA 0 s'.draw.1 0 (s'.mbytes k m))) ∧
    (∀ k, s.takeType tyATOM = some (d, s') → s.reach a 8 = .ok k → a % 8 = 0 → fAux d.frame % 8 < 5 → s'.badIn k 8 = [] →
      let old := s'.mword k
      exec .atom s = .next ((s'.mputWord k (atomNew (fAux d.frame % 8) old (fArg d.frame 0) (fArg d.frame 1))).answer d tyATOMRSP 0 0 old [])) ∧
    (∀ n sem, s.takeType tySIG = some (d, s') → semOfAddr a = some (n, sem) → s.modState ≠ mTUNGSTEN →
      exec .sig s = .next ((semAddOutside s' n sem (fAux d.frame % 65536)).answer d tySIGACK 0 0 0 [])) ∧
    (∀ k, s.takeType tyFLOW = some (d, s') → s.reach a n = .ok k → exec .flow s = .next (s'.mputBytes k d.frame.payload)) ∧
    (∀ c, (s.takeType tyWR = some (d, s') → s.reach a n = .error c → exec .wr s = .next (s'.answer d tyERR c 0 0 [])) ∧
      (s.takeType tyRD = some (d, s') → s.reach a m = .error c → ∀ e, exec (.rd e) s = .next (s'.answer d tyERR c 0 0 [])) ∧
      (s.takeType tyATOM = some (d, s') → s.reach a 8 = .error c → exec .atom s = .next (s'.answer d tyERR c 0 0 []))) ∧
    (∀ x len, s.localKey x len = none → s.reach x len = .error (if s.modState = mTUNGSTEN ∧ s.noCore x len = true then 2 else 1)) ∧
    (∀ x len k, s.localKey x len = some k → s.modState = mTUNGSTEN → s.runLost k len = true → s.reach x len = .error 2)

/-- A reply to an outstanding request frees its entry and reaches its requester: RDDATA at the place named, which
forms the result with the last one; WRACK, SIGACK and MSGACK as one reply less to wait for; ATOMRSP with the old
value; ERR fails the command with HALT_BOUNDS and its operand. A reply that answers no entry changes nothing more
(R256, R393). -/
def Obligations.RepliesReachRequester : Prop :=
  ∀ (s s' : State) (d : Delivered) (r : Req) (n fid o : Nat) (f : Flight), r.who = .core n fid o →
    findFlight ((s'.dropReq r.tag).core n) fid = some f →
    (s.takeReply tyRDDATA = some (d, some r, s') → r.kind = .rd →
      exec .rddata s = .next (((s'.dropReq r.tag).setFlight n
        { f with got := gotWith r d.frame f.got, waiting := f.waiting - 1 }).sourcesIn r.who)) ∧
    (s.takeReply tyWRACK = some (d, some r, s') → r.kind = .wr →
      exec .wrack s = .next ((s'.dropReq r.tag).setFlight n { f with waiting := f.waiting - 1 })) ∧
    (s.takeReply tySIGACK = some (d, some r, s') → r.kind = .sig →
      exec .sigack s = .next ((s'.dropReq r.tag).setFlight n { f with waiting := f.waiting - 1 })) ∧
    (s.takeReply tyMSGACK = some (d, some r, s') → r.kind = .msg →
      exec .msgack s = .next ((s'.dropReq r.tag).setFlight n { f with waiting := f.waiting - 1 })) ∧
    (s.takeReply tyATOMRSP = some (d, some r, s') → r.kind = .atom →
      exec .atomrsp s = .next ((s'.dropReq r.tag).setFlight n
        { f with scalars := [((opdField (cOpd f.cmd 1)).sbase, fArg d.frame 0)], formed := true, waiting := f.waiting - 1 })) ∧
    (s.takeReply tyERR = some (d, some r, s') → exec .err s = .next (failFlight (s'.dropReq r.tag) n fid 0x05 o)) ∧
    (∀ row ty, (row, ty) ∈ [(Instr.rddata, tyRDDATA), (.wrack, tyWRACK), (.sigack, tySIGACK), (.msgack, tyMSGACK),
        (.atomrsp, tyATOMRSP), (.err, tyERR)] → s.takeReply ty = some (d, none, s') → exec row s = .next s')

/-- A MSG is written into the buffer that the pool manager grants, its cells are free again and a MSGACK carries the
buffer's address; one for a lost core in TUNGSTEN is answered by ERR with cause 2; without a buffer it stays and is
tried again; after DELIVER_TIMEOUT_US it is sunk with cause DELIVER_DROP and answered by a MSGACK of 0 (R364, R366).
-/
def Obligations.MessagesDelivered : Prop :=
  ∀ (s : State) (d : Delivered) (i a : Nat) (u v : State), s.snoops = [] →
    let s1 := { s with deliv := s.deliv.erase d }
    let put := ((u.ownPut a d.frame.payload).actedOn d).answer d tyMSGACK 0 0 (BitVec.ofNat 64 a) []
    (s.firstDeliv tyMSG = some d → s.modState ≠ mTUNGSTEN →
      (poolRequest s1 (msgSet s d) d.frame.payload.length = (some a, u) → exec .msg s = .next put) ∧
      (poolRequest s1 (msgSet s d) d.frame.payload.length = (none, v) →
        exec .msg s = .next { v with msgWait := v.msgWait ++ [{ d with since := some s.clock }] })) ∧
    (s.firstDeliv tyMSG = some d → s.modState = mTUNGSTEN →
      s.partLost (49 + s.physOf (msgCore d) / 96) = true ∨ msgCore d < s.coresEnabled ∧ 192 ≤ s.physOf (msgCore d) →
      exec .msg s = .next ((s1.actedOn d).answer d tyERR 2 0 0 [])) ∧
    (s.msgWait[i]? = some d →
      (poolRequest s (msgSet s d) d.frame.payload.length = (some a, u) →
        exec (.msgDeliverRetry i) s = .next { put with msgWait := put.msgWait.eraseIdx i }) ∧
      (poolRequest s (msgSet s d) d.frame.payload.length = (none, v) → exec (.msgDeliverRetry i) s = .next v) ∧
      exec (.deliverDrop i) s = .next ((({ s with msgWait := s.msgWait.eraseIdx i }.actedOn d).countCause .deliverDrop d.inPort d.port
        d.frame 0).answer d tyMSGACK 0 0 0 []))

/-- The commands of the link registers: a write of LNK_QCFG starts the links of a quad that it enables and stops those
that it disables, starts them anew where SPLIT or PRECODE changes, and is nothing on the set-up lock's other side;
RETRAIN starts a fast retrain on every link in service; CLEAR_CNT leaves each counter of the quad at the increments of
its own cycle; SPARE_NOW starts planned sparing with a SPARE slot, on the Solder link's lane of quad 30 or 31 too
(R62, R289, R290, R320, R326, R327, R335). The timers of a link in service: an accepted codeword is acknowledged, a
NAK repeated, a keepalive sent, each in the next control slot; a keepalive timeout on lanes free of loss is counted
with 20 points and starts a fast retrain (R308, R309, R315, R316). -/
def Obligations.LinkCommandsAndTimers : Prop :=
  (∀ (s : State) (q : Nat) (v : Word) (fw : Bool), q < 31 →
    let off := Reg.lnkQcfg q
    (s.rwlOpen fw = true → bit (s.rget off) 0 = false → bit v 0 = true →
      let t := s.rput off (v &&& 0x1F#64)
      exec (.enable q v fw) s = .next ((t.quadLinks q).foldl (fun s p => s.startTrain p) t)) ∧
    (s.rwlOpen fw = true → bit (s.rget off) 0 = true → bit v 0 = false →
      exec (.enable q v fw) s = .next (((s.quadLinks q).foldl (fun s p => s.linkOff p) s).rput off (v &&& 0x1F#64))) ∧
    (s.rwlOpen fw = true → bit (s.rget off) 0 = true → bit v 0 = true →
      bit (s.rget off) 3 ≠ bit v 3 ∨ (q < 30 ∧ fld (s.rget off) 2 1 ≠ fld v 2 1) →
      let t := ((s.quadLinks q).foldl (fun s p => s.linkOff p) s).rput off (v &&& 0x1F#64)
      exec (.enable q v fw) s = .next ((t.quadLinks q).foldl (fun s p => s.startTrain p) t)) ∧
    (s.rwlOpen fw = false → exec (.enable q v fw) s = .next s) ∧
    exec (.retrain q) s = .next ((s.quadLinks q).foldl (fun s p =>
      if (s.link p).blocked && s.quadOn q then s.startTrain p else s.fastRetrain p causeRequest) s) ∧
    (∀ incs, ∃ t, exec (.lnkClearCnt q incs) s = .next t ∧ t = { s with regs := t.regs } ∧ (RegsWf s →
      let inc := fun off => BitVec.ofNat 64 (((incs.find? fun y => y.1 == off).map (·.2)).getD 0)
      (∀ k, k < 4 → t.rget (Reg.lnkLcnt q k) = inc (Reg.lnkLcnt q k) ∧
        t.rfld (Reg.lnkLstat q k) 63 32 = fld (inc (Reg.lnkLstat q k)) 63 32) ∧
      (∀ j, j < 5 → t.rget (Reg.lnkPcnt0 q j) = inc (Reg.lnkPcnt0 q j) ∧
        t.rfld (Reg.lnkPcnt1 q j) 31 0 = fld (inc (Reg.lnkPcnt1 q j)) 31 0))) ∧
    (∀ sub lane p k, (if q = 30 then sub = 0 ∧ p = 120 ∧ k = lane ∧ lane < 4 else (s.quadLinks q)[sub]? = some p ∧ k = lane ∧ lane < s.linkW p) →
      (s.link p).phase.serving = true → (s.link p).sparing = none → s.spareReady ((p + k) / 4) = true →
      (s.activeKeys p).contains (p + k) = true →
      exec (.spareNow q lane sub) s = .next (s.setLink p { s.link p with
        sparing := some { lane := k, seq := (s.link p).txSeq, left := 4096, mine := true, accepted := false, trained := false, moved := none, took := false }
        lcsOut := (s.link p).lcsOut ++ [(3, spareWord k (s.link p).txSeq false false)] }))) ∧
  (∀ (s : State) (p : Nat),
    let l := s.link p
    (l.phase.serving = true → l.unacked = true → exec (.ackTimer p) s = .next (s.setLink p { l with lcsDue := true })) ∧
    (l.phase.serving = true → l.naking = true → exec (.nakRepeat p) s = .next (s.setLink p { l with nakDue := true })) ∧
    (l.phase = .live → exec (.keepaliveSend p) s = .next (s.setLink p { l with lcsDue := true })) ∧
    (l.phase = .live → (∀ x ∈ s.rxLanes p, s.lossy x.1 x.2 = false) →
      exec (.kaTimeout p) s = .next (((s.rcount (s.lcntOf p) 47 32 1).addPoints (.port p) 20).fastRetrain p causeKeepalive)))

/-- Training: a good marker fixes the lane's polarity, SNR, plane and peer, is answered by this end's marker and moves
the links of the quad on, unless the planes decoded show neither order of the lanes, which ends bring-up and fast
retrain with a mismatch; a link out of service starts anew at its retry, unless it waits for a PLL; at 300 ms one lane
alone is a mismatch; a fast retrain that fails is tried once more and then takes the link DOWN with its cause; the
spare's training lets the switch go on or abandons it (R318 to R326). The equaliser's 300 ms: of several lanes that
have decoded a marker, each that has not, or whose SNR is below 15.0 dB, counts as condemned for this bring-up, and
the link goes on; so does the Solder link on its other quad where none of this one has (R320, R321, R330). Loss: LOS
and LOL set their bits, are counted once with 100 points, and clear, LOL of a lane that carries codewords only when
one decodes; a lane of a serving link lost for 10 us is replaced by its quad's spare, or the link retrains without it,
or goes DOWN when no lane of it can be used; an unlocked PLL takes every link of its quad DOWN, a locked one starts
them; a first clock mismatch retrains and a second within 1 s takes the quad's links DOWN (R297, R317, R318, R328,
R330, R707). -/
def Obligations.LinkTrainingAndLoss : Prop :=
  (∀ (s : State) (p q j : Nat),
    (∀ inv snr sat w, markerGood w = true → s.laneTrains q j = true →
      let a := (s.rsetBit (Reg.lnkQmap q) (16 + j) inv).rsetFld (Reg.lnkPcnt1 q j) 39 32 snr
      let b := a.setLane q j { a.lane q j with plane := some (fld w 2 0), peerCond := fld w 14 10, sat := sat, peerReady := bit w 22 }
      ((b.laneOrder q).isSome = true → ∃ req ack, req < 8 ∧ ack < 3 ∧
        let m := b.draw.2.emit (.marker q j (b.draw.2.markerOf q j req ack sat))
        exec (.trainingMarker q j inv snr sat w) s = .next ((m.quadLinks q).foldl (fun s p => s.tryAdvance p) m)) ∧
      (b.laneOrder q = none → exec (.trainingMarker q j inv snr sat w) s = .next ((b.quadLinks q).foldl (fun s p =>
        if ((s.link p).phase = .mark ∨ (s.link p).phase = .fmark) ∧ (s.trainLanes p).contains (q, j) = true then s.linkMismatch p 0
        else s) b))) ∧
    (s.quadOn q = true → exec (.bringupRetry q) s = .next ((s.quadLinks q).foldl (fun s p =>
      if (s.link p).blocked = false ∧ (s.link p).phase.serving = false ∧ ¬((s.link p).phase = .down ∧ s.pllLocked p = false)
      then s.startTrain p else s) s)) ∧
    (let ps := (s.quadLinks q).filter fun p => (s.link p).phase == .mark && s.peerSeen p
     ps ≠ [] → ((upFrom 0 5).filter fun j => (s.lane q j).plane.isSome).length = 1 →
      exec (.equaliserTimeout q) s = .next (ps.foldl (fun s p => s.linkMismatch p 0) s)) ∧
    ((s.link p).phase = .fmark ∨ (s.link p).phase = .finit →
      ((s.link p).failed = 0 → exec (.fastRetrainTimeout p) s =
        .next ((s.setLink p { s.link p with failed := 1, phase := .live }).fastRetrain p (s.link p).cause)) ∧
      (1 ≤ (s.link p).failed → exec (.fastRetrainTimeout p) s = .next (s.linkDown p (s.link p).cause))) ∧
    (∀ sp, (s.link p).sparing = some sp → sp.accepted = true →
      exec (.spareTrainDone p true) s = .next ((s.setLink p { s.link p with sparing := some { sp with trained := true } }).trySwitch p) ∧
      (sp.moved = none → exec (.spareTrainDone p false) s = .next ((s.setLink p { s.link p with sparing := none }).spareOwed p)))) ∧
  (∀ (s : State) (q : Nat),
    let ps := (s.quadLinks q).filter fun p => (s.link p).phase == .mark && s.peerSeen p
    let seen := (upFrom 0 5).filter fun j => (s.lane q j).plane.isSome
    ps ≠ [] → seen.length ≠ 1 →
    ∃ t : State, exec (.equaliserTimeout q) s = .next (ps.foldl (fun s p => s.tryAdvance p) t) ∧ t = { s with lanes := t.lanes } ∧
      (tabWf (fun _ => laneReset) s.lanes = true →
        ∀ j, j < 5 → (t.lane q j).bringCond = ((s.lane q j).bringCond || !seen.contains j || decide (s.rfld (Reg.lnkPcnt1 q j) 39 32 < 60)))) ∧
  (∀ (s : State) (p q j key : Nat),
    let r := Reg.lnkPcnt1 q j
    let cdr := fun (b : Bool) => s.setLane q j { s.lane q j with cdr := b }
    (s.rbit r 40 = false → exec (.laneLossStart q j false) s = .next (((s.rsetBit r 40 true).rcount r 15 0 1).lanePoints q j 100)) ∧
    (s.rbit r 41 = false → exec (.laneLossStart q j true) s = .next ((((cdr true).rsetBit r 41 true).rcount r 31 16 1).lanePoints q j 100)) ∧
    exec (.laneLossEnd q j false) s = .next (s.lossEnd q j false) ∧
    ((cdr false).linkOfLane q j = none → exec (.laneLossEnd q j true) s = .next ((cdr false).lossEnd q j true)) ∧
    ((cdr false).linkOfLane q j = some (p, key) → ((cdr false).link p).phase = .live → exec (.laneLossEnd q j true) s = .next (cdr false)) ∧
    (s.lossy q j = true →
      let a := s.setLane q j { s.lane q j with gone := true }
      let b := a.setLane q j { a.lane q j with bringCond := true }
      a.linkOfLane q j = some (p, key) → (a.link p).phase.serving = true →
      (a.spareAuto q = true → a.spareReady q = true →
        let tx := ((upFrom (4 * q) 4).find? fun k => a.txLane k == j).getD key
        let x := ((((a.yieldSpare q).moveTx tx).moveRx key).retireLane q j (a.spareLane q))
        exec (.laneLossPersist q j) s = .next ((x.setLink p { x.link p with
          unplanned := (x.link p).unplanned ++ [(q, j, a.spareLane q)] }).retrainNow p causeSparing)) ∧
      (a.spareAuto q = false ∨ a.spareReady q = false → exec (.laneLossPersist q j) s =
        .next (if b.laneHopes p = [] then b.linkDown p causeLoss else b.retrainNow p causeLoss))) ∧
    (let u := { s with pllLol := tabSet (fun _ => false) s.pllLol q true }
     exec (.quadPllUnlock q) s = .next ((u.quadLinks q).foldl (fun s p => if (s.link p).phase = .down then s
       else (s.linkGone p).raise evLINK_DOWN sevCONTAINED (s.linkItems p ++ [(8, causePll)])) u)) ∧
    (tabGet (fun _ => false) s.pllLol q = true → s.quadOn q = true →
      let u := { s with pllLol := tabSet (fun _ => false) s.pllLol q false }
      exec (.quadPllLock q) s = .next ((u.quadLinks q).foldl (fun s p =>
        if (s.link p).blocked = false ∧ ((s.link p).phase = .down ∨ (s.link p).phase = .lock) then s.startTrain p else s) u)) ∧
    (let u := { s with quadMis := tabSet (fun _ => 0) s.quadMis q (s.clock + 1) }.raise evCLOCK_MISMATCH sevCONTAINED [(8, q), (8, j)]
     (tabGet (fun _ => 0) s.quadMis q = 0 → u.linkOfLane q j = some (p, key) → exec (.clockMismatch q j) s = .next (u.fastRetrain p causeClock)) ∧
     (tabGet (fun _ => 0) s.quadMis q ≠ 0 → s.clock < tabGet (fun _ => 0) s.quadMis q - 1 + 1600000000 →
      exec (.clockMismatch q j) s = .next ((u.quadLinks q).foldl (fun s p => if (s.link p).phase = .down then s else s.linkDown p causeClock) u))))

/-- Codewords: an open link sends one on each logical lane in use, as the levels of its physical lane, and nothing
else leaves; a codeword that decodes with the SEQ expected is accepted whole, and its data slots queue in order; any
other data-bearing one sets NAK, its control slots counted and discarded; a control-only codeword brings only its
control slots; one that does not decode is counted with 20 points, and sets NAK unless its control map as received is
all ones (R292, R293, R300, R301, R304, R308, R309, R317); that last reading of a codeword that does not decode is the
model's choice (log 99). Control slots act in order. IDLE, CTRL and SPARE bring acknowledgement, credits and the fence
mark, and a NAK resends; an INIT slot brings the fence mark; one that disagrees is a mismatch, one that agrees puts
the link in service, but for one that resumes while this end brings the link up anew; a SPARE request that can be met
is accepted, with the count of codewords to its switch, and the spare trains (R303, R304, R310, R320, R323 to R326,
R706). -/
def Obligations.CodewordsAndControlSlots : Prop :=
  (∀ (s : State) (p q j : Nat) (r0 r1 r2 r3 r4 : List Nat),
    let rx := r0 ++ r1 ++ r2 ++ r3 ++ r4
    let open_ := fun (s : State) => (s.link p).phase = .init ∨ (s.link p).phase = .live ∨ (s.link p).phase = .finit
    (open_ s → exec (.codewordSend p) s = .next ((s.activeKeys p).foldl (fun s k => (s.nextWord p).2.sendWord p k (s.nextWord p).1) s)) ∧
    (∀ k c, s.sendWord p k c = (s.emit (.codeword p (k - p) (c.levels (s.precode (k / 4)) (s.lane (k / 4) (s.txLane k)).txLast))).setLane
      (k / 4) (s.txLane k) { s.lane (k / 4) (s.txLane k) with
        txLast := (c.levels (s.precode (k / 4)) (s.lane (k / 4) (s.txLane k)).txLast).getLastD 0 }) ∧
    (let inv := s.rbit (Reg.lnkQmap q) (16 + j)
     let was := (s.lane q j).rxLast
     let r := receiveLevels (s.precode q) inv was rx
     let a := s.laneHears q j (r.map (·.1)) (if inv then 3 - rx.getLastD 0 else rx.getLastD 0)
     ∀ u, a.heardLink q j r.isSome = (some p, u) → open_ u →
      (∀ n c, r = some (n, c) → c.map ≠ 0x3FF → c.seq = (u.link p).rxSeq → exec (.codewordReceive q j r0 r1 r2 r3 r4) s =
        .next (((upFrom 0 10).filter fun i => c.map.testBit i).foldl (fun s i => s.queueLcs p (c.slots.getD i []))
          (u.setLink p { u.link p with
            rxSeq := ((u.link p).rxSeq + 1) % 1024, rxAny := true, unacked := true, naking := false, nakDue := false
            rxSlots := (u.link p).rxSlots ++ ((upFrom 0 10).filter fun i => !c.map.testBit i).map fun i => c.slots.getD i [] }))) ∧
      (∀ n c, r = some (n, c) → c.map ≠ 0x3FF → c.seq ≠ (u.link p).rxSeq → exec (.codewordReceive q j r0 r1 r2 r3 r4) s =
        .next ((u.setLink p { u.link p with naking := true, nakDue := true }).rcount (u.lcntOf p) 63 56
          ((upFrom 0 10).filter fun i => c.map.testBit i).length)) ∧
      (∀ n c, r = some (n, c) → c.map = 0x3FF → exec (.codewordReceive q j r0 r1 r2 r3 r4) s = .next (c.slots.foldl (fun s w => s.queueLcs p w) u)) ∧
      (r = none → receivedMap (s.precode q) inv was rx ≠ 0x3FF → exec (.codewordReceive q j r0 r1 r2 r3 r4) s =
        .next (u.setLink p { u.link p with naking := true, nakDue := true }))) ∧
    (∀ last, (s.lane q j).miss ≠ 3 → s.laneHears q j none last =
      (((s.setLane q j { s.lane q j with miss := (s.lane q j).miss + 1, rxLast := last }).rcount (Reg.lnkPcnt0 q j) 63 40 1).lanePoints q j 20)) ∧
    (∀ w, lcsGood w = true → s.queueLcs p w = s.setLink p { s.link p with lcs := (s.link p).lcs ++ [w] }) ∧
    (∀ w, lcsGood w = false → s.queueLcs p w = s.rcount (s.lcntOf p) 63 56 1)) ∧
  (∀ (s : State) (p : Nat) (w : List Word) (rest : List (List Word)), (s.link p).lcs = w :: rest →
    let u := s.setLink p { s.link p with lcs := rest }
    let m := u.takeFenceMark p (bit (w.getD 0 0) 16)
    (lcsKind w = 0 → exec (.lcsIdle p) s = .next ((u.commonLcs p w).takeNak p w)) ∧
    (lcsKind w = 1 → exec (.lcsCtrl p) s = .next ((u.commonLcs p w).takeNak p w)) ∧
    (lcsKind w = 2 → (m.link p).phase = .init →
      (∀ k, m.initClash p w = some k → exec (.lcsInit p) s = .next (m.linkMismatch p k)) ∧
      (m.initClash p w = none → bit (w.getD 0 0) 17 = true → exec (.lcsInit p) s = .next (m.notePeer p w)) ∧
      (m.initClash p w = none → bit (w.getD 0 0) 17 = false →
        let v := (m.notePeer p w).goLive p false
        let x := v.setLink p { v.link p with trained := true }
        ((m.notePeer p w).link p).trained = false → (x.link p).degraded = false →
        exec (.lcsInit p) s = .next ((x.commonLcs p w).spareOwed p))) ∧
    (lcsKind w = 2 → (m.link p).phase = .finit → m.initClash p w = none →
      (bit (w.getD 0 0) 17 = false → exec (.lcsInit p) s = .next (m.linkDown p causeResume)) ∧
      (let v := (m.notePeer p w).goLive p true
       let x := (v.setLink p { v.link p with unplanned := [], narrowing := false }).commonLcs p w
       bit (w.getD 0 0) 17 = true → (v.link p).unplanned = [] → (v.link p).narrowing = false →
        exec (.lcsInit p) s = .next ((if (x.link p).kept.isEmpty then x else x.replay p).spareOwed p))) ∧
    (lcsKind w = 3 → ∀ v, v = (u.commonLcs p w).takeNak p w → bit (w.getD 4 0) 14 = false → bit (w.getD 4 0) 13 = false →
      let lane := fld (w.getD 4 0) 2 0
      let seq := fld (w.getD 4 0) 12 3
      (v.link p).sparing = none → v.spareReady ((p + lane) / 4) = true → (v.activeKeys p).contains (p + lane) = true →
      exec (.lcsSpare p) s = .next ((v.setLink p { v.link p with
        sparing := some { lane := lane, seq := seq, left := 4096 + (seq + 1024 - (v.link p).txSeq) % 1024, mine := false
                          accepted := true, trained := false, moved := none, took := false }
        lcsOut := (v.link p).lcsOut ++ [(3, spareWord lane seq true false)] }).trainSpare ((p + lane) / 4))))

/-- FRAME_ARRIVE: the frame that an internal port can take enters the switch whole; the next header slot of a link is
a frame to enter when its check holds, and takes the link DOWN when it does not; FRAME_TAIL ends the frame that a link
is receiving (R352, R367, R369, R372). What becomes of a header that has passed its check: without an ID it is sunk
with NO_ID, on a fenced port with SINK_IN, malformed with MALFORMED, and for a route's reason with its cause; a
unicast frame with a usable fixed port is held, charged to its port and VC, and joins that port's queue (R352, R355,
R370, R372, R389). -/
def Obligations.FramesEnterSwitch : Prop :=
  (∀ (s : State) (p : Nat),
    (∀ f, isLinkPort p = false → firstFit s p [] (s.injQ p) = some f →
      let u := { s with inj := tabSet (fun _ => []) s.inj p ((s.injQ p).erase f) }
      let e := u.enter p (frameSlots f)
      exec (.frameArrive p) s = .next (if e.1 then e.2.frameTail s.nextFrame false else e.2)) ∧
    (∀ h t, isLinkPort p = true → let u := s.absorb p
      (u.link p).cur = none → (u.link p).skip = 0 → (u.link p).rxSlots = h :: t →
      (hcrcGood ⟨h, [], []⟩ = false →
        exec (.frameArrive p) s = .next ((u.countCause .hcrc p 255 ⟨h, [], []⟩ 0).linkDown p causeHeader)) ∧
      (hcrcGood ⟨h, [], []⟩ = true →
        let e := (u.setLink p { u.link p with rxSlots := t }).enter p [h]
        (slotsNeed h = 1 → exec (.frameArrive p) s = .next (e.2.settle u.nextFrame)) ∧
        (slotsNeed h ≠ 1 → exec (.frameArrive p) s = .next ((e.2.setLink p
          (if e.1 then { e.2.link p with cur := some u.nextFrame } else { e.2.link p with skip := slotsNeed h - 1 })).absorb p)))) ∧
    (∀ id w t h, let u := s.absorb p
      (u.link p).cur = some id → (u.link p).rxSlots = w :: t → u.held1 id = some h → h.slots.length + 1 = h.need →
      exec (.frameTail p) s = .next (((u.setHeld { h with slots := h.slots ++ [w] }).setLink p
        { u.link p with rxSlots := t, cur := none }).frameTail id false))) ∧
  (∀ (s : State) (p : Nat) (slots : List (List Word)),
    let f := slotsFrame slots
    (s.flatId = 0xFFFF → s.enter p slots = (false, s.sinkArriving .noId p 255 f)) ∧
    (s.flatId ≠ 0xFFFF → s.fenced p = true → s.enter p slots = (false, s.sinkArriving .sinkIn p 255 f)) ∧
    (s.flatId ≠ 0xFFFF → s.fenced p = false → malformedHdr f p = true →
      s.enter p slots = (false, s.sinkArriving .malformed p 255 f)) ∧
    (s.flatId ≠ 0xFFFF → s.fenced p = false → malformedHdr f p = false → fMcast f = false →
      (∀ c o, s.routeOf f p = .sink c o → s.enter p slots = (false, s.sinkArriving c p o f)) ∧
      (∀ q v, s.routeOf f p = .copies [(.port q, v)] →
        let n := frameCells (fPlen f)
        let x := s.takeCells p (fVc f) n
        let h : Held := { id := x.2.nextFrame, inPort := p, inVc := fVc f, cells := n, shared := x.1, at_ := x.2.clock, slots := slots
                          need := slotsNeed f.hdr, whole := slotsNeed f.hdr == 1, bad := false, sending := 0
                          copies := [⟨.port q, v, x.2.nextJoin, x.2.clock⟩] }
        let t := { x.2 with buf := x.2.buf ++ [h], nextFrame := x.2.nextFrame + 1, nextJoin := x.2.nextJoin + 1 }.onJoin q (fTc f)
        t.usable q = true → s.enter p slots = (true, t))))

/-- The route of a unicast frame: to this module it is delivered locally; to a destination that the table marks
invalid, or to a high ID in COORD mode, NO_ROUTE; to a fenced one FENCED_DST; REQ and RSP adapt when any port they may
take is usable; any other class takes D, or is sunk where D is unusable; a MIRROR goes to the twin on port 120, and is
delivered where it comes from there (R355 to R359). ADAPTIVE_CHOICE looks the route up again: a copy whose entry has
gone invalid or fenced since is sunk; else it takes the usable candidate with credit for it that has the most
unconsumed credits, else D on the escape channel, else waits, and is sunk when every port it may take is unusable; a
copy of a frame found bad is sunk where that port has it held whole (R354, R355, R358, R359, R369). -/
def Obligations.RoutingDecides : Prop :=
  (∀ (s : State) (f : Frame) (p : Nat),
    let dst := fDst f
    let st := s.rfld (Reg.swcRoute dst) 41 40
    let d := (s.portsOf dst).1
    (fType f = tyMIRROR → (p = 120 → s.routeOf f p = .copies [(.port (s.deliverPort f), fVc f)]) ∧
      (p ≠ 120 → s.routeOf f p = .copies [(.port 120, fVc f)])) ∧
    (fType f ≠ tyMIRROR → fType f ≠ tyMIRRORACK →
      (dst = s.flatId → s.routeOf f p = .copies [(.port (s.deliverPort f), fVc f)]) ∧
      (dst ≠ s.flatId → st = 0 ∨ st = 3 → s.routeOf f p = .sink .noRoute 255) ∧
      (dst ≠ s.flatId → s.coord = true → dst.testBit 15 = true → s.routeOf f p = .sink .noRoute 255) ∧
      (dst ≠ s.flatId → st = 2 → (s.coord = false ∨ dst.testBit 15 = false) → s.routeOf f p = .sink .fencedDst 255) ∧
      (dst ≠ s.flatId → st = 1 → (s.coord = false ∨ dst.testBit 15 = false) →
        (fVc f = vcREQ ∨ fVc f = vcRSP → (∃ q ∈ d :: (s.portsOf dst).2, s.usable q = true) → s.routeOf f p = .copies [(.adaptive, fVc f)]) ∧
        (fVc f = vcREQ ∨ fVc f = vcRSP → (∀ q ∈ d :: (s.portsOf dst).2, s.usable q = false) → s.fenced d = true →
          s.routeOf f p = .sink .sinkOut d) ∧
        (fVc f ≠ vcREQ → fVc f ≠ vcRSP → d ≠ 0xFF → s.usable d = true → s.routeOf f p = .copies [(.port d, fVc f)]) ∧
        (fVc f ≠ vcREQ → fVc f ≠ vcRSP → d ≠ 0xFF → s.usable d = false → s.fenced d = true → s.routeOf f p = .sink .sinkOut d) ∧
        (fVc f ≠ vcREQ → fVc f ≠ vcRSP → s.usable d = false → s.fenced d = false → s.routeOf f p = .sink .noRoute 255)))) ∧
  (∀ (s : State) (id : Nat) (h : Held) (c : Copy), s.held1 id = some h → h.copies.find? (fun c => c.dest == .adaptive) = some c →
    let f := heldFrame h
    let d := (s.portsOf (fDst f)).1
    let cs := (s.portsOf (fDst f)).2
    let best := bestPort s c.vc (cs.filter fun p => s.usable p && s.hasCredit p c.vc h.cells)
    let copy := fun (p v : Nat) => (⟨.port p, v, s.nextJoin, s.clock⟩ : Copy)
    let join := fun (p v : Nat) => if h.bad && s.mustHold h (copy p v) then s.sinkBad h c else
      ({ s.setHeld { h with copies := h.copies.map fun x => if x = c then copy p v else x } with
        nextJoin := s.nextJoin + 1 }).onJoin p (fTc f)
    (∀ k o, s.routeFirst f = some (.sink k o) → exec (.adaptiveChoice id) s = .next (s.dropCopy h c k o)) ∧
    (s.routeFirst f = none →
      (∀ p, best = some p → exec (.adaptiveChoice id) s = .next (join p c.vc) ∧
        p ∈ cs ∧ s.usable p = true ∧ (∀ q ∈ cs, s.usable q = true → s.hasCredit q c.vc h.cells = true →
          unconsumed (s.link q) c.vc ≤ unconsumed (s.link p) c.vc ∧
          (unconsumed (s.link q) c.vc = unconsumed (s.link p) c.vc → p ≤ q))) ∧
      (best = none → d ≠ 0xFF → s.usable d = true → s.hasCredit d (escVc c.vc) h.cells = true →
        exec (.adaptiveChoice id) s = .next (join d (escVc c.vc))) ∧
      (best = none → (d = 0xFF ∨ s.hasCredit d (escVc c.vc) h.cells = false) → (∃ q ∈ d :: cs, s.usable q = true) →
        exec (.adaptiveChoice id) s = .next s) ∧
      (best = none → (∀ q ∈ d :: cs, s.usable q = false) → s.fenced d = false →
        exec (.adaptiveChoice id) s = .next (s.dropCopy h c .noRoute 255))))

/-- OUTPUT_SELECT: while a switch slice works, what the scheduler of an open port picks leaves on the link, its
credits consumed and its header carrying RES, VC and one hop more; from an internal port it is delivered to its part,
its cells held until it is acted on; a copy past its age is discarded instead, and one past the hop limit on a link
(R306, R360, R364, R372, R384, R385, R401). CREDIT_GRANT gives a port and VC one cell of its guaranteed minimum while
that lasts, then one of the shared pool within its threshold; AGE_CHECK discards every copy past its class's limit,
and every MSG that waits for a buffer; CLEAR_CNT leaves each counter of the switch at the increments of its own cycle
(R62, R375, R377, R385). -/
def Obligations.OutputsAndCredits : Prop :=
  (∀ (s u : State) (p : Nat) (h : Held) (c : Copy), s.pick p = some ((h, c), u) →
    s.mg.thr.slices ≠ 0 → s.usable p = true → isLinkPort p = false ∨ (s.link p).phase = .live ∧ (s.link p).tx = none →
    let rest := h.copies.filter fun x => x != c
    let f := slotsFrame (outHdr u h c false :: h.slots.drop 1)
    let last := rest.isEmpty && h.sending == 0
    let d : Delivered := { frame := f, port := p, inPort := h.inPort, inVc := h.inVc, cells := if last then h.cells else 0
                           shared := if last then h.shared else 0, of_ := if last then none else some h.id, since := none
                           at_ := h.at_, res := fRes (heldFrame h) }
    let v := if last then { u with buf := u.buf.filter fun x => x.id != h.id }
      else u.setHeld { h with copies := rest, sending := h.sending + 1 }
    (u.aged h = true → exec (.outputSelect p) s = .next (u.dropCopy h c (if fTc (heldFrame h) = 0 then .guarAge else .age) p)) ∧
    (isLinkPort p = true → u.aged h = false → u.hopsLeft (heldFrame h) = false →
      exec (.outputSelect p) s = .next (u.dropCopy h c .hopLimit 255)) ∧
    (isLinkPort p = true → u.aged h = false → u.hopsLeft (heldFrame h) = true →
      exec (.outputSelect p) s = .next ((u.setLink p { u.link p with
        tx := some ⟨h.id, outHdr u h c true, 0, h.need⟩
        used := tabSet (fun _ => 0) (u.link p).used c.vc ((tabGet (fun _ => 0) (u.link p).used c.vc + h.cells) % 65536) }).setHeld
          { h with copies := rest, sending := h.sending + 1 })) ∧
    (isLinkPort p = false → u.aged h = false →
      (noMgmt f = false → exec (.outputSelect p) s = .next { v with deliv := v.deliv ++ [d] }) ∧
      (noMgmt f = true → exec (.outputSelect p) s =
        .next ((if mgmtMalformed f then v.countCause .malformed h.inPort 255 f 0 else v).actedOn d)))) ∧
  (∀ (s : State) (p v : Nat), p ∈ allPorts →
    let c := s.cellsOf p v
    let one := if isLinkPort p then c.cred + 1 else c.cred
    ((isLinkPort p = false ∨ (s.link p).phase.serving = true) → c.g < 16384 →
      (c.o + c.g - (c.osh + c.gsh) < gminOf (s.gminWord p) v →
        exec (.creditGrant p v) s = .next (s.setCells p v { c with g := c.g + 1, cred := one })) ∧
      (gminOf (s.gminWord p) v ≤ c.o + c.g - (c.osh + c.gsh) → v ≠ vcGUAR → s.sharedFree ≠ 0 →
        16 * (c.osh + c.gsh) < s.sharedFree * 2 ^ s.rfld Reg.swcCtrl 10 8 →
        exec (.creditGrant p v) s = .next { s.setCells p v { c with g := c.g + 1, gsh := c.gsh + 1, cred := one } with
          sharedUsed := s.sharedUsed + 1 })) ∧
    ((∀ h ∈ s.buf, s.aged h = false) → (∀ d ∈ s.msgWait, s.waitAged d = false) → exec .ageCheck s = .next s) ∧
    (∀ d, s.buf = [] → s.msgWait = [d] → s.waitAged d = true → exec .ageCheck s = .next
      ({ s.countCause (if fTc d.frame = 0 then .guarAge else .age) d.inPort d.port d.frame
          (min 0xFFFF (d.res + ceilDiv ((s.clock - d.at_) * 5) 64)) with msgWait := [] }.actedOn d)) ∧
    (∀ h, s.buf = [h] → s.msgWait = [] → s.aged h = true → exec .ageCheck s = .next (h.copies.foldl (fun s c =>
      s.dropCopy h c (if fTc (heldFrame h) = 0 then .guarAge else .age) (match c.dest with | .port p => p | .adaptive => 255)) s)) ∧
    (∀ incs, ∃ t, exec (.swcClearCnt incs) s = .next t ∧ t = { s with regs := t.regs, causes := [], stuDrops := [] } ∧ (RegsWf s →
      let inc := fun off => BitVec.ofNat 64 (((incs.find? fun y => y.1 == off).map (·.2)).getD 0)
      t.rget (Reg.swcPortStat0 p) = inc (Reg.swcPortStat0 p) ∧ t.rget (Reg.swcPortStat1 p) = inc (Reg.swcPortStat1 p) ∧
      t.rget Reg.swcDropStat0 = inc Reg.swcDropStat0 ∧ t.rfld Reg.swcDropStat1 31 0 = fld (inc Reg.swcDropStat1) 31 0)))

/-- Writes of the switch's own registers and the refill: FENCE marks a link port and flushes what waits for it, at
once or, while a frame is being sent there, at the next frame boundary, so that only the register changes; minima that
would pass 245,760 cells are refused whole; a reservation is VALID only with a rate and room for its largest frame; a
refill brings tokens up to their burst and takes up the registers; the policer accepts its oldest frame when it holds
the tokens (R373, R389, R390, R406 to R411). -/
def Obligations.SwitchRegistersAct : Prop :=
  ∀ (s : State) (p r : Nat) (v : Word) (fw : Bool),
    (s.rwlOpen fw = true → isLinkPort p = true → RegsWf s →
      let w := fun b => s.rsetBit (Reg.swcPortCfg p) 1 b
      (∀ b, (s.link p).tx.isSome = true → exec (.fence p b fw) s = .next (w b)) ∧
      ((s.link p).tx = none → s.fenced p = false → exec (.fence p true fw) s =
        .next (({ w true with fences := tabSet (fun _ => false) s.fences p true }.syncLink p).flushPort p)) ∧
      ((s.link p).tx = none → s.fenced p = true → exec (.fence p false fw) s =
        .next ({ w false with fences := tabSet (fun _ => false) s.fences p false }.syncLink p))) ∧
    (let w := v &&& 0x0FFFFFFFFFFFFFFF#64
     let sum := (allPorts.map fun k => if k = p then gminSum w else gminSum (s.rget (Reg.swcPortGmin k))).sum
     s.rwlOpen fw = true → p ∈ allPorts →
      (245760 < sum → exec (.gminWrite p v fw) s = .next (s.rsetBit Reg.swcBufStat 38 true)) ∧
      (sum ≤ 245760 → (isLinkPort p = true ∨ s.heldCells p ≠ 0) → exec (.gminWrite p v fw) s = .next (s.rput (Reg.swcPortGmin p) w)) ∧
      (sum ≤ 245760 → isLinkPort p = false → s.heldCells p = 0 → exec (.gminWrite p v fw) s = .next { s.rput (Reg.swcPortGmin p) w with
        gminEff := tabSet (fun k => regReset (Reg.swcPortGmin k)) s.gminEff p w })) ∧
    (let w := v &&& 0x001FFFFFFFFFFF01#64
     let ok := fld w 23 8 ≠ 0 ∧ fld w 52 40 + s.rfld Reg.swcSchedCtrl 5 0 ≤ fld w 39 24
     s.rwlOpen fw = true →
      (bit w 0 = false ∨ ok → exec (.rsvWrite r v fw) s = .next (s.rput (Reg.swcRsv r) w)) ∧
      (bit w 0 = true → ¬ok → exec (.rsvWrite r v fw) s = .next (s.rput (Reg.swcRsv r) (setBit w 0 false)))) ∧
    (s.rwlOpen fw = false → exec (.fence p true fw) s = .next s ∧ exec (.gminWrite p v fw) s = .next s ∧ exec (.rsvWrite r v fw) s = .next s) ∧
    (∃ t, exec .refill s = .next t ∧ t = { s with sched := t.sched, rsv := t.rsv } ∧ (tabWf (fun _ => rsvReset) s.rsv = true → r < 64 →
      (t.rsv1 r).reg = s.rget (Reg.swcRsv r) ∧ (t.rsv1 r).queue = (s.rsv1 r).queue ∧
      (bit (s.rget (Reg.swcRsv r)) 0 = true → (t.rsv1 r).tokens ≤ fld (s.rget (Reg.swcRsv r)) 39 24))) ∧
    (∀ f who t, (s.rsv1 r).queue = (p, f, who) :: t →
      let need := frameLen f.payload.length + s.rfld Reg.swcSchedCtrl 5 0
      bit (s.rsv1 r).reg 0 = true → need ≤ (s.rsv1 r).tokens →
      let u := (s.setRsv r { s.rsv1 r with tokens := (s.rsv1 r).tokens - need, queue := t }).inject p f
      exec (.policerAccept r) s = .next (match who with | some id => u.finishWork id stOK 0 0 | none => u))

/-- CHUNK: the oldest frame delivered to a unit joins its slot when the slot serves its collective, has that input and
takes it from that module; else it is discarded and counted, NOSLOT without such a slot, BADCHUNK from another sender,
STALE where its group has another GEN; a chunk of an older attempt is dropped (R433, R435, R491, R503). STU_SUM: a
chunk of a number already sent or already held from its input is discarded as DUP, one past the window as WINDOW; any
other is held, and with the last input of its number the sum is sent (R434, R446, R447). -/
def Obligations.ChunksReachSlots : Prop :=
  (∀ (s v : State) (u : Nat) (d : Delivered), s.snoops = [] →
    s.takeDeliv (fun d => d.port == 144 + u && fType d.frame == tyCHUNK) = some (d, v) →
    let f := d.frame
    (v.genCurrent f = false → exec (.chunk u) s = .next v.countStale) ∧
    (v.genCurrent f = true → v.slot1 (chunkSlot f) = none → exec (.chunk u) s = .next (v.stuDrop u dropNOSLOT (ckColl f))) ∧
    (∀ x, v.genCurrent f = true → v.slot1 (chunkSlot f) = some x →
      (ckColl f ≠ x.coll → exec (.chunk u) s = .next (v.stuDrop u dropNOSLOT (ckColl f))) ∧
      (ckColl f = x.coll → argAttempt (fArg f 2) < argAttempt x.arg2 → exec (.chunk u) s = .next v) ∧
      (ckColl f = x.coll → argAttempt x.arg2 ≤ argAttempt (fArg f 2) →
        (ckRank f < x.nin → x.src.getD (ckRank f) 0x10000 = fSrc f →
          exec (.chunk u) s = .next { v.setSlot (chunkSlot f) (some { x with inbox := x.inbox ++ [(v.nextJoin, f)] }) with
            nextJoin := v.nextJoin + 1 }) ∧
        (x.nin ≤ ckRank f ∨ x.src.getD (ckRank f) 0x10000 ≠ fSrc f →
          exec (.chunk u) s = .next (v.stuDrop u dropBADCHUNK (ckColl f)))))) ∧
  (∀ (s : State) (n ce : Nat) (ue : Option Nat) (wrong : Bool) (x : Slot) (f : Frame) (t : List (Nat × Frame)), s.snoops = [] →
    Takes s n .sum x f t →
    let j := ckNo f
    let u := s.setSlot n (some { x with inbox := t })
    let good := ckGood f && ckFmt f != 0xD
    let w := workedOn s n ce ue x t
    let v := testedIn w (unitNow s n x t) n good x f
    let y := { x with inbox := t, held := x.held ++ [⟨j, ckRank f, f, good, decide (ckPayloadCheck f ≠ ckCheck f)⟩]
                      badAt := if ue.isSome then j :: x.badAt else x.badAt }
    (j < x.low ∨ j ∈ x.sentUp ∨ (x.held.any fun i => i.j == j && i.rank == ckRank f) = true →
      exec (.stuSum n ce ue wrong) s = .next (u.stuDrop (unitNow s n x t) dropDUP x.coll)) ∧
    (x.low ≤ j → j ∉ x.sentUp → (x.held.any fun i => i.j == j && i.rank == ckRank f) = false →
      (x.low + x.w ≤ j → exec (.stuSum n ce ue wrong) s = .next (u.stuDrop (unitNow s n x t) dropWINDOW x.coll)) ∧
      (j < x.low + x.w →
        ((y.held.filter fun i => i.j == j).length = x.nin → exec (.stuSum n ce ue wrong) s = .next (v.sumSend n y j wrong)) ∧
        ((y.held.filter fun i => i.j == j).length ≠ x.nin → exec (.stuSum n ce ue wrong) s = .next (v.setSlot n (some y))))))

/-- A SUM output adds its inputs exactly: every element is the code of the sum of the inputs' elements, CONTRIB and
CHECK are the sums of theirs, CHECK modulo P, and E, NELEM and OFFSET are the lowest input's (R443, R445). The check
of element-wise sums is the sum of the checks modulo P, so a right sum always passes the output test (R439, R443,
R444). -/
def Obligations.SumsAndTheirChecks : Prop :=
  (∀ (xs : List SumIn) (r : SumIn), xs.head? = some r → (∀ x ∈ xs, x.good = true ∧ ckBad x.frame = false) →
    (∀ x ∈ xs, ckE x.frame = ckE r.frame ∧ ckNelem x.frame = ckNelem r.frame ∧ ckOffset x.frame = ckOffset r.frame) →
    (xs.map fun x => ckContrib x.frame).sum ≤ 65536 →
    let c := sumChunk xs false
    c.bad = false ∧ c.fmt = 0xB ∧ c.nelem = ckNelem r.frame ∧ c.e = ckE r.frame ∧ c.offset = ckOffset r.frame ∧
    c.contrib = (xs.map fun x => ckContrib x.frame).sum ∧ c.check = (xs.map fun x => ckCheck x.frame).sum % chkP ∧
    c.payload.length = 5 * ckNelem r.frame ∧
    (∀ i, i < ckNelem r.frame → (-(2 : Int) ^ 39 ≤ (xs.map fun x => (ckElems x.frame).getD i 0).sum) →
      ((xs.map fun x => (ckElems x.frame).getD i 0).sum < (2 : Int) ^ 39) →
      (sumElems c.payload c.nelem).getD i 0 = (xs.map fun x => (ckElems x.frame).getD i 0).sum)) ∧
  (∀ (es : List (List Int)) (n : Nat), (∀ e ∈ es, e.length = n) →
    checkOf ((upFrom 0 n).map fun i => (es.map fun e => e.getD i 0).sum) = (es.map checkOf).sum % chkP)

/-- The check of a sequence placed at position o of a longer one contributes powmod(o) times its check (R442). -/
def Obligations.CheckOffsetRule : Prop :=
  ∀ (pre e post : List Int),
    checkOf (pre ++ e ++ post) =
      (checkOf pre + mulMod (powMod pre.length) (checkOf e) + mulMod (powMod (pre.length + e.length)) (checkOf post)) % chkP

/-- The order of a sort: every record exactly once, by key ascending or descending, equal keys in input order (R463).
-/
def Obligations.SortIsStable : Prop :=
  ∀ (desc : Bool) (l : List (Int × List Byte)),
    (sortRecs desc l).Perm l ∧
    (sortRecs desc l).Pairwise (fun a b => if desc then b.1 ≤ a.1 else a.1 ≤ b.1) ∧
    ∀ k, (sortRecs desc l).filter (fun r => r.1 == k) = l.filter (fun r => r.1 == k)

/-- GATHER_FIXED sends each chunk on at its input's base, its payload and CHECK unchanged, BAD when it is bad; a sort
takes a chunk's records under their keys and, with its last input ended, sends them in order; a merge sends what its
inputs let it; a filter sends each record to the outputs of its mask; a gather adds to its lane and ends with its last
(R449 to R452, R462 to R469). -/
def Obligations.RecordSlotsWork : Prop :=
  ∀ (s : State) (n ce : Nat) (ue : Option Nat) (wrong : Bool) (x : Slot) (f : Frame) (t : List (Nat × Frame)), s.snoops = [] →
    let w := workedOn s n ce ue x t
    (Takes s n .gatherFixed x f t → x.outs.getD 0 .unset ≠ .unset →
      let g := (testedIn w (unitNow s n x t) n (ckGood f) x f).garbleIf (wrong || ue.isSome) f.payload
      exec (.stuGatherFixed n ce ue wrong) s = .next (g.2.inject (144 + unitNow s n x t)
        (gatherFrame g.2.flatId { x with inbox := t } f (!ckGood f || ue.isSome) g.1))) ∧
    (let v := testedIn w (unitNow s n x t) n (recGood x f) x f
     let y := recSlot x f t ue
     let ks := v.keyed y f (recsIn x f)
     let a := addRecs y f ks
     (Takes s n .sortLocal x f t → x.finished = false → (a.ins.map (·.seen)).sum * slotRecBytes a ≤ a.pages * 4096 →
      (allEnded a = false → exec (.stuSortLocal n ce ue wrong) s = .next (v.setSlot n (some a))) ∧
      (allEnded a = true →
        let p := v.packAll n { a with ins := a.ins.map fun i => { i with recs := [] } } 0 wrong
          ((sortRecs a.desc (a.ins.flatMap (·.recs))).map (·.2))
        let e := p.2.packEnd n p.1 (ckNo f)
        exec (.stuSortLocal n ce ue wrong) s = .next (e.2.setSlot n (some e.1)))) ∧
     (Takes s n .sortMerge x f t →
      let o := inOrder y.desc (slotIn y (ckRank f)).prev (ks.map (·.1))
      let b := { setIn a (ckRank f) { slotIn a (ckRank f) with prev := o.2 } with bad := a.bad || !o.1 }
      let m := mergeGo b.desc ((b.ins.map fun i => i.recs.length).sum) b.ins
      let p := v.packAll n { b with ins := m.2 } 0 wrong m.1
      let fin := allEnded p.1 && (p.1.ins.all fun i => i.recs.isEmpty) && !p.1.finished
      let e := p.2.packEnd n p.1 (ckNo f)
      exec (.stuSortMerge n ce ue wrong) s = .next (if fin then e.2.setSlot n (some e.1) else p.2.setSlot n (some p.1))) ∧
     (Takes s n .filter x f t →
      let p := v.filterAll n y (v.kernelWords y.kernel) wrong (ckOffset f) (recsIn x f)
      let e := p.2.packEnd n p.1 (ckNo f)
      exec (.stuFilter n ce ue wrong) s = .next (if ckLast f && !p.1.finished then
        ((e.2.setSlot n (some e.1)).filterDone e.1.h e.1.dropped).admitColls else p.2.setSlot n (some p.1))) ∧
     (Takes s n .gatherLanes x f t →
      let b := laneAdd y f (recsIn x f)
      exec (.stuGatherLanes n ce ue wrong) s =
        .next (if allEnded b && !b.finished then (v.lanesEnd n b wrong).admitColls else v.setSlot n (some b))))

/-- The kernel store: COMMIT checks the staged words and starts the install, or names the first at fault, or finds the
kernel in use, and does nothing while one is busy; the install copies the words, marks the kernel valid and sets DONE;
CLEAR_CNT leaves a unit's counts at the increments of its own cycle (R62, R457 to R461, R471). -/
def Obligations.KernelStoreActs : Prop :=
  ∀ (s : State) (v : Word) (fw : Bool) (u k len : Nat),
    let a := if s.rwlOpen fw then s.rsetFld Reg.stuKctrl 14 0 (fld v 14 0) else s
    let i := a.rfld Reg.stuKctrl 7 0
    let m := a.rfld Reg.stuKctrl 14 8
    let ws := ((upFrom 0 32).flatMap fun j => [fld (a.rget (Reg.stuKstage j)) 31 0, fld (a.rget (Reg.stuKstage j)) 63 32]).take m
    (s.rfld Reg.stuKctrl 19 17 ≠ 1 → 1 ≤ m → m ≤ 64 →
      (kFault ws = none → a.kernelUsed i = false →
        exec (.kctrlCommit v fw) s = .next { a.rsetFld Reg.stuKctrl 19 17 1 with kernelJob := some (i, m) }) ∧
      (kFault ws = none → a.kernelUsed i = true → exec (.kctrlCommit v fw) s = .next (a.rsetFld Reg.stuKctrl 19 17 4)) ∧
      (∀ at_, kFault ws = some at_ →
        exec (.kctrlCommit v fw) s = .next ((a.rsetFld Reg.stuKctrl 19 17 3).rsetFld Reg.stuKctrl 26 20 at_))) ∧
    (s.kernelJob = some (k, len) →
      let b := (upFrom 0 32).foldl (fun (s : State) j =>
        s.rput (Reg.stuKimage k j) (if 2 * j + 1 < len then s.rget (Reg.stuKstage j)
          else if 2 * j < len then setFld (s.rget (Reg.stuKstage j)) 63 32 0 else 0)) s
      exec .kernelInstallDone s = .next { (b.rsetBit (Reg.stuKvalid (k / 64)) (k % 64) true).rsetFld Reg.stuKctrl 19 17 2 with kernelJob := none }) ∧
    (∀ incs, ∃ t, exec (.stuClearCnt u incs) s = .next t ∧ t = { s with regs := t.regs } ∧ (RegsWf s →
      let inc := fun off => BitVec.ofNat 64 (((incs.find? fun y => y.1 == off).map (·.2)).getD 0)
      t.rget (Reg.stuUnitDrop u) = inc (Reg.stuUnitDrop u) ∧ t.rfld (Reg.stuUnitStat u) 31 0 = s.rfld (Reg.stuUnitStat u) 31 0 ∧
      t.rfld (Reg.stuUnitStat u) 63 32 = fld (inc (Reg.stuUnitStat u)) 63 32))

/-- The control frames of a collective act on the one that they name: READY gives a member its output, ACK counts a
child's chunks, PACE goes on down the tree and opens the window, RETX has the root send the chunk again, REPORT tells
the coordinator, END goes on down the tree and ends the collective or starts its second attempt; a stale one is
counted (R491 to R505). -/
def Obligations.ControlFramesAct : Prop :=
  ∀ (s u : State) (c : Coll) (f : Frame), s.snoops = [] →
    let st := frStripe f
    let j := fld (hw f 2) 31 16
    (Names s u tyREADY c f → exec .ready s = .next ((u.takeReady c.h f).admitColls)) ∧
    (Names s u tyACK c f → ∀ r, gRankOf c.grp (fSrc f) = some r →
      exec .ack s = .next (((u.setColl { c with
        acks := tabSet (fun _ => 0) c.acks (65536 * st + r) (max (j + 1) (tabGet (fun _ => 0) c.acks (65536 * st + r))) }).push c.h st).admitColls)) ∧
    (Names s u tyPACE c f → collRoot c st ≠ c.me → tabGet (fun _ => 0) c.paced st ≤ j →
      let v := u.setColl { c with paced := tabSet (fun _ => 0) c.paced st (j + 1) }
      exec .pace s = .next ((((fanFrames c st (ctlFrame v c tyPACE 0xFFFF st (noWord c j) 0 0)).foldl (fun s x => s.sendCtl c.h st x) v).push c.h st).admitColls)) ∧
    (Names s u tyRETX c f → ∀ k, c.kept.find? (fun k => k.s == st && k.j == j) = some k → collRoot c st = c.me →
      exec .retx s = .next ((u.inject (stripePort st) (u.resultOf c k (fSrc f) true)).admitColls)) ∧
    (Names s u tyREPORT c f → coordinator c = c.me →
      (fld (hw f 2) 58 57 = 0 → ∀ r, gRankOf c.grp (fSrc f) = some r → exec .report s = .next ((u.noteDone c.h r).admitColls)) ∧
      (fld (hw f 2) 58 57 = 1 → exec .report s = .next
        ((u.onFail c.h (frAttempt f) (fld (hw f 2) 47 40) (fld (hw f 2) 55 48) (fld (fArg f 0) 15 0)).admitColls))) ∧
    (Names s u tyEND c f →
      let code := fld (hw f 2) 47 40
      let cause := fld (hw f 2) 55 48
      let lost := fld (fArg f 0) 15 0
      let out := ctlFrame u { c with attempt := frAttempt f } tyEND 0xFFFF 0 (endWord c code cause (fld (hw f 2) 56 56) 0) 0 (BitVec.ofNat 64 lost)
      let v := (fanFrames c 0 out).foldl (fun s x => s.sendCtl c.h 0 x) u
      exec .collEnd s = .next ((if fld (hw f 2) 56 56 = 1 then v.retryColl c.h else v.finish c.h code cause lost).admitColls)) ∧
    (∀ d, s.takeDeliv (fun d => fType d.frame == tyACK) = some (d, u) → u.genCurrent d.frame = false →
      exec .ack s = .next u.countStale)

/-- RESULT of a sum: a BAD chunk fails the collective; one that its check confirms is written, kept and forwarded, and
what it makes ready is acknowledged; one that its check refutes is re-requested, and at its root fails the collective.
Its writes' visibility, a repeated request and a repeated reservation push on what waits for them (R495, R499 to
R503). How a collective ends here: it leaves the table with its requests, its completion record stands at its address,
COUNT follows, a failure is counted, and its launcher learns the code (R486, R487). -/
def Obligations.ResultsAndEnds : Prop :=
  (∀ (s u : State) (c : Coll) (f : Frame), s.snoops = [] →
    let st := frStripe f
    let j := fld (hw f 2) 31 16
    let good := ckGood f && ckFmt f == 0xB && checkOf (ckElems f) == ckCheck f
    (Names s u tyRESULT c f → dSum c.desc = true → j < stripeChunks c st → st < dS c.desc → (st, j) ∉ c.passed →
      (ckBad f = true → exec .result s = .next ((u.failColl c.h 3 5 0xFFFF).admitColls)) ∧
      (ckBad f = false → good = true → exec .result s = .next (((u.passResult c.h st f).push c.h st).admitColls)) ∧
      (ckBad f = false → good = false → collRoot c st = c.me → exec .result s = .next ((u.failColl c.h 3 3 0xFFFF).admitColls)) ∧
      (ckBad f = false → good = false → collRoot c st ≠ c.me → exec .result s = .next ((u.missResult c st j).admitColls))) ∧
    (∀ h stripe k, s.coll h = some c →
      ((stripe, k) ∈ c.passed → (stripe, k) ∉ c.visible → exec (.resultVisible h stripe k) s =
        .next (((s.setColl { c with visible := (stripe, k) :: c.visible }).push h stripe).admitColls)) ∧
      ((∃ x ∈ c.misses, x.1 = (stripe, k)) → (stripe, k) ∉ c.passed →
        let v := (s.setColl { c with retx := c.retx + 1 }).rcount Reg.stuCollStat 47 32 1
        exec (.retxRepeat h stripe k) s = .next
          ((v.sendCtl h stripe (ctlFrame v c tyRETX (gId c.grp (collRoot c stripe)) stripe (noWord c k) 0 0)).admitColls)) ∧
      exec (.reserveRetry h) s = .next ((s.tryRoles h).admitColls))) ∧
  (∀ (s : State) (h code cause lost id : Nat) (c : Coll), s.coll h = some c → c.who = .work id → c.roles = [] → s.unsent = [] →
    let t := { s with colls := s.colls.filter fun x => x.h != h, reqs := s.reqs.filter fun r => !(r.who == Requester.coll h) }
    let r := (t.mputBytes c.record (wordsBytes (recordWords c code cause lost))).rsetFld Reg.stuCollStat 10 0 t.colls.length
    (code = 0 → s.finish h code cause lost = r.finishWork id stOK 0 0) ∧
    (code ≠ 0 → s.finish h code cause lost = (r.rcount Reg.stuCollStat 31 16 1).finishWork id stCOLL_FAILED (BitVec.ofNat 64 code) cause))

/-- Groups: COMMIT of an entry in the module's own near tier reads and checks it, of another one fails; the end of the
commit makes a good entry current and sets DONE, a bad one INVALID; a new GEN ends the collectives of the old one
(R476, R511). Timers and polls: without progress a member fails, for NOSLOT while it lacks a slot; at twice the
timeout it ends by itself; a poll that finds a fenced member fails with its ID; an END that has repeats left is sent
again, and one that is refused sends no more of them; the timers and the poll are not a race's (R413, R495, R505 to
R509). Races: the member that finds the race word 0 has won and copies, and ends once its copy is visible; any other
ends at once, with WON clear; a word of this module is taken in one step, by its member's ID plus 1 (R513). -/
def Obligations.GroupsTimersAndRaces : Prop :=
  (∀ (s : State) (g : Nat), s.snoops = [] →
    let a := (s.rget Reg.stuCollGbase).toNat + 0x20000 * g
    let b := s.rsetFld Reg.stuCollGset 9 8 1
    (s.rfld Reg.stuCollGset 9 8 ≠ 1 → ∀ k, b.ownRegion a 0x20000 = true → addrTier a = 1 → b.localKey a 0x20000 = some k → b.badIn k 0x11100 = [] →
      exec (.gsetCommit g) s = .next { b with
        groupPend := some (g, if b.groupOk k (b.readGroup k) then some (b.readGroup k) else none) }) ∧
    (s.rfld Reg.stuCollGset 9 8 ≠ 1 → (b.ownRegion a 0x20000 = false ∨ addrTier a ≠ 1) →
      exec (.gsetCommit g) s = .next { b with groupPend := some (g, none) }) ∧
    (s.rfld Reg.stuCollGset 9 8 = 1 → exec (.gsetCommit g) s = .next s) ∧
    (s.groupPend = some (g, none) →
      exec .groupCommitDone s = .next ({ s with groupPend := none }.rsetFld Reg.stuCollGset 9 8 3)) ∧
    (∀ e, s.groupPend = some (g, some e) →
      exec .groupCommitDone s = .next (((({ s with groupPend := none }).setGroup g e).rsetFld Reg.stuCollGset 9 8 2).admitColls)) ∧
    (∀ e, s.group g = none → s.setGroup g e = { s with groups := tabSet (fun _ => none) s.groups g (some e) })) ∧
  (∀ (s : State) (h : Nat) (c : Coll), s.snoops = [] → s.coll h = some c →
    let cause := if (c.roles.any fun r => r.slot.isNone && (r.out != .unset || r.level == 4)) = true then 1 else 2
    (dKind c.desc ≠ kRACE →
      exec (.collProgressTimeout h) s = .next ((s.failColl h 1 cause 0xFFFF).admitColls) ∧
      (s.fencedMember c = none → exec (.collSelfEnd h) s = .next ((s.finish h 1 cause 0xFFFF).admitColls)) ∧
      (∀ id, s.fencedMember c = some id → exec (.collSelfEnd h) s = .next ((s.finish h 2 6 id).admitColls) ∧
        exec (.memberPoll h) s = .next ((s.failColl h 2 6 id).admitColls)) ∧
      (s.fencedMember c = none → exec (.memberPoll h) s = .next s)) ∧
    (dKind c.desc = kRACE → exec (.collProgressTimeout h) s = .next s ∧ exec (.collSelfEnd h) s = .next s ∧ exec (.memberPoll h) s = .next s) ∧
    (∀ i e, s.endJobs[i]? = some e →
      exec (.endRepeat i) s = .next ((repeatEnd e e.frames { s with
        endJobs := if e.left ≤ 1 then s.endJobs.eraseIdx i else s.endJobs.set i { e with left := e.left - 1 } }).admitColls)) ∧
    (∀ e f t, (s.coll e.id).isSome = false →
      repeatEnd e (f :: t) s = if (s.askClass0 0 e.port f).1 = true then repeatEnd e t (s.askClass0 0 e.port f).2
        else { (s.askClass0 0 e.port f).2 with endJobs := (s.askClass0 0 e.port f).2.endJobs.filter fun x => x.id != e.id })) ∧
  (∀ (s : State) (h : Nat) (c : Coll), s.snoops = [] → s.coll h = some c → dKind c.desc = kRACE → c.waiting = 0 →
    (∀ v, c.won = false → c.old = some v →
      (v = 0 → exec (.raceCasReply h) s = .next (((s.setColl { c with old := some v, won := true }).raceCopy { c with old := some v, won := true }).admitColls)) ∧
      (v ≠ 0 → exec (.raceCasReply h) s = .next ((s.finish h 0 0 0xFFFF).admitColls))) ∧
    (∀ k, c.won = false → c.old = none → addrId (dRacew c.desc) = s.flatId → s.localKey (dRacew c.desc) 8 = some k → s.badIn k 8 = [] →
      s.mword k = 0 →
      let u := s.mputWord k (BitVec.ofNat 64 (s.flatId + 1))
      exec (.raceCasReply h) s = .next (((u.setColl { c with old := some 0, won := true }).raceCopy { c with old := some 0, won := true }).admitColls)) ∧
    (c.won = true → exec (.raceCopyDone h) s = .next ((s.finish h 0 0 0xFFFF).admitColls)))

/-- A descriptor that R541, R548, R551 or R554 turns away completes at once with that status; one that runs: NOP
completes OK; CREATE_CQ adds the ring, CREATE_SQ asks for its doorbell line first; DELETE_CQ removes the ring;
DELETE_SQ ends what has not started; OPEN, CLOSE and RESET_FLOW set the flow's state (R540, R551, R554, R714). -/
def Obligations.RingCommandsAct : Prop :=
  ∀ (s u : State) (n : Nat) (d : List Word), s.snoops = [] →
    let w3 := wd d 3
    (∀ data fail, ∀ x ∈ descRow data fail, ∀ st res det, s.takeDesc x.1 = some (n, d, u) → s.judge n d = some (st, res, det) →
      exec x.2 s = .next (u.complete n d st res det false)) ∧
    (∀ data fail, ∀ x ∈ descRow data fail, s.takeDesc x.1 = none → exec x.2 s = .next s) ∧
    (Served s opNOP n d u → exec .nop s = .next (u.complete n d stOK 0 0 false)) ∧
    (Served s opCREATE_CQ n d u →
      let c : Cq := { n := fld w3 7 0, base := wkSource d, log2 := fld w3 12 8, line := wkDest d, irq := bit w3 13, delay := fld w3 31 16
                      count := fld w3 47 32, index := 0, head := 0, unsig := 0 }
      exec .createCq s = .next ({ u with cqs := addCq c u.cqs }.complete n d stOK 0 0 false)) ∧
    (Served s opCREATE_SQ n d u → wkOp d = opCREATE_SQ →
      let q : Sq := { n := fld w3 7 0, base := wkSource d, log2 := fld w3 20 16, line := wkDest d, cq := fld w3 15 8, tail := 0, fetch := 0
                      err := false, staged := [], stall := none, creator := some u.nextWork, deleting := none }
      exec .createSq s = .next ({ started u n d with sqs := addSq q u.sqs }.askLine (fld w3 7 0))) ∧
    (Served s opDELETE_SQ n d u → wkOp d = opDELETE_SQ → ∀ q, u.sq (fld (wd d 1) 7 0) = some q →
      exec .deleteSq s = .next (q.staged.foldl (fun (s : State) x => (s.complete q.n x.desc stABORTED 0 0 false).dropStage x.buf)
        ((started u n d).setSq { q with staged := [], stall := none, deleting := some u.nextWork }))) ∧
    (Served s opDELETE_CQ n d u →
      let k := fld (wd d 1) 7 0
      let v := u.dropLine (256 + k)
      exec .deleteCq s =
        .next ({ v with cqs := v.cqs.filter (fun c => c.n != k), due := v.due.filter (fun e => e.cq != k) }.complete n d stOK 0 0 false)) ∧
    (Served s opOPEN_FLOW n d u →
      exec .openFlow s = .next ((u.setFlow (fld (wd d 1) 15 0) ⟨1, fld (wd d 1) 21 16, 0⟩).complete n d stOK 0 0 false)) ∧
    (Served s opCLOSE_FLOW n d u →
      let k := fld (wd d 1) 15 0
      ((u.flow k).work = 0 → exec .closeFlow s = .next ((u.setFlow k ⟨0, 0, 0⟩).complete n d stOK 0 0 false)) ∧
      ((u.flow k).work ≠ 0 → wkOp d = opCLOSE_FLOW → exec .closeFlow s = .next (started (u.setFlow k { u.flow k with st := 3 }) n d))) ∧
    (Served s opRESET_FLOW n d u →
      let k := fld (wd d 1) 15 0
      exec .resetFlow s = .next ((u.setFlow k { u.flow k with st := 1 }).complete n d stOK 0 0 false))

/-- Work descriptors that run: LAUNCH puts its launch last in its logical core's queue, COLL asks for its collective,
and PLOAD, COPY and FLOWSEND begin their transfer, host memory being reached only in full operation; each is one more
outstanding work of its flow (R543 to R547, R554, R592). -/
def Obligations.WorkDescriptorsStart : Prop :=
  ∀ (s u : State) (n : Nat) (d : List Word), s.snoops = [] →
    (Served s opLAUNCH n d u → wkOp d = opLAUNCH →
      let v := started u n d
      let x : Launch := { work := u.nextWork, flow := wkFlow d, logical := wkCore d, bank := fld (wd d 0) 30 30
                          entry := fld (wd d 0) 29 19, free := bit (wd d 0) 31, args := (upFrom 1 7).map (wd d) }
      exec .launch s = .next (v.setLaunches (wkCore d) (v.launches (wkCore d) ++ [x])) ∧
      v.flow (wkFlow d) = (u.setFlow (wkFlow d) { u.flow (wkFlow d) with work := (u.flow (wkFlow d)).work + 1 }).flow (wkFlow d)) ∧
    (Served s opCOLL n d u → ∀ k, (started u n d).localKey (wkSource d) 192 = some k →
      exec .coll s = .next ((started u n d).askColl (.work u.nextWork) (wkFlow d) k ((started u n d).physOf (wkCore d)))) ∧
    (∀ data fail,
      (Served s opPLOAD n d u → exec (.pload data fail) s = .next ((started u n d).beginWork (newWork u.nextWork n d) data fail)) ∧
      (Served s opCOPY n d u → exec (.copy data fail) s = .next ((started u n d).beginWork (newWork u.nextWork n d) data fail)) ∧
      (Served s opFLOWSEND n d u → exec (.flowsend data fail) s = .next ((started u n d).beginWork (newWork u.nextWork n d) data fail))) ∧
    (∀ (v : State) (w : Work) data fail, wkSrcHost w.desc = true → (wkOp w.desc ≠ opCOPY ∨ wkDstHost w.desc = true) → v.hostUp = false →
      v.beginWork w data fail = (v.setWork { w with formed := true, bytes := [] }).boundsWork w.id (wkSource w.desc) 3)

/-- Rings: a snoop of a held line takes it or leaves it; the doorbell line brings TAIL, and a TAIL more than the
ring's length away is an error; a descriptor fetched waits in staging; staging asked again; started work ends when
R540 lets it (R521, R532 to R536, R540). An entry of 32 bytes goes into the CQ's next slot when it fits, and signals
its vector as R558 says; a full CQ has HEAD read again; a delay signals what is unsignalled. An event record goes into
the event ring, TAIL follows once it is visible, and it stays waiting where its slot cannot be reached; HEAD is read
again before a record is counted as lost, and when it comes lets more go (R549, R550, R552, R556 to R558, R568). -/
def Obligations.RingsServed : Prop :=
  (∀ (s : State) (n tail : Nat) (q : Sq) (words : List Word), s.sq n = some q →
    (∀ k, s.lineHeld k = true →
      let u := (s.setLine k false).emit (.snoopRsp k false)
      exec (.doorbellSnoop k) s = .next (if u.lineDue k then u.askLine k else u) ∧
      exec (.snoopData k) s = .next (s.emit (.snoopRsp k true))) ∧
    (s.lineWanted n = true → q.err = false → q.creator = none →
      let u := s.setWant n false
      exec (.doorbellLineFill n tail true) s = .next (if 2 ^ q.log2 < (tail + 2 ^ 32 - q.fetch) % 2 ^ 32
        then (u.setLine n true).sqError { q with tail := tail } tail else (u.setLine n true).setSq { q with tail := tail }) ∧
      exec (.doorbellLineFill n tail false) s = .next (u.hostFault.sqError q q.tail)) ∧
    (s.serving = true → q.err = false → q.deleting = none → q.stall = none → q.fetch ≠ q.tail →
      let u := s.emit (.cacheReq .rdCurr (q.base + q.fetch % 2 ^ q.log2 * 64))
      exec (.descriptorFetch n words true) s = .next (u.stageDesc q words) ∧
      exec (.descriptorFetch n words false) s = .next (u.hostFault.sqError q q.tail)) ∧
    (let u := s.sqs.foldl (fun (s : State) q => match q.stall with | some d => s.stageDesc q d | none => s) s
     exec .stagingRetry s = .next (u.works.foldl (fun (s : State) w => if w.wantsBuf then s.stageWork w else s) u)) ∧
    (∀ id w, s.work id = some w →
      ((wkOp w.desc = opPLOAD ∨ wkOp w.desc = opCOPY) → w.formed = true → w.waiting = 0 → w.wantsBuf = false →
        exec (.descriptorWorkDone id) s = .next (s.endWork w)) ∧
      (wkOp w.desc = opDELETE_SQ → w.cut = false → s.sq (fld (wd w.desc 1) 7 0) = some q → (∀ x ∈ s.works, x.sq ≠ q.n) →
        exec (.descriptorWorkDone id) s = .next ((s.removeSq q).finishWork id stOK 0 0)) ∧
      (wkOp w.desc = opCLOSE_FLOW → (s.flow (fld (wd w.desc 1) 15 0)).st ≠ 3 →
        exec (.descriptorWorkDone id) s = .next (s.finishWork id stOK 0 0)))) ∧
  (∀ (s : State) (n : Nat) (c : Cq) (e : Due) (masked : Bool), s.cq n = some c →
    let m := s.maskSeen n masked
    let m' := s.maskSeen 256 masked
    (s.serving = true → s.due.find? (fun e => e.cq == n) = some e →
      let a := c.base + c.index % 2 ^ c.log2 * 32
      let u := { m with due := s.due.erase e }.emit (.cacheReq .wOWrInv a)
      let c' := { c with index := (c.index + 1) % 2 ^ 32, unsig := c.unsig + 1 }
      (ringFits c.index c.head c.log2 = true → ∀ ok,
        let v := if ok then u.hputBytes a (wordsBytes (entryWords u c e)) else u.hostFault
        exec (.cqEntryWrite n masked ok) s = .next (if n = 0 ∨ (c.irq = true ∧ (max 1 c.count ≤ c.unsig + 1 ∨ c.delay = 0))
          then (v.setCq { c' with unsig := 0 }).signal n else v.setCq c')) ∧
      (ringFits c.index c.head c.log2 = false → ∀ ok, exec (.cqEntryWrite n masked ok) s = .next (m.askLine (256 + n)))) ∧
    (c.irq = true → c.n ≠ 0 → 1 ≤ c.unsig → exec (.cqIrqDelay n masked) s = .next ((m.setCq { c with unsig := 0 }).signal n)) ∧
    (s.evr.unsig = true →
      exec (.eventIrqDelay masked) s = .next ({ m' with evr := { s.evr with unsig := false } }.signal 256)) ∧
    (∀ l t, s.evRunning = true → s.evq = l :: t → s.evr.lost = none →
      (2 ≤ evFree s.evr → ∀ tail,
        let a := s.evr.base + s.evr.tail % 2 ^ s.evr.log2 * 64
        let u := m'.emit (.cacheReq .itoMWr a)
        let v := { u.hputBytes a (recordBytes l) with evr := { s.evr with tail := (s.evr.tail + 1) % 2 ^ 32 } }.writeTail tail
        exec (.eventRecordWrite masked false tail) s = .next (u.rsetBit Reg.hifErr 2 true).hostFault ∧
        (2 ≤ l.sev → exec (.eventRecordWrite masked true tail) s =
          .next { ({ v with evr := { v.evr with unsig := false } }.signal 256) with evq := t }) ∧
        (l.sev < 2 → exec (.eventRecordWrite masked true tail) s = .next { v with evr := { v.evr with unsig := true }, evq := t })) ∧
      (evFree s.evr < 2 → ∀ ok tail,
        (s.lineHeld 512 = false → exec (.eventRecordWrite masked ok tail) s = .next (m'.askLine 512)) ∧
        (s.lineHeld 512 = true → exec (.eventRecordWrite masked ok tail) s =
          .next (({ m' with evq := t, evr := { s.evr with lost := some (l.seq, lossAdd l (List.replicate 16 0)) } }.rcount
            Reg.hifStatus 47 32 1).askLine 512)))) ∧
    (∀ head, n < 256 → s.lineWanted (256 + n) = true →
      let u := ((m.setWant (256 + n) false).setLine (256 + n) true).setCq { c with head := head }
      exec (.headLineFill n head true masked) s = .next (if u.serving then State.writeEntries n u.due.length u else u)))

/-- The host link and its resets: training at PCIe 6.4 and x16, x8 or x4 gives full operation, anything else takes it
away and is told; PERST, a hot reset and link disable are host-interface resets that take the link down, the function-
level and the HIF reset leave it up; ENABLE starts the rings or resets; the island's failure takes the module to
TUNGSTEN (R518, R559 to R562, R568, R594, R712). The set-up lock: LOCK sets LOCKED; a request while LOCKED is granted
when FUSE_SEC's UNLOCK_POLICY is FREE, refused when it is NONE, and else waits; a wait that ends without authorisation
is refused; a grant clears LOCKED and is told (R565 to R567, R632). -/
def Obligations.HostLinkAndLock : Prop :=
  (∀ (s : State) (w r : Nat) (b tail : Bool),
    (s.perst = false → s.partLost 48 = false → s.mg.pins.hostClk = true → s.mg.pins.modRst = false →
      let u := s.rsetFld Reg.hifStatus 4 0 w
      let v := u.rsetBit Reg.hifStatus 5 true
      let v := if w = 16 then v else v.raise evHOST_LINK_DEGRADED sevINFO [(8, w), (8, r)]
      (r = 64 → (w = 16 ∨ w = 8 ∨ w = 4) → exec (.hostLinkTrain w r tail) s =
        .next (if v.rbit Reg.hifStatus 6 then v else v.resumeRings tail)) ∧
      (¬(r = 64 ∧ (w = 16 ∨ w = 8 ∨ w = 4)) → exec (.hostLinkTrain w r tail) s =
        .next ((u.rsetFld Reg.hifStatus 6 5 0).raise evHOST_LINK_DEGRADED sevCONTAINED [(8, w), (8, r)]))) ∧
    exec .hostFullOperationLoss s = .next (s.rsetFld Reg.hifStatus 6 5 0) ∧
    exec .perstN s = .next (linkDown { s with perst := true }) ∧
    exec .perstNDeassert s = .next { s with perst := false } ∧
    exec .hotReset s = .next (linkDown s) ∧ exec .linkDisable s = .next (linkDown s) ∧
    exec .functionLevelReset s = .next { s.hifReset with msix := [], vmask := [] } ∧ exec .hifReset s = .next s.hifReset ∧
    (let was := s.rbit Reg.hifCtrl 0
     let u := s.rsetBit Reg.hifCtrl 0 true
     (b = true → was = false → exec (.hifEnable b tail) s = .next (if u.hostUp then u.startRings tail else u)) ∧
     (b = false → was = true → exec (.hifEnable b tail) s = .next s.hifReset) ∧
     (b = was → exec (.hifEnable b tail) s = .next s)) ∧
    exec .hostInterfaceIslandFails s =
      .next ((({ s with lost := tabSet (fun _ => false) s.lost 48 true }.rsetFld Reg.hifStatus 6 0 0).flushPort 121).enterTungsten 1) ∧
    s.hifReset.due = [] ∧ s.hifReset.works = s.works.map cutWork) ∧
  (∀ (s : State),
    (exec .lock s = .next (s.setLocked true) ∧ ∀ v, (s.setLocked v).regs = (s.rsetBit Reg.hifSetupLock 1 v).regs) ∧
    (s.rbit Reg.hifSetupLock 1 = true → s.rfld Reg.hifSetupUnlock 2 1 ≠ 1 →
      (s.rfld Reg.fuseSec 13 12 = 0 → exec .request s =
        .next (((s.rsetFld Reg.hifSetupUnlock 2 1 2).setLocked false).raise evSETUP_UNLOCKED sevINFO [(8, 0)])) ∧
      (s.rfld Reg.fuseSec 13 12 = 3 → exec .request s = .next (s.rsetFld Reg.hifSetupUnlock 2 1 3)) ∧
      (s.rfld Reg.fuseSec 13 12 ≠ 0 → s.rfld Reg.fuseSec 13 12 ≠ 3 → exec .request s = .next (s.rsetFld Reg.hifSetupUnlock 2 1 1))) ∧
    ((s.rbit Reg.hifSetupLock 1 = false ∨ s.rfld Reg.hifSetupUnlock 2 1 = 1) → exec .request s = .next s) ∧
    (s.rfld Reg.hifSetupUnlock 2 1 = 1 → exec .unlockAuthTimeout s = .next (s.rsetFld Reg.hifSetupUnlock 2 1 3)))

/-- A commit refused keeps COMMITTED, shows its reason and is told; one with no twin, or of no region, is done at
once; any other mirrors its regions in order, 4 KiB a frame with the check of R583 carried on, then the manifest in a
SEAL; the acknowledgment ends it, and so does its timeout (R578, R581 to R583). The twin's side: a frame's bytes go
into the hold area and its check into its region's; one outside the area sets BOUNDS; the first frame of a mirror
begins its step anew; a SEAL brings the manifest; when every write is visible, HELD of the bank becomes the step if
and only if the checks agree, and a MIRRORACK answers on class 0 (R581, R583). -/
def Obligations.TwinMirrors : Prop :=
  (∀ (s : State) (step : Word) (x : MirrorTx), s.snoops = [] →
    let setRes := fun (s : State) (st r : Nat) => (s.rsetFld Reg.twnStatus 2 0 st).rsetFld Reg.twnStatus 7 4 r
    let begun := { s with mirrorStep := step }
    (s.rfld Reg.twnStatus 2 0 = 1 → exec (.twnCommit step) s = .next (s.rcount Reg.twnStatus 31 16 1)) ∧
    (s.rfld Reg.twnStatus 2 0 ≠ 1 →
      (s.commitReason step ≠ 0 → exec (.twnCommit step) s =
        .next ((setRes s 3 (s.commitReason step)).raise evCOMMIT_REFUSED sevCONTAINED [(64, step.toNat), (8, s.commitReason step)])) ∧
      (s.commitReason step = 0 → (s.rbit Reg.twnCfg 2 = true ∨ s.regions = []) →
        exec (.twnCommit step) s = .next (mirrorAt (begun.committed step) none)) ∧
      (s.commitReason step = 0 → s.rbit Reg.twnCfg 2 = false → s.regions ≠ [] →
        exec (.twnCommit step) s = .next (mirrorAt (setRes begun 1 0) (some ⟨step, 0, 0, 0, [], false⟩)))) ∧
    (Mirrors s x → s.regions.length ≤ x.region → exec .mirrorInject s =
      .next (mirrorAt (s.inject 143 (s.mirrorFrame x 0 (1 <<< 9) 0 (manifestBytes x.manifest))) (some { x with done := true }))) ∧
    (Mirrors s x → x.region < s.regions.length → ∀ k, s.localKey (s.rgnBase x.region + x.step.toNat % 2 * s.rgnBytes x.region + x.off) 4096 = some k →
      s.memBad = [] →
      let bytes := (s.rdMem k 4096).1
      let u := (s.rdMem k 4096).2
      let addr := u.rfld (u.lstatOf 120) 23 8 <<< 48 + 2 <<< 46 + u.rgnHold x.region + x.step.toNat % 2 * s.rgnBytes x.region + x.off
      let sum := (x.sum + mulMod (powMod (x.off / 4)) (checkBytes bytes)) % chkP
      u = s ∧ exec .mirrorInject s = .next (mirrorAt (s.inject 143 (s.mirrorFrame x addr x.region x.off bytes))
        (some (if s.rgnBytes x.region ≤ x.off + 4096
          then { x with region := x.region + 1, off := 0, sum := 0, manifest := x.manifest ++ [(sum, s.rgnBytes x.region)] }
          else { x with off := x.off + 4096, sum := sum })))) ∧
    (∀ d u, s.takeDeliv (fun d => fType d.frame == tyMIRRORACK) = some (d, u) → u.mg.mirror = some x → x.done = true →
      u.rfld Reg.twnStatus 2 0 = 1 → fArg d.frame 0 = x.step → (bit (hw d.frame 3) 40).toNat = x.step.toNat % 2 →
      exec .mirrorack s = .next (if fld (hw d.frame 3) 39 32 = 0 then u.committed x.step else u.mirrorFail (fld (hw d.frame 3) 39 32))) ∧
    (s.mg.mirror = some x → x.done = true → exec .mirrorAckTimeout s = .next (s.mirrorFail 5))) ∧
  (∀ (s u : State) (d : Delivered), s.snoops = [] →
    let f := d.frame
    let n := f.payload.length
    let o := bitsN (fAddr f).toNat 45 0
    let x := (u.twinFor f).1
    let v := (u.twinFor f).2
    let hold := u.rfld Reg.twnHoldPages 28 0 * 4096
    (u.holdBytes = if (u.localKey (u.flatId <<< 48 + 2 <<< 46 + u.rfld Reg.twnHoldBase 39 12 * 4096) hold).isSome then hold else 0) ∧
    (mirrorFirst f = true → x = ⟨fArg f 0, (bit (hw f 3) 40).toNat, [], false, none, fSrc f⟩ ∧
      v = u.rput (Reg.twnHeld (bit (hw f 3) 40).toNat) (BitVec.allOnes 64)) ∧
    (s.mirrorIn false = some (d, u) → u.twinReady = true →
      (o + n ≤ u.holdBytes → ∀ k,
        u.localKey (u.flatId <<< 48 + 2 <<< 46 + u.rfld Reg.twnHoldBase 39 12 * 4096 + o) n = some k →
        let r := fld (hw f 3) 39 32
        let sum := (tabGet (fun _ => 0) x.checks r + mulMod (powMod ((fArg f 1).toNat / 4)) (checkBytes f.payload)) % chkP
        exec .mirror s = .next (twinAt (v.mputBytes k f.payload) (some { x with checks := tabSet (fun _ => 0) x.checks r sum }))) ∧
      (u.holdBytes < o + n → exec .mirror s = .next (twinAt v (some { x with bounds := true })))) ∧
    (s.mirrorIn false = some (d, u) → u.twinReady = false → exec .mirror s = .next u) ∧
    (s.mirrorIn true = some (d, u) → exec .twnSeal s = .next (twinAt v (some { x with manifest := some f.payload, src := fSrc f }))) ∧
    (∀ y man, s.mg.twinIn = some y → y.manifest = some man → (∀ d ∈ s.deliv, fType d.frame ≠ tyMIRROR) →
      let st := s.sealStatus y man
      let w := twinAt (if st = 0 then s.rput (Reg.twnHeld y.bank) y.step else s) none
      exec .sealVerify s = .next (w.askClass0 1 143 (mkFrame {
        dst := y.src, src := w.flatId, tc := 0, vc := vcGUAR, ty := tyMIRRORACK, flow := 0, tag := 0, addr := 0
        aux := st + y.bank <<< 8, arg0 := y.step })).2))

/-- Restart, boundary and swap: with every core IDLE and no collective, a restart to one of the two last steps sets
COMMITTED, and a boundary applies the repairs due, in order; otherwise NOT_READY shows. Points decay by a sixteenth of
themselves (R584, R599, R601 to R605). -/
def Obligations.BoundariesApplyRepairs : Prop :=
  ∀ (s : State) (c : Word) (errs : List Nat) (l : Nat),
    let now := s.rget Reg.twnCommitted
    let none_ : Word := BitVec.allOnes 64
    let okay := s.boundaryOk = true
    ((∀ n < 192, (s.core n).mode = .idle) → s.colls = [] → s.collWaits = [] → okay) ∧
    (okay → (c = none_ ∨ now = none_ ∨ c = now ∨ c = now - 1) →
      let u := s.rput Reg.twnCommitted c
      exec (.twnRestart c errs) s =
        .next ((mirrorAt (u.rput Reg.twnStatus (setFld (setFld (u.rget Reg.twnStatus) 7 3 0) 2 0 0)) none).boundary errs)) ∧
    (¬ (c = none_ ∨ now = none_ ∨ c = now ∨ c = now - 1) → exec (.twnRestart c errs) s = .next (s.rsetBit Reg.twnStatus 10 true)) ∧
    (okay → exec (.boundary errs) s = .next (s.boundary errs)) ∧
    (¬ okay → exec (.boundary errs) s = .next (s.rsetBit Reg.twnStatus 10 true) ∧
      exec (.twnRestart c errs) s = .next (s.rsetBit Reg.twnStatus 10 true)) ∧
    (s.boundary errs = ((s.repairs.foldl (fun (s : State) r => s.repairOne errs r) { s with repairs := [] }).rsetBit Reg.twnStatus 8 false).rsetBit Reg.twnSwap 9 false) ∧
    (l < s.coresEnabled → s.physOf l < 192 → exec (.twnSwap l true) s = .next ((s.addRepair ⟨6, s.physOf l, 0⟩).rsetBit Reg.twnSwap 9 true)) ∧
    exec (.twnSwap l false) s = .next s ∧
    (RegsWf s → ∃ t, exec .healthDecay s = .next t ∧ ∀ x ∈ s.regs, t.rget x.1 =
      if 0x702000 ≤ x.1 ∧ x.1 < 0x703C00 ∧ fld x.2 33 32 < 2 then setFld x.2 31 0 (fld x.2 31 0 - fld x.2 31 0 / 16) else x.2)

/-- Cross-checks and replays: a spare that agrees frees its capture, one that does not has a second spare run it, and
the verdict blames one that differs from the other two; FREE empties a slot; GO at a boundary sets the clock of the
capture, and the replay's end restores it and tells the mismatches; FATAL_CLEAR (R606 to R609, R613). -/
def Obligations.CrossChecksJudge : Prop :=
  ∀ (s : State) (k : Nat) (c : Capture) (bytes : List Byte), s.capture k = some c →
    (c.kept = false → c.check2 = 0xFF → bytes = c.expect.map (·.2) →
      exec (.xchkSpareDone k bytes) s = .next (s.setCapture k none)) ∧
    (c.kept = false → c.check2 = 0xFF → bytes ≠ c.expect.map (·.2) → (∀ n < 192, n ≠ c.check1 → s.spareFree n = false) →
      exec (.xchkSpareDone k bytes) s = .next (s.verdict k { c with result := (c.expect.map (·.1)).zip bytes } 2)) ∧
    (∀ sp, c.kept = false → c.check2 = 0xFF → bytes ≠ c.expect.map (·.2) →
      (upFrom 0 192).find? (fun n => n != c.check1 && s.spareFree n) = some sp →
      exec (.xchkSpareDone k bytes) s = .next (((s.setCapture k (some { c with result := (c.expect.map (·.1)).zip bytes, check2 := sp })).clearPewter
        sp).mputs ((s.mem.filter fun x => decide (x.1 / 2 ^ 23 = c.check1)).map fun x => (pewKey sp (x.1 % 2 ^ 23), x.2)))) ∧
    (c.kept = false → c.check2 ≠ 0xFF → exec (.xchkSpareDone k bytes) s =
      .next (s.verdict k c (if bytes = c.expect.map (·.2) then 0 else if bytes = c.result.map (·.2) then 1 else 2))) ∧
    (let u := s.rsetFld Reg.twnReplay 3 0 k
     exec (.free k) s = .next (if c.kept then u.setCapture k none else u)) ∧
    (∀ count key,
      let u := (s.rsetFld Reg.twnReplay 3 0 k).rsetFld Reg.twnReplay 19 4 count
      u.captureKey k = some key → c.kept = true → u.boundaryOk = true →
      (u.rfld Reg.twnReplay 23 22 = 0 ∨ u.rfld Reg.twnReplay 23 22 = 3) →
      let v := (u.setMg fun m => { m with replayHalf := c.phys / 96, replayClk := u.clockOf (c.phys / 96) }).setClock (c.phys / 96)
        (fld (u.mword (key + 4 * 2 ^ 20 + 16)) 43 32 / 50)
      exec (.go k count) s = .next ((v.rsetFld Reg.twnReplay 23 22 1).rsetBit Reg.twnReplay 24 false)) ∧
    (∀ m t v,
      (s.rfld Reg.twnReplay 23 22 = 1 → exec .replayHeatDone s = .next (s.rsetFld Reg.twnReplay 23 22 2) ∧
        exec (.replayHeatTimeout t v) s = .next ((s.rsetBit Reg.twnReplay 24 true).replayDone 0 t v)) ∧
      (s.rfld Reg.twnReplay 23 22 = 2 → exec (.replayRunDone m t v) s = .next (s.replayDone m t v))) ∧
    exec .fatalClear s = .next ((s.rput Reg.twnFatal0 0).rput Reg.twnFatal1 0)

/-- Events: the severest latch is handled first, of equals the first raised, and goes to the ring and then to the log;
a FATAL one is handled inside another's handling. A strobe holds the watchdog off for 10 ms; when it expires, every
lane quad is disabled (R556, R597, R611, R612, R655). -/
def Obligations.EventsHandledAndLogged : Prop :=
  ∀ (s : State) (l : Latched),
    (nextLatch s.ev.latches = some l → (s.ev.handling = [] ∨ ∃ h, s.ev.handling = [h] ∧ h.sev < l.sev) →
      let u := { s with ev := { s.ev with latches := s.ev.latches.filter (fun x => x.code != l.code), handling := l :: s.ev.handling } }
      exec .eventHandle s = .next (if l.off || !s.evr.started then u else { u with evq := u.evq ++ [l] })) ∧
    (∀ x ∈ s.ev.latches, ∃ y, nextLatch s.ev.latches = some y ∧ y ∈ s.ev.latches ∧ x.sev ≤ y.sev) ∧
    (∀ t, s.ev.handling = l :: t → s.mg.logWait = [] → (l.sev = sevFATAL ∨ ∀ x ∈ s.ev.latches ++ t, l.seq < x.seq) →
      let u := { s with ev := { s.ev with handling := t } }.setMg fun m => { m with logWait := [l] }
      exec .logWrite s = .next (u.logOne l)) ∧
    exec .watchdogStrobe s = .next (s.setMg fun m => { m with strobeAt := s.clock }) ∧
    (s.mg.strobeAt + 16000000 ≤ s.clock → exec .watchdogExpire s = .next s.quadsOff) ∧
    (s.clock < s.mg.strobeAt + 16000000 → exec .watchdogExpire s = .next s)

/-- Fence commands: the epoch never falls; one that R586 rejects changes nothing but the count and its event; an
applied one takes its effect, its epoch and its count. Each is answered with the acknowledgment of 64 bytes (R585 to
R588). -/
def Obligations.FenceCommandsApply : Prop :=
  ∀ (s u : State) (via : Nat) (sess : Option Nat) (msg : List Word) (r : MgReq),
    Handles s u opFENCE via sess msg r (fun b => b.length == 64) →
    let b := mgBody r.bytes
    let done := (u.fenceCommand b).2.mgAnswer r mgOK (u.fenceCommand b).1
    (fcOp b = 1 → exec (.fencePorts via sess msg) s = .next done) ∧ (fcOp b = 2 → exec (.unfencePorts via sess msg) s = .next done) ∧
    (fcOp b = 3 → exec (.markFenced via sess msg) s = .next done) ∧ (fcOp b = 4 → exec (.markValid via sess msg) s = .next done) ∧
    (fcOp b = 5 → exec (.soloOn via sess msg) s = .next done) ∧ (fcOp b = 6 → exec (.soloOff via sess msg) s = .next done) ∧
    (fcOp b = 7 → exec (.enterTungsten via sess msg) s = .next done) ∧
    (fcAck b = 0 →
      (fcRejected b = false → u.rfld Reg.twnFence 31 0 ≤ fcEpoch b →
        let v := (((u.fcEffect b).rsetFld Reg.twnFence 31 0 (fcEpoch b)).rcount Reg.twnFence 47 32 1).raise evFENCE_APPLIED sevINFO []
        u.fenceCommand b = (v.fcAckBytes b 0, v)) ∧
      ((fcRejected b = true ∨ fcEpoch b < u.rfld Reg.twnFence 31 0) →
        let v := (u.rcount Reg.twnFence 63 48 1).raise evFENCE_REJECTED sevCONTAINED []
        u.fenceCommand b = (v.fcAckBytes b (if fcRejected b then 1 else 2), v))) ∧
    (fcOp b = 1 → u.fcEffect b = ((upFrom 0 121).filter (fcPorts b).testBit).foldl (fun (s : State) p => s.writeFence p true) u) ∧
    (fcOp b = 2 → u.fcEffect b = ((upFrom 0 121).filter (fcPorts b).testBit).foldl (fun (s : State) p => s.writeFence p false) u) ∧
    (fcOp b = 4 → u.rfld (Reg.swcRoute (fcTarget b)) 41 40 = 2 → u.fcEffect b = u.rsetFld (Reg.swcRoute (fcTarget b)) 41 40 1) ∧
    (fcOp b = 5 → u.fcEffect b = u.rsetBit Reg.twnCfg 2 true) ∧ (fcOp b = 6 → u.fcEffect b = u.rsetBit Reg.twnCfg 2 false) ∧
    (fcOp b = 3 → u.fcEffect b = (u.rsetFld (Reg.swcRoute (fcTarget b)) 41 40 2).retireUnreachable) ∧
    (fcOp b = 7 → u.fcEffect b = u.enterTungsten 4)

/-- A management message that may not be had is answered NOT_PERMITTED, told, and changes nothing else; one that is
not well formed, BAD_MSG; one in a session that is not there fails (R621, R625, R661). Who may have an operation:
class R and O anyone; C the interfaces whose FUSE_SEC bit is 0, in an owner session where OWNER_REQ is 1; S never
HOST, and an owner session, but for the first FUSE_BLOW_OWNER on SMBUS (R622, R625, R629). -/
def Obligations.MessagesRefused : Prop :=
  (∀ (s u : State) (via : Nat) (sess : Option Nat) (msg : List Word) (r : MgReq), ∀ x ∈ mgRow via sess msg,
    s.mgTake x.1 via sess msg = some (r, u) →
    (∀ id, sess = some id → s.session (viaIface via) id = none →
      exec x.2 s = .next (u.sessionFail (viaIface via) spdmInvalidSession)) ∧
    ((∀ id, sess = some id → (s.session (viaIface via) id).isSome = true) →
      (mgOp r.bytes ≠ x.1 → exec x.2 s = .next (u.mgAnswer r mgBAD_MSG [])) ∧
      (mgOp r.bytes = x.1 → u.mgAllowed (viaIface via) x.1 r.owner = false →
        exec x.2 s = .next ((u.raise 0x010A sevCONTAINED [(8, viaIface r.via), (8, mgOp r.bytes), (8, mgNOT_PERMITTED)]).mgAnswer r mgNOT_PERMITTED [])) ∧
      (mgOp r.bytes = x.1 → u.mgAllowed (viaIface via) x.1 r.owner = true → mgFormed r.bytes = false →
        exec x.2 s = .next (u.mgAnswer r mgBAD_MSG [])))) ∧
  (∀ (s : State) (i op : Nat) (own : Bool),
    ((mgClass op = some 0 ∨ mgClass op = some 1) → s.mgAllowed i op own = true) ∧
    (mgClass op = some 2 →
      (s.mgAllowed 1 op own = !s.rbit Reg.fuseSec 15) ∧
      (s.mgAllowed 0 op own = (!s.rbit Reg.fuseSec 16 && (!s.rbit Reg.fuseSec 14 || own))) ∧
      (s.mgAllowed 2 op own = (!s.rbit Reg.fuseSec 17 && (!s.rbit Reg.fuseSec 14 || own)))) ∧
    (mgClass op = some 3 →
      s.mgAllowed 1 op own = false ∧
      (s.mgAllowed 0 op own = (own || (op == 0x0E && !s.rbit Reg.fuseSec 19))) ∧
      (s.mgAllowed 2 op own = (own && op != 0x0E))))

/-- Management messages that are handled: registers, clocks, sensors, log and repair records, kernels, the boot
profile in flash, the unlock, the SVN and the fuses; the mailbox takes the request of 64 words; a module reset (R14,
R622 to R624, R628 to R632, R637, R644, R646, R656). Records, kernels, the unlock and the fuses: LOG_READ and
REPAIR_READ answer the records that stand there; KERNEL_COMMIT is a write of STU_KCTRL, BUSY while one runs;
UNLOCK_AUTH grants what waits; FW_COMMIT_SVN raises the SVN floor; FUSE_BLOW_MAP only sets bits 18:12 and
FUSE_BLOW_OWNER the owner's hash, once (R411, R622, R624, R630 to R632, R637, R656). -/
def Obligations.ManagementMessagesAct : Prop :=
  (∀ (s u : State) (via : Nat) (sess : Option Nat) (msg : List Word) (r : MgReq),
    let b := mgBody r.bytes
    let H := fun op len => Handles s u op via sess msg r (fun b => b.length == len)
    let ans := fun (v : State) body => v.mgAnswer r mgOK body
    (s.rbit Reg.mgtMbxCtrl 1 = false → exec .mailboxGo s = .next (((s.rsetBit Reg.mgtMbxCtrl 1 true).rsetBit Reg.mgtMbxCtrl 2 false).setMg
      fun m => { m with mbx := some ((upFrom 0 64).map fun i => s.rget (Reg.mgtMbxReq i)), mbxAfter := s.deliv })) ∧
    (H 0x01 8 → exec (.readReg via sess msg) s = .next (ans u (leBytes 8 (u.windowRead (mgWord b 0) 8).toNat))) ∧
    (H 0x02 16 → mgWritable (mgWord b 0) = true →
      exec (.writeReg via sess msg) s = .next (ans (u.regWrite (mgWord b 0) (bodyWord b 1) allOnes64 true) [])) ∧
    (Handles s u 0x04 via sess msg r (fun b => b.length == 8 + 16 * pwCount b && decide (pwCount b ≤ 30)) →
      let new := (upFrom 0 (pwCount b)).map fun i => (mgWord b (1 + 2 * i), bodyWord b (2 + 2 * i))
      bit (bodyWord b 0) 0 = true → (∀ x ∈ new, mgWritable x.1 = true) → bit (bodyWord b 0) 1 = true →
      exec (.profileWrite via sess msg) s = .next (ans (u.setMg fun m => { m.putProfile ⟨new, []⟩ with building := none }) [])) ∧
    (Handles s u 0x0F via sess msg r (fun b => b.length == 8 + 8 * prCount b && decide (1 ≤ prCount b) && decide (prCount b ≤ 61) &&
        decide (bitsN (mgWord b 0) 15 0 + prCount b ≤ 65536)) → ∀ p, u.mg.building = some p → prCount b = 1 →
      exec (.profileRoute via sess msg) s = .next (ans (u.setMg fun m => { m with building := some { p with
        routes := tabSet (fun k => regReset (Reg.swcRoute k)) p.routes (bitsN (mgWord b 0) 15 0) (bodyWord b 1) } }) [])) ∧
    (H 0x06 8 → let v := u.rsetFld Reg.mgtThrottle 11 0 (bitsN (mgWord b 0) 11 0)
      exec (.throttleCap via sess msg) s = .next (ans v (leBytes 8 (v.rget Reg.mgtThrottle).toNat))) ∧
    (H 0x08 0 → exec (.sensorRead via sess msg) s = .next (ans u (wordsBytes [u.rget Reg.mgtSensIn, u.rget (Reg.mgtSensH 0), u.rget (Reg.mgtSensH 1)] ++
      (upFrom 0 32).map fun k => BitVec.ofNat 8 (u.rfld (Reg.memStackStatus k) 7 0)))) ∧
    (Handles s u 0x0B via sess msg r (fun b => b.isEmpty) → ∀ fails bad,
      let bytes := wordsBytes [BitVec.ofNat 64 (mgOp r.bytes + (mgTag r.bytes) <<< 8), 0]
      (r.via = 3 → exec (.moduleReset via sess msg fails bad) s = .next (u.moduleReset u.modState fails bad)) ∧
      (∀ d, r.via ≠ 3 → r.deliv = some d → exec (.moduleReset via sess msg fails bad) s =
        .next (((u.mgFrame d r.sess bytes).2.emit (.mgmtFrame (u.mgFrame d r.sess bytes).1)).moduleReset u.modState fails bad)) ∧
      (r.via ≠ 3 → r.deliv = none → exec (.moduleReset via sess msg fails bad) s =
        .next ((u.emit (.mgmtRsp r.via r.sess bytes)).moduleReset u.modState fails bad)))) ∧
  (∀ (s u : State) (via : Nat) (sess : Option Nat) (msg : List Word) (r : MgReq),
    let b := mgBody r.bytes
    let ans := fun (v : State) body => v.mgAnswer r mgOK body
    (Handles s u 0x07 via sess msg r (fun b => b.length == 16 && decide (1 ≤ mgWord b 1) && decide (mgWord b 1 ≤ 7)) →
      let got := (upFrom (mgWord b 0) (mgWord b 1)).filterMap fun i => if i < u.mg.logGone then none else u.mg.log[i - u.mg.logGone]?
      exec (.logRead via sess msg) s = .next (ans u (leBytes 8 got.length ++ got.flatMap recordBytes))) ∧
    (Handles s u 0x09 via sess msg r (fun b => b.length == 16 && decide (1 ≤ mgWord b 1) && decide (mgWord b 1 ≤ 15)) →
      let got := (u.recs.drop (mgWord b 0)).take (mgWord b 1)
      exec (.repairRead via sess msg) s = .next (ans u (leBytes 8 got.length ++ got.flatMap repairBytes))) ∧
    (Handles s u 0x05 via sess msg r (fun b => b.length == 8 + 4 * bitsN (mgWord b 0) 14 8) →
      (u.rfld Reg.stuKctrl 19 17 = 1 → exec (.kernelCommit via sess msg) s = .next (u.mgAnswer r mgBUSY [])) ∧
      (u.rfld Reg.stuKctrl 19 17 ≠ 1 → bitsN (mgWord b 0) 14 8 = 0 →
        let v := u.writeKctrl (setBit (BitVec.ofNat 64 (bitsN (mgWord b 0) 14 0)) 16 true) true
        exec (.kernelCommit via sess msg) s = .next (ans v (leBytes 8 (v.regRead Reg.stuKctrl).toNat)))) ∧
    (Handles s u 0x0A via sess msg r (fun b => b.isEmpty) →
      (u.rfld Reg.hifSetupUnlock 2 1 = 1 → exec (.unlockAuth via sess msg) s = .next (ans (u.unlock 1) (leBytes 8 ((u.unlock 1).rget Reg.hifSetupUnlock).toNat))) ∧
      (u.rfld Reg.hifSetupUnlock 2 1 ≠ 1 → exec (.unlockAuth via sess msg) s = .next (u.mgAnswer r mgNOT_READY []))) ∧
    (Handles s u 0x0C via sess msg r (fun b => b.isEmpty) →
      let old := u.rfld Reg.fuseSec 6 0
      let new := slotSvn (u.mg.slot u.mg.running)
      old < new → u.mg.dirNow.2.trial = 0 →
      let v := (u.rsetFld Reg.fuseSec 6 0 new).raise 0x0106 sevINFO [(8, old), (8, new)]
      exec (.fwCommitSvn via sess msg) s = .next (ans v v.fuseImage)) ∧
    (Handles s u 0x0D via sess msg r (fun b => b.length == 8) →
      (u.rbit Reg.fuseSec 18 = true → exec (.fuseBlowMap via sess msg) s = .next (u.mgRefuse r)) ∧
      (u.rbit Reg.fuseSec 18 = false → let v := u.blow (mgWord b 0 &&& 0x7F000)
        exec (.fuseBlowMap via sess msg) s = .next (ans v v.fuseImage))) ∧
    (Handles s u 0x0E via sess msg r (fun b => b.length == 48) →
      (u.rbit Reg.fuseSec 18 = true ∨ u.rbit Reg.fuseSec 19 = true → exec (.fuseBlowOwner via sess msg) s = .next (u.mgRefuse r)) ∧
      (u.rbit Reg.fuseSec 18 = false → u.rbit Reg.fuseSec 19 = false →
        let v := ((upFrom 0 6).foldl (fun (s : State) i => s.rput (Reg.fuseOwnerHash i) (bodyWord b i)) u).blow 0x80000
        exec (.fuseBlowOwner via sess msg) s = .next (ans v v.fuseImage))))

/-- The MCTP endpoint on SMBUS and HOST, in recovery on SMBUS alone: it takes an endpoint ID but 0 and 255, tells it,
and tells its message types and vendor set; what the spec gives no value of is free (R617, R618, R638). SPDM's
requests before a session: each moves the connection on or answers with the certificate chain, its digest, a challenge
signed by the device key, or measurement blocks; out of order they are unexpected (R659, R660, R663, R664; message
formats PRESUMED, log 57). Sessions: at most four; FINISH establishes one, an owner session when its root is the
owner's; heartbeat, new keys, the end; a failure is told. IDE keys are programmed and take effect only in a session on
HOST (R625, R661, R662; formats PRESUMED, log 57). -/
def Obligations.MctpAndSpdmAnswer : Prop :=
  (∀ (s : State) (b e ty sel : Nat),
    (s.mctpRuns b = true →
      (e ≠ 0 → e ≠ 0xFF → exec (.setEndpointId b e) s =
        .next ((s.setMg fun m => { m with eids := tabSet (fun _ => 0) m.eids b e }).emit (.mctpRsp b 0x01 [0, 0, BitVec.ofNat 8 e, 0]))) ∧
      ((e = 0 ∨ e = 0xFF) → exec (.setEndpointId b e) s = .next (s.emit (.mctpRsp b 0x01 [2]))) ∧
      exec (.getEndpointId b) s = .next (s.emit (.mctpRsp b 0x02 [0, BitVec.ofNat 8 (tabGet (fun _ => 0) s.mg.eids b), 0, 0])) ∧
      ((ty = 0xFF ∨ BitVec.ofNat 8 ty ∈ s.mctpTypes b) → exec (.getMctpVersionSupport b ty) s =
        .next ((s.drawBytes 4).2.emit (.mctpRsp b 0x04 ([0, 1] ++ (s.drawBytes 4).1)))) ∧
      (ty ≠ 0xFF → BitVec.ofNat 8 ty ∉ s.mctpTypes b → exec (.getMctpVersionSupport b ty) s = .next (s.emit (.mctpRsp b 0x04 [0x80]))) ∧
      exec (.getMessageTypeSupport b) s =
        .next (s.emit (.mctpRsp b 0x05 ([0, BitVec.ofNat 8 (s.mctpTypes b).length] ++ s.mctpTypes b))) ∧
      (sel = 0 → exec (.getVendorDefinedMessageSupport b sel) s = .next ((s.drawBytes 2).2.emit (.mctpRsp b 0x06
        ([0, 0xFF, 1] ++ (leBytes 4 (s.rfld Reg.fuseSec 63 32)).reverse ++ (s.drawBytes 2).1)))) ∧
      (sel ≠ 0 → exec (.getVendorDefinedMessageSupport b sel) s = .next (s.emit (.mctpRsp b 0x06 [2])))) ∧
    (s.mctpRuns b = false → exec (.setEndpointId b e) s = .next s ∧ exec (.getEndpointId b) s = .next s ∧
      exec (.getMctpVersionSupport b ty) s = .next s ∧ exec (.getMessageTypeSupport b) s = .next s ∧
      exec (.getVendorDefinedMessageSupport b sel) s = .next s) ∧
    (s.mg.recovery = true → s.mctpRuns 1 = false)) ∧
  (∀ (s u : State) (i : Nat) (sess : Option Nat) (d : Option Delivered) (nonce : List Byte),
    (Asked s u i 0x84 none 0 d → exec (.getVersion i) s = .next ((u.setSpdm i 1).spdmAnswer i none d ([0x10, 0x04, 0, 0] ++ [0, 1, 0x00, 0x13]))) ∧
    (Asked s u i 0xE1 none 1 d →
      let v := (u.drawBytes 9).1
      exec (.getCapabilities i) s = .next (((u.drawBytes 9).2.setSpdm i 2).spdmAnswer i none d
        (spdmMsg 0x61 0 0 ([0] ++ v.take 1 ++ [0, 0] ++ leBytes 4 spdmCaps ++ v.drop 1)))) ∧
    (Asked s u i 0xE3 none 2 d →
      exec (.negotiateAlgorithms i true) s = .next ((u.setSpdm i 3).spdmAnswer i none d
        (spdmMsg 0x63 0 0 (leBytes 4 0x80 ++ leBytes 4 0x02 ++ leBytes 2 0x10 ++ leBytes 2 0x02))) ∧
      exec (.negotiateAlgorithms i false) s = .next (u.spdmError i none d spdmInvalidRequest)) ∧
    (Asked s u i 0x81 sess 3 d → exec (.getDigests i sess) s = .next (u.spdmAnswer i sess d (spdmMsg 0x01 0 1 (shaBytes Config.certChain)))) ∧
    (Asked s u i 0x82 sess 3 d → ∀ off len,
      let part := (Config.certChain.drop off).take len
      exec (.getCertificate i sess 0 off len) s = .next (u.spdmAnswer i sess d
        (spdmMsg 0x02 0 0 (leBytes 2 part.length ++ leBytes 2 (Config.certChain.length - off - part.length) ++ part))) ∧
      exec (.getCertificate i sess 1 off len) s = .next (u.spdmError i sess d spdmInvalidRequest)) ∧
    (Asked s u i 0x83 none 3 d →
      let body := spdmMsg 0x03 0 1 (shaBytes Config.certChain ++ (u.drawBytes 32).1 ++ leBytes 2 0)
      exec (.challenge i 0 nonce) s = .next ((u.drawBytes 32).2.spdmAnswer i none d (body ++ Config.deviceSign (nonce ++ body)))) ∧
    (Asked s u i 0xE0 sess 3 d → ∀ op restarts, 1 ≤ op → op ≤ 9 →
      let m := spdmMsg 0x60 0 0 ([1] ++ leBytes 3 (u.measureBlock op).length ++ u.measureBlock op ++ (u.drawBytes 32).1 ++ leBytes 2 0)
      ((op ≠ 9 ∨ restarts ≤ 8) →
        exec (.getMeasurements i sess op false nonce restarts) s = .next ((u.drawBytes 32).2.spdmAnswer i sess d m) ∧
        exec (.getMeasurements i sess op true nonce restarts) s =
          .next ((u.drawBytes 32).2.spdmAnswer i sess d (m ++ Config.deviceSign (nonce ++ m)))) ∧
      (op = 9 → 8 < restarts → exec (.getMeasurements i sess op false nonce restarts) s = .next (u.spdmError i sess d spdmBusy))) ∧
    (s.spdmTake i 0xE4 none = some (d, u) → u.spdmAt i < 3 → ∀ m ok, exec (.keyExchange i m ok) s = .next (u.spdmError i none d spdmUnexpectedRequest))) ∧
  (∀ (s u : State) (i id : Nat) (sess : Option Nat) (d : Option Delivered),
    (Asked s u i 0xE4 none 3 d → ∀ mu,
      (u.mg.sessions.length < 4 →
        let k := u.mg.nextSession
        let m := spdmMsg 0x64 0 0 (leBytes 2 k ++ [BitVec.ofNat 8 mu.toNat, 0] ++ (u.drawBytes 128).1)
        exec (.keyExchange i mu true) s = .next (((u.drawBytes 128).2.setMg fun g =>
          { g with sessions := g.sessions ++ [⟨k, i, mu, false, false, 0⟩], nextSession := k + 1 }).spdmAnswer i none d (m ++ Config.deviceSign m))) ∧
      (4 ≤ u.mg.sessions.length → exec (.keyExchange i mu true) s = .next (u.spdmError i none d spdmSessionLimitExceeded)) ∧
      exec (.keyExchange i mu false) s = .next ((u.sessionFail i spdmInvalidRequest).spdmError i none d spdmInvalidRequest)) ∧
    (s.spdmTake i 0xE5 (some id) = some (d, u) → ∀ x root, u.openSession i id = some x →
      exec (.finish i id root true) s = .next ((u.setSessions fun l => l.map fun y => if y.id = id
        then { y with est := true, owner := x.mutAuth && u.ownerRoot root } else y).spdmAnswer i (some id) d (spdmMsg 0x65 0 0 [])) ∧
      exec (.finish i id root false) s = .next (((u.setSessions fun l => l.filter fun y => y.id != id).sessionFail i spdmDecryptError).spdmError
        i none d spdmDecryptError)) ∧
    (Asked s u i 0xE8 (some id) 0 d → exec (.heartbeat i id true) s = .next (u.spdmAnswer i (some id) d (spdmMsg 0x68 0 0 [])) ∧
      exec (.heartbeat i id false) s = .next ((u.sessionFail i spdmDecryptError).spdmError i none d spdmDecryptError)) ∧
    (Asked s u i 0xE9 (some id) 0 d → exec (.keyUpdate i id true) s =
      .next ((u.setSessions fun l => l.map fun y => if y.id = id then { y with gen := y.gen + 1 } else y).spdmAnswer i (some id) d (spdmMsg 0x69 0 0 []))) ∧
    (Asked s u i 0xEC (some id) 0 d → exec (.endSession i id true) s =
      .next ((u.setSessions fun l => l.filter fun y => y.id != id).spdmAnswer i (some id) d (spdmMsg 0x6C 0 0 []))) ∧
    (Asked s u 1 0xFE (some id) 0 d → ∀ data,
      exec (.vendorDefinedRequest 1 (some id) 2 data) s =
        .next ((u.setMg fun m => { m with ideNext := m.ideNext ++ data }).spdmAnswer 1 (some id) d (ideMsg 3 [0])) ∧
      exec (.vendorDefinedRequest 1 (some id) 5 data) s =
        .next ((u.setMg fun m => { m with ideNext := [], ideLive := [] }).spdmAnswer 1 (some id) d (ideMsg 6 [0])) ∧
      exec (.kSetGo 1 (some id)) s = .next ((u.setMg fun m => { m with ideLive := m.ideNext }).spdmAnswer 1 (some id) d (ideMsg 6 [0]))) ∧
    (Asked s u i 0xFE sess 0 d → (i ≠ 1 ∨ sess = none) → exec (.kSetGo i sess) s = .next (u.spdmError i sess d spdmUnsupportedRequest) ∧
      ∀ obj data, exec (.vendorDefinedRequest i sess obj data) s = .next (u.spdmError i sess d spdmUnsupportedRequest)))

/-- Firmware update: in its order the slot that is not ACTIVE loses its header, takes the body, and its header last,
once the checks of R636 hold; activation puts it on trial from the next reset; a cancelled update leaves ACTIVE alone
(R640 to R642; message formats PRESUMED, log 57). -/
def Obligations.FirmwareUpdateActs : Prop :=
  ∀ (s : State) (data : List Byte), s.mctpRuns 0 = true →
    let st := s.mg.pldm.st
    let k := 1 - s.mg.dirNow.2.active
    let put := fun (u : State) n => u.setPldm fun p => { p with st := n }
    let say := fun (u : State) cmd cc b => u.emit (.pldmMsg cmd cc b)
    exec .queryDeviceIdentifiers s =
      .next (say s 0x01 0 (leBytes 4 8 ++ [1] ++ leBytes 2 1 ++ leBytes 2 4 ++ leBytes 4 (s.rfld Reg.fuseSec 63 32))) ∧
    exec .getFirmwareParameters s =
      .next (say s 0x02 0 (leBytes 2 1 ++ leBytes 2 0x000A ++ leBytes 2 1 ++ leBytes 4 (slotVersion (s.mg.slot s.mg.running)))) ∧
    (st = 0 → s.mg.pldm.activated = false → exec .requestUpdate s = .next (say (s.setPldm fun p => { p with st := 1, len := 0, data := [] }) 0x10 0 [])) ∧
    (st = 0 → s.mg.pldm.activated = true → exec .requestUpdate s = .next (say s 0x10 0x8A [])) ∧
    (st = 1 → exec (.passComponentTable 1) s = .next (say (put s 2) 0x13 0 [0])) ∧
    (st = 2 → ∀ size, 512 ≤ size → size ≤ (flashRegion (1 + k)).2 →
      let u := (s.setMg fun m => m.setSlot k (.image none [])).raise 0x0105 sevINFO [(8, 0), (8, k)]
      exec (.updateComponent 1 size) s = .next (say (u.setPldm fun p => { p with st := 3, len := size, data := [] }) 0x14 0 [0])) ∧
    (st = 3 → s.mg.pldm.data.length < s.mg.pldm.len →
      let p := s.mg.pldm
      let got := p.data ++ data.take (p.len - p.data.length)
      let u := s.emit (.pldmMsg 0x15 0 (leBytes 4 p.data.length ++ leBytes 4 data.length))
      exec (.requestFirmwareData data) s = .next ((u.setPldm fun p => { p with data := got }).setMg fun m => m.setSlot k (.image none (got.drop 512)))) ∧
    (st = 3 → s.mg.pldm.data.length = s.mg.pldm.len → exec .transferComplete s = .next (say (put s 4) 0x16 0 [0])) ∧
    (st = 4 → let good := (s.slotFault (.image (some s.mg.pldm.hdr) s.mg.pldm.body)).isNone
      exec .verifyComplete s = .next (if good then say ((put s 5).raiseUpdate 1) 0x17 0 [0] else say (put s 2) 0x17 0 [1])) ∧
    (st = 5 → exec .applyComplete s = .next (say (put (s.setMg fun m => m.setSlot k (.image (some s.mg.pldm.hdr) s.mg.pldm.body)) 6) 0x18 0 [0])) ∧
    (st = 6 → exec .activateFirmware s =
      .next (say (((s.raiseUpdate 2).setMg fun m => m.putDir k 1 0).setPldm fun _ => ⟨0, 0, [], true⟩) 0x1A 0 [])) ∧
    (st < 6 → exec .getStatus s = .next (say s 0x1B 0 [BitVec.ofNat 8 st])) ∧
    ((st = 3 ∨ st = 4 ∨ st = 5) → exec .cancelUpdateComponent s = .next (say (s.setPldm fun p => { p with st := 2, len := 0, data := [] }) 0x1C 0 [])) ∧
    (1 ≤ st → st ≤ 6 → exec .cancelUpdate s = .next (say ((s.raiseUpdate 3).setPldm fun p => { p with st := 0, len := 0, data := [] }) 0x1D 0 [0]))

/-- Sensor samples and supplies: a sample shows in its registers, moves both halves' clocks and trips; VIN outside
37.8 to 46.2 V is told once per excursion; a module that has lost all but one lane quad, its last switch slice or its
ROM disables them all, as one does that loses its fabric clock; a module found at a poll leaves low power once;
VCC_OPT follows AUX_12V, the module's presence and its over-current hold (R595, R597, R619, R650 to R654, R675, R680,
R687). -/
def Obligations.SensorsAndSupplies : Prop :=
  ∀ (s : State) (w h0 h1 : Word) (c mv : Nat) (b x y : Bool),
    (let m48 : Word := 0x0000FFFFFFFFFFFF#64
     let m56 : Word := 0x00FFFFFFFFFFFFFF#64
     let u := ((s.rput Reg.mgtSensIn (w &&& m48)).rput (Reg.mgtSensH 0) (h0 &&& m56)).rput (Reg.mgtSensH 1) (h1 &&& m56)
     let v := (u.throttleHalf 0).throttleHalf 1
     let p := v.setThr fun t => { t with peakOn := decide (2800 < v.rfld Reg.mgtSensIn 31 16) }
     let q := (p.trip 0 (s.rfld (Reg.mgtSensH 0) 55 48)).trip 1 (s.rfld (Reg.mgtSensH 1) 55 48)
     let vin := q.rfld Reg.mgtSensIn 15 0
     let out := vin < 37800 ∨ 46200 < vin
     let e := if out ∧ q.mg.thr.out = false then q.raise 0x0109 sevCONTAINED [(16, vin)] else q
     ∀ slices rom,
       let z := e.setThr fun t => { t with out := decide out, served := decide (2 ≤ e.quadsUp), slices := slices, rom := rom }
       exec (.sensorSample w h0 h1 slices rom) s =
         .next (if (e.mg.thr.served = true ∧ e.quadsUp < 2) ∨ slices = 0 ∨ rom = false then z.quadsOff else z)) ∧
    (let u := s.setPins fun p => { p with twin := b, fabClk := x, hostClk := y }
     let p := u.mg.pins
     let img := b.toNat + 2 * s.perst.toNat + 4 * (auxOk p).toNat + 8 * x.toNat + 16 * y.toNat + (p.optHold % 256) <<< 8 + (p.auxMv % 65536) <<< 16
     let v := u.rput Reg.mgtPins (BitVec.ofNat 64 img)
     exec (.pinsUpdate b x y) s = .next (if s.mg.pins.fabClk = true ∧ x = false then v.quadsOff else v)) ∧
    exec .alertResponse s = .next (s.setMg fun m => { m with alert := false }) ∧
    exec (.aux12vChange mv) s = .next (s.setPins fun p => { p with auxMv := mv }).vccUpdate ∧
    (let u := (s.setPins fun p => { p with fitted := setPart p.fitted c true }).rsetBit (Reg.lnkOptMod c) 0 true
     exec (.optPresentChange c true) s = .next u.vccUpdate) ∧
    (s.mg.pins.optOn.testBit c = true → exec (.vccOptOvercurrent c) s =
      .next ((s.setPins fun p => { p with optHold := setPart p.optHold c true }).vccUpdate.rsetBit Reg.mgtPins (8 + c) true)) ∧
    (s.mg.pins.optHold.testBit c = true → exec (.vccOptRetry c true) s =
        .next ((s.setPins fun p => { p with optHold := setPart p.optHold c false }).vccUpdate.rsetBit Reg.mgtPins (8 + c) false) ∧
      exec (.vccOptRetry c false) s = .next s) ∧
    (s.mg.pins.fitted.testBit c = true → ∀ modw lanes thr,
      let reg := Reg.lnkOptMod c
      let old := (s.rsetBit reg 0 true).rget reg
      let t := match tabGet (fun _ => []) s.mg.optThr c with | [] => thr | l => l
      let u := (s.rsetBit reg 0 true).setMg fun m =>
        { m with optThr := tabSet (fun _ => []) m.optThr c t, optAt := tabSet (fun _ => 0) m.optAt c (s.clock + 1) }
      let v := if s.mg.pins.optUp.testBit c then u
        else (u.setPins fun p => { p with optUp := setPart p.optUp c true }).emit (.cmisRelease c)
      let q := (((v.rsetBit reg 1 true).rsetFld reg 4 2 (fld modw 4 2)).rsetFld reg 15 8 (fld modw 15 8)).rsetFld reg 31 16 (fld modw 31 16)
      let was := fun hi lo => if bit old 1 then some (fld old hi lo) else none
      exec (.opticsPoll c true modw lanes thr) s = .next ((upFrom 0 20).foldl (fun (s : State) n => s.opticsLane c n t (lanes.getD n 0))
        ((q.opticsCheck c 0xFF 0 t (was 15 8) (fld modw 15 8)).opticsCheck c 0xFF 1 t (was 31 16) (fld modw 31 16)))) ∧
    (s.mg.pins.fitted.testBit c = false → ∀ cmis modw lanes thr,
      exec (.opticsPoll c cmis modw lanes thr) s = .next ((upFrom 0 20).foldl (fun (s : State) n => s.rsetBit (Reg.lnkOptLane c n) 49 false)
        ((s.rsetBit (Reg.lnkOptMod c) 0 false).rsetBit (Reg.lnkOptMod c) 1 false)))

/-- Power, reset and boot: the input at 36.5 V starts the power-up, power good is a module reset once MOD_RESET_N is
high; MOD_RESET_N low stops everything; POWER_OFF clears all but flash and fuses; boot completes in READY, or in
ISOLATED where a link reads a fence (R591, R595, R644, R645, R668, R672, R673, R696, R697). -/
def Obligations.PowerResetAndBoot : Prop :=
  ∀ (s : State) (v : Nat) (fails bad : List Nat),
    (36500 ≤ v → s.mg.pins.good = false → exec (.vinRise v) s = .next (s.setPins fun p => { p with vin := v, rising := true })) ∧
    (s.mg.pins.rising = true → s.mg.pins.good = false →
      let u := s.setPins fun p => { p with good := true }
      exec (.powerGood fails bad) s = .next (if s.mg.pins.modRst then u else (u.cleared true).boot mBOOT fails bad)) ∧
    ((v < 35500 ∨ 50000 < v) → s.mg.bootStep < 5 →
      exec (.powerOff v) s = .next ((s.cleared false).setPins fun p => { p with vin := v, rising := false, good := false })) ∧
    (35500 ≤ v → v ≤ 50000 → exec (.powerOff v) s = .next s) ∧
    (s.mg.pins.modRst = false → s.mg.pins.good = true → exec .modResetNAssert s =
      .next (((s.cleared true).setPins fun p => { p with modRst := true }).setMg fun m => { m with modeWas := s.modState })) ∧
    (s.mg.pins.modRst = true → s.mg.pins.good = true → exec (.modResetNDeassert fails bad) s =
      .next (((s.setPins fun p => { p with modRst := false }).cleared true).boot s.mg.modeWas fails bad)) ∧
    (s.mg.bootStep = 7 → exec .bootComplete s = .next s.bootDone) ∧
    (∀ warm, (s.cleared warm).mem = [] ∧ (s.cleared warm).cores = [] ∧ (s.cleared warm).recs = s.recs ∧
      (s.cleared warm).mg.fw0 = s.mg.fw0 ∧ (s.cleared warm).mg.fw1 = s.mg.fw1 ∧ (s.cleared warm).mg.log = s.mg.log) ∧
    (RegsWf s → (s.cleared true).rget Reg.twnFatal0 = s.rget Reg.twnFatal0 ∧ (s.cleared false).rget Reg.twnFatal0 = 0 ∧
      (s.cleared true).rget Reg.fuseSec = s.rget Reg.fuseSec ∧ (s.cleared false).rget Reg.fuseSec = s.rget Reg.fuseSec)

/-- Boundary scan: reset chooses IDCODE, whose 32 bits leave least significant first; BYPASS delays by one bit from 0;
SAMPLE and PRELOAD load the boundary register; EXTEST drives the pins only in reset (R694, R695). -/
def Obligations.BoundaryScanActs : Prop :=
  ∀ (s : State) (tdi img : List Bool),
    exec .trstN s = .next (s.setJtag fun j => { j with ir := jIDCODE, bypass := false }) ∧
    exec .idcode s = .next ((s.setJtag fun j => { j with ir := jIDCODE }).emit (.tdo ((upFrom 0 32).map fun i => idcode.testBit i))) ∧
    (∃ t, exec (.bypass tdi) s = .next t ∧ t.out = s.out ++ [.tdo ((false :: tdi).take tdi.length)] ∧
      t.mg.jtag.bypass = (false :: tdi).getLast?.getD false ∧ t.mg.jtag.boundary = s.mg.jtag.boundary ∧ t.mem = s.mem ∧ t.regs = s.regs) ∧
    exec (.sample img) s = .next ((s.setJtag fun j => { j with ir := jSAMPLE, boundary := img }).emit (.tdo img)) ∧
    exec (.preload img) s = .next (s.setJtag fun j => { j with ir := jPRELOAD, boundary := img }) ∧
    (s.mg.pins.modRst = true → exec (.extest tdi) s = .next ((s.setJtag fun j => { j with ir := jEXTEST }).emit (.drive s.mg.jtag.boundary))) ∧
    (s.mg.pins.modRst = false → exec (.extest tdi) s = exec (.bypass tdi) s) ∧
    (idcode.testBit 0 = true ∧ ∀ i < 16, idcode.testBit (12 + i) = (0x5A09 : Nat).testBit i)

/-- A codeword on the wire loses nothing: its 5,140 message bits spell it again, and the PAM4 levels of its 544
symbols, precoded or not, on an inverted lane or not, spell those symbols again; the first 514 of them are the message
(R293, R298, R299). -/
def Obligations.CodewordWireRoundTrip : Prop :=
  ∀ (c : Codeword) (pre inv : Bool) (p : Nat), c.seq < 1024 → c.map < 1024 → c.slots.length = 10 → (∀ w ∈ c.slots, w.length = 8) →
    c.message.length = 5140 ∧ ofMessage c.message = c ∧ c.symbols.length = 544 ∧
    (c.levels pre p).length = 2720 ∧ (∀ x ∈ c.levels pre p, x < 4) ∧
    levelSymbols pre inv p (if inv then (c.levels pre p).map (3 - ·) else c.levels pre p) = c.symbols ∧
    ofMessage ((c.symbols.take 514).flatMap (bitsOf 10)) = c
end

