-- ==== Sys2Proof/Laws/Bits.lean ====
section
/-! SUPPORT. The laws of bit fields and of little-endian bytes. -/

namespace Sys2Proof.Machine

/-! Fields. -/

theorem bit_eq {w : Nat} (v : BitVec w) (i : Nat) : bit v i = v.toNat.testBit i := by
  simp [bit, BitVec.getLsbD]

theorem fld_testBit {w : Nat} (v : BitVec w) (hi lo i : Nat) :
    (fld v hi lo).testBit i = (decide (i < hi + 1 - lo) && v.getLsbD (lo + i)) := by
  simp [fld, bitsN, Nat.testBit_mod_two_pow, Nat.testBit_shiftRight, BitVec.getLsbD]

theorem fld_lt {w : Nat} (v : BitVec w) (hi lo : Nat) : fld v hi lo < 2 ^ (hi + 1 - lo) :=
  Nat.mod_lt _ (Nat.two_pow_pos _)

/-- Bit i of a word after a field is set. -/
theorem setFld_getLsbD (v : Word) (hi lo n i : Nat) (h : hi < 64) :
    (setFld v hi lo n).getLsbD i = if lo ≤ i ∧ i ≤ hi then n.testBit (i - lo) else v.getLsbD i := by
  simp only [setFld, BitVec.getLsbD_or, BitVec.getLsbD_and, BitVec.getLsbD_not, BitVec.getLsbD_ofNat,
    Nat.testBit_shiftLeft, Nat.testBit_two_pow_sub_one]
  by_cases hi' : i < 64
  · by_cases h1 : lo ≤ i ∧ i ≤ hi
    · rw [if_pos h1]
      have : i - lo < hi + 1 - lo := by omega
      simp [hi', h1.1, this]
    · rw [if_neg h1]
      by_cases h2 : lo ≤ i
      · have : ¬ i - lo < hi + 1 - lo := by omega
        simp [hi', h2, this]
      · simp [hi', h2]
  · have h1 : ¬(lo ≤ i ∧ i ≤ hi) := by omega
    rw [if_neg h1]
    have : v.getLsbD i = false := BitVec.getLsbD_of_ge v i (by omega)
    simp [hi', this]

/-- The field that was set. -/
theorem fld_setFld (v : Word) (hi lo n : Nat) (h : hi < 64) (hl : lo ≤ hi) : fld (setFld v hi lo n) hi lo = n % 2 ^ (hi + 1 - lo) := by
  apply Nat.eq_of_testBit_eq
  intro i
  rw [fld_testBit, Nat.testBit_mod_two_pow, setFld_getLsbD _ _ _ _ _ h]
  by_cases hi' : i < hi + 1 - lo
  · rw [if_pos (by omega)]; simp [hi']
  · simp [hi']

/-- A field that shares no bit with the one that was set. -/
theorem fld_setFld_other (v : Word) (hi lo n a b : Nat) (h : hi < 64) (hd : a < lo ∨ hi < b) :
    fld (setFld v hi lo n) a b = fld v a b := by
  apply Nat.eq_of_testBit_eq
  intro i
  rw [fld_testBit, fld_testBit, setFld_getLsbD _ _ _ _ _ h]
  by_cases hi' : i < a + 1 - b
  · rw [if_neg (by omega)]
  · simp [hi']

theorem bit_setFld_other (v : Word) (hi lo n i : Nat) (h : hi < 64) (hd : i < lo ∨ hi < i) :
    bit (setFld v hi lo n) i = bit v i := by
  unfold bit
  rw [setFld_getLsbD _ _ _ _ _ h, if_neg (by omega)]

theorem bit_setBit (v : Word) (i : Nat) (b : Bool) (h : i < 64) : bit (setBit v i b) i = b := by
  unfold bit setBit
  rw [setFld_getLsbD _ _ _ _ _ h, if_pos ⟨Nat.le_refl _, Nat.le_refl _⟩]
  cases b <;> simp

theorem bit_setBit_other (v : Word) (i j : Nat) (b : Bool) (h : i < 64) (hj : j ≠ i) : bit (setBit v i b) j = bit v j :=
  bit_setFld_other _ _ _ _ _ h (by omega)

/-! Lists of numbers and bytes. -/

theorem mem_upFrom (n : Nat) : ∀ k j, j ∈ upFrom k n ↔ k ≤ j ∧ j < k + n := by
  induction n with
  | zero => intro k j; simp [upFrom]
  | succ n ih => intro k j; simp only [upFrom, List.mem_cons, ih]; omega

@[simp] theorem upFrom_length (n : Nat) : ∀ k, (upFrom k n).length = n := by
  induction n with
  | zero => intro k; rfl
  | succ n ih => intro k; simp [upFrom, ih]

@[simp] theorem leBytes_length (n : Nat) : ∀ v, (leBytes n v).length = n := by
  induction n with
  | zero => intro v; rfl
  | succ n ih => intro v; simp [leBytes, ih]

/-- Byte i of a number. -/
theorem leBytes_getD (n : Nat) : ∀ v i, i < n → (leBytes n v).getD i 0 = BitVec.ofNat 8 (v >>> (8 * i)) := by
  induction n with
  | zero => intro v i h; omega
  | succ n ih =>
    intro v i h
    cases i with
    | zero => simp [leBytes]
    | succ i =>
      rw [leBytes, List.getD_cons_succ, ih _ _ (by omega), ← Nat.shiftRight_add]
      congr 2; omega

/-- The number that bytes spell back. -/
theorem ofBytes_leBytes (n : Nat) : ∀ v, ofBytes (leBytes n v) = v % 2 ^ (8 * n) := by
  induction n with
  | zero => intro v; simp [leBytes, ofBytes, Nat.mod_one]
  | succ n ih =>
    intro v
    rw [leBytes, ofBytes, ih, BitVec.toNat_ofNat, Nat.shiftLeft_eq, Nat.shiftRight_eq_div_pow,
      show 8 * (n + 1) = 8 + 8 * n from by omega, Nat.pow_add, Nat.mod_mul]
    rw [Nat.mul_comm]

theorem leNat_leBytes (f : Nat → Byte) (n : Nat) : ∀ v, (∀ i < n, f i = BitVec.ofNat 8 (v >>> (8 * i))) → leNat f n = v % 2 ^ (8 * n) := by
  induction n with
  | zero => intro v _; simp [leNat, Nat.mod_one]
  | succ n ih =>
    intro v h
    rw [leNat, ih v (fun i hi => h i (by omega)), h n (by omega), BitVec.toNat_ofNat, Nat.shiftLeft_eq, Nat.shiftRight_eq_div_pow,
      show 8 * (n + 1) = 8 * n + 8 from by omega, Nat.pow_add, Nat.mod_mul, Nat.mul_comm (2 ^ (8 * n)) (v / 2 ^ (8 * n) % 2 ^ 8)]

end Sys2Proof.Machine
end

