-- ==== Sys2Proof/Laws/Table.lean ====
section
/-! SUPPORT. The laws of sparse tables: reading after writing, and that writing keeps the canonical form. -/

namespace Sys2Proof.Machine

variable {α : Type} [DecidableEq α] {d : Nat → α}

theorem tabWfFrom_mono {t : Tab α} : ∀ {lo lo' : Nat}, lo' ≤ lo → tabWfFrom d lo t = true → tabWfFrom d lo' t = true := by
  cases t with
  | nil => intros; rfl
  | cons x t =>
    intro lo lo' hl h
    simp only [tabWfFrom, Bool.and_eq_true, decide_eq_true_eq] at h ⊢
    exact ⟨⟨by omega, h.1.2⟩, h.2⟩

theorem tabGet_below {t : Tab α} : ∀ {lo k : Nat}, tabWfFrom d lo t = true → k < lo → tabGet d t k = d k := by
  induction t with
  | nil => intros; rfl
  | cons x t ih =>
    intro lo k h hk
    simp only [tabWfFrom, Bool.and_eq_true, decide_eq_true_eq] at h
    rw [tabGet, if_neg (by omega)]
    exact ih h.2 (by omega)

theorem tabSet_wfFrom {t : Tab α} : ∀ {lo k : Nat} {v : α}, lo ≤ k → tabWfFrom d lo t = true → tabWfFrom d lo (tabSet d t k v) = true := by
  induction t with
  | nil =>
    intro lo k v hk _
    rw [tabSet]
    split
    · rfl
    · simp only [tabWfFrom, Bool.and_eq_true, decide_eq_true_eq]
      exact ⟨⟨hk, ‹_›⟩, trivial⟩
  | cons x t ih =>
    intro lo k v hk h
    obtain ⟨i, w⟩ := x
    have h0 := h
    simp only [tabWfFrom, Bool.and_eq_true, decide_eq_true_eq] at h
    rw [tabSet]
    split
    · split
      · exact h0
      · simp only [tabWfFrom, Bool.and_eq_true, decide_eq_true_eq]
        exact ⟨⟨hk, ‹_›⟩, ⟨by omega, h.1.2⟩, h.2⟩
    · split
      · split
        · exact tabWfFrom_mono (by omega) h.2
        · simp only [tabWfFrom, Bool.and_eq_true, decide_eq_true_eq]
          exact ⟨⟨hk, ‹_›⟩, by subst k; exact h.2⟩
      · simp only [tabWfFrom, Bool.and_eq_true, decide_eq_true_eq]
        exact ⟨⟨h.1.1, h.1.2⟩, ih (by omega) h.2⟩

/-- Writing an entry keeps the canonical form. -/
theorem tabSet_wf {t : Tab α} {k : Nat} {v : α} (h : tabWf d t = true) : tabWf d (tabSet d t k v) = true :=
  tabSet_wfFrom (Nat.zero_le k) h

theorem tabWfFrom_filter {t : Tab α} (p : Nat × α → Bool) : ∀ {lo : Nat}, tabWfFrom d lo t = true →
    tabWfFrom d lo (t.filter p) = true := by
  induction t with
  | nil => intros; rfl
  | cons x t ih =>
    intro lo h
    obtain ⟨i, w⟩ := x
    simp only [tabWfFrom, Bool.and_eq_true, decide_eq_true_eq] at h
    rw [List.filter_cons]
    split
    · simp only [tabWfFrom, Bool.and_eq_true, decide_eq_true_eq]
      exact ⟨h.1, ih h.2⟩
    · exact tabWfFrom_mono (Nat.le_succ_of_le h.1.1) (ih h.2)

/-- Leaving entries out keeps the canonical form. -/
theorem tabWf_filter {t : Tab α} (p : Nat × α → Bool) (h : tabWf d t = true) : tabWf d (t.filter p) = true :=
  tabWfFrom_filter p h

theorem tabGet_tabSet_from {t : Tab α} : ∀ {lo k : Nat} {v : α} (j : Nat), lo ≤ k → tabWfFrom d lo t = true →
    tabGet d (tabSet d t k v) j = if j = k then v else tabGet d t j := by
  induction t with
  | nil =>
    intro lo k v j _ _
    rw [tabSet]
    split
    · by_cases hj : j = k
      · subst hj; simp [tabGet, *]
      · simp [tabGet, hj]
    · simp only [tabGet]
  | cons x t ih =>
    intro lo k v j hk h
    obtain ⟨i, w⟩ := x
    simp only [tabWfFrom, Bool.and_eq_true, decide_eq_true_eq] at h
    rw [tabSet]
    split
    · rename_i hki
      split
      · rename_i hv
        by_cases hj : j = k
        · subst hj
          rw [if_pos rfl, tabGet, if_neg (by omega), hv]
          exact tabGet_below h.2 (by omega)
        · rw [if_neg hj]
      · simp only [tabGet]
    · split
      · rename_i hki hke
        subst hke
        split
        · rename_i hv
          by_cases hj : j = k
          · subst hj
            rw [if_pos rfl, hv]
            exact tabGet_below h.2 (by omega)
          · rw [if_neg hj, tabGet, if_neg hj]
        · by_cases hj : j = k
          · subst hj; simp [tabGet]
          · simp [tabGet, hj]
      · rename_i hki hke
        by_cases hji : j = i
        · subst hji
          rw [tabGet, if_pos rfl, if_neg (by omega), tabGet, if_pos rfl]
        · rw [tabGet, if_neg hji, ih (lo := i + 1) j (by omega) h.2]
          split
          · rfl
          · rw [tabGet, if_neg hji]

/-- Reading an entry after writing one: the value written there, what was there before elsewhere. -/
theorem tabGet_tabSet {t : Tab α} {k : Nat} {v : α} (h : tabWf d t = true) (j : Nat) :
    tabGet d (tabSet d t k v) j = if j = k then v else tabGet d t j :=
  tabGet_tabSet_from j (Nat.zero_le k) h

theorem tabSet_tabSet_from {t : Tab α} : ∀ {lo k : Nat} {v w : α}, lo ≤ k → tabWfFrom d lo t = true →
    tabSet d (tabSet d t k v) k w = tabSet d t k w := by
  induction t with
  | nil =>
    intro lo k v w _ _
    by_cases hv : v = d k
    · simp [tabSet, hv]
    · simp [tabSet, hv]
  | cons x t ih =>
    intro lo k v w hk h
    obtain ⟨i, u⟩ := x
    simp only [tabWfFrom, Bool.and_eq_true, decide_eq_true_eq] at h
    by_cases hki : k < i
    · by_cases hv : v = d k
      · simp [tabSet, hki, hv]
      · simp [tabSet, hki, hv]
    · by_cases hke : k = i
      · subst hke
        by_cases hv : v = d k
        · simp only [tabSet, hv, Nat.lt_irrefl, if_false, if_true]
          cases t with
          | nil => simp [tabSet]
          | cons y t =>
            have := h.2
            simp only [tabWfFrom, Bool.and_eq_true, decide_eq_true_eq] at this
            rw [tabSet, if_pos (by omega)]
        · simp [tabSet, hv]
      · simp only [tabSet, hki, hke, if_false]
        rw [ih (lo := i + 1) (by omega) h.2]

/-- A second write of an entry replaces the first. -/
theorem tabSet_tabSet {t : Tab α} {k : Nat} {v w : α} (h : tabWf d t = true) :
    tabSet d (tabSet d t k v) k w = tabSet d t k w :=
  tabSet_tabSet_from (Nat.zero_le k) h

end Sys2Proof.Machine
end

