-- ==== Sys2Proof/Laws/Core.lean ====
section
/-! SUPPORT. What a core's issue of a command does, once for every command (R106 to R109). -/

namespace Sys2Proof.Machine

theorem issueCmd_go {s : State} {n op : Nat} (h : Ready s n op) :
    issueCmd s n (· == op) = .go (landed s n) (issueAt s n) (nextCmd s n) (offsAt s n) := by
  obtain ⟨hm, hb, hi, hl, ho, hm', hw, hp, -⟩ := h
  have hl' : ¬((s.core n).limit ≠ 0 ∧ (s.core n).limit ≤ (s.core n).issued) := by omega
  have hi' : ¬ 2048 ≤ (s.core n).index := by omega
  simp only [nextCmd, issueAt, landed, offsAt] at *
  simp [issueCmd, hm, hb, hi', hl', ho, hm', hw, hp]

theorem engineSet_flights (c : Core) (op t occ : Nat) : (engineSet c op t occ).flights = c.flights := by
  unfold engineSet; split <;> rfl

theorem advance_flights (c : Core) : (advance c).flights = c.flights := by
  unfold advance; split <;> (try split) <;> rfl

theorem issuePlan_gone {s : State} {n t : Nat} {w : Cmd} {offs : List Int} {p : Plan}
    (hc : (s.core n).check = false) (hf : p.faults = []) :
    issuePlan s n t w offs p =
      (true, s.setCore n (gone (s.core n) w t p.occ (flightOf (s.core n) p t w offs))) := by
  unfold issuePlan gone
  simp only [hc, hf, Bool.false_eq_true, if_false, List.append_nil, lowestFault, engineSet_flights, advance_flights]

theorem core_setCore {s : State} (h : CoresWf s) (n m : Nat) (c : Core) :
    (s.setCore n c).core m = if m = n then c else s.core m :=
  tabGet_tabSet h m

theorem setCore_setCore {s : State} (h : CoresWf s) (n : Nat) (c c' : Core) :
    (s.setCore n c).setCore n c' = s.setCore n c' := by
  unfold State.setCore
  simp only [tabSet_tabSet (show tabWf (fun _ => coreReset) s.cores = true from h)]

theorem setCore_wf {s : State} (h : CoresWf s) (n : Nat) (c : Core) : CoresWf (s.setCore n c) := tabSet_wf h

theorem meetGot_clean {s : State} (h : Clean s) (g : List Got) : meetGot s g = [] := by
  unfold Clean at h; unfold meetGot; rw [h]; rfl

theorem gated_free {s : State} {rd wr : List (Nat × Nat)} {go : Host.Outcome State Fault Refusal} (h : s.snoops = []) :
    gated s rd wr go = go := by
  unfold gated; rw [h]; rfl

theorem viewWith_nil (s : State) : viewWith s [] = s.view := rfl

theorem gone_flights (c : Core) (w : Cmd) (i occ : Nat) (f : Flight) : (gone c w i occ f).flights = c.flights ++ [f] := rfl

/-- The flight a command leaves is found again by its identity. -/
theorem findFlight_last {c c' : Core} {f : Flight} (h : FreshIds c) (hf : f.id = c.nextFlight)
    (hc : c'.flights = c.flights ++ [f]) : findFlight c' c.nextFlight = some f := by
  unfold findFlight
  rw [hc, List.find?_append]
  have : c.flights.find? (fun g => g.id == c.nextFlight) = none := by
    rw [List.find?_eq_none]
    intro x hx
    have := h x hx
    simp; omega
  rw [this]
  simp [hf]

/-- Replacing the flight a command has just left. -/
theorem map_last {c : Core} {f g : Flight} (h : FreshIds c) (hf : f.id = c.nextFlight) (hg : g.id = c.nextFlight) :
    (c.flights ++ [f]).map (fun x => if x.id = g.id then g else x) = c.flights ++ [g] := by
  rw [List.map_append]
  congr 1
  · rw [List.map_congr_left (g := id)]
    · simp
    · intro x hx
      have := h x hx
      rw [if_neg (by omega)]; rfl
  · simp [hf, hg]

/-- The core that has just issued a command, with the flight it left replaced. -/
theorem gone_map {c : Core} {f g : Flight} {w : Cmd} {i occ : Nat} (h : FreshIds c) (hf : f.id = c.nextFlight)
    (hg : g.id = c.nextFlight) :
    { gone c w i occ f with flights := (gone c w i occ f).flights.map (fun x => if x.id = g.id then g else x) } =
      gone c w i occ g := by
  unfold gone
  dsimp only
  rw [map_last h hf hg]

end Sys2Proof.Machine
end

