-- ==== Sys2Proof/Laws/CoreState.lean ====
section
/-! SUPPORT. What issuing leaves of a core: one lemma per field. -/

namespace Sys2Proof.Machine

@[simp] theorem engineSet_mode (c : Core) (op t occ : Nat) : (engineSet c op t occ).mode = c.mode := by unfold engineSet; split <;> rfl
@[simp] theorem engineSet_bank0 (c : Core) (op t occ : Nat) : (engineSet c op t occ).bank0 = c.bank0 := by unfold engineSet; split <;> rfl
@[simp] theorem engineSet_bank1 (c : Core) (op t occ : Nat) : (engineSet c op t occ).bank1 = c.bank1 := by unfold engineSet; split <;> rfl
@[simp] theorem engineSet_active (c : Core) (op t occ : Nat) : (engineSet c op t occ).active = c.active := by unfold engineSet; split <;> rfl
@[simp] theorem engineSet_index (c : Core) (op t occ : Nat) : (engineSet c op t occ).index = c.index := by unfold engineSet; split <;> rfl
@[simp] theorem engineSet_scalars (c : Core) (op t occ : Nat) : (engineSet c op t occ).scalars = c.scalars := by unfold engineSet; split <;> rfl
@[simp] theorem engineSet_preds (c : Core) (op t occ : Nat) : (engineSet c op t occ).preds = c.preds := by unfold engineSet; split <;> rfl
@[simp] theorem engineSet_sems (c : Core) (op t occ : Nat) : (engineSet c op t occ).sems = c.sems := by unfold engineSet; split <;> rfl
@[simp] theorem engineSet_num (c : Core) (op t occ : Nat) : (engineSet c op t occ).num = c.num := by unfold engineSet; split <;> rfl
@[simp] theorem engineSet_launch (c : Core) (op t occ : Nat) : (engineSet c op t occ).launch = c.launch := by unfold engineSet; split <;> rfl
@[simp] theorem engineSet_order (c : Core) (op t occ : Nat) : (engineSet c op t occ).order = c.order := by unfold engineSet; split <;> rfl
@[simp] theorem engineSet_check (c : Core) (op t occ : Nat) : (engineSet c op t occ).check = c.check := by unfold engineSet; split <;> rfl
@[simp] theorem engineSet_limit (c : Core) (op t occ : Nat) : (engineSet c op t occ).limit = c.limit := by unfold engineSet; split <;> rfl
@[simp] theorem engineSet_issued (c : Core) (op t occ : Nat) : (engineSet c op t occ).issued = c.issued := by unfold engineSet; split <;> rfl
@[simp] theorem engineSet_tp (c : Core) (op t occ : Nat) : (engineSet c op t occ).tp = c.tp := by unfold engineSet; split <;> rfl
@[simp] theorem engineSet_swapGate (c : Core) (op t occ : Nat) : (engineSet c op t occ).swapGate = c.swapGate := by unfold engineSet; split <;> rfl
@[simp] theorem engineSet_rep (c : Core) (op t occ : Nat) : (engineSet c op t occ).rep = c.rep := by unfold engineSet; split <;> rfl
@[simp] theorem engineSet_block (c : Core) (op t occ : Nat) : (engineSet c op t occ).block = c.block := by unfold engineSet; split <;> rfl
@[simp] theorem engineSet_nextFlight (c : Core) (op t occ : Nat) : (engineSet c op t occ).nextFlight = c.nextFlight := by unfold engineSet; split <;> rfl
@[simp] theorem engineSet_pends (c : Core) (op t occ : Nat) : (engineSet c op t occ).pends = c.pends := by unfold engineSet; split <;> rfl
@[simp] theorem engineSet_ending (c : Core) (op t occ : Nat) : (engineSet c op t occ).ending = c.ending := by unfold engineSet; split <;> rfl
@[simp] theorem engineSet_haltCode (c : Core) (op t occ : Nat) : (engineSet c op t occ).haltCode = c.haltCode := by unfold engineSet; split <;> rfl
@[simp] theorem engineSet_haltDetail (c : Core) (op t occ : Nat) : (engineSet c op t occ).haltDetail = c.haltDetail := by unfold engineSet; split <;> rfl
@[simp] theorem engineSet_haltBank (c : Core) (op t occ : Nat) : (engineSet c op t occ).haltBank = c.haltBank := by unfold engineSet; split <;> rfl
@[simp] theorem engineSet_haltIndex (c : Core) (op t occ : Nat) : (engineSet c op t occ).haltIndex = c.haltIndex := by unfold engineSet; split <;> rfl
@[simp] theorem engineSet_second (c : Core) (op t occ : Nat) : (engineSet c op t occ).second = c.second := by unfold engineSet; split <;> rfl
@[simp] theorem engineSet_haltCycle (c : Core) (op t occ : Nat) : (engineSet c op t occ).haltCycle = c.haltCycle := by unfold engineSet; split <;> rfl
@[simp] theorem engineSet_haltSeq (c : Core) (op t occ : Nat) : (engineSet c op t occ).haltSeq = c.haltSeq := by unfold engineSet; split <;> rfl

@[simp] theorem advance_mode (c : Core) : (advance c).mode = c.mode := by unfold advance; split <;> (try split) <;> rfl
@[simp] theorem advance_bank0 (c : Core) : (advance c).bank0 = c.bank0 := by unfold advance; split <;> (try split) <;> rfl
@[simp] theorem advance_bank1 (c : Core) : (advance c).bank1 = c.bank1 := by unfold advance; split <;> (try split) <;> rfl
@[simp] theorem advance_active (c : Core) : (advance c).active = c.active := by unfold advance; split <;> (try split) <;> rfl
@[simp] theorem advance_scalars (c : Core) : (advance c).scalars = c.scalars := by unfold advance; split <;> (try split) <;> rfl
@[simp] theorem advance_preds (c : Core) : (advance c).preds = c.preds := by unfold advance; split <;> (try split) <;> rfl
@[simp] theorem advance_sems (c : Core) : (advance c).sems = c.sems := by unfold advance; split <;> (try split) <;> rfl
@[simp] theorem advance_num (c : Core) : (advance c).num = c.num := by unfold advance; split <;> (try split) <;> rfl
@[simp] theorem advance_launch (c : Core) : (advance c).launch = c.launch := by unfold advance; split <;> (try split) <;> rfl
@[simp] theorem advance_order (c : Core) : (advance c).order = c.order := by unfold advance; split <;> (try split) <;> rfl
@[simp] theorem advance_check (c : Core) : (advance c).check = c.check := by unfold advance; split <;> (try split) <;> rfl
@[simp] theorem advance_limit (c : Core) : (advance c).limit = c.limit := by unfold advance; split <;> (try split) <;> rfl
@[simp] theorem advance_issued (c : Core) : (advance c).issued = c.issued := by unfold advance; split <;> (try split) <;> rfl
@[simp] theorem advance_tp (c : Core) : (advance c).tp = c.tp := by unfold advance; split <;> (try split) <;> rfl
@[simp] theorem advance_swapGate (c : Core) : (advance c).swapGate = c.swapGate := by unfold advance; split <;> (try split) <;> rfl
@[simp] theorem advance_matEnd (c : Core) : (advance c).matEnd = c.matEnd := by unfold advance; split <;> (try split) <;> rfl
@[simp] theorem advance_vecEnd (c : Core) : (advance c).vecEnd = c.vecEnd := by unfold advance; split <;> (try split) <;> rfl
@[simp] theorem advance_movEnd (c : Core) : (advance c).movEnd = c.movEnd := by unfold advance; split <;> (try split) <;> rfl
@[simp] theorem advance_synEnd (c : Core) : (advance c).synEnd = c.synEnd := by unfold advance; split <;> (try split) <;> rfl
@[simp] theorem advance_block (c : Core) : (advance c).block = c.block := by unfold advance; split <;> (try split) <;> rfl
@[simp] theorem advance_nextFlight (c : Core) : (advance c).nextFlight = c.nextFlight := by unfold advance; split <;> (try split) <;> rfl
@[simp] theorem advance_pends (c : Core) : (advance c).pends = c.pends := by unfold advance; split <;> (try split) <;> rfl
@[simp] theorem advance_ending (c : Core) : (advance c).ending = c.ending := by unfold advance; split <;> (try split) <;> rfl
@[simp] theorem advance_haltCode (c : Core) : (advance c).haltCode = c.haltCode := by unfold advance; split <;> (try split) <;> rfl
@[simp] theorem advance_haltDetail (c : Core) : (advance c).haltDetail = c.haltDetail := by unfold advance; split <;> (try split) <;> rfl
@[simp] theorem advance_haltBank (c : Core) : (advance c).haltBank = c.haltBank := by unfold advance; split <;> (try split) <;> rfl
@[simp] theorem advance_haltIndex (c : Core) : (advance c).haltIndex = c.haltIndex := by unfold advance; split <;> (try split) <;> rfl
@[simp] theorem advance_second (c : Core) : (advance c).second = c.second := by unfold advance; split <;> (try split) <;> rfl
@[simp] theorem advance_haltCycle (c : Core) : (advance c).haltCycle = c.haltCycle := by unfold advance; split <;> (try split) <;> rfl
@[simp] theorem advance_haltSeq (c : Core) : (advance c).haltSeq = c.haltSeq := by unfold advance; split <;> (try split) <;> rfl

@[simp] theorem gone_mode (c : Core) (w : Cmd) (i occ : Nat) (f : Flight) : (gone c w i occ f).mode = c.mode := by simp [gone]
@[simp] theorem gone_bank0 (c : Core) (w : Cmd) (i occ : Nat) (f : Flight) : (gone c w i occ f).bank0 = c.bank0 := by simp [gone]
@[simp] theorem gone_bank1 (c : Core) (w : Cmd) (i occ : Nat) (f : Flight) : (gone c w i occ f).bank1 = c.bank1 := by simp [gone]
@[simp] theorem gone_active (c : Core) (w : Cmd) (i occ : Nat) (f : Flight) : (gone c w i occ f).active = c.active := by simp [gone]
@[simp] theorem gone_scalars (c : Core) (w : Cmd) (i occ : Nat) (f : Flight) : (gone c w i occ f).scalars = c.scalars := by simp [gone]
@[simp] theorem gone_preds (c : Core) (w : Cmd) (i occ : Nat) (f : Flight) : (gone c w i occ f).preds = c.preds := by simp [gone]
@[simp] theorem gone_sems (c : Core) (w : Cmd) (i occ : Nat) (f : Flight) : (gone c w i occ f).sems = c.sems := by simp [gone]
@[simp] theorem gone_num (c : Core) (w : Cmd) (i occ : Nat) (f : Flight) : (gone c w i occ f).num = c.num := by simp [gone]
@[simp] theorem gone_launch (c : Core) (w : Cmd) (i occ : Nat) (f : Flight) : (gone c w i occ f).launch = c.launch := by simp [gone]
@[simp] theorem gone_order (c : Core) (w : Cmd) (i occ : Nat) (f : Flight) : (gone c w i occ f).order = c.order := by simp [gone]
@[simp] theorem gone_check (c : Core) (w : Cmd) (i occ : Nat) (f : Flight) : (gone c w i occ f).check = c.check := by simp [gone]
@[simp] theorem gone_limit (c : Core) (w : Cmd) (i occ : Nat) (f : Flight) : (gone c w i occ f).limit = c.limit := by simp [gone]
@[simp] theorem gone_swapGate (c : Core) (w : Cmd) (i occ : Nat) (f : Flight) : (gone c w i occ f).swapGate = c.swapGate := by simp [gone]
@[simp] theorem gone_block (c : Core) (w : Cmd) (i occ : Nat) (f : Flight) : (gone c w i occ f).block = c.block := by simp [gone]
@[simp] theorem gone_ending (c : Core) (w : Cmd) (i occ : Nat) (f : Flight) : (gone c w i occ f).ending = c.ending := by simp [gone]
@[simp] theorem gone_haltCode (c : Core) (w : Cmd) (i occ : Nat) (f : Flight) : (gone c w i occ f).haltCode = c.haltCode := by simp [gone]
@[simp] theorem gone_haltDetail (c : Core) (w : Cmd) (i occ : Nat) (f : Flight) : (gone c w i occ f).haltDetail = c.haltDetail := by simp [gone]
@[simp] theorem gone_haltBank (c : Core) (w : Cmd) (i occ : Nat) (f : Flight) : (gone c w i occ f).haltBank = c.haltBank := by simp [gone]
@[simp] theorem gone_haltIndex (c : Core) (w : Cmd) (i occ : Nat) (f : Flight) : (gone c w i occ f).haltIndex = c.haltIndex := by simp [gone]
@[simp] theorem gone_second (c : Core) (w : Cmd) (i occ : Nat) (f : Flight) : (gone c w i occ f).second = c.second := by simp [gone]
@[simp] theorem gone_haltCycle (c : Core) (w : Cmd) (i occ : Nat) (f : Flight) : (gone c w i occ f).haltCycle = c.haltCycle := by simp [gone]
@[simp] theorem gone_haltSeq (c : Core) (w : Cmd) (i occ : Nat) (f : Flight) : (gone c w i occ f).haltSeq = c.haltSeq := by simp [gone]

@[simp] theorem cSetS_mode (c : Core) (k : Nat) (v : Word) : (cSetS c k v).mode = c.mode := by unfold cSetS; split <;> rfl
@[simp] theorem cSetP_mode (c : Core) (k : Nat) (b : Bool) : (cSetP c k b).mode = c.mode := by unfold cSetP; (try split) <;> rfl
@[simp] theorem cSetSem_mode (c : Core) (k v : Nat) : (cSetSem c k v).mode = c.mode := rfl
@[simp] theorem cSetS_bank0 (c : Core) (k : Nat) (v : Word) : (cSetS c k v).bank0 = c.bank0 := by unfold cSetS; split <;> rfl
@[simp] theorem cSetP_bank0 (c : Core) (k : Nat) (b : Bool) : (cSetP c k b).bank0 = c.bank0 := by unfold cSetP; (try split) <;> rfl
@[simp] theorem cSetSem_bank0 (c : Core) (k v : Nat) : (cSetSem c k v).bank0 = c.bank0 := rfl
@[simp] theorem cSetS_bank1 (c : Core) (k : Nat) (v : Word) : (cSetS c k v).bank1 = c.bank1 := by unfold cSetS; split <;> rfl
@[simp] theorem cSetP_bank1 (c : Core) (k : Nat) (b : Bool) : (cSetP c k b).bank1 = c.bank1 := by unfold cSetP; (try split) <;> rfl
@[simp] theorem cSetSem_bank1 (c : Core) (k v : Nat) : (cSetSem c k v).bank1 = c.bank1 := rfl
@[simp] theorem cSetS_active (c : Core) (k : Nat) (v : Word) : (cSetS c k v).active = c.active := by unfold cSetS; split <;> rfl
@[simp] theorem cSetP_active (c : Core) (k : Nat) (b : Bool) : (cSetP c k b).active = c.active := by unfold cSetP; (try split) <;> rfl
@[simp] theorem cSetSem_active (c : Core) (k v : Nat) : (cSetSem c k v).active = c.active := rfl
@[simp] theorem cSetS_index (c : Core) (k : Nat) (v : Word) : (cSetS c k v).index = c.index := by unfold cSetS; split <;> rfl
@[simp] theorem cSetP_index (c : Core) (k : Nat) (b : Bool) : (cSetP c k b).index = c.index := by unfold cSetP; (try split) <;> rfl
@[simp] theorem cSetSem_index (c : Core) (k v : Nat) : (cSetSem c k v).index = c.index := rfl
@[simp] theorem cSetP_scalars (c : Core) (k : Nat) (b : Bool) : (cSetP c k b).scalars = c.scalars := by unfold cSetP; (try split) <;> rfl
@[simp] theorem cSetSem_scalars (c : Core) (k v : Nat) : (cSetSem c k v).scalars = c.scalars := rfl
@[simp] theorem cSetS_preds (c : Core) (k : Nat) (v : Word) : (cSetS c k v).preds = c.preds := by unfold cSetS; split <;> rfl
@[simp] theorem cSetSem_preds (c : Core) (k v : Nat) : (cSetSem c k v).preds = c.preds := rfl
@[simp] theorem cSetS_sems (c : Core) (k : Nat) (v : Word) : (cSetS c k v).sems = c.sems := by unfold cSetS; split <;> rfl
@[simp] theorem cSetP_sems (c : Core) (k : Nat) (b : Bool) : (cSetP c k b).sems = c.sems := by unfold cSetP; (try split) <;> rfl
@[simp] theorem cSetS_num (c : Core) (k : Nat) (v : Word) : (cSetS c k v).num = c.num := by unfold cSetS; split <;> rfl
@[simp] theorem cSetP_num (c : Core) (k : Nat) (b : Bool) : (cSetP c k b).num = c.num := by unfold cSetP; (try split) <;> rfl
@[simp] theorem cSetSem_num (c : Core) (k v : Nat) : (cSetSem c k v).num = c.num := rfl
@[simp] theorem cSetS_launch (c : Core) (k : Nat) (v : Word) : (cSetS c k v).launch = c.launch := by unfold cSetS; split <;> rfl
@[simp] theorem cSetP_launch (c : Core) (k : Nat) (b : Bool) : (cSetP c k b).launch = c.launch := by unfold cSetP; (try split) <;> rfl
@[simp] theorem cSetSem_launch (c : Core) (k v : Nat) : (cSetSem c k v).launch = c.launch := rfl
@[simp] theorem cSetS_order (c : Core) (k : Nat) (v : Word) : (cSetS c k v).order = c.order := by unfold cSetS; split <;> rfl
@[simp] theorem cSetP_order (c : Core) (k : Nat) (b : Bool) : (cSetP c k b).order = c.order := by unfold cSetP; (try split) <;> rfl
@[simp] theorem cSetSem_order (c : Core) (k v : Nat) : (cSetSem c k v).order = c.order := rfl
@[simp] theorem cSetS_check (c : Core) (k : Nat) (v : Word) : (cSetS c k v).check = c.check := by unfold cSetS; split <;> rfl
@[simp] theorem cSetP_check (c : Core) (k : Nat) (b : Bool) : (cSetP c k b).check = c.check := by unfold cSetP; (try split) <;> rfl
@[simp] theorem cSetSem_check (c : Core) (k v : Nat) : (cSetSem c k v).check = c.check := rfl
@[simp] theorem cSetS_limit (c : Core) (k : Nat) (v : Word) : (cSetS c k v).limit = c.limit := by unfold cSetS; split <;> rfl
@[simp] theorem cSetP_limit (c : Core) (k : Nat) (b : Bool) : (cSetP c k b).limit = c.limit := by unfold cSetP; (try split) <;> rfl
@[simp] theorem cSetSem_limit (c : Core) (k v : Nat) : (cSetSem c k v).limit = c.limit := rfl
@[simp] theorem cSetS_issued (c : Core) (k : Nat) (v : Word) : (cSetS c k v).issued = c.issued := by unfold cSetS; split <;> rfl
@[simp] theorem cSetP_issued (c : Core) (k : Nat) (b : Bool) : (cSetP c k b).issued = c.issued := by unfold cSetP; (try split) <;> rfl
@[simp] theorem cSetSem_issued (c : Core) (k v : Nat) : (cSetSem c k v).issued = c.issued := rfl
@[simp] theorem cSetS_tp (c : Core) (k : Nat) (v : Word) : (cSetS c k v).tp = c.tp := by unfold cSetS; split <;> rfl
@[simp] theorem cSetP_tp (c : Core) (k : Nat) (b : Bool) : (cSetP c k b).tp = c.tp := by unfold cSetP; (try split) <;> rfl
@[simp] theorem cSetSem_tp (c : Core) (k v : Nat) : (cSetSem c k v).tp = c.tp := rfl
@[simp] theorem cSetS_swapGate (c : Core) (k : Nat) (v : Word) : (cSetS c k v).swapGate = c.swapGate := by unfold cSetS; split <;> rfl
@[simp] theorem cSetP_swapGate (c : Core) (k : Nat) (b : Bool) : (cSetP c k b).swapGate = c.swapGate := by unfold cSetP; (try split) <;> rfl
@[simp] theorem cSetSem_swapGate (c : Core) (k v : Nat) : (cSetSem c k v).swapGate = c.swapGate := rfl
@[simp] theorem cSetS_matEnd (c : Core) (k : Nat) (v : Word) : (cSetS c k v).matEnd = c.matEnd := by unfold cSetS; split <;> rfl
@[simp] theorem cSetP_matEnd (c : Core) (k : Nat) (b : Bool) : (cSetP c k b).matEnd = c.matEnd := by unfold cSetP; (try split) <;> rfl
@[simp] theorem cSetSem_matEnd (c : Core) (k v : Nat) : (cSetSem c k v).matEnd = c.matEnd := rfl
@[simp] theorem cSetS_vecEnd (c : Core) (k : Nat) (v : Word) : (cSetS c k v).vecEnd = c.vecEnd := by unfold cSetS; split <;> rfl
@[simp] theorem cSetP_vecEnd (c : Core) (k : Nat) (b : Bool) : (cSetP c k b).vecEnd = c.vecEnd := by unfold cSetP; (try split) <;> rfl
@[simp] theorem cSetSem_vecEnd (c : Core) (k v : Nat) : (cSetSem c k v).vecEnd = c.vecEnd := rfl
@[simp] theorem cSetS_movEnd (c : Core) (k : Nat) (v : Word) : (cSetS c k v).movEnd = c.movEnd := by unfold cSetS; split <;> rfl
@[simp] theorem cSetP_movEnd (c : Core) (k : Nat) (b : Bool) : (cSetP c k b).movEnd = c.movEnd := by unfold cSetP; (try split) <;> rfl
@[simp] theorem cSetSem_movEnd (c : Core) (k v : Nat) : (cSetSem c k v).movEnd = c.movEnd := rfl
@[simp] theorem cSetS_synEnd (c : Core) (k : Nat) (v : Word) : (cSetS c k v).synEnd = c.synEnd := by unfold cSetS; split <;> rfl
@[simp] theorem cSetP_synEnd (c : Core) (k : Nat) (b : Bool) : (cSetP c k b).synEnd = c.synEnd := by unfold cSetP; (try split) <;> rfl
@[simp] theorem cSetSem_synEnd (c : Core) (k v : Nat) : (cSetSem c k v).synEnd = c.synEnd := rfl
@[simp] theorem cSetS_rep (c : Core) (k : Nat) (v : Word) : (cSetS c k v).rep = c.rep := by unfold cSetS; split <;> rfl
@[simp] theorem cSetP_rep (c : Core) (k : Nat) (b : Bool) : (cSetP c k b).rep = c.rep := by unfold cSetP; (try split) <;> rfl
@[simp] theorem cSetSem_rep (c : Core) (k v : Nat) : (cSetSem c k v).rep = c.rep := rfl
@[simp] theorem cSetS_block (c : Core) (k : Nat) (v : Word) : (cSetS c k v).block = c.block := by unfold cSetS; split <;> rfl
@[simp] theorem cSetP_block (c : Core) (k : Nat) (b : Bool) : (cSetP c k b).block = c.block := by unfold cSetP; (try split) <;> rfl
@[simp] theorem cSetSem_block (c : Core) (k v : Nat) : (cSetSem c k v).block = c.block := rfl
@[simp] theorem cSetS_flights (c : Core) (k : Nat) (v : Word) : (cSetS c k v).flights = c.flights := by unfold cSetS; split <;> rfl
@[simp] theorem cSetP_flights (c : Core) (k : Nat) (b : Bool) : (cSetP c k b).flights = c.flights := by unfold cSetP; (try split) <;> rfl
@[simp] theorem cSetSem_flights (c : Core) (k v : Nat) : (cSetSem c k v).flights = c.flights := rfl
@[simp] theorem cSetS_nextFlight (c : Core) (k : Nat) (v : Word) : (cSetS c k v).nextFlight = c.nextFlight := by unfold cSetS; split <;> rfl
@[simp] theorem cSetP_nextFlight (c : Core) (k : Nat) (b : Bool) : (cSetP c k b).nextFlight = c.nextFlight := by unfold cSetP; (try split) <;> rfl
@[simp] theorem cSetSem_nextFlight (c : Core) (k v : Nat) : (cSetSem c k v).nextFlight = c.nextFlight := rfl
@[simp] theorem cSetS_pends (c : Core) (k : Nat) (v : Word) : (cSetS c k v).pends = c.pends := by unfold cSetS; split <;> rfl
@[simp] theorem cSetP_pends (c : Core) (k : Nat) (b : Bool) : (cSetP c k b).pends = c.pends := by unfold cSetP; (try split) <;> rfl
@[simp] theorem cSetSem_pends (c : Core) (k v : Nat) : (cSetSem c k v).pends = c.pends := rfl
@[simp] theorem cSetS_ending (c : Core) (k : Nat) (v : Word) : (cSetS c k v).ending = c.ending := by unfold cSetS; split <;> rfl
@[simp] theorem cSetP_ending (c : Core) (k : Nat) (b : Bool) : (cSetP c k b).ending = c.ending := by unfold cSetP; (try split) <;> rfl
@[simp] theorem cSetSem_ending (c : Core) (k v : Nat) : (cSetSem c k v).ending = c.ending := rfl
@[simp] theorem cSetS_haltCode (c : Core) (k : Nat) (v : Word) : (cSetS c k v).haltCode = c.haltCode := by unfold cSetS; split <;> rfl
@[simp] theorem cSetP_haltCode (c : Core) (k : Nat) (b : Bool) : (cSetP c k b).haltCode = c.haltCode := by unfold cSetP; (try split) <;> rfl
@[simp] theorem cSetSem_haltCode (c : Core) (k v : Nat) : (cSetSem c k v).haltCode = c.haltCode := rfl
@[simp] theorem cSetS_haltDetail (c : Core) (k : Nat) (v : Word) : (cSetS c k v).haltDetail = c.haltDetail := by unfold cSetS; split <;> rfl
@[simp] theorem cSetP_haltDetail (c : Core) (k : Nat) (b : Bool) : (cSetP c k b).haltDetail = c.haltDetail := by unfold cSetP; (try split) <;> rfl
@[simp] theorem cSetSem_haltDetail (c : Core) (k v : Nat) : (cSetSem c k v).haltDetail = c.haltDetail := rfl
@[simp] theorem cSetS_haltBank (c : Core) (k : Nat) (v : Word) : (cSetS c k v).haltBank = c.haltBank := by unfold cSetS; split <;> rfl
@[simp] theorem cSetP_haltBank (c : Core) (k : Nat) (b : Bool) : (cSetP c k b).haltBank = c.haltBank := by unfold cSetP; (try split) <;> rfl
@[simp] theorem cSetSem_haltBank (c : Core) (k v : Nat) : (cSetSem c k v).haltBank = c.haltBank := rfl
@[simp] theorem cSetS_haltIndex (c : Core) (k : Nat) (v : Word) : (cSetS c k v).haltIndex = c.haltIndex := by unfold cSetS; split <;> rfl
@[simp] theorem cSetP_haltIndex (c : Core) (k : Nat) (b : Bool) : (cSetP c k b).haltIndex = c.haltIndex := by unfold cSetP; (try split) <;> rfl
@[simp] theorem cSetSem_haltIndex (c : Core) (k v : Nat) : (cSetSem c k v).haltIndex = c.haltIndex := rfl
@[simp] theorem cSetS_second (c : Core) (k : Nat) (v : Word) : (cSetS c k v).second = c.second := by unfold cSetS; split <;> rfl
@[simp] theorem cSetP_second (c : Core) (k : Nat) (b : Bool) : (cSetP c k b).second = c.second := by unfold cSetP; (try split) <;> rfl
@[simp] theorem cSetSem_second (c : Core) (k v : Nat) : (cSetSem c k v).second = c.second := rfl
@[simp] theorem cSetS_haltCycle (c : Core) (k : Nat) (v : Word) : (cSetS c k v).haltCycle = c.haltCycle := by unfold cSetS; split <;> rfl
@[simp] theorem cSetP_haltCycle (c : Core) (k : Nat) (b : Bool) : (cSetP c k b).haltCycle = c.haltCycle := by unfold cSetP; (try split) <;> rfl
@[simp] theorem cSetSem_haltCycle (c : Core) (k v : Nat) : (cSetSem c k v).haltCycle = c.haltCycle := rfl
@[simp] theorem cSetS_haltSeq (c : Core) (k : Nat) (v : Word) : (cSetS c k v).haltSeq = c.haltSeq := by unfold cSetS; split <;> rfl
@[simp] theorem cSetP_haltSeq (c : Core) (k : Nat) (b : Bool) : (cSetP c k b).haltSeq = c.haltSeq := by unfold cSetP; (try split) <;> rfl
@[simp] theorem cSetSem_haltSeq (c : Core) (k v : Nat) : (cSetSem c k v).haltSeq = c.haltSeq := rfl

@[simp] theorem gone_issued (c : Core) (w : Cmd) (i occ : Nat) (f : Flight) : (gone c w i occ f).issued = c.issued + 1 := by simp [gone]
@[simp] theorem gone_tp (c : Core) (w : Cmd) (i occ : Nat) (f : Flight) : (gone c w i occ f).tp = i := by simp [gone]
@[simp] theorem gone_nextFlight (c : Core) (w : Cmd) (i occ : Nat) (f : Flight) : (gone c w i occ f).nextFlight = c.nextFlight + 1 := rfl
@[simp] theorem gone_pends (c : Core) (w : Cmd) (i occ : Nat) (f : Flight) : (gone c w i occ f).pends = [] := rfl

/-- Outside a REPEAT the index moves on by one. -/
theorem gone_index {c : Core} (h : c.rep = none) (w : Cmd) (i occ : Nat) (f : Flight) : (gone c w i occ f).index = c.index + 1 := by
  simp [gone, advance, h]

theorem gone_rep {c : Core} (h : c.rep = none) (w : Cmd) (i occ : Nat) (f : Flight) : (gone c w i occ f).rep = none := by
  simp [gone, advance, h]

end Sys2Proof.Machine
end

