-- ==== Sys2Proof/Laws/Dispatch.lean ====
section
/-! SUPPORT. What each arm of the dispatch calls. -/

namespace Sys2Proof.Machine

@[simp] theorem exec_regWrite : ∀ off size v sets s, exec (.regWrite off size v sets) s = execRegWrite off size v s sets := by intros; rfl
@[simp] theorem exec_configRequest : ∀ early s, exec (.configRequest early) s = execConfigRequest early s := by intros; rfl
@[simp] theorem exec_flushClear : ∀ n inc s, exec (.flushClear n inc) s = execFlushClear n inc s := by intros; rfl
@[simp] theorem exec_srGo : ∀ tensor s, exec (.srGo tensor) s = execSrGo tensor s := by intros; rfl
@[simp] theorem exec_srEvalDone : ∀ s, exec (.srEvalDone) s = execSrEvalDone s := by intros; rfl
@[simp] theorem exec_launchStart : ∀ n s, exec (.launchStart n) s = execLaunchStart n s := by intros; rfl
@[simp] theorem exec_undefinedOpcode : ∀ n s, exec (.undefinedOpcode n) s = execUndefinedOpcode n s := by intros; rfl
@[simp] theorem exec_matMm : ∀ n s, exec (.matMm n) s = execMatMm n s := by intros; rfl
@[simp] theorem exec_matMmp : ∀ n s, exec (.matMmp n) s = execMatMmp n s := by intros; rfl
@[simp] theorem exec_matMms : ∀ n s, exec (.matMms n) s = execMatMms n s := by intros; rfl
@[simp] theorem exec_matPadd : ∀ n occ s, exec (.matPadd n occ) s = execMatPadd n occ s := by intros; rfl
@[simp] theorem exec_vecAdd : ∀ n s, exec (.vecAdd n) s = execVecAdd n s := by intros; rfl
@[simp] theorem exec_vecMul : ∀ n s, exec (.vecMul n) s = execVecMul n s := by intros; rfl
@[simp] theorem exec_vecFma : ∀ n s, exec (.vecFma n) s = execVecFma n s := by intros; rfl
@[simp] theorem exec_vecMax : ∀ n s, exec (.vecMax n) s = execVecMax n s := by intros; rfl
@[simp] theorem exec_vecMin : ∀ n s, exec (.vecMin n) s = execVecMin n s := by intros; rfl
@[simp] theorem exec_vecNeg : ∀ n s, exec (.vecNeg n) s = execVecNeg n s := by intros; rfl
@[simp] theorem exec_vecAbs : ∀ n s, exec (.vecAbs n) s = execVecAbs n s := by intros; rfl
@[simp] theorem exec_vecCvt : ∀ n s, exec (.vecCvt n) s = execVecCvt n s := by intros; rfl
@[simp] theorem exec_vecExp2 : ∀ n s, exec (.vecExp2 n) s = execVecExp2 n s := by intros; rfl
@[simp] theorem exec_vecLog2 : ∀ n s, exec (.vecLog2 n) s = execVecLog2 n s := by intros; rfl
@[simp] theorem exec_vecRcp : ∀ n s, exec (.vecRcp n) s = execVecRcp n s := by intros; rfl
@[simp] theorem exec_vecRsqrt : ∀ n s, exec (.vecRsqrt n) s = execVecRsqrt n s := by intros; rfl
@[simp] theorem exec_vecRowsum : ∀ n s, exec (.vecRowsum n) s = execVecRowsum n s := by intros; rfl
@[simp] theorem exec_vecRowmax : ∀ n s, exec (.vecRowmax n) s = execVecRowmax n s := by intros; rfl
@[simp] theorem exec_vecUpd : ∀ n s, exec (.vecUpd n) s = execVecUpd n s := by intros; rfl
@[simp] theorem exec_movCopy : ∀ n occ errs s, exec (.movCopy n occ errs) s = execMovCopy n occ errs s := by intros; rfl
@[simp] theorem exec_movCvt : ∀ n occ s, exec (.movCvt n occ) s = execMovCvt n occ s := by intros; rfl
@[simp] theorem exec_movMxin : ∀ n occ s, exec (.movMxin n occ) s = execMovMxin n occ s := by intros; rfl
@[simp] theorem exec_movMxout : ∀ n occ s, exec (.movMxout n occ) s = execMovMxout n occ s := by intros; rfl
@[simp] theorem exec_movAtom : ∀ n occ s, exec (.movAtom n occ) s = execMovAtom n occ s := by intros; rfl
@[simp] theorem exec_movStash : ∀ n s, exec (.movStash n) s = execMovStash n s := by intros; rfl
@[simp] theorem exec_stashPoolReply : ∀ n cyc occ s, exec (.stashPoolReply n cyc occ) s = execStashPoolReply n cyc occ s := by intros; rfl
@[simp] theorem exec_movRelease : ∀ n occ s, exec (.movRelease n occ) s = execMovRelease n occ s := by intros; rfl
@[simp] theorem exec_movImload : ∀ n occ s, exec (.movImload n occ) s = execMovImload n occ s := by intros; rfl
@[simp] theorem exec_synNop : ∀ n s, exec (.synNop n) s = execSynNop n s := by intros; rfl
@[simp] theorem exec_synWait : ∀ n s, exec (.synWait n) s = execSynWait n s := by intros; rfl
@[simp] theorem exec_waitSatisfied : ∀ n cyc s, exec (.waitSatisfied n cyc) s = execWaitSatisfied n cyc s := by intros; rfl
@[simp] theorem exec_waitTimeout : ∀ n cyc s, exec (.waitTimeout n cyc) s = execWaitTimeout n cyc s := by intros; rfl
@[simp] theorem exec_synSignal : ∀ n s, exec (.synSignal n) s = execSynSignal n s := by intros; rfl
@[simp] theorem exec_synRsignal : ∀ n occ s, exec (.synRsignal n occ) s = execSynRsignal n occ s := by intros; rfl
@[simp] theorem exec_synSetp : ∀ n s, exec (.synSetp n) s = execSynSetp n s := by intros; rfl
@[simp] theorem exec_synSkip : ∀ n s, exec (.synSkip n) s = execSynSkip n s := by intros; rfl
@[simp] theorem exec_synRepeat : ∀ n s, exec (.synRepeat n) s = execSynRepeat n s := by intros; rfl
@[simp] theorem exec_synSwap : ∀ n s, exec (.synSwap n) s = execSynSwap n s := by intros; rfl
@[simp] theorem exec_synEnd : ∀ n s, exec (.synEnd n) s = execSynEnd n s := by intros; rfl
@[simp] theorem exec_synSalu : ∀ n s, exec (.synSalu n) s = execSynSalu n s := by intros; rfl
@[simp] theorem exec_synSld : ∀ n s, exec (.synSld n) s = execSynSld n s := by intros; rfl
@[simp] theorem exec_synSst : ∀ n s, exec (.synSst n) s = execSynSst n s := by intros; rfl
@[simp] theorem exec_synFlags : ∀ n s, exec (.synFlags n) s = execSynFlags n s := by intros; rfl
@[simp] theorem exec_synColl : ∀ n occ s, exec (.synColl n occ) s = execSynColl n occ s := by intros; rfl
@[simp] theorem exec_fixedWriteback : ∀ n s, exec (.fixedWriteback n) s = execFixedWriteback n s := by intros; rfl
@[simp] theorem exec_varCommandComplete : ∀ n f cyc s, exec (.varCommandComplete n f cyc) s = execVarCommandComplete n f cyc s := by intros; rfl
@[simp] theorem exec_haltLimit : ∀ n s, exec (.haltLimit n) s = execHaltLimit n s := by intros; rfl
@[simp] theorem exec_endDrainDone : ∀ n s, exec (.endDrainDone n) s = execEndDrainDone n s := by intros; rfl
@[simp] theorem exec_haltDrainDone : ∀ n s, exec (.haltDrainDone n) s = execHaltDrainDone n s := by intros; rfl
@[simp] theorem exec_haltDrainTimeout : ∀ n cyc s, exec (.haltDrainTimeout n cyc) s = execHaltDrainTimeout n s cyc := by intros; rfl
@[simp] theorem exec_haltHost : ∀ n cyc s, exec (.haltHost n cyc) s = execHaltHost n cyc s := by intros; rfl
@[simp] theorem exec_clearHalt : ∀ n s, exec (.clearHalt n) s = execClearHalt n s := by intros; rfl
@[simp] theorem exec_coreReset : ∀ n s, exec (.coreReset n) s = execCoreReset n s := by intros; rfl
@[simp] theorem exec_poolInit : ∀ s, exec (.poolInit) s = execPoolInit s := by intros; rfl
@[simp] theorem exec_poolInitDone : ∀ s, exec (.poolInitDone) s = execPoolInitDone s := by intros; rfl
@[simp] theorem exec_memErrClear : ∀ inc s, exec (.memErrClear inc) s = execMemErrClear inc s := by intros; rfl
@[simp] theorem exec_requestTimeout : ∀ port tag s, exec (.requestTimeout port tag) s = execRequestTimeout port tag s := by intros; rfl
@[simp] theorem exec_patrolScrub : ∀ key found reader s, exec (.patrolScrub key found reader) s = execPatrolScrub key found s reader := by intros; rfl
@[simp] theorem exec_farEccPoll : ∀ p answers errs s, exec (.farEccPoll p answers errs) s = execFarEccPoll p answers errs s := by intros; rfl
@[simp] theorem exec_stackTempChange : ∀ st temp s, exec (.stackTempChange st temp) s = execStackTempChange st temp s := by intros; rfl
@[simp] theorem exec_hdmRead : ∀ range off caches s, exec (.hdmRead range off caches) s = execHdmRead range off caches s := by intros; rfl
@[simp] theorem exec_hdmWrite : ∀ range off data be caches s, exec (.hdmWrite range off data be caches) s = execHdmWrite range off data be caches s := by intros; rfl
@[simp] theorem exec_bisnpResponse : ∀ line inv data keep s, exec (.bisnpResponse line inv data keep) s = execBisnpResponse line inv data keep s := by intros; rfl
@[simp] theorem exec_enable : ∀ q v fw s, exec (.enable q v fw) s = execEnable q v fw s := by intros; rfl
@[simp] theorem exec_retrain : ∀ q s, exec (.retrain q) s = execRetrain q s := by intros; rfl
@[simp] theorem exec_lnkClearCnt : ∀ q incs s, exec (.lnkClearCnt q incs) s = execLnkClearCnt q s incs := by intros; rfl
@[simp] theorem exec_spareNow : ∀ q lane sub s, exec (.spareNow q lane sub) s = execSpareNow q lane sub s := by intros; rfl
@[simp] theorem exec_trainingMarker : ∀ q j inv snr sat w s, exec (.trainingMarker q j inv snr sat w) s = execTrainingMarker q j inv snr sat w s := by intros; rfl
@[simp] theorem exec_bringupRetry : ∀ q s, exec (.bringupRetry q) s = execBringupRetry q s := by intros; rfl
@[simp] theorem exec_equaliserTimeout : ∀ q s, exec (.equaliserTimeout q) s = execEqualiserTimeout q s := by intros; rfl
@[simp] theorem exec_codewordSend : ∀ p s, exec (.codewordSend p) s = execCodewordSend p s := by intros; rfl
@[simp] theorem exec_codewordReceive : ∀ q j r0 r1 r2 r3 r4 s, exec (.codewordReceive q j r0 r1 r2 r3 r4) s = execCodewordReceive q j r0 r1 r2 r3 r4 s := by intros; rfl
@[simp] theorem exec_lcsIdle : ∀ p s, exec (.lcsIdle p) s = execLcsIdle p s := by intros; rfl
@[simp] theorem exec_lcsCtrl : ∀ p s, exec (.lcsCtrl p) s = execLcsCtrl p s := by intros; rfl
@[simp] theorem exec_lcsInit : ∀ p s, exec (.lcsInit p) s = execLcsInit p s := by intros; rfl
@[simp] theorem exec_lcsSpare : ∀ p s, exec (.lcsSpare p) s = execLcsSpare p s := by intros; rfl
@[simp] theorem exec_ackTimer : ∀ p s, exec (.ackTimer p) s = execAckTimer p s := by intros; rfl
@[simp] theorem exec_nakRepeat : ∀ p s, exec (.nakRepeat p) s = execNakRepeat p s := by intros; rfl
@[simp] theorem exec_keepaliveSend : ∀ p s, exec (.keepaliveSend p) s = execKeepaliveSend p s := by intros; rfl
@[simp] theorem exec_kaTimeout : ∀ p s, exec (.kaTimeout p) s = execKaTimeout p s := by intros; rfl
@[simp] theorem exec_fastRetrainTimeout : ∀ p s, exec (.fastRetrainTimeout p) s = execFastRetrainTimeout p s := by intros; rfl
@[simp] theorem exec_laneLossStart : ∀ q j lol s, exec (.laneLossStart q j lol) s = execLaneLossStart q j lol s := by intros; rfl
@[simp] theorem exec_laneLossEnd : ∀ q j lol s, exec (.laneLossEnd q j lol) s = execLaneLossEnd q j lol s := by intros; rfl
@[simp] theorem exec_laneLossPersist : ∀ q j s, exec (.laneLossPersist q j) s = execLaneLossPersist q j s := by intros; rfl
@[simp] theorem exec_quadPllUnlock : ∀ q s, exec (.quadPllUnlock q) s = execQuadPllUnlock q s := by intros; rfl
@[simp] theorem exec_quadPllLock : ∀ q s, exec (.quadPllLock q) s = execQuadPllLock q s := by intros; rfl
@[simp] theorem exec_clockMismatch : ∀ q j s, exec (.clockMismatch q j) s = execClockMismatch q j s := by intros; rfl
@[simp] theorem exec_spareTrainDone : ∀ p ok s, exec (.spareTrainDone p ok) s = execSpareTrainDone p ok s := by intros; rfl
@[simp] theorem exec_opticsPoll : ∀ c cmis modw lanes thr s, exec (.opticsPoll c cmis modw lanes thr) s = execOpticsPoll c cmis modw lanes thr s := by intros; rfl
@[simp] theorem exec_optPresentChange : ∀ c low s, exec (.optPresentChange c low) s = execOptPresentChange c low s := by intros; rfl
@[simp] theorem exec_vccOptOvercurrent : ∀ c s, exec (.vccOptOvercurrent c) s = execVccOptOvercurrent c s := by intros; rfl
@[simp] theorem exec_vccOptRetry : ∀ c ok s, exec (.vccOptRetry c ok) s = execVccOptRetry c ok s := by intros; rfl
@[simp] theorem exec_frameArrive : ∀ p s, exec (.frameArrive p) s = execFrameArrive p s := by intros; rfl
@[simp] theorem exec_frameTail : ∀ p s, exec (.frameTail p) s = execFrameTail p s := by intros; rfl
@[simp] theorem exec_adaptiveChoice : ∀ id s, exec (.adaptiveChoice id) s = execAdaptiveChoice id s := by intros; rfl
@[simp] theorem exec_outputSelect : ∀ p s, exec (.outputSelect p) s = execOutputSelect p s := by intros; rfl
@[simp] theorem exec_creditGrant : ∀ p v s, exec (.creditGrant p v) s = execCreditGrant p v s := by intros; rfl
@[simp] theorem exec_ageCheck : ∀ s, exec (.ageCheck) s = execAgeCheck s := by intros; rfl
@[simp] theorem exec_fence : ∀ p v fw s, exec (.fence p v fw) s = execFence p v fw s := by intros; rfl
@[simp] theorem exec_gminWrite : ∀ p v fw s, exec (.gminWrite p v fw) s = execGminWrite p v fw s := by intros; rfl
@[simp] theorem exec_swcClearCnt : ∀ incs s, exec (.swcClearCnt incs) s = execSwcClearCnt s incs := by intros; rfl
@[simp] theorem exec_rsvWrite : ∀ r v fw s, exec (.rsvWrite r v fw) s = execRsvWrite r v fw s := by intros; rfl
@[simp] theorem exec_refill : ∀ s, exec (.refill) s = execRefill s := by intros; rfl
@[simp] theorem exec_policerAccept : ∀ r s, exec (.policerAccept r) s = execPolicerAccept r s := by intros; rfl
@[simp] theorem exec_wr : ∀ s, exec (.wr) s = execWr s := by intros; rfl
@[simp] theorem exec_rd : ∀ errs s, exec (.rd errs) s = execRd errs s := by intros; rfl
@[simp] theorem exec_rddata : ∀ s, exec (.rddata) s = execRddata s := by intros; rfl
@[simp] theorem exec_wrack : ∀ s, exec (.wrack) s = execWrack s := by intros; rfl
@[simp] theorem exec_atom : ∀ s, exec (.atom) s = execAtom s := by intros; rfl
@[simp] theorem exec_atomrsp : ∀ s, exec (.atomrsp) s = execAtomrsp s := by intros; rfl
@[simp] theorem exec_sig : ∀ s, exec (.sig) s = execSig s := by intros; rfl
@[simp] theorem exec_sigack : ∀ s, exec (.sigack) s = execSigack s := by intros; rfl
@[simp] theorem exec_err : ∀ s, exec (.err) s = execErr s := by intros; rfl
@[simp] theorem exec_msg : ∀ s, exec (.msg) s = execMsg s := by intros; rfl
@[simp] theorem exec_msgDeliverRetry : ∀ i1 s, exec (.msgDeliverRetry i1) s = execMsgDeliverRetry i1 s := by intros; rfl
@[simp] theorem exec_deliverDrop : ∀ i1 s, exec (.deliverDrop i1) s = execDeliverDrop i1 s := by intros; rfl
@[simp] theorem exec_msgack : ∀ s, exec (.msgack) s = execMsgack s := by intros; rfl
@[simp] theorem exec_flow : ∀ s, exec (.flow) s = execFlow s := by intros; rfl
@[simp] theorem exec_chunk : ∀ u s, exec (.chunk u) s = execChunk u s := by intros; rfl
@[simp] theorem exec_stuSum : ∀ n ce ue wrong s, exec (.stuSum n ce ue wrong) s = execStuSum n ce ue wrong s := by intros; rfl
@[simp] theorem exec_stuGatherFixed : ∀ n ce ue wrong s, exec (.stuGatherFixed n ce ue wrong) s = execStuGatherFixed n ce ue wrong s := by intros; rfl
@[simp] theorem exec_stuGatherLanes : ∀ n ce ue wrong s, exec (.stuGatherLanes n ce ue wrong) s = execStuGatherLanes n ce ue wrong s := by intros; rfl
@[simp] theorem exec_stuSortLocal : ∀ n ce ue wrong s, exec (.stuSortLocal n ce ue wrong) s = execStuSortLocal n ce ue wrong s := by intros; rfl
@[simp] theorem exec_stuSortMerge : ∀ n ce ue wrong s, exec (.stuSortMerge n ce ue wrong) s = execStuSortMerge n ce ue wrong s := by intros; rfl
@[simp] theorem exec_stuFilter : ∀ n ce ue wrong s, exec (.stuFilter n ce ue wrong) s = execStuFilter n ce ue wrong s := by intros; rfl
@[simp] theorem exec_stuClearCnt : ∀ u incs s, exec (.stuClearCnt u incs) s = execStuClearCnt u s incs := by intros; rfl
@[simp] theorem exec_kctrlCommit : ∀ v fw s, exec (.kctrlCommit v fw) s = execKctrlCommit v fw s := by intros; rfl
@[simp] theorem exec_kernelInstallDone : ∀ s, exec (.kernelInstallDone) s = execKernelInstallDone s := by intros; rfl
@[simp] theorem exec_gsetCommit : ∀ g s, exec (.gsetCommit g) s = execGsetCommit g s := by intros; rfl
@[simp] theorem exec_groupCommitDone : ∀ s, exec (.groupCommitDone) s = execGroupCommitDone s := by intros; rfl
@[simp] theorem exec_reserveRetry : ∀ h s, exec (.reserveRetry h) s = execReserveRetry h s := by intros; rfl
@[simp] theorem exec_ready : ∀ s, exec (.ready) s = execReady s := by intros; rfl
@[simp] theorem exec_result : ∀ s, exec (.result) s = execResult s := by intros; rfl
@[simp] theorem exec_resultVisible : ∀ h stripe j s, exec (.resultVisible h stripe j) s = execResultVisible h stripe j s := by intros; rfl
@[simp] theorem exec_ack : ∀ s, exec (.ack) s = execAck s := by intros; rfl
@[simp] theorem exec_pace : ∀ s, exec (.pace) s = execPace s := by intros; rfl
@[simp] theorem exec_retx : ∀ s, exec (.retx) s = execRetx s := by intros; rfl
@[simp] theorem exec_retxRepeat : ∀ h stripe j s, exec (.retxRepeat h stripe j) s = execRetxRepeat h stripe j s := by intros; rfl
@[simp] theorem exec_report : ∀ s, exec (.report) s = execReport s := by intros; rfl
@[simp] theorem exec_collEnd : ∀ s, exec (.collEnd) s = execCollEnd s := by intros; rfl
@[simp] theorem exec_endRepeat : ∀ i1 s, exec (.endRepeat i1) s = execEndRepeat i1 s := by intros; rfl
@[simp] theorem exec_collProgressTimeout : ∀ h s, exec (.collProgressTimeout h) s = execCollProgressTimeout h s := by intros; rfl
@[simp] theorem exec_collSelfEnd : ∀ h s, exec (.collSelfEnd h) s = execCollSelfEnd h s := by intros; rfl
@[simp] theorem exec_memberPoll : ∀ h s, exec (.memberPoll h) s = execMemberPoll h s := by intros; rfl
@[simp] theorem exec_raceCasReply : ∀ h s, exec (.raceCasReply h) s = execRaceCasReply h s := by intros; rfl
@[simp] theorem exec_raceCopyDone : ∀ h s, exec (.raceCopyDone h) s = execRaceCopyDone h s := by intros; rfl
@[simp] theorem exec_doorbellSnoop : ∀ k s, exec (.doorbellSnoop k) s = execDoorbellSnoop k s := by intros; rfl
@[simp] theorem exec_snoopData : ∀ k s, exec (.snoopData k) s = execSnoopData k s := by intros; rfl
@[simp] theorem exec_doorbellLineFill : ∀ n tail ok s, exec (.doorbellLineFill n tail ok) s = execDoorbellLineFill n tail ok s := by intros; rfl
@[simp] theorem exec_descriptorFetch : ∀ n words ok s, exec (.descriptorFetch n words ok) s = execDescriptorFetch n words ok s := by intros; rfl
@[simp] theorem exec_stagingRetry : ∀ s, exec (.stagingRetry) s = execStagingRetry s := by intros; rfl
@[simp] theorem exec_nop : ∀ s, exec (.nop) s = execNop s := by intros; rfl
@[simp] theorem exec_launch : ∀ s, exec (.launch) s = execLaunch s := by intros; rfl
@[simp] theorem exec_pload : ∀ data fail s, exec (.pload data fail) s = execPload data fail s := by intros; rfl
@[simp] theorem exec_copy : ∀ data fail s, exec (.copy data fail) s = execCopy data fail s := by intros; rfl
@[simp] theorem exec_coll : ∀ s, exec (.coll) s = execColl s := by intros; rfl
@[simp] theorem exec_flowsend : ∀ data fail s, exec (.flowsend data fail) s = execFlowsend data fail s := by intros; rfl
@[simp] theorem exec_createSq : ∀ s, exec (.createSq) s = execCreateSq s := by intros; rfl
@[simp] theorem exec_createCq : ∀ s, exec (.createCq) s = execCreateCq s := by intros; rfl
@[simp] theorem exec_deleteSq : ∀ s, exec (.deleteSq) s = execDeleteSq s := by intros; rfl
@[simp] theorem exec_deleteCq : ∀ s, exec (.deleteCq) s = execDeleteCq s := by intros; rfl
@[simp] theorem exec_openFlow : ∀ s, exec (.openFlow) s = execOpenFlow s := by intros; rfl
@[simp] theorem exec_closeFlow : ∀ s, exec (.closeFlow) s = execCloseFlow s := by intros; rfl
@[simp] theorem exec_resetFlow : ∀ s, exec (.resetFlow) s = execResetFlow s := by intros; rfl
@[simp] theorem exec_descriptorWorkDone : ∀ id s, exec (.descriptorWorkDone id) s = execDescriptorWorkDone id s := by intros; rfl
@[simp] theorem exec_cqEntryWrite : ∀ n masked ok s, exec (.cqEntryWrite n masked ok) s = execCqEntryWrite n masked ok s := by intros; rfl
@[simp] theorem exec_eventRecordWrite : ∀ masked ok tail s, exec (.eventRecordWrite masked ok tail) s = execEventRecordWrite masked ok s tail := by intros; rfl
@[simp] theorem exec_cqIrqDelay : ∀ n masked s, exec (.cqIrqDelay n masked) s = execCqIrqDelay n masked s := by intros; rfl
@[simp] theorem exec_eventIrqDelay : ∀ masked s, exec (.eventIrqDelay masked) s = execEventIrqDelay masked s := by intros; rfl
@[simp] theorem exec_hostLinkTrain : ∀ width rate tail s, exec (.hostLinkTrain width rate tail) s = execHostLinkTrain width rate s tail := by intros; rfl
@[simp] theorem exec_hostFullOperationLoss : ∀ s, exec (.hostFullOperationLoss) s = execHostFullOperationLoss s := by intros; rfl
@[simp] theorem exec_perstN : ∀ s, exec (.perstN) s = execPerstN s := by intros; rfl
@[simp] theorem exec_perstNDeassert : ∀ s, exec (.perstNDeassert) s = execPerstNDeassert s := by intros; rfl
@[simp] theorem exec_hotReset : ∀ s, exec (.hotReset) s = execHotReset s := by intros; rfl
@[simp] theorem exec_linkDisable : ∀ s, exec (.linkDisable) s = execLinkDisable s := by intros; rfl
@[simp] theorem exec_functionLevelReset : ∀ s, exec (.functionLevelReset) s = execFunctionLevelReset s := by intros; rfl
@[simp] theorem exec_hifReset : ∀ s, exec (.hifReset) s = execHifReset s := by intros; rfl
@[simp] theorem exec_hifEnable : ∀ v tail s, exec (.hifEnable v tail) s = execHifEnable v s tail := by intros; rfl
@[simp] theorem exec_lock : ∀ s, exec (.lock) s = execLock s := by intros; rfl
@[simp] theorem exec_request : ∀ s, exec (.request) s = execRequest s := by intros; rfl
@[simp] theorem exec_unlockAuthTimeout : ∀ s, exec (.unlockAuthTimeout) s = execUnlockAuthTimeout s := by intros; rfl
@[simp] theorem exec_twnCommit : ∀ step s, exec (.twnCommit step) s = execTwnCommit step s := by intros; rfl
@[simp] theorem exec_mirrorInject : ∀ s, exec (.mirrorInject) s = execMirrorInject s := by intros; rfl
@[simp] theorem exec_mirror : ∀ s, exec (.mirror) s = execMirror s := by intros; rfl
@[simp] theorem exec_twnSeal : ∀ s, exec (.twnSeal) s = execSeal s := by intros; rfl
@[simp] theorem exec_sealVerify : ∀ s, exec (.sealVerify) s = execSealVerify s := by intros; rfl
@[simp] theorem exec_mirrorack : ∀ s, exec (.mirrorack) s = execMirrorack s := by intros; rfl
@[simp] theorem exec_mirrorAckTimeout : ∀ s, exec (.mirrorAckTimeout) s = execMirrorAckTimeout s := by intros; rfl
@[simp] theorem exec_twnRestart : ∀ c errs s, exec (.twnRestart c errs) s = execTwnRestart c errs s := by intros; rfl
@[simp] theorem exec_boundary : ∀ errs s, exec (.boundary errs) s = execBoundary errs s := by intros; rfl
@[simp] theorem exec_twnSwap : ∀ l request s, exec (.twnSwap l request) s = execTwnSwap l request s := by intros; rfl
@[simp] theorem exec_fencePorts : ∀ via sess msg s, exec (.fencePorts via sess msg) s = execFencePorts via sess msg s := by intros; rfl
@[simp] theorem exec_unfencePorts : ∀ via sess msg s, exec (.unfencePorts via sess msg) s = execUnfencePorts via sess msg s := by intros; rfl
@[simp] theorem exec_markFenced : ∀ via sess msg s, exec (.markFenced via sess msg) s = execMarkFenced via sess msg s := by intros; rfl
@[simp] theorem exec_markValid : ∀ via sess msg s, exec (.markValid via sess msg) s = execMarkValid via sess msg s := by intros; rfl
@[simp] theorem exec_soloOn : ∀ via sess msg s, exec (.soloOn via sess msg) s = execSoloOn via sess msg s := by intros; rfl
@[simp] theorem exec_soloOff : ∀ via sess msg s, exec (.soloOff via sess msg) s = execSoloOff via sess msg s := by intros; rfl
@[simp] theorem exec_enterTungsten : ∀ via sess msg s, exec (.enterTungsten via sess msg) s = execEnterTungsten via sess msg s := by intros; rfl
@[simp] theorem exec_healthDecay : ∀ s, exec (.healthDecay) s = execHealthDecay s := by intros; rfl
@[simp] theorem exec_xchkSpareDone : ∀ k bytes s, exec (.xchkSpareDone k bytes) s = execXchkSpareDone k bytes s := by intros; rfl
@[simp] theorem exec_go : ∀ slot count s, exec (.go slot count) s = execGo slot count s := by intros; rfl
@[simp] theorem exec_free : ∀ slot s, exec (.free slot) s = execFree slot s := by intros; rfl
@[simp] theorem exec_replayHeatDone : ∀ s, exec (.replayHeatDone) s = execReplayHeatDone s := by intros; rfl
@[simp] theorem exec_replayHeatTimeout : ∀ temp vdd s, exec (.replayHeatTimeout temp vdd) s = execReplayHeatTimeout temp vdd s := by intros; rfl
@[simp] theorem exec_replayRunDone : ∀ mism temp vdd s, exec (.replayRunDone mism temp vdd) s = execReplayRunDone mism temp vdd s := by intros; rfl
@[simp] theorem exec_fatalClear : ∀ s, exec (.fatalClear) s = execFatalClear s := by intros; rfl
@[simp] theorem exec_eventHandle : ∀ s, exec (.eventHandle) s = execEventHandle s := by intros; rfl
@[simp] theorem exec_logWrite : ∀ s, exec (.logWrite) s = execLogWrite s := by intros; rfl
@[simp] theorem exec_watchdogStrobe : ∀ s, exec (.watchdogStrobe) s = execWatchdogStrobe s := by intros; rfl
@[simp] theorem exec_watchdogExpire : ∀ s, exec (.watchdogExpire) s = execWatchdogExpire s := by intros; rfl
@[simp] theorem exec_sensorSample : ∀ inw h0 h1 slices rom s, exec (.sensorSample inw h0 h1 slices rom) s = execSensorSample inw h0 h1 s slices rom := by intros; rfl
@[simp] theorem exec_pinsUpdate : ∀ twin fab host s, exec (.pinsUpdate twin fab host) s = execPinsUpdate twin fab host s := by intros; rfl
@[simp] theorem exec_alertResponse : ∀ s, exec (.alertResponse) s = execAlertResponse s := by intros; rfl
@[simp] theorem exec_mailboxGo : ∀ s, exec (.mailboxGo) s = execMailboxGo s := by intros; rfl
@[simp] theorem exec_readReg : ∀ via sess msg s, exec (.readReg via sess msg) s = execReadReg via sess msg s := by intros; rfl
@[simp] theorem exec_writeReg : ∀ via sess msg s, exec (.writeReg via sess msg) s = execWriteReg via sess msg s := by intros; rfl
@[simp] theorem exec_profileWrite : ∀ via sess msg s, exec (.profileWrite via sess msg) s = execProfileWrite via sess msg s := by intros; rfl
@[simp] theorem exec_profileRoute : ∀ via sess msg s, exec (.profileRoute via sess msg) s = execProfileRoute via sess msg s := by intros; rfl
@[simp] theorem exec_kernelCommit : ∀ via sess msg s, exec (.kernelCommit via sess msg) s = execKernelCommit via sess msg s := by intros; rfl
@[simp] theorem exec_throttleCap : ∀ via sess msg s, exec (.throttleCap via sess msg) s = execThrottleCap via sess msg s := by intros; rfl
@[simp] theorem exec_logRead : ∀ via sess msg s, exec (.logRead via sess msg) s = execLogRead via sess msg s := by intros; rfl
@[simp] theorem exec_sensorRead : ∀ via sess msg s, exec (.sensorRead via sess msg) s = execSensorRead via sess msg s := by intros; rfl
@[simp] theorem exec_repairRead : ∀ via sess msg s, exec (.repairRead via sess msg) s = execRepairRead via sess msg s := by intros; rfl
@[simp] theorem exec_unlockAuth : ∀ via sess msg s, exec (.unlockAuth via sess msg) s = execUnlockAuth via sess msg s := by intros; rfl
@[simp] theorem exec_moduleReset : ∀ via sess msg fails bad s, exec (.moduleReset via sess msg fails bad) s = execModuleReset via sess msg fails bad s := by intros; rfl
@[simp] theorem exec_fwCommitSvn : ∀ via sess msg s, exec (.fwCommitSvn via sess msg) s = execFwCommitSvn via sess msg s := by intros; rfl
@[simp] theorem exec_fuseBlowMap : ∀ via sess msg s, exec (.fuseBlowMap via sess msg) s = execFuseBlowMap via sess msg s := by intros; rfl
@[simp] theorem exec_fuseBlowOwner : ∀ via sess msg s, exec (.fuseBlowOwner via sess msg) s = execFuseBlowOwner via sess msg s := by intros; rfl
@[simp] theorem exec_setEndpointId : ∀ b eid s, exec (.setEndpointId b eid) s = execSetEndpointId b eid s := by intros; rfl
@[simp] theorem exec_getEndpointId : ∀ b s, exec (.getEndpointId b) s = execGetEndpointId b s := by intros; rfl
@[simp] theorem exec_getMctpVersionSupport : ∀ b ty s, exec (.getMctpVersionSupport b ty) s = execGetMctpVersionSupport b ty s := by intros; rfl
@[simp] theorem exec_getMessageTypeSupport : ∀ b s, exec (.getMessageTypeSupport b) s = execGetMessageTypeSupport b s := by intros; rfl
@[simp] theorem exec_getVendorDefinedMessageSupport : ∀ b sel s, exec (.getVendorDefinedMessageSupport b sel) s = execGetVendorDefinedMessageSupport b sel s := by intros; rfl
@[simp] theorem exec_getVersion : ∀ i1 s, exec (.getVersion i1) s = execGetVersion i1 s := by intros; rfl
@[simp] theorem exec_getCapabilities : ∀ i1 s, exec (.getCapabilities i1) s = execGetCapabilities i1 s := by intros; rfl
@[simp] theorem exec_negotiateAlgorithms : ∀ i1 offered s, exec (.negotiateAlgorithms i1 offered) s = execNegotiateAlgorithms i1 offered s := by intros; rfl
@[simp] theorem exec_getDigests : ∀ i1 sess s, exec (.getDigests i1 sess) s = execGetDigests i1 sess s := by intros; rfl
@[simp] theorem exec_getCertificate : ∀ i1 sess slot off len s, exec (.getCertificate i1 sess slot off len) s = execGetCertificate i1 sess slot off len s := by intros; rfl
@[simp] theorem exec_challenge : ∀ i1 slot nonce s, exec (.challenge i1 slot nonce) s = execChallenge i1 slot nonce s := by intros; rfl
@[simp] theorem exec_getMeasurements : ∀ i1 sess op sign nonce restarts s, exec (.getMeasurements i1 sess op sign nonce restarts) s = execGetMeasurements i1 sess op sign nonce restarts s := by intros; rfl
@[simp] theorem exec_keyExchange : ∀ i1 mut_ ok s, exec (.keyExchange i1 mut_ ok) s = execKeyExchange i1 mut_ ok s := by intros; rfl
@[simp] theorem exec_finish : ∀ i1 id root ok s, exec (.finish i1 id root ok) s = execFinish i1 id root ok s := by intros; rfl
@[simp] theorem exec_heartbeat : ∀ i1 id ok s, exec (.heartbeat i1 id ok) s = execHeartbeat i1 id ok s := by intros; rfl
@[simp] theorem exec_keyUpdate : ∀ i1 id ok s, exec (.keyUpdate i1 id ok) s = execKeyUpdate i1 id ok s := by intros; rfl
@[simp] theorem exec_endSession : ∀ i1 id ok s, exec (.endSession i1 id ok) s = execEndSession i1 id ok s := by intros; rfl
@[simp] theorem exec_vendorDefinedRequest : ∀ i1 sess obj data s, exec (.vendorDefinedRequest i1 sess obj data) s = execVendorDefinedRequest i1 sess obj data s := by intros; rfl
@[simp] theorem exec_kSetGo : ∀ i1 sess s, exec (.kSetGo i1 sess) s = execKSetGo i1 sess s := by intros; rfl
@[simp] theorem exec_queryDeviceIdentifiers : ∀ s, exec (.queryDeviceIdentifiers) s = execQueryDeviceIdentifiers s := by intros; rfl
@[simp] theorem exec_getFirmwareParameters : ∀ s, exec (.getFirmwareParameters) s = execGetFirmwareParameters s := by intros; rfl
@[simp] theorem exec_requestUpdate : ∀ s, exec (.requestUpdate) s = execRequestUpdate s := by intros; rfl
@[simp] theorem exec_passComponentTable : ∀ id s, exec (.passComponentTable id) s = execPassComponentTable id s := by intros; rfl
@[simp] theorem exec_updateComponent : ∀ id size s, exec (.updateComponent id size) s = execUpdateComponent id size s := by intros; rfl
@[simp] theorem exec_requestFirmwareData : ∀ data s, exec (.requestFirmwareData data) s = execRequestFirmwareData data s := by intros; rfl
@[simp] theorem exec_transferComplete : ∀ s, exec (.transferComplete) s = execTransferComplete s := by intros; rfl
@[simp] theorem exec_verifyComplete : ∀ s, exec (.verifyComplete) s = execVerifyComplete s := by intros; rfl
@[simp] theorem exec_applyComplete : ∀ s, exec (.applyComplete) s = execApplyComplete s := by intros; rfl
@[simp] theorem exec_activateFirmware : ∀ s, exec (.activateFirmware) s = execActivateFirmware s := by intros; rfl
@[simp] theorem exec_getStatus : ∀ s, exec (.getStatus) s = execGetStatus s := by intros; rfl
@[simp] theorem exec_cancelUpdateComponent : ∀ s, exec (.cancelUpdateComponent) s = execCancelUpdateComponent s := by intros; rfl
@[simp] theorem exec_cancelUpdate : ∀ s, exec (.cancelUpdate) s = execCancelUpdate s := by intros; rfl
@[simp] theorem exec_vinRise : ∀ vin s, exec (.vinRise vin) s = execVinRise vin s := by intros; rfl
@[simp] theorem exec_powerGood : ∀ fails bad s, exec (.powerGood fails bad) s = execPowerGood fails bad s := by intros; rfl
@[simp] theorem exec_powerOff : ∀ vin s, exec (.powerOff vin) s = execPowerOff vin s := by intros; rfl
@[simp] theorem exec_aux12vChange : ∀ mv s, exec (.aux12vChange mv) s = execAux12vChange mv s := by intros; rfl
@[simp] theorem exec_modResetNAssert : ∀ s, exec (.modResetNAssert) s = execModResetNAssert s := by intros; rfl
@[simp] theorem exec_modResetNDeassert : ∀ fails bad s, exec (.modResetNDeassert fails bad) s = execModResetNDeassert fails bad s := by intros; rfl
@[simp] theorem exec_bootComplete : ∀ s, exec (.bootComplete) s = execBootComplete s := by intros; rfl
@[simp] theorem exec_trstN : ∀ s, exec (.trstN) s = execTrstN s := by intros; rfl
@[simp] theorem exec_idcode : ∀ s, exec (.idcode) s = execIdcode s := by intros; rfl
@[simp] theorem exec_bypass : ∀ tdi s, exec (.bypass tdi) s = execBypass tdi s := by intros; rfl
@[simp] theorem exec_sample : ∀ image s, exec (.sample image) s = execSample image s := by intros; rfl
@[simp] theorem exec_preload : ∀ image s, exec (.preload image) s = execPreload image s := by intros; rfl
@[simp] theorem exec_extest : ∀ tdi s, exec (.extest tdi) s = execExtest tdi s := by intros; rfl
@[simp] theorem exec_headLineFill : ∀ k head ok masked s, exec (.headLineFill k head ok masked) s = execHeadLineFill k head ok masked s := by intros; rfl
@[simp] theorem exec_hostInterfaceIslandFails : ∀ s, exec (.hostInterfaceIslandFails) s = execHostInterfaceIslandFails s := by intros; rfl

end Sys2Proof.Machine
end

