-- ==== Sys2Proof/Laws/State.lean ====
section
/-! SUPPORT. What each update of the state leaves: one lemma per field and update. -/

namespace Sys2Proof.Machine

/-! rput. -/

@[simp] theorem rput_pending (s : State) (o : Nat) (v : Word) : (s.rput o v).pending = s.pending := rfl
@[simp] theorem rput_clock (s : State) (o : Nat) (v : Word) : (s.rput o v).clock = s.clock := rfl
@[simp] theorem rput_freeCtr (s : State) (o : Nat) (v : Word) : (s.rput o v).freeCtr = s.freeCtr := rfl
@[simp] theorem rput_mem (s : State) (o : Nat) (v : Word) : (s.rput o v).mem = s.mem := rfl
@[simp] theorem rput_memBad (s : State) (o : Nat) (v : Word) : (s.rput o v).memBad = s.memBad := rfl
@[simp] theorem rput_gone (s : State) (o : Nat) (v : Word) : (s.rput o v).gone = s.gone := rfl
@[simp] theorem rput_kept (s : State) (o : Nat) (v : Word) : (s.rput o v).kept = s.kept := rfl
@[simp] theorem rput_corrected (s : State) (o : Nat) (v : Word) : (s.rput o v).corrected = s.corrected := rfl
@[simp] theorem rput_cores (s : State) (o : Nat) (v : Word) : (s.rput o v).cores = s.cores := rfl
@[simp] theorem rput_pools (s : State) (o : Nat) (v : Word) : (s.rput o v).pools = s.pools := rfl
@[simp] theorem rput_reqs (s : State) (o : Nat) (v : Word) : (s.rput o v).reqs = s.reqs := rfl
@[simp] theorem rput_unsent (s : State) (o : Nat) (v : Word) : (s.rput o v).unsent = s.unsent := rfl
@[simp] theorem rput_inj (s : State) (o : Nat) (v : Word) : (s.rput o v).inj = s.inj := rfl
@[simp] theorem rput_injHold (s : State) (o : Nat) (v : Word) : (s.rput o v).injHold = s.injHold := rfl
@[simp] theorem rput_works (s : State) (o : Nat) (v : Word) : (s.rput o v).works = s.works := rfl
@[simp] theorem rput_nextWork (s : State) (o : Nat) (v : Word) : (s.rput o v).nextWork = s.nextWork := rfl
@[simp] theorem rput_due (s : State) (o : Nat) (v : Word) : (s.rput o v).due = s.due := rfl
@[simp] theorem rput_sqs (s : State) (o : Nat) (v : Word) : (s.rput o v).sqs = s.sqs := rfl
@[simp] theorem rput_cqs (s : State) (o : Nat) (v : Word) : (s.rput o v).cqs = s.cqs := rfl
@[simp] theorem rput_evr (s : State) (o : Nat) (v : Word) : (s.rput o v).evr = s.evr := rfl
@[simp] theorem rput_lastSq (s : State) (o : Nat) (v : Word) : (s.rput o v).lastSq = s.lastSq := rfl
@[simp] theorem rput_lines (s : State) (o : Nat) (v : Word) : (s.rput o v).lines = s.lines := rfl
@[simp] theorem rput_wants (s : State) (o : Nat) (v : Word) : (s.rput o v).wants = s.wants := rfl
@[simp] theorem rput_msix (s : State) (o : Nat) (v : Word) : (s.rput o v).msix = s.msix := rfl
@[simp] theorem rput_vmask (s : State) (o : Nat) (v : Word) : (s.rput o v).vmask = s.vmask := rfl
@[simp] theorem rput_evq (s : State) (o : Nat) (v : Word) : (s.rput o v).evq = s.evq := rfl
@[simp] theorem rput_perst (s : State) (o : Nat) (v : Word) : (s.rput o v).perst = s.perst := rfl
@[simp] theorem rput_ringsUp (s : State) (o : Nat) (v : Word) : (s.rput o v).ringsUp = s.ringsUp := rfl
@[simp] theorem rput_snoops (s : State) (o : Nat) (v : Word) : (s.rput o v).snoops = s.snoops := rfl
@[simp] theorem rput_biWait (s : State) (o : Nat) (v : Word) : (s.rput o v).biWait = s.biWait := rfl
@[simp] theorem rput_hdmLost (s : State) (o : Nat) (v : Word) : (s.rput o v).hdmLost = s.hdmLost := rfl
@[simp] theorem rput_lost (s : State) (o : Nat) (v : Word) : (s.rput o v).lost = s.lost := rfl
@[simp] theorem rput_nextTag (s : State) (o : Nat) (v : Word) : (s.rput o v).nextTag = s.nextTag := rfl
@[simp] theorem rput_flows (s : State) (o : Nat) (v : Word) : (s.rput o v).flows = s.flows := rfl
@[simp] theorem rput_hostMem (s : State) (o : Nat) (v : Word) : (s.rput o v).hostMem = s.hostMem := rfl
@[simp] theorem rput_launchQ (s : State) (o : Nat) (v : Word) : (s.rput o v).launchQ = s.launchQ := rfl
@[simp] theorem rput_ev (s : State) (o : Nat) (v : Word) : (s.rput o v).ev = s.ev := rfl
@[simp] theorem rput_mirrorStep (s : State) (o : Nat) (v : Word) : (s.rput o v).mirrorStep = s.mirrorStep := rfl
@[simp] theorem rput_repairs (s : State) (o : Nat) (v : Word) : (s.rput o v).repairs = s.repairs := rfl
@[simp] theorem rput_xchkCount (s : State) (o : Nat) (v : Word) : (s.rput o v).xchkCount = s.xchkCount := rfl
@[simp] theorem rput_caps (s : State) (o : Nat) (v : Word) : (s.rput o v).caps = s.caps := rfl
@[simp] theorem rput_rowHits (s : State) (o : Nat) (v : Word) : (s.rput o v).rowHits = s.rowHits := rfl
@[simp] theorem rput_links (s : State) (o : Nat) (v : Word) : (s.rput o v).links = s.links := rfl
@[simp] theorem rput_lanes (s : State) (o : Nat) (v : Word) : (s.rput o v).lanes = s.lanes := rfl
@[simp] theorem rput_pllLol (s : State) (o : Nat) (v : Word) : (s.rput o v).pllLol = s.pllLol := rfl
@[simp] theorem rput_quadMis (s : State) (o : Nat) (v : Word) : (s.rput o v).quadMis = s.quadMis := rfl
@[simp] theorem rput_recs (s : State) (o : Nat) (v : Word) : (s.rput o v).recs = s.recs := rfl
@[simp] theorem rput_boots (s : State) (o : Nat) (v : Word) : (s.rput o v).boots = s.boots := rfl
@[simp] theorem rput_buf (s : State) (o : Nat) (v : Word) : (s.rput o v).buf = s.buf := rfl
@[simp] theorem rput_nextFrame (s : State) (o : Nat) (v : Word) : (s.rput o v).nextFrame = s.nextFrame := rfl
@[simp] theorem rput_nextJoin (s : State) (o : Nat) (v : Word) : (s.rput o v).nextJoin = s.nextJoin := rfl
@[simp] theorem rput_cells (s : State) (o : Nat) (v : Word) : (s.rput o v).cells = s.cells := rfl
@[simp] theorem rput_sharedUsed (s : State) (o : Nat) (v : Word) : (s.rput o v).sharedUsed = s.sharedUsed := rfl
@[simp] theorem rput_gminEff (s : State) (o : Nat) (v : Word) : (s.rput o v).gminEff = s.gminEff := rfl
@[simp] theorem rput_fences (s : State) (o : Nat) (v : Word) : (s.rput o v).fences = s.fences := rfl
@[simp] theorem rput_sched (s : State) (o : Nat) (v : Word) : (s.rput o v).sched = s.sched := rfl
@[simp] theorem rput_rsv (s : State) (o : Nat) (v : Word) : (s.rput o v).rsv = s.rsv := rfl
@[simp] theorem rput_deliv (s : State) (o : Nat) (v : Word) : (s.rput o v).deliv = s.deliv := rfl
@[simp] theorem rput_msgWait (s : State) (o : Nat) (v : Word) : (s.rput o v).msgWait = s.msgWait := rfl
@[simp] theorem rput_causes (s : State) (o : Nat) (v : Word) : (s.rput o v).causes = s.causes := rfl
@[simp] theorem rput_slots (s : State) (o : Nat) (v : Word) : (s.rput o v).slots = s.slots := rfl
@[simp] theorem rput_stuDrops (s : State) (o : Nat) (v : Word) : (s.rput o v).stuDrops = s.stuDrops := rfl
@[simp] theorem rput_kernelJob (s : State) (o : Nat) (v : Word) : (s.rput o v).kernelJob = s.kernelJob := rfl
@[simp] theorem rput_groups (s : State) (o : Nat) (v : Word) : (s.rput o v).groups = s.groups := rfl
@[simp] theorem rput_groupPend (s : State) (o : Nat) (v : Word) : (s.rput o v).groupPend = s.groupPend := rfl
@[simp] theorem rput_colls (s : State) (o : Nat) (v : Word) : (s.rput o v).colls = s.colls := rfl
@[simp] theorem rput_nextColl (s : State) (o : Nat) (v : Word) : (s.rput o v).nextColl = s.nextColl := rfl
@[simp] theorem rput_collWaits (s : State) (o : Nat) (v : Word) : (s.rput o v).collWaits = s.collWaits := rfl
@[simp] theorem rput_readies (s : State) (o : Nat) (v : Word) : (s.rput o v).readies = s.readies := rfl
@[simp] theorem rput_endJobs (s : State) (o : Nat) (v : Word) : (s.rput o v).endJobs = s.endJobs := rfl
@[simp] theorem rput_mg (s : State) (o : Nat) (v : Word) : (s.rput o v).mg = s.mg := rfl
@[simp] theorem rput_out (s : State) (o : Nat) (v : Word) : (s.rput o v).out = s.out := rfl

/-! rsetFld. -/

@[simp] theorem rsetFld_pending (s : State) (o hi lo n : Nat) : (s.rsetFld o hi lo n).pending = s.pending := rfl
@[simp] theorem rsetFld_clock (s : State) (o hi lo n : Nat) : (s.rsetFld o hi lo n).clock = s.clock := rfl
@[simp] theorem rsetFld_freeCtr (s : State) (o hi lo n : Nat) : (s.rsetFld o hi lo n).freeCtr = s.freeCtr := rfl
@[simp] theorem rsetFld_mem (s : State) (o hi lo n : Nat) : (s.rsetFld o hi lo n).mem = s.mem := rfl
@[simp] theorem rsetFld_memBad (s : State) (o hi lo n : Nat) : (s.rsetFld o hi lo n).memBad = s.memBad := rfl
@[simp] theorem rsetFld_gone (s : State) (o hi lo n : Nat) : (s.rsetFld o hi lo n).gone = s.gone := rfl
@[simp] theorem rsetFld_kept (s : State) (o hi lo n : Nat) : (s.rsetFld o hi lo n).kept = s.kept := rfl
@[simp] theorem rsetFld_corrected (s : State) (o hi lo n : Nat) : (s.rsetFld o hi lo n).corrected = s.corrected := rfl
@[simp] theorem rsetFld_cores (s : State) (o hi lo n : Nat) : (s.rsetFld o hi lo n).cores = s.cores := rfl
@[simp] theorem rsetFld_pools (s : State) (o hi lo n : Nat) : (s.rsetFld o hi lo n).pools = s.pools := rfl
@[simp] theorem rsetFld_reqs (s : State) (o hi lo n : Nat) : (s.rsetFld o hi lo n).reqs = s.reqs := rfl
@[simp] theorem rsetFld_unsent (s : State) (o hi lo n : Nat) : (s.rsetFld o hi lo n).unsent = s.unsent := rfl
@[simp] theorem rsetFld_inj (s : State) (o hi lo n : Nat) : (s.rsetFld o hi lo n).inj = s.inj := rfl
@[simp] theorem rsetFld_injHold (s : State) (o hi lo n : Nat) : (s.rsetFld o hi lo n).injHold = s.injHold := rfl
@[simp] theorem rsetFld_works (s : State) (o hi lo n : Nat) : (s.rsetFld o hi lo n).works = s.works := rfl
@[simp] theorem rsetFld_nextWork (s : State) (o hi lo n : Nat) : (s.rsetFld o hi lo n).nextWork = s.nextWork := rfl
@[simp] theorem rsetFld_due (s : State) (o hi lo n : Nat) : (s.rsetFld o hi lo n).due = s.due := rfl
@[simp] theorem rsetFld_sqs (s : State) (o hi lo n : Nat) : (s.rsetFld o hi lo n).sqs = s.sqs := rfl
@[simp] theorem rsetFld_cqs (s : State) (o hi lo n : Nat) : (s.rsetFld o hi lo n).cqs = s.cqs := rfl
@[simp] theorem rsetFld_evr (s : State) (o hi lo n : Nat) : (s.rsetFld o hi lo n).evr = s.evr := rfl
@[simp] theorem rsetFld_lastSq (s : State) (o hi lo n : Nat) : (s.rsetFld o hi lo n).lastSq = s.lastSq := rfl
@[simp] theorem rsetFld_lines (s : State) (o hi lo n : Nat) : (s.rsetFld o hi lo n).lines = s.lines := rfl
@[simp] theorem rsetFld_wants (s : State) (o hi lo n : Nat) : (s.rsetFld o hi lo n).wants = s.wants := rfl
@[simp] theorem rsetFld_msix (s : State) (o hi lo n : Nat) : (s.rsetFld o hi lo n).msix = s.msix := rfl
@[simp] theorem rsetFld_vmask (s : State) (o hi lo n : Nat) : (s.rsetFld o hi lo n).vmask = s.vmask := rfl
@[simp] theorem rsetFld_evq (s : State) (o hi lo n : Nat) : (s.rsetFld o hi lo n).evq = s.evq := rfl
@[simp] theorem rsetFld_perst (s : State) (o hi lo n : Nat) : (s.rsetFld o hi lo n).perst = s.perst := rfl
@[simp] theorem rsetFld_ringsUp (s : State) (o hi lo n : Nat) : (s.rsetFld o hi lo n).ringsUp = s.ringsUp := rfl
@[simp] theorem rsetFld_snoops (s : State) (o hi lo n : Nat) : (s.rsetFld o hi lo n).snoops = s.snoops := rfl
@[simp] theorem rsetFld_biWait (s : State) (o hi lo n : Nat) : (s.rsetFld o hi lo n).biWait = s.biWait := rfl
@[simp] theorem rsetFld_hdmLost (s : State) (o hi lo n : Nat) : (s.rsetFld o hi lo n).hdmLost = s.hdmLost := rfl
@[simp] theorem rsetFld_lost (s : State) (o hi lo n : Nat) : (s.rsetFld o hi lo n).lost = s.lost := rfl
@[simp] theorem rsetFld_nextTag (s : State) (o hi lo n : Nat) : (s.rsetFld o hi lo n).nextTag = s.nextTag := rfl
@[simp] theorem rsetFld_flows (s : State) (o hi lo n : Nat) : (s.rsetFld o hi lo n).flows = s.flows := rfl
@[simp] theorem rsetFld_hostMem (s : State) (o hi lo n : Nat) : (s.rsetFld o hi lo n).hostMem = s.hostMem := rfl
@[simp] theorem rsetFld_launchQ (s : State) (o hi lo n : Nat) : (s.rsetFld o hi lo n).launchQ = s.launchQ := rfl
@[simp] theorem rsetFld_ev (s : State) (o hi lo n : Nat) : (s.rsetFld o hi lo n).ev = s.ev := rfl
@[simp] theorem rsetFld_mirrorStep (s : State) (o hi lo n : Nat) : (s.rsetFld o hi lo n).mirrorStep = s.mirrorStep := rfl
@[simp] theorem rsetFld_repairs (s : State) (o hi lo n : Nat) : (s.rsetFld o hi lo n).repairs = s.repairs := rfl
@[simp] theorem rsetFld_xchkCount (s : State) (o hi lo n : Nat) : (s.rsetFld o hi lo n).xchkCount = s.xchkCount := rfl
@[simp] theorem rsetFld_caps (s : State) (o hi lo n : Nat) : (s.rsetFld o hi lo n).caps = s.caps := rfl
@[simp] theorem rsetFld_rowHits (s : State) (o hi lo n : Nat) : (s.rsetFld o hi lo n).rowHits = s.rowHits := rfl
@[simp] theorem rsetFld_links (s : State) (o hi lo n : Nat) : (s.rsetFld o hi lo n).links = s.links := rfl
@[simp] theorem rsetFld_lanes (s : State) (o hi lo n : Nat) : (s.rsetFld o hi lo n).lanes = s.lanes := rfl
@[simp] theorem rsetFld_pllLol (s : State) (o hi lo n : Nat) : (s.rsetFld o hi lo n).pllLol = s.pllLol := rfl
@[simp] theorem rsetFld_quadMis (s : State) (o hi lo n : Nat) : (s.rsetFld o hi lo n).quadMis = s.quadMis := rfl
@[simp] theorem rsetFld_recs (s : State) (o hi lo n : Nat) : (s.rsetFld o hi lo n).recs = s.recs := rfl
@[simp] theorem rsetFld_boots (s : State) (o hi lo n : Nat) : (s.rsetFld o hi lo n).boots = s.boots := rfl
@[simp] theorem rsetFld_buf (s : State) (o hi lo n : Nat) : (s.rsetFld o hi lo n).buf = s.buf := rfl
@[simp] theorem rsetFld_nextFrame (s : State) (o hi lo n : Nat) : (s.rsetFld o hi lo n).nextFrame = s.nextFrame := rfl
@[simp] theorem rsetFld_nextJoin (s : State) (o hi lo n : Nat) : (s.rsetFld o hi lo n).nextJoin = s.nextJoin := rfl
@[simp] theorem rsetFld_cells (s : State) (o hi lo n : Nat) : (s.rsetFld o hi lo n).cells = s.cells := rfl
@[simp] theorem rsetFld_sharedUsed (s : State) (o hi lo n : Nat) : (s.rsetFld o hi lo n).sharedUsed = s.sharedUsed := rfl
@[simp] theorem rsetFld_gminEff (s : State) (o hi lo n : Nat) : (s.rsetFld o hi lo n).gminEff = s.gminEff := rfl
@[simp] theorem rsetFld_fences (s : State) (o hi lo n : Nat) : (s.rsetFld o hi lo n).fences = s.fences := rfl
@[simp] theorem rsetFld_sched (s : State) (o hi lo n : Nat) : (s.rsetFld o hi lo n).sched = s.sched := rfl
@[simp] theorem rsetFld_rsv (s : State) (o hi lo n : Nat) : (s.rsetFld o hi lo n).rsv = s.rsv := rfl
@[simp] theorem rsetFld_deliv (s : State) (o hi lo n : Nat) : (s.rsetFld o hi lo n).deliv = s.deliv := rfl
@[simp] theorem rsetFld_msgWait (s : State) (o hi lo n : Nat) : (s.rsetFld o hi lo n).msgWait = s.msgWait := rfl
@[simp] theorem rsetFld_causes (s : State) (o hi lo n : Nat) : (s.rsetFld o hi lo n).causes = s.causes := rfl
@[simp] theorem rsetFld_slots (s : State) (o hi lo n : Nat) : (s.rsetFld o hi lo n).slots = s.slots := rfl
@[simp] theorem rsetFld_stuDrops (s : State) (o hi lo n : Nat) : (s.rsetFld o hi lo n).stuDrops = s.stuDrops := rfl
@[simp] theorem rsetFld_kernelJob (s : State) (o hi lo n : Nat) : (s.rsetFld o hi lo n).kernelJob = s.kernelJob := rfl
@[simp] theorem rsetFld_groups (s : State) (o hi lo n : Nat) : (s.rsetFld o hi lo n).groups = s.groups := rfl
@[simp] theorem rsetFld_groupPend (s : State) (o hi lo n : Nat) : (s.rsetFld o hi lo n).groupPend = s.groupPend := rfl
@[simp] theorem rsetFld_colls (s : State) (o hi lo n : Nat) : (s.rsetFld o hi lo n).colls = s.colls := rfl
@[simp] theorem rsetFld_nextColl (s : State) (o hi lo n : Nat) : (s.rsetFld o hi lo n).nextColl = s.nextColl := rfl
@[simp] theorem rsetFld_collWaits (s : State) (o hi lo n : Nat) : (s.rsetFld o hi lo n).collWaits = s.collWaits := rfl
@[simp] theorem rsetFld_readies (s : State) (o hi lo n : Nat) : (s.rsetFld o hi lo n).readies = s.readies := rfl
@[simp] theorem rsetFld_endJobs (s : State) (o hi lo n : Nat) : (s.rsetFld o hi lo n).endJobs = s.endJobs := rfl
@[simp] theorem rsetFld_mg (s : State) (o hi lo n : Nat) : (s.rsetFld o hi lo n).mg = s.mg := rfl
@[simp] theorem rsetFld_out (s : State) (o hi lo n : Nat) : (s.rsetFld o hi lo n).out = s.out := rfl

/-! rsetBit. -/

@[simp] theorem rsetBit_pending (s : State) (o i : Nat) (b : Bool) : (s.rsetBit o i b).pending = s.pending := rfl
@[simp] theorem rsetBit_clock (s : State) (o i : Nat) (b : Bool) : (s.rsetBit o i b).clock = s.clock := rfl
@[simp] theorem rsetBit_freeCtr (s : State) (o i : Nat) (b : Bool) : (s.rsetBit o i b).freeCtr = s.freeCtr := rfl
@[simp] theorem rsetBit_mem (s : State) (o i : Nat) (b : Bool) : (s.rsetBit o i b).mem = s.mem := rfl
@[simp] theorem rsetBit_memBad (s : State) (o i : Nat) (b : Bool) : (s.rsetBit o i b).memBad = s.memBad := rfl
@[simp] theorem rsetBit_gone (s : State) (o i : Nat) (b : Bool) : (s.rsetBit o i b).gone = s.gone := rfl
@[simp] theorem rsetBit_kept (s : State) (o i : Nat) (b : Bool) : (s.rsetBit o i b).kept = s.kept := rfl
@[simp] theorem rsetBit_corrected (s : State) (o i : Nat) (b : Bool) : (s.rsetBit o i b).corrected = s.corrected := rfl
@[simp] theorem rsetBit_cores (s : State) (o i : Nat) (b : Bool) : (s.rsetBit o i b).cores = s.cores := rfl
@[simp] theorem rsetBit_pools (s : State) (o i : Nat) (b : Bool) : (s.rsetBit o i b).pools = s.pools := rfl
@[simp] theorem rsetBit_reqs (s : State) (o i : Nat) (b : Bool) : (s.rsetBit o i b).reqs = s.reqs := rfl
@[simp] theorem rsetBit_unsent (s : State) (o i : Nat) (b : Bool) : (s.rsetBit o i b).unsent = s.unsent := rfl
@[simp] theorem rsetBit_inj (s : State) (o i : Nat) (b : Bool) : (s.rsetBit o i b).inj = s.inj := rfl
@[simp] theorem rsetBit_injHold (s : State) (o i : Nat) (b : Bool) : (s.rsetBit o i b).injHold = s.injHold := rfl
@[simp] theorem rsetBit_works (s : State) (o i : Nat) (b : Bool) : (s.rsetBit o i b).works = s.works := rfl
@[simp] theorem rsetBit_nextWork (s : State) (o i : Nat) (b : Bool) : (s.rsetBit o i b).nextWork = s.nextWork := rfl
@[simp] theorem rsetBit_due (s : State) (o i : Nat) (b : Bool) : (s.rsetBit o i b).due = s.due := rfl
@[simp] theorem rsetBit_sqs (s : State) (o i : Nat) (b : Bool) : (s.rsetBit o i b).sqs = s.sqs := rfl
@[simp] theorem rsetBit_cqs (s : State) (o i : Nat) (b : Bool) : (s.rsetBit o i b).cqs = s.cqs := rfl
@[simp] theorem rsetBit_evr (s : State) (o i : Nat) (b : Bool) : (s.rsetBit o i b).evr = s.evr := rfl
@[simp] theorem rsetBit_lastSq (s : State) (o i : Nat) (b : Bool) : (s.rsetBit o i b).lastSq = s.lastSq := rfl
@[simp] theorem rsetBit_lines (s : State) (o i : Nat) (b : Bool) : (s.rsetBit o i b).lines = s.lines := rfl
@[simp] theorem rsetBit_wants (s : State) (o i : Nat) (b : Bool) : (s.rsetBit o i b).wants = s.wants := rfl
@[simp] theorem rsetBit_msix (s : State) (o i : Nat) (b : Bool) : (s.rsetBit o i b).msix = s.msix := rfl
@[simp] theorem rsetBit_vmask (s : State) (o i : Nat) (b : Bool) : (s.rsetBit o i b).vmask = s.vmask := rfl
@[simp] theorem rsetBit_evq (s : State) (o i : Nat) (b : Bool) : (s.rsetBit o i b).evq = s.evq := rfl
@[simp] theorem rsetBit_perst (s : State) (o i : Nat) (b : Bool) : (s.rsetBit o i b).perst = s.perst := rfl
@[simp] theorem rsetBit_ringsUp (s : State) (o i : Nat) (b : Bool) : (s.rsetBit o i b).ringsUp = s.ringsUp := rfl
@[simp] theorem rsetBit_snoops (s : State) (o i : Nat) (b : Bool) : (s.rsetBit o i b).snoops = s.snoops := rfl
@[simp] theorem rsetBit_biWait (s : State) (o i : Nat) (b : Bool) : (s.rsetBit o i b).biWait = s.biWait := rfl
@[simp] theorem rsetBit_hdmLost (s : State) (o i : Nat) (b : Bool) : (s.rsetBit o i b).hdmLost = s.hdmLost := rfl
@[simp] theorem rsetBit_lost (s : State) (o i : Nat) (b : Bool) : (s.rsetBit o i b).lost = s.lost := rfl
@[simp] theorem rsetBit_nextTag (s : State) (o i : Nat) (b : Bool) : (s.rsetBit o i b).nextTag = s.nextTag := rfl
@[simp] theorem rsetBit_flows (s : State) (o i : Nat) (b : Bool) : (s.rsetBit o i b).flows = s.flows := rfl
@[simp] theorem rsetBit_hostMem (s : State) (o i : Nat) (b : Bool) : (s.rsetBit o i b).hostMem = s.hostMem := rfl
@[simp] theorem rsetBit_launchQ (s : State) (o i : Nat) (b : Bool) : (s.rsetBit o i b).launchQ = s.launchQ := rfl
@[simp] theorem rsetBit_ev (s : State) (o i : Nat) (b : Bool) : (s.rsetBit o i b).ev = s.ev := rfl
@[simp] theorem rsetBit_mirrorStep (s : State) (o i : Nat) (b : Bool) : (s.rsetBit o i b).mirrorStep = s.mirrorStep := rfl
@[simp] theorem rsetBit_repairs (s : State) (o i : Nat) (b : Bool) : (s.rsetBit o i b).repairs = s.repairs := rfl
@[simp] theorem rsetBit_xchkCount (s : State) (o i : Nat) (b : Bool) : (s.rsetBit o i b).xchkCount = s.xchkCount := rfl
@[simp] theorem rsetBit_caps (s : State) (o i : Nat) (b : Bool) : (s.rsetBit o i b).caps = s.caps := rfl
@[simp] theorem rsetBit_rowHits (s : State) (o i : Nat) (b : Bool) : (s.rsetBit o i b).rowHits = s.rowHits := rfl
@[simp] theorem rsetBit_links (s : State) (o i : Nat) (b : Bool) : (s.rsetBit o i b).links = s.links := rfl
@[simp] theorem rsetBit_lanes (s : State) (o i : Nat) (b : Bool) : (s.rsetBit o i b).lanes = s.lanes := rfl
@[simp] theorem rsetBit_pllLol (s : State) (o i : Nat) (b : Bool) : (s.rsetBit o i b).pllLol = s.pllLol := rfl
@[simp] theorem rsetBit_quadMis (s : State) (o i : Nat) (b : Bool) : (s.rsetBit o i b).quadMis = s.quadMis := rfl
@[simp] theorem rsetBit_recs (s : State) (o i : Nat) (b : Bool) : (s.rsetBit o i b).recs = s.recs := rfl
@[simp] theorem rsetBit_boots (s : State) (o i : Nat) (b : Bool) : (s.rsetBit o i b).boots = s.boots := rfl
@[simp] theorem rsetBit_buf (s : State) (o i : Nat) (b : Bool) : (s.rsetBit o i b).buf = s.buf := rfl
@[simp] theorem rsetBit_nextFrame (s : State) (o i : Nat) (b : Bool) : (s.rsetBit o i b).nextFrame = s.nextFrame := rfl
@[simp] theorem rsetBit_nextJoin (s : State) (o i : Nat) (b : Bool) : (s.rsetBit o i b).nextJoin = s.nextJoin := rfl
@[simp] theorem rsetBit_cells (s : State) (o i : Nat) (b : Bool) : (s.rsetBit o i b).cells = s.cells := rfl
@[simp] theorem rsetBit_sharedUsed (s : State) (o i : Nat) (b : Bool) : (s.rsetBit o i b).sharedUsed = s.sharedUsed := rfl
@[simp] theorem rsetBit_gminEff (s : State) (o i : Nat) (b : Bool) : (s.rsetBit o i b).gminEff = s.gminEff := rfl
@[simp] theorem rsetBit_fences (s : State) (o i : Nat) (b : Bool) : (s.rsetBit o i b).fences = s.fences := rfl
@[simp] theorem rsetBit_sched (s : State) (o i : Nat) (b : Bool) : (s.rsetBit o i b).sched = s.sched := rfl
@[simp] theorem rsetBit_rsv (s : State) (o i : Nat) (b : Bool) : (s.rsetBit o i b).rsv = s.rsv := rfl
@[simp] theorem rsetBit_deliv (s : State) (o i : Nat) (b : Bool) : (s.rsetBit o i b).deliv = s.deliv := rfl
@[simp] theorem rsetBit_msgWait (s : State) (o i : Nat) (b : Bool) : (s.rsetBit o i b).msgWait = s.msgWait := rfl
@[simp] theorem rsetBit_causes (s : State) (o i : Nat) (b : Bool) : (s.rsetBit o i b).causes = s.causes := rfl
@[simp] theorem rsetBit_slots (s : State) (o i : Nat) (b : Bool) : (s.rsetBit o i b).slots = s.slots := rfl
@[simp] theorem rsetBit_stuDrops (s : State) (o i : Nat) (b : Bool) : (s.rsetBit o i b).stuDrops = s.stuDrops := rfl
@[simp] theorem rsetBit_kernelJob (s : State) (o i : Nat) (b : Bool) : (s.rsetBit o i b).kernelJob = s.kernelJob := rfl
@[simp] theorem rsetBit_groups (s : State) (o i : Nat) (b : Bool) : (s.rsetBit o i b).groups = s.groups := rfl
@[simp] theorem rsetBit_groupPend (s : State) (o i : Nat) (b : Bool) : (s.rsetBit o i b).groupPend = s.groupPend := rfl
@[simp] theorem rsetBit_colls (s : State) (o i : Nat) (b : Bool) : (s.rsetBit o i b).colls = s.colls := rfl
@[simp] theorem rsetBit_nextColl (s : State) (o i : Nat) (b : Bool) : (s.rsetBit o i b).nextColl = s.nextColl := rfl
@[simp] theorem rsetBit_collWaits (s : State) (o i : Nat) (b : Bool) : (s.rsetBit o i b).collWaits = s.collWaits := rfl
@[simp] theorem rsetBit_readies (s : State) (o i : Nat) (b : Bool) : (s.rsetBit o i b).readies = s.readies := rfl
@[simp] theorem rsetBit_endJobs (s : State) (o i : Nat) (b : Bool) : (s.rsetBit o i b).endJobs = s.endJobs := rfl
@[simp] theorem rsetBit_mg (s : State) (o i : Nat) (b : Bool) : (s.rsetBit o i b).mg = s.mg := rfl
@[simp] theorem rsetBit_out (s : State) (o i : Nat) (b : Bool) : (s.rsetBit o i b).out = s.out := rfl

/-! rcount. -/

@[simp] theorem rcount_pending (s : State) (o hi lo k : Nat) : (s.rcount o hi lo k).pending = s.pending := rfl
@[simp] theorem rcount_clock (s : State) (o hi lo k : Nat) : (s.rcount o hi lo k).clock = s.clock := rfl
@[simp] theorem rcount_freeCtr (s : State) (o hi lo k : Nat) : (s.rcount o hi lo k).freeCtr = s.freeCtr := rfl
@[simp] theorem rcount_mem (s : State) (o hi lo k : Nat) : (s.rcount o hi lo k).mem = s.mem := rfl
@[simp] theorem rcount_memBad (s : State) (o hi lo k : Nat) : (s.rcount o hi lo k).memBad = s.memBad := rfl
@[simp] theorem rcount_gone (s : State) (o hi lo k : Nat) : (s.rcount o hi lo k).gone = s.gone := rfl
@[simp] theorem rcount_kept (s : State) (o hi lo k : Nat) : (s.rcount o hi lo k).kept = s.kept := rfl
@[simp] theorem rcount_corrected (s : State) (o hi lo k : Nat) : (s.rcount o hi lo k).corrected = s.corrected := rfl
@[simp] theorem rcount_cores (s : State) (o hi lo k : Nat) : (s.rcount o hi lo k).cores = s.cores := rfl
@[simp] theorem rcount_pools (s : State) (o hi lo k : Nat) : (s.rcount o hi lo k).pools = s.pools := rfl
@[simp] theorem rcount_reqs (s : State) (o hi lo k : Nat) : (s.rcount o hi lo k).reqs = s.reqs := rfl
@[simp] theorem rcount_unsent (s : State) (o hi lo k : Nat) : (s.rcount o hi lo k).unsent = s.unsent := rfl
@[simp] theorem rcount_inj (s : State) (o hi lo k : Nat) : (s.rcount o hi lo k).inj = s.inj := rfl
@[simp] theorem rcount_injHold (s : State) (o hi lo k : Nat) : (s.rcount o hi lo k).injHold = s.injHold := rfl
@[simp] theorem rcount_works (s : State) (o hi lo k : Nat) : (s.rcount o hi lo k).works = s.works := rfl
@[simp] theorem rcount_nextWork (s : State) (o hi lo k : Nat) : (s.rcount o hi lo k).nextWork = s.nextWork := rfl
@[simp] theorem rcount_due (s : State) (o hi lo k : Nat) : (s.rcount o hi lo k).due = s.due := rfl
@[simp] theorem rcount_sqs (s : State) (o hi lo k : Nat) : (s.rcount o hi lo k).sqs = s.sqs := rfl
@[simp] theorem rcount_cqs (s : State) (o hi lo k : Nat) : (s.rcount o hi lo k).cqs = s.cqs := rfl
@[simp] theorem rcount_evr (s : State) (o hi lo k : Nat) : (s.rcount o hi lo k).evr = s.evr := rfl
@[simp] theorem rcount_lastSq (s : State) (o hi lo k : Nat) : (s.rcount o hi lo k).lastSq = s.lastSq := rfl
@[simp] theorem rcount_lines (s : State) (o hi lo k : Nat) : (s.rcount o hi lo k).lines = s.lines := rfl
@[simp] theorem rcount_wants (s : State) (o hi lo k : Nat) : (s.rcount o hi lo k).wants = s.wants := rfl
@[simp] theorem rcount_msix (s : State) (o hi lo k : Nat) : (s.rcount o hi lo k).msix = s.msix := rfl
@[simp] theorem rcount_vmask (s : State) (o hi lo k : Nat) : (s.rcount o hi lo k).vmask = s.vmask := rfl
@[simp] theorem rcount_evq (s : State) (o hi lo k : Nat) : (s.rcount o hi lo k).evq = s.evq := rfl
@[simp] theorem rcount_perst (s : State) (o hi lo k : Nat) : (s.rcount o hi lo k).perst = s.perst := rfl
@[simp] theorem rcount_ringsUp (s : State) (o hi lo k : Nat) : (s.rcount o hi lo k).ringsUp = s.ringsUp := rfl
@[simp] theorem rcount_snoops (s : State) (o hi lo k : Nat) : (s.rcount o hi lo k).snoops = s.snoops := rfl
@[simp] theorem rcount_biWait (s : State) (o hi lo k : Nat) : (s.rcount o hi lo k).biWait = s.biWait := rfl
@[simp] theorem rcount_hdmLost (s : State) (o hi lo k : Nat) : (s.rcount o hi lo k).hdmLost = s.hdmLost := rfl
@[simp] theorem rcount_lost (s : State) (o hi lo k : Nat) : (s.rcount o hi lo k).lost = s.lost := rfl
@[simp] theorem rcount_nextTag (s : State) (o hi lo k : Nat) : (s.rcount o hi lo k).nextTag = s.nextTag := rfl
@[simp] theorem rcount_flows (s : State) (o hi lo k : Nat) : (s.rcount o hi lo k).flows = s.flows := rfl
@[simp] theorem rcount_hostMem (s : State) (o hi lo k : Nat) : (s.rcount o hi lo k).hostMem = s.hostMem := rfl
@[simp] theorem rcount_launchQ (s : State) (o hi lo k : Nat) : (s.rcount o hi lo k).launchQ = s.launchQ := rfl
@[simp] theorem rcount_ev (s : State) (o hi lo k : Nat) : (s.rcount o hi lo k).ev = s.ev := rfl
@[simp] theorem rcount_mirrorStep (s : State) (o hi lo k : Nat) : (s.rcount o hi lo k).mirrorStep = s.mirrorStep := rfl
@[simp] theorem rcount_repairs (s : State) (o hi lo k : Nat) : (s.rcount o hi lo k).repairs = s.repairs := rfl
@[simp] theorem rcount_xchkCount (s : State) (o hi lo k : Nat) : (s.rcount o hi lo k).xchkCount = s.xchkCount := rfl
@[simp] theorem rcount_caps (s : State) (o hi lo k : Nat) : (s.rcount o hi lo k).caps = s.caps := rfl
@[simp] theorem rcount_rowHits (s : State) (o hi lo k : Nat) : (s.rcount o hi lo k).rowHits = s.rowHits := rfl
@[simp] theorem rcount_links (s : State) (o hi lo k : Nat) : (s.rcount o hi lo k).links = s.links := rfl
@[simp] theorem rcount_lanes (s : State) (o hi lo k : Nat) : (s.rcount o hi lo k).lanes = s.lanes := rfl
@[simp] theorem rcount_pllLol (s : State) (o hi lo k : Nat) : (s.rcount o hi lo k).pllLol = s.pllLol := rfl
@[simp] theorem rcount_quadMis (s : State) (o hi lo k : Nat) : (s.rcount o hi lo k).quadMis = s.quadMis := rfl
@[simp] theorem rcount_recs (s : State) (o hi lo k : Nat) : (s.rcount o hi lo k).recs = s.recs := rfl
@[simp] theorem rcount_boots (s : State) (o hi lo k : Nat) : (s.rcount o hi lo k).boots = s.boots := rfl
@[simp] theorem rcount_buf (s : State) (o hi lo k : Nat) : (s.rcount o hi lo k).buf = s.buf := rfl
@[simp] theorem rcount_nextFrame (s : State) (o hi lo k : Nat) : (s.rcount o hi lo k).nextFrame = s.nextFrame := rfl
@[simp] theorem rcount_nextJoin (s : State) (o hi lo k : Nat) : (s.rcount o hi lo k).nextJoin = s.nextJoin := rfl
@[simp] theorem rcount_cells (s : State) (o hi lo k : Nat) : (s.rcount o hi lo k).cells = s.cells := rfl
@[simp] theorem rcount_sharedUsed (s : State) (o hi lo k : Nat) : (s.rcount o hi lo k).sharedUsed = s.sharedUsed := rfl
@[simp] theorem rcount_gminEff (s : State) (o hi lo k : Nat) : (s.rcount o hi lo k).gminEff = s.gminEff := rfl
@[simp] theorem rcount_fences (s : State) (o hi lo k : Nat) : (s.rcount o hi lo k).fences = s.fences := rfl
@[simp] theorem rcount_sched (s : State) (o hi lo k : Nat) : (s.rcount o hi lo k).sched = s.sched := rfl
@[simp] theorem rcount_rsv (s : State) (o hi lo k : Nat) : (s.rcount o hi lo k).rsv = s.rsv := rfl
@[simp] theorem rcount_deliv (s : State) (o hi lo k : Nat) : (s.rcount o hi lo k).deliv = s.deliv := rfl
@[simp] theorem rcount_msgWait (s : State) (o hi lo k : Nat) : (s.rcount o hi lo k).msgWait = s.msgWait := rfl
@[simp] theorem rcount_causes (s : State) (o hi lo k : Nat) : (s.rcount o hi lo k).causes = s.causes := rfl
@[simp] theorem rcount_slots (s : State) (o hi lo k : Nat) : (s.rcount o hi lo k).slots = s.slots := rfl
@[simp] theorem rcount_stuDrops (s : State) (o hi lo k : Nat) : (s.rcount o hi lo k).stuDrops = s.stuDrops := rfl
@[simp] theorem rcount_kernelJob (s : State) (o hi lo k : Nat) : (s.rcount o hi lo k).kernelJob = s.kernelJob := rfl
@[simp] theorem rcount_groups (s : State) (o hi lo k : Nat) : (s.rcount o hi lo k).groups = s.groups := rfl
@[simp] theorem rcount_groupPend (s : State) (o hi lo k : Nat) : (s.rcount o hi lo k).groupPend = s.groupPend := rfl
@[simp] theorem rcount_colls (s : State) (o hi lo k : Nat) : (s.rcount o hi lo k).colls = s.colls := rfl
@[simp] theorem rcount_nextColl (s : State) (o hi lo k : Nat) : (s.rcount o hi lo k).nextColl = s.nextColl := rfl
@[simp] theorem rcount_collWaits (s : State) (o hi lo k : Nat) : (s.rcount o hi lo k).collWaits = s.collWaits := rfl
@[simp] theorem rcount_readies (s : State) (o hi lo k : Nat) : (s.rcount o hi lo k).readies = s.readies := rfl
@[simp] theorem rcount_endJobs (s : State) (o hi lo k : Nat) : (s.rcount o hi lo k).endJobs = s.endJobs := rfl
@[simp] theorem rcount_mg (s : State) (o hi lo k : Nat) : (s.rcount o hi lo k).mg = s.mg := rfl
@[simp] theorem rcount_out (s : State) (o hi lo k : Nat) : (s.rcount o hi lo k).out = s.out := rfl

/-! draw. -/

@[simp] theorem draw_pending (s : State) : (s.draw.2).pending = s.pending := rfl
@[simp] theorem draw_clock (s : State) : (s.draw.2).clock = s.clock := rfl
@[simp] theorem draw_regs (s : State) : (s.draw.2).regs = s.regs := rfl
@[simp] theorem draw_mem (s : State) : (s.draw.2).mem = s.mem := rfl
@[simp] theorem draw_memBad (s : State) : (s.draw.2).memBad = s.memBad := rfl
@[simp] theorem draw_gone (s : State) : (s.draw.2).gone = s.gone := rfl
@[simp] theorem draw_kept (s : State) : (s.draw.2).kept = s.kept := rfl
@[simp] theorem draw_corrected (s : State) : (s.draw.2).corrected = s.corrected := rfl
@[simp] theorem draw_cores (s : State) : (s.draw.2).cores = s.cores := rfl
@[simp] theorem draw_pools (s : State) : (s.draw.2).pools = s.pools := rfl
@[simp] theorem draw_reqs (s : State) : (s.draw.2).reqs = s.reqs := rfl
@[simp] theorem draw_unsent (s : State) : (s.draw.2).unsent = s.unsent := rfl
@[simp] theorem draw_inj (s : State) : (s.draw.2).inj = s.inj := rfl
@[simp] theorem draw_injHold (s : State) : (s.draw.2).injHold = s.injHold := rfl
@[simp] theorem draw_works (s : State) : (s.draw.2).works = s.works := rfl
@[simp] theorem draw_nextWork (s : State) : (s.draw.2).nextWork = s.nextWork := rfl
@[simp] theorem draw_due (s : State) : (s.draw.2).due = s.due := rfl
@[simp] theorem draw_sqs (s : State) : (s.draw.2).sqs = s.sqs := rfl
@[simp] theorem draw_cqs (s : State) : (s.draw.2).cqs = s.cqs := rfl
@[simp] theorem draw_evr (s : State) : (s.draw.2).evr = s.evr := rfl
@[simp] theorem draw_lastSq (s : State) : (s.draw.2).lastSq = s.lastSq := rfl
@[simp] theorem draw_lines (s : State) : (s.draw.2).lines = s.lines := rfl
@[simp] theorem draw_wants (s : State) : (s.draw.2).wants = s.wants := rfl
@[simp] theorem draw_msix (s : State) : (s.draw.2).msix = s.msix := rfl
@[simp] theorem draw_vmask (s : State) : (s.draw.2).vmask = s.vmask := rfl
@[simp] theorem draw_evq (s : State) : (s.draw.2).evq = s.evq := rfl
@[simp] theorem draw_perst (s : State) : (s.draw.2).perst = s.perst := rfl
@[simp] theorem draw_ringsUp (s : State) : (s.draw.2).ringsUp = s.ringsUp := rfl
@[simp] theorem draw_snoops (s : State) : (s.draw.2).snoops = s.snoops := rfl
@[simp] theorem draw_biWait (s : State) : (s.draw.2).biWait = s.biWait := rfl
@[simp] theorem draw_hdmLost (s : State) : (s.draw.2).hdmLost = s.hdmLost := rfl
@[simp] theorem draw_lost (s : State) : (s.draw.2).lost = s.lost := rfl
@[simp] theorem draw_nextTag (s : State) : (s.draw.2).nextTag = s.nextTag := rfl
@[simp] theorem draw_flows (s : State) : (s.draw.2).flows = s.flows := rfl
@[simp] theorem draw_hostMem (s : State) : (s.draw.2).hostMem = s.hostMem := rfl
@[simp] theorem draw_launchQ (s : State) : (s.draw.2).launchQ = s.launchQ := rfl
@[simp] theorem draw_ev (s : State) : (s.draw.2).ev = s.ev := rfl
@[simp] theorem draw_mirrorStep (s : State) : (s.draw.2).mirrorStep = s.mirrorStep := rfl
@[simp] theorem draw_repairs (s : State) : (s.draw.2).repairs = s.repairs := rfl
@[simp] theorem draw_xchkCount (s : State) : (s.draw.2).xchkCount = s.xchkCount := rfl
@[simp] theorem draw_caps (s : State) : (s.draw.2).caps = s.caps := rfl
@[simp] theorem draw_rowHits (s : State) : (s.draw.2).rowHits = s.rowHits := rfl
@[simp] theorem draw_links (s : State) : (s.draw.2).links = s.links := rfl
@[simp] theorem draw_lanes (s : State) : (s.draw.2).lanes = s.lanes := rfl
@[simp] theorem draw_pllLol (s : State) : (s.draw.2).pllLol = s.pllLol := rfl
@[simp] theorem draw_quadMis (s : State) : (s.draw.2).quadMis = s.quadMis := rfl
@[simp] theorem draw_recs (s : State) : (s.draw.2).recs = s.recs := rfl
@[simp] theorem draw_boots (s : State) : (s.draw.2).boots = s.boots := rfl
@[simp] theorem draw_buf (s : State) : (s.draw.2).buf = s.buf := rfl
@[simp] theorem draw_nextFrame (s : State) : (s.draw.2).nextFrame = s.nextFrame := rfl
@[simp] theorem draw_nextJoin (s : State) : (s.draw.2).nextJoin = s.nextJoin := rfl
@[simp] theorem draw_cells (s : State) : (s.draw.2).cells = s.cells := rfl
@[simp] theorem draw_sharedUsed (s : State) : (s.draw.2).sharedUsed = s.sharedUsed := rfl
@[simp] theorem draw_gminEff (s : State) : (s.draw.2).gminEff = s.gminEff := rfl
@[simp] theorem draw_fences (s : State) : (s.draw.2).fences = s.fences := rfl
@[simp] theorem draw_sched (s : State) : (s.draw.2).sched = s.sched := rfl
@[simp] theorem draw_rsv (s : State) : (s.draw.2).rsv = s.rsv := rfl
@[simp] theorem draw_deliv (s : State) : (s.draw.2).deliv = s.deliv := rfl
@[simp] theorem draw_msgWait (s : State) : (s.draw.2).msgWait = s.msgWait := rfl
@[simp] theorem draw_causes (s : State) : (s.draw.2).causes = s.causes := rfl
@[simp] theorem draw_slots (s : State) : (s.draw.2).slots = s.slots := rfl
@[simp] theorem draw_stuDrops (s : State) : (s.draw.2).stuDrops = s.stuDrops := rfl
@[simp] theorem draw_kernelJob (s : State) : (s.draw.2).kernelJob = s.kernelJob := rfl
@[simp] theorem draw_groups (s : State) : (s.draw.2).groups = s.groups := rfl
@[simp] theorem draw_groupPend (s : State) : (s.draw.2).groupPend = s.groupPend := rfl
@[simp] theorem draw_colls (s : State) : (s.draw.2).colls = s.colls := rfl
@[simp] theorem draw_nextColl (s : State) : (s.draw.2).nextColl = s.nextColl := rfl
@[simp] theorem draw_collWaits (s : State) : (s.draw.2).collWaits = s.collWaits := rfl
@[simp] theorem draw_readies (s : State) : (s.draw.2).readies = s.readies := rfl
@[simp] theorem draw_endJobs (s : State) : (s.draw.2).endJobs = s.endJobs := rfl
@[simp] theorem draw_mg (s : State) : (s.draw.2).mg = s.mg := rfl
@[simp] theorem draw_out (s : State) : (s.draw.2).out = s.out := rfl

/-! mput. -/

@[simp] theorem mput_pending (s : State) (k : Nat) (b : Byte) : (s.mput k b).pending = s.pending := rfl
@[simp] theorem mput_clock (s : State) (k : Nat) (b : Byte) : (s.mput k b).clock = s.clock := rfl
@[simp] theorem mput_freeCtr (s : State) (k : Nat) (b : Byte) : (s.mput k b).freeCtr = s.freeCtr := rfl
@[simp] theorem mput_regs (s : State) (k : Nat) (b : Byte) : (s.mput k b).regs = s.regs := rfl
@[simp] theorem mput_gone (s : State) (k : Nat) (b : Byte) : (s.mput k b).gone = s.gone := rfl
@[simp] theorem mput_corrected (s : State) (k : Nat) (b : Byte) : (s.mput k b).corrected = s.corrected := rfl
@[simp] theorem mput_cores (s : State) (k : Nat) (b : Byte) : (s.mput k b).cores = s.cores := rfl
@[simp] theorem mput_pools (s : State) (k : Nat) (b : Byte) : (s.mput k b).pools = s.pools := rfl
@[simp] theorem mput_reqs (s : State) (k : Nat) (b : Byte) : (s.mput k b).reqs = s.reqs := rfl
@[simp] theorem mput_unsent (s : State) (k : Nat) (b : Byte) : (s.mput k b).unsent = s.unsent := rfl
@[simp] theorem mput_inj (s : State) (k : Nat) (b : Byte) : (s.mput k b).inj = s.inj := rfl
@[simp] theorem mput_injHold (s : State) (k : Nat) (b : Byte) : (s.mput k b).injHold = s.injHold := rfl
@[simp] theorem mput_works (s : State) (k : Nat) (b : Byte) : (s.mput k b).works = s.works := rfl
@[simp] theorem mput_nextWork (s : State) (k : Nat) (b : Byte) : (s.mput k b).nextWork = s.nextWork := rfl
@[simp] theorem mput_due (s : State) (k : Nat) (b : Byte) : (s.mput k b).due = s.due := rfl
@[simp] theorem mput_sqs (s : State) (k : Nat) (b : Byte) : (s.mput k b).sqs = s.sqs := rfl
@[simp] theorem mput_cqs (s : State) (k : Nat) (b : Byte) : (s.mput k b).cqs = s.cqs := rfl
@[simp] theorem mput_evr (s : State) (k : Nat) (b : Byte) : (s.mput k b).evr = s.evr := rfl
@[simp] theorem mput_lastSq (s : State) (k : Nat) (b : Byte) : (s.mput k b).lastSq = s.lastSq := rfl
@[simp] theorem mput_lines (s : State) (k : Nat) (b : Byte) : (s.mput k b).lines = s.lines := rfl
@[simp] theorem mput_wants (s : State) (k : Nat) (b : Byte) : (s.mput k b).wants = s.wants := rfl
@[simp] theorem mput_msix (s : State) (k : Nat) (b : Byte) : (s.mput k b).msix = s.msix := rfl
@[simp] theorem mput_vmask (s : State) (k : Nat) (b : Byte) : (s.mput k b).vmask = s.vmask := rfl
@[simp] theorem mput_evq (s : State) (k : Nat) (b : Byte) : (s.mput k b).evq = s.evq := rfl
@[simp] theorem mput_perst (s : State) (k : Nat) (b : Byte) : (s.mput k b).perst = s.perst := rfl
@[simp] theorem mput_ringsUp (s : State) (k : Nat) (b : Byte) : (s.mput k b).ringsUp = s.ringsUp := rfl
@[simp] theorem mput_snoops (s : State) (k : Nat) (b : Byte) : (s.mput k b).snoops = s.snoops := rfl
@[simp] theorem mput_biWait (s : State) (k : Nat) (b : Byte) : (s.mput k b).biWait = s.biWait := rfl
@[simp] theorem mput_hdmLost (s : State) (k : Nat) (b : Byte) : (s.mput k b).hdmLost = s.hdmLost := rfl
@[simp] theorem mput_lost (s : State) (k : Nat) (b : Byte) : (s.mput k b).lost = s.lost := rfl
@[simp] theorem mput_nextTag (s : State) (k : Nat) (b : Byte) : (s.mput k b).nextTag = s.nextTag := rfl
@[simp] theorem mput_flows (s : State) (k : Nat) (b : Byte) : (s.mput k b).flows = s.flows := rfl
@[simp] theorem mput_hostMem (s : State) (k : Nat) (b : Byte) : (s.mput k b).hostMem = s.hostMem := rfl
@[simp] theorem mput_launchQ (s : State) (k : Nat) (b : Byte) : (s.mput k b).launchQ = s.launchQ := rfl
@[simp] theorem mput_ev (s : State) (k : Nat) (b : Byte) : (s.mput k b).ev = s.ev := rfl
@[simp] theorem mput_mirrorStep (s : State) (k : Nat) (b : Byte) : (s.mput k b).mirrorStep = s.mirrorStep := rfl
@[simp] theorem mput_repairs (s : State) (k : Nat) (b : Byte) : (s.mput k b).repairs = s.repairs := rfl
@[simp] theorem mput_xchkCount (s : State) (k : Nat) (b : Byte) : (s.mput k b).xchkCount = s.xchkCount := rfl
@[simp] theorem mput_caps (s : State) (k : Nat) (b : Byte) : (s.mput k b).caps = s.caps := rfl
@[simp] theorem mput_rowHits (s : State) (k : Nat) (b : Byte) : (s.mput k b).rowHits = s.rowHits := rfl
@[simp] theorem mput_links (s : State) (k : Nat) (b : Byte) : (s.mput k b).links = s.links := rfl
@[simp] theorem mput_lanes (s : State) (k : Nat) (b : Byte) : (s.mput k b).lanes = s.lanes := rfl
@[simp] theorem mput_pllLol (s : State) (k : Nat) (b : Byte) : (s.mput k b).pllLol = s.pllLol := rfl
@[simp] theorem mput_quadMis (s : State) (k : Nat) (b : Byte) : (s.mput k b).quadMis = s.quadMis := rfl
@[simp] theorem mput_recs (s : State) (k : Nat) (b : Byte) : (s.mput k b).recs = s.recs := rfl
@[simp] theorem mput_boots (s : State) (k : Nat) (b : Byte) : (s.mput k b).boots = s.boots := rfl
@[simp] theorem mput_buf (s : State) (k : Nat) (b : Byte) : (s.mput k b).buf = s.buf := rfl
@[simp] theorem mput_nextFrame (s : State) (k : Nat) (b : Byte) : (s.mput k b).nextFrame = s.nextFrame := rfl
@[simp] theorem mput_nextJoin (s : State) (k : Nat) (b : Byte) : (s.mput k b).nextJoin = s.nextJoin := rfl
@[simp] theorem mput_cells (s : State) (k : Nat) (b : Byte) : (s.mput k b).cells = s.cells := rfl
@[simp] theorem mput_sharedUsed (s : State) (k : Nat) (b : Byte) : (s.mput k b).sharedUsed = s.sharedUsed := rfl
@[simp] theorem mput_gminEff (s : State) (k : Nat) (b : Byte) : (s.mput k b).gminEff = s.gminEff := rfl
@[simp] theorem mput_fences (s : State) (k : Nat) (b : Byte) : (s.mput k b).fences = s.fences := rfl
@[simp] theorem mput_sched (s : State) (k : Nat) (b : Byte) : (s.mput k b).sched = s.sched := rfl
@[simp] theorem mput_rsv (s : State) (k : Nat) (b : Byte) : (s.mput k b).rsv = s.rsv := rfl
@[simp] theorem mput_deliv (s : State) (k : Nat) (b : Byte) : (s.mput k b).deliv = s.deliv := rfl
@[simp] theorem mput_msgWait (s : State) (k : Nat) (b : Byte) : (s.mput k b).msgWait = s.msgWait := rfl
@[simp] theorem mput_causes (s : State) (k : Nat) (b : Byte) : (s.mput k b).causes = s.causes := rfl
@[simp] theorem mput_slots (s : State) (k : Nat) (b : Byte) : (s.mput k b).slots = s.slots := rfl
@[simp] theorem mput_stuDrops (s : State) (k : Nat) (b : Byte) : (s.mput k b).stuDrops = s.stuDrops := rfl
@[simp] theorem mput_kernelJob (s : State) (k : Nat) (b : Byte) : (s.mput k b).kernelJob = s.kernelJob := rfl
@[simp] theorem mput_groups (s : State) (k : Nat) (b : Byte) : (s.mput k b).groups = s.groups := rfl
@[simp] theorem mput_groupPend (s : State) (k : Nat) (b : Byte) : (s.mput k b).groupPend = s.groupPend := rfl
@[simp] theorem mput_colls (s : State) (k : Nat) (b : Byte) : (s.mput k b).colls = s.colls := rfl
@[simp] theorem mput_nextColl (s : State) (k : Nat) (b : Byte) : (s.mput k b).nextColl = s.nextColl := rfl
@[simp] theorem mput_collWaits (s : State) (k : Nat) (b : Byte) : (s.mput k b).collWaits = s.collWaits := rfl
@[simp] theorem mput_readies (s : State) (k : Nat) (b : Byte) : (s.mput k b).readies = s.readies := rfl
@[simp] theorem mput_endJobs (s : State) (k : Nat) (b : Byte) : (s.mput k b).endJobs = s.endJobs := rfl
@[simp] theorem mput_mg (s : State) (k : Nat) (b : Byte) : (s.mput k b).mg = s.mg := rfl
@[simp] theorem mput_out (s : State) (k : Nat) (b : Byte) : (s.mput k b).out = s.out := rfl

/-! hputBytes. -/

@[simp] theorem hputBytes_pending (s : State) (k : Nat) (l : List Byte) : (s.hputBytes k l).pending = s.pending := rfl
@[simp] theorem hputBytes_clock (s : State) (k : Nat) (l : List Byte) : (s.hputBytes k l).clock = s.clock := rfl
@[simp] theorem hputBytes_freeCtr (s : State) (k : Nat) (l : List Byte) : (s.hputBytes k l).freeCtr = s.freeCtr := rfl
@[simp] theorem hputBytes_regs (s : State) (k : Nat) (l : List Byte) : (s.hputBytes k l).regs = s.regs := rfl
@[simp] theorem hputBytes_mem (s : State) (k : Nat) (l : List Byte) : (s.hputBytes k l).mem = s.mem := rfl
@[simp] theorem hputBytes_memBad (s : State) (k : Nat) (l : List Byte) : (s.hputBytes k l).memBad = s.memBad := rfl
@[simp] theorem hputBytes_gone (s : State) (k : Nat) (l : List Byte) : (s.hputBytes k l).gone = s.gone := rfl
@[simp] theorem hputBytes_kept (s : State) (k : Nat) (l : List Byte) : (s.hputBytes k l).kept = s.kept := rfl
@[simp] theorem hputBytes_corrected (s : State) (k : Nat) (l : List Byte) : (s.hputBytes k l).corrected = s.corrected := rfl
@[simp] theorem hputBytes_cores (s : State) (k : Nat) (l : List Byte) : (s.hputBytes k l).cores = s.cores := rfl
@[simp] theorem hputBytes_pools (s : State) (k : Nat) (l : List Byte) : (s.hputBytes k l).pools = s.pools := rfl
@[simp] theorem hputBytes_reqs (s : State) (k : Nat) (l : List Byte) : (s.hputBytes k l).reqs = s.reqs := rfl
@[simp] theorem hputBytes_unsent (s : State) (k : Nat) (l : List Byte) : (s.hputBytes k l).unsent = s.unsent := rfl
@[simp] theorem hputBytes_inj (s : State) (k : Nat) (l : List Byte) : (s.hputBytes k l).inj = s.inj := rfl
@[simp] theorem hputBytes_injHold (s : State) (k : Nat) (l : List Byte) : (s.hputBytes k l).injHold = s.injHold := rfl
@[simp] theorem hputBytes_works (s : State) (k : Nat) (l : List Byte) : (s.hputBytes k l).works = s.works := rfl
@[simp] theorem hputBytes_nextWork (s : State) (k : Nat) (l : List Byte) : (s.hputBytes k l).nextWork = s.nextWork := rfl
@[simp] theorem hputBytes_due (s : State) (k : Nat) (l : List Byte) : (s.hputBytes k l).due = s.due := rfl
@[simp] theorem hputBytes_sqs (s : State) (k : Nat) (l : List Byte) : (s.hputBytes k l).sqs = s.sqs := rfl
@[simp] theorem hputBytes_cqs (s : State) (k : Nat) (l : List Byte) : (s.hputBytes k l).cqs = s.cqs := rfl
@[simp] theorem hputBytes_evr (s : State) (k : Nat) (l : List Byte) : (s.hputBytes k l).evr = s.evr := rfl
@[simp] theorem hputBytes_lastSq (s : State) (k : Nat) (l : List Byte) : (s.hputBytes k l).lastSq = s.lastSq := rfl
@[simp] theorem hputBytes_lines (s : State) (k : Nat) (l : List Byte) : (s.hputBytes k l).lines = s.lines := rfl
@[simp] theorem hputBytes_wants (s : State) (k : Nat) (l : List Byte) : (s.hputBytes k l).wants = s.wants := rfl
@[simp] theorem hputBytes_msix (s : State) (k : Nat) (l : List Byte) : (s.hputBytes k l).msix = s.msix := rfl
@[simp] theorem hputBytes_vmask (s : State) (k : Nat) (l : List Byte) : (s.hputBytes k l).vmask = s.vmask := rfl
@[simp] theorem hputBytes_evq (s : State) (k : Nat) (l : List Byte) : (s.hputBytes k l).evq = s.evq := rfl
@[simp] theorem hputBytes_perst (s : State) (k : Nat) (l : List Byte) : (s.hputBytes k l).perst = s.perst := rfl
@[simp] theorem hputBytes_ringsUp (s : State) (k : Nat) (l : List Byte) : (s.hputBytes k l).ringsUp = s.ringsUp := rfl
@[simp] theorem hputBytes_snoops (s : State) (k : Nat) (l : List Byte) : (s.hputBytes k l).snoops = s.snoops := rfl
@[simp] theorem hputBytes_biWait (s : State) (k : Nat) (l : List Byte) : (s.hputBytes k l).biWait = s.biWait := rfl
@[simp] theorem hputBytes_hdmLost (s : State) (k : Nat) (l : List Byte) : (s.hputBytes k l).hdmLost = s.hdmLost := rfl
@[simp] theorem hputBytes_lost (s : State) (k : Nat) (l : List Byte) : (s.hputBytes k l).lost = s.lost := rfl
@[simp] theorem hputBytes_nextTag (s : State) (k : Nat) (l : List Byte) : (s.hputBytes k l).nextTag = s.nextTag := rfl
@[simp] theorem hputBytes_flows (s : State) (k : Nat) (l : List Byte) : (s.hputBytes k l).flows = s.flows := rfl
@[simp] theorem hputBytes_launchQ (s : State) (k : Nat) (l : List Byte) : (s.hputBytes k l).launchQ = s.launchQ := rfl
@[simp] theorem hputBytes_ev (s : State) (k : Nat) (l : List Byte) : (s.hputBytes k l).ev = s.ev := rfl
@[simp] theorem hputBytes_mirrorStep (s : State) (k : Nat) (l : List Byte) : (s.hputBytes k l).mirrorStep = s.mirrorStep := rfl
@[simp] theorem hputBytes_repairs (s : State) (k : Nat) (l : List Byte) : (s.hputBytes k l).repairs = s.repairs := rfl
@[simp] theorem hputBytes_xchkCount (s : State) (k : Nat) (l : List Byte) : (s.hputBytes k l).xchkCount = s.xchkCount := rfl
@[simp] theorem hputBytes_caps (s : State) (k : Nat) (l : List Byte) : (s.hputBytes k l).caps = s.caps := rfl
@[simp] theorem hputBytes_rowHits (s : State) (k : Nat) (l : List Byte) : (s.hputBytes k l).rowHits = s.rowHits := rfl
@[simp] theorem hputBytes_links (s : State) (k : Nat) (l : List Byte) : (s.hputBytes k l).links = s.links := rfl
@[simp] theorem hputBytes_lanes (s : State) (k : Nat) (l : List Byte) : (s.hputBytes k l).lanes = s.lanes := rfl
@[simp] theorem hputBytes_pllLol (s : State) (k : Nat) (l : List Byte) : (s.hputBytes k l).pllLol = s.pllLol := rfl
@[simp] theorem hputBytes_quadMis (s : State) (k : Nat) (l : List Byte) : (s.hputBytes k l).quadMis = s.quadMis := rfl
@[simp] theorem hputBytes_recs (s : State) (k : Nat) (l : List Byte) : (s.hputBytes k l).recs = s.recs := rfl
@[simp] theorem hputBytes_boots (s : State) (k : Nat) (l : List Byte) : (s.hputBytes k l).boots = s.boots := rfl
@[simp] theorem hputBytes_buf (s : State) (k : Nat) (l : List Byte) : (s.hputBytes k l).buf = s.buf := rfl
@[simp] theorem hputBytes_nextFrame (s : State) (k : Nat) (l : List Byte) : (s.hputBytes k l).nextFrame = s.nextFrame := rfl
@[simp] theorem hputBytes_nextJoin (s : State) (k : Nat) (l : List Byte) : (s.hputBytes k l).nextJoin = s.nextJoin := rfl
@[simp] theorem hputBytes_cells (s : State) (k : Nat) (l : List Byte) : (s.hputBytes k l).cells = s.cells := rfl
@[simp] theorem hputBytes_sharedUsed (s : State) (k : Nat) (l : List Byte) : (s.hputBytes k l).sharedUsed = s.sharedUsed := rfl
@[simp] theorem hputBytes_gminEff (s : State) (k : Nat) (l : List Byte) : (s.hputBytes k l).gminEff = s.gminEff := rfl
@[simp] theorem hputBytes_fences (s : State) (k : Nat) (l : List Byte) : (s.hputBytes k l).fences = s.fences := rfl
@[simp] theorem hputBytes_sched (s : State) (k : Nat) (l : List Byte) : (s.hputBytes k l).sched = s.sched := rfl
@[simp] theorem hputBytes_rsv (s : State) (k : Nat) (l : List Byte) : (s.hputBytes k l).rsv = s.rsv := rfl
@[simp] theorem hputBytes_deliv (s : State) (k : Nat) (l : List Byte) : (s.hputBytes k l).deliv = s.deliv := rfl
@[simp] theorem hputBytes_msgWait (s : State) (k : Nat) (l : List Byte) : (s.hputBytes k l).msgWait = s.msgWait := rfl
@[simp] theorem hputBytes_causes (s : State) (k : Nat) (l : List Byte) : (s.hputBytes k l).causes = s.causes := rfl
@[simp] theorem hputBytes_slots (s : State) (k : Nat) (l : List Byte) : (s.hputBytes k l).slots = s.slots := rfl
@[simp] theorem hputBytes_stuDrops (s : State) (k : Nat) (l : List Byte) : (s.hputBytes k l).stuDrops = s.stuDrops := rfl
@[simp] theorem hputBytes_kernelJob (s : State) (k : Nat) (l : List Byte) : (s.hputBytes k l).kernelJob = s.kernelJob := rfl
@[simp] theorem hputBytes_groups (s : State) (k : Nat) (l : List Byte) : (s.hputBytes k l).groups = s.groups := rfl
@[simp] theorem hputBytes_groupPend (s : State) (k : Nat) (l : List Byte) : (s.hputBytes k l).groupPend = s.groupPend := rfl
@[simp] theorem hputBytes_colls (s : State) (k : Nat) (l : List Byte) : (s.hputBytes k l).colls = s.colls := rfl
@[simp] theorem hputBytes_nextColl (s : State) (k : Nat) (l : List Byte) : (s.hputBytes k l).nextColl = s.nextColl := rfl
@[simp] theorem hputBytes_collWaits (s : State) (k : Nat) (l : List Byte) : (s.hputBytes k l).collWaits = s.collWaits := rfl
@[simp] theorem hputBytes_readies (s : State) (k : Nat) (l : List Byte) : (s.hputBytes k l).readies = s.readies := rfl
@[simp] theorem hputBytes_endJobs (s : State) (k : Nat) (l : List Byte) : (s.hputBytes k l).endJobs = s.endJobs := rfl
@[simp] theorem hputBytes_mg (s : State) (k : Nat) (l : List Byte) : (s.hputBytes k l).mg = s.mg := rfl
@[simp] theorem hputBytes_out (s : State) (k : Nat) (l : List Byte) : (s.hputBytes k l).out = s.out := rfl

/-! emit. -/

@[simp] theorem emit_pending (s : State) (x : Output) : (s.emit x).pending = s.pending := rfl
@[simp] theorem emit_clock (s : State) (x : Output) : (s.emit x).clock = s.clock := rfl
@[simp] theorem emit_freeCtr (s : State) (x : Output) : (s.emit x).freeCtr = s.freeCtr := rfl
@[simp] theorem emit_regs (s : State) (x : Output) : (s.emit x).regs = s.regs := rfl
@[simp] theorem emit_mem (s : State) (x : Output) : (s.emit x).mem = s.mem := rfl
@[simp] theorem emit_memBad (s : State) (x : Output) : (s.emit x).memBad = s.memBad := rfl
@[simp] theorem emit_gone (s : State) (x : Output) : (s.emit x).gone = s.gone := rfl
@[simp] theorem emit_kept (s : State) (x : Output) : (s.emit x).kept = s.kept := rfl
@[simp] theorem emit_corrected (s : State) (x : Output) : (s.emit x).corrected = s.corrected := rfl
@[simp] theorem emit_cores (s : State) (x : Output) : (s.emit x).cores = s.cores := rfl
@[simp] theorem emit_pools (s : State) (x : Output) : (s.emit x).pools = s.pools := rfl
@[simp] theorem emit_reqs (s : State) (x : Output) : (s.emit x).reqs = s.reqs := rfl
@[simp] theorem emit_unsent (s : State) (x : Output) : (s.emit x).unsent = s.unsent := rfl
@[simp] theorem emit_inj (s : State) (x : Output) : (s.emit x).inj = s.inj := rfl
@[simp] theorem emit_injHold (s : State) (x : Output) : (s.emit x).injHold = s.injHold := rfl
@[simp] theorem emit_works (s : State) (x : Output) : (s.emit x).works = s.works := rfl
@[simp] theorem emit_nextWork (s : State) (x : Output) : (s.emit x).nextWork = s.nextWork := rfl
@[simp] theorem emit_due (s : State) (x : Output) : (s.emit x).due = s.due := rfl
@[simp] theorem emit_sqs (s : State) (x : Output) : (s.emit x).sqs = s.sqs := rfl
@[simp] theorem emit_cqs (s : State) (x : Output) : (s.emit x).cqs = s.cqs := rfl
@[simp] theorem emit_evr (s : State) (x : Output) : (s.emit x).evr = s.evr := rfl
@[simp] theorem emit_lastSq (s : State) (x : Output) : (s.emit x).lastSq = s.lastSq := rfl
@[simp] theorem emit_lines (s : State) (x : Output) : (s.emit x).lines = s.lines := rfl
@[simp] theorem emit_wants (s : State) (x : Output) : (s.emit x).wants = s.wants := rfl
@[simp] theorem emit_msix (s : State) (x : Output) : (s.emit x).msix = s.msix := rfl
@[simp] theorem emit_vmask (s : State) (x : Output) : (s.emit x).vmask = s.vmask := rfl
@[simp] theorem emit_evq (s : State) (x : Output) : (s.emit x).evq = s.evq := rfl
@[simp] theorem emit_perst (s : State) (x : Output) : (s.emit x).perst = s.perst := rfl
@[simp] theorem emit_ringsUp (s : State) (x : Output) : (s.emit x).ringsUp = s.ringsUp := rfl
@[simp] theorem emit_snoops (s : State) (x : Output) : (s.emit x).snoops = s.snoops := rfl
@[simp] theorem emit_biWait (s : State) (x : Output) : (s.emit x).biWait = s.biWait := rfl
@[simp] theorem emit_hdmLost (s : State) (x : Output) : (s.emit x).hdmLost = s.hdmLost := rfl
@[simp] theorem emit_lost (s : State) (x : Output) : (s.emit x).lost = s.lost := rfl
@[simp] theorem emit_nextTag (s : State) (x : Output) : (s.emit x).nextTag = s.nextTag := rfl
@[simp] theorem emit_flows (s : State) (x : Output) : (s.emit x).flows = s.flows := rfl
@[simp] theorem emit_hostMem (s : State) (x : Output) : (s.emit x).hostMem = s.hostMem := rfl
@[simp] theorem emit_launchQ (s : State) (x : Output) : (s.emit x).launchQ = s.launchQ := rfl
@[simp] theorem emit_ev (s : State) (x : Output) : (s.emit x).ev = s.ev := rfl
@[simp] theorem emit_mirrorStep (s : State) (x : Output) : (s.emit x).mirrorStep = s.mirrorStep := rfl
@[simp] theorem emit_repairs (s : State) (x : Output) : (s.emit x).repairs = s.repairs := rfl
@[simp] theorem emit_xchkCount (s : State) (x : Output) : (s.emit x).xchkCount = s.xchkCount := rfl
@[simp] theorem emit_caps (s : State) (x : Output) : (s.emit x).caps = s.caps := rfl
@[simp] theorem emit_rowHits (s : State) (x : Output) : (s.emit x).rowHits = s.rowHits := rfl
@[simp] theorem emit_links (s : State) (x : Output) : (s.emit x).links = s.links := rfl
@[simp] theorem emit_lanes (s : State) (x : Output) : (s.emit x).lanes = s.lanes := rfl
@[simp] theorem emit_pllLol (s : State) (x : Output) : (s.emit x).pllLol = s.pllLol := rfl
@[simp] theorem emit_quadMis (s : State) (x : Output) : (s.emit x).quadMis = s.quadMis := rfl
@[simp] theorem emit_recs (s : State) (x : Output) : (s.emit x).recs = s.recs := rfl
@[simp] theorem emit_boots (s : State) (x : Output) : (s.emit x).boots = s.boots := rfl
@[simp] theorem emit_buf (s : State) (x : Output) : (s.emit x).buf = s.buf := rfl
@[simp] theorem emit_nextFrame (s : State) (x : Output) : (s.emit x).nextFrame = s.nextFrame := rfl
@[simp] theorem emit_nextJoin (s : State) (x : Output) : (s.emit x).nextJoin = s.nextJoin := rfl
@[simp] theorem emit_cells (s : State) (x : Output) : (s.emit x).cells = s.cells := rfl
@[simp] theorem emit_sharedUsed (s : State) (x : Output) : (s.emit x).sharedUsed = s.sharedUsed := rfl
@[simp] theorem emit_gminEff (s : State) (x : Output) : (s.emit x).gminEff = s.gminEff := rfl
@[simp] theorem emit_fences (s : State) (x : Output) : (s.emit x).fences = s.fences := rfl
@[simp] theorem emit_sched (s : State) (x : Output) : (s.emit x).sched = s.sched := rfl
@[simp] theorem emit_rsv (s : State) (x : Output) : (s.emit x).rsv = s.rsv := rfl
@[simp] theorem emit_deliv (s : State) (x : Output) : (s.emit x).deliv = s.deliv := rfl
@[simp] theorem emit_msgWait (s : State) (x : Output) : (s.emit x).msgWait = s.msgWait := rfl
@[simp] theorem emit_causes (s : State) (x : Output) : (s.emit x).causes = s.causes := rfl
@[simp] theorem emit_slots (s : State) (x : Output) : (s.emit x).slots = s.slots := rfl
@[simp] theorem emit_stuDrops (s : State) (x : Output) : (s.emit x).stuDrops = s.stuDrops := rfl
@[simp] theorem emit_kernelJob (s : State) (x : Output) : (s.emit x).kernelJob = s.kernelJob := rfl
@[simp] theorem emit_groups (s : State) (x : Output) : (s.emit x).groups = s.groups := rfl
@[simp] theorem emit_groupPend (s : State) (x : Output) : (s.emit x).groupPend = s.groupPend := rfl
@[simp] theorem emit_colls (s : State) (x : Output) : (s.emit x).colls = s.colls := rfl
@[simp] theorem emit_nextColl (s : State) (x : Output) : (s.emit x).nextColl = s.nextColl := rfl
@[simp] theorem emit_collWaits (s : State) (x : Output) : (s.emit x).collWaits = s.collWaits := rfl
@[simp] theorem emit_readies (s : State) (x : Output) : (s.emit x).readies = s.readies := rfl
@[simp] theorem emit_endJobs (s : State) (x : Output) : (s.emit x).endJobs = s.endJobs := rfl
@[simp] theorem emit_mg (s : State) (x : Output) : (s.emit x).mg = s.mg := rfl

/-! setCore. -/

@[simp] theorem setCore_pending (s : State) (n : Nat) (c : Core) : (s.setCore n c).pending = s.pending := rfl
@[simp] theorem setCore_clock (s : State) (n : Nat) (c : Core) : (s.setCore n c).clock = s.clock := rfl
@[simp] theorem setCore_freeCtr (s : State) (n : Nat) (c : Core) : (s.setCore n c).freeCtr = s.freeCtr := rfl
@[simp] theorem setCore_regs (s : State) (n : Nat) (c : Core) : (s.setCore n c).regs = s.regs := rfl
@[simp] theorem setCore_mem (s : State) (n : Nat) (c : Core) : (s.setCore n c).mem = s.mem := rfl
@[simp] theorem setCore_memBad (s : State) (n : Nat) (c : Core) : (s.setCore n c).memBad = s.memBad := rfl
@[simp] theorem setCore_gone (s : State) (n : Nat) (c : Core) : (s.setCore n c).gone = s.gone := rfl
@[simp] theorem setCore_kept (s : State) (n : Nat) (c : Core) : (s.setCore n c).kept = s.kept := rfl
@[simp] theorem setCore_corrected (s : State) (n : Nat) (c : Core) : (s.setCore n c).corrected = s.corrected := rfl
@[simp] theorem setCore_pools (s : State) (n : Nat) (c : Core) : (s.setCore n c).pools = s.pools := rfl
@[simp] theorem setCore_reqs (s : State) (n : Nat) (c : Core) : (s.setCore n c).reqs = s.reqs := rfl
@[simp] theorem setCore_unsent (s : State) (n : Nat) (c : Core) : (s.setCore n c).unsent = s.unsent := rfl
@[simp] theorem setCore_inj (s : State) (n : Nat) (c : Core) : (s.setCore n c).inj = s.inj := rfl
@[simp] theorem setCore_injHold (s : State) (n : Nat) (c : Core) : (s.setCore n c).injHold = s.injHold := rfl
@[simp] theorem setCore_works (s : State) (n : Nat) (c : Core) : (s.setCore n c).works = s.works := rfl
@[simp] theorem setCore_nextWork (s : State) (n : Nat) (c : Core) : (s.setCore n c).nextWork = s.nextWork := rfl
@[simp] theorem setCore_due (s : State) (n : Nat) (c : Core) : (s.setCore n c).due = s.due := rfl
@[simp] theorem setCore_sqs (s : State) (n : Nat) (c : Core) : (s.setCore n c).sqs = s.sqs := rfl
@[simp] theorem setCore_cqs (s : State) (n : Nat) (c : Core) : (s.setCore n c).cqs = s.cqs := rfl
@[simp] theorem setCore_evr (s : State) (n : Nat) (c : Core) : (s.setCore n c).evr = s.evr := rfl
@[simp] theorem setCore_lastSq (s : State) (n : Nat) (c : Core) : (s.setCore n c).lastSq = s.lastSq := rfl
@[simp] theorem setCore_lines (s : State) (n : Nat) (c : Core) : (s.setCore n c).lines = s.lines := rfl
@[simp] theorem setCore_wants (s : State) (n : Nat) (c : Core) : (s.setCore n c).wants = s.wants := rfl
@[simp] theorem setCore_msix (s : State) (n : Nat) (c : Core) : (s.setCore n c).msix = s.msix := rfl
@[simp] theorem setCore_vmask (s : State) (n : Nat) (c : Core) : (s.setCore n c).vmask = s.vmask := rfl
@[simp] theorem setCore_evq (s : State) (n : Nat) (c : Core) : (s.setCore n c).evq = s.evq := rfl
@[simp] theorem setCore_perst (s : State) (n : Nat) (c : Core) : (s.setCore n c).perst = s.perst := rfl
@[simp] theorem setCore_ringsUp (s : State) (n : Nat) (c : Core) : (s.setCore n c).ringsUp = s.ringsUp := rfl
@[simp] theorem setCore_snoops (s : State) (n : Nat) (c : Core) : (s.setCore n c).snoops = s.snoops := rfl
@[simp] theorem setCore_biWait (s : State) (n : Nat) (c : Core) : (s.setCore n c).biWait = s.biWait := rfl
@[simp] theorem setCore_hdmLost (s : State) (n : Nat) (c : Core) : (s.setCore n c).hdmLost = s.hdmLost := rfl
@[simp] theorem setCore_lost (s : State) (n : Nat) (c : Core) : (s.setCore n c).lost = s.lost := rfl
@[simp] theorem setCore_nextTag (s : State) (n : Nat) (c : Core) : (s.setCore n c).nextTag = s.nextTag := rfl
@[simp] theorem setCore_flows (s : State) (n : Nat) (c : Core) : (s.setCore n c).flows = s.flows := rfl
@[simp] theorem setCore_hostMem (s : State) (n : Nat) (c : Core) : (s.setCore n c).hostMem = s.hostMem := rfl
@[simp] theorem setCore_launchQ (s : State) (n : Nat) (c : Core) : (s.setCore n c).launchQ = s.launchQ := rfl
@[simp] theorem setCore_ev (s : State) (n : Nat) (c : Core) : (s.setCore n c).ev = s.ev := rfl
@[simp] theorem setCore_mirrorStep (s : State) (n : Nat) (c : Core) : (s.setCore n c).mirrorStep = s.mirrorStep := rfl
@[simp] theorem setCore_repairs (s : State) (n : Nat) (c : Core) : (s.setCore n c).repairs = s.repairs := rfl
@[simp] theorem setCore_xchkCount (s : State) (n : Nat) (c : Core) : (s.setCore n c).xchkCount = s.xchkCount := rfl
@[simp] theorem setCore_caps (s : State) (n : Nat) (c : Core) : (s.setCore n c).caps = s.caps := rfl
@[simp] theorem setCore_rowHits (s : State) (n : Nat) (c : Core) : (s.setCore n c).rowHits = s.rowHits := rfl
@[simp] theorem setCore_links (s : State) (n : Nat) (c : Core) : (s.setCore n c).links = s.links := rfl
@[simp] theorem setCore_lanes (s : State) (n : Nat) (c : Core) : (s.setCore n c).lanes = s.lanes := rfl
@[simp] theorem setCore_pllLol (s : State) (n : Nat) (c : Core) : (s.setCore n c).pllLol = s.pllLol := rfl
@[simp] theorem setCore_quadMis (s : State) (n : Nat) (c : Core) : (s.setCore n c).quadMis = s.quadMis := rfl
@[simp] theorem setCore_recs (s : State) (n : Nat) (c : Core) : (s.setCore n c).recs = s.recs := rfl
@[simp] theorem setCore_boots (s : State) (n : Nat) (c : Core) : (s.setCore n c).boots = s.boots := rfl
@[simp] theorem setCore_buf (s : State) (n : Nat) (c : Core) : (s.setCore n c).buf = s.buf := rfl
@[simp] theorem setCore_nextFrame (s : State) (n : Nat) (c : Core) : (s.setCore n c).nextFrame = s.nextFrame := rfl
@[simp] theorem setCore_nextJoin (s : State) (n : Nat) (c : Core) : (s.setCore n c).nextJoin = s.nextJoin := rfl
@[simp] theorem setCore_cells (s : State) (n : Nat) (c : Core) : (s.setCore n c).cells = s.cells := rfl
@[simp] theorem setCore_sharedUsed (s : State) (n : Nat) (c : Core) : (s.setCore n c).sharedUsed = s.sharedUsed := rfl
@[simp] theorem setCore_gminEff (s : State) (n : Nat) (c : Core) : (s.setCore n c).gminEff = s.gminEff := rfl
@[simp] theorem setCore_fences (s : State) (n : Nat) (c : Core) : (s.setCore n c).fences = s.fences := rfl
@[simp] theorem setCore_sched (s : State) (n : Nat) (c : Core) : (s.setCore n c).sched = s.sched := rfl
@[simp] theorem setCore_rsv (s : State) (n : Nat) (c : Core) : (s.setCore n c).rsv = s.rsv := rfl
@[simp] theorem setCore_deliv (s : State) (n : Nat) (c : Core) : (s.setCore n c).deliv = s.deliv := rfl
@[simp] theorem setCore_msgWait (s : State) (n : Nat) (c : Core) : (s.setCore n c).msgWait = s.msgWait := rfl
@[simp] theorem setCore_causes (s : State) (n : Nat) (c : Core) : (s.setCore n c).causes = s.causes := rfl
@[simp] theorem setCore_slots (s : State) (n : Nat) (c : Core) : (s.setCore n c).slots = s.slots := rfl
@[simp] theorem setCore_stuDrops (s : State) (n : Nat) (c : Core) : (s.setCore n c).stuDrops = s.stuDrops := rfl
@[simp] theorem setCore_kernelJob (s : State) (n : Nat) (c : Core) : (s.setCore n c).kernelJob = s.kernelJob := rfl
@[simp] theorem setCore_groups (s : State) (n : Nat) (c : Core) : (s.setCore n c).groups = s.groups := rfl
@[simp] theorem setCore_groupPend (s : State) (n : Nat) (c : Core) : (s.setCore n c).groupPend = s.groupPend := rfl
@[simp] theorem setCore_colls (s : State) (n : Nat) (c : Core) : (s.setCore n c).colls = s.colls := rfl
@[simp] theorem setCore_nextColl (s : State) (n : Nat) (c : Core) : (s.setCore n c).nextColl = s.nextColl := rfl
@[simp] theorem setCore_collWaits (s : State) (n : Nat) (c : Core) : (s.setCore n c).collWaits = s.collWaits := rfl
@[simp] theorem setCore_readies (s : State) (n : Nat) (c : Core) : (s.setCore n c).readies = s.readies := rfl
@[simp] theorem setCore_endJobs (s : State) (n : Nat) (c : Core) : (s.setCore n c).endJobs = s.endJobs := rfl
@[simp] theorem setCore_mg (s : State) (n : Nat) (c : Core) : (s.setCore n c).mg = s.mg := rfl
@[simp] theorem setCore_out (s : State) (n : Nat) (c : Core) : (s.setCore n c).out = s.out := rfl

/-! setMg. -/

@[simp] theorem setMg_pending (s : State) (f : Mgmt → Mgmt) : (s.setMg f).pending = s.pending := rfl
@[simp] theorem setMg_clock (s : State) (f : Mgmt → Mgmt) : (s.setMg f).clock = s.clock := rfl
@[simp] theorem setMg_freeCtr (s : State) (f : Mgmt → Mgmt) : (s.setMg f).freeCtr = s.freeCtr := rfl
@[simp] theorem setMg_regs (s : State) (f : Mgmt → Mgmt) : (s.setMg f).regs = s.regs := rfl
@[simp] theorem setMg_mem (s : State) (f : Mgmt → Mgmt) : (s.setMg f).mem = s.mem := rfl
@[simp] theorem setMg_memBad (s : State) (f : Mgmt → Mgmt) : (s.setMg f).memBad = s.memBad := rfl
@[simp] theorem setMg_gone (s : State) (f : Mgmt → Mgmt) : (s.setMg f).gone = s.gone := rfl
@[simp] theorem setMg_kept (s : State) (f : Mgmt → Mgmt) : (s.setMg f).kept = s.kept := rfl
@[simp] theorem setMg_corrected (s : State) (f : Mgmt → Mgmt) : (s.setMg f).corrected = s.corrected := rfl
@[simp] theorem setMg_cores (s : State) (f : Mgmt → Mgmt) : (s.setMg f).cores = s.cores := rfl
@[simp] theorem setMg_pools (s : State) (f : Mgmt → Mgmt) : (s.setMg f).pools = s.pools := rfl
@[simp] theorem setMg_reqs (s : State) (f : Mgmt → Mgmt) : (s.setMg f).reqs = s.reqs := rfl
@[simp] theorem setMg_unsent (s : State) (f : Mgmt → Mgmt) : (s.setMg f).unsent = s.unsent := rfl
@[simp] theorem setMg_inj (s : State) (f : Mgmt → Mgmt) : (s.setMg f).inj = s.inj := rfl
@[simp] theorem setMg_injHold (s : State) (f : Mgmt → Mgmt) : (s.setMg f).injHold = s.injHold := rfl
@[simp] theorem setMg_works (s : State) (f : Mgmt → Mgmt) : (s.setMg f).works = s.works := rfl
@[simp] theorem setMg_nextWork (s : State) (f : Mgmt → Mgmt) : (s.setMg f).nextWork = s.nextWork := rfl
@[simp] theorem setMg_due (s : State) (f : Mgmt → Mgmt) : (s.setMg f).due = s.due := rfl
@[simp] theorem setMg_sqs (s : State) (f : Mgmt → Mgmt) : (s.setMg f).sqs = s.sqs := rfl
@[simp] theorem setMg_cqs (s : State) (f : Mgmt → Mgmt) : (s.setMg f).cqs = s.cqs := rfl
@[simp] theorem setMg_evr (s : State) (f : Mgmt → Mgmt) : (s.setMg f).evr = s.evr := rfl
@[simp] theorem setMg_lastSq (s : State) (f : Mgmt → Mgmt) : (s.setMg f).lastSq = s.lastSq := rfl
@[simp] theorem setMg_lines (s : State) (f : Mgmt → Mgmt) : (s.setMg f).lines = s.lines := rfl
@[simp] theorem setMg_wants (s : State) (f : Mgmt → Mgmt) : (s.setMg f).wants = s.wants := rfl
@[simp] theorem setMg_msix (s : State) (f : Mgmt → Mgmt) : (s.setMg f).msix = s.msix := rfl
@[simp] theorem setMg_vmask (s : State) (f : Mgmt → Mgmt) : (s.setMg f).vmask = s.vmask := rfl
@[simp] theorem setMg_evq (s : State) (f : Mgmt → Mgmt) : (s.setMg f).evq = s.evq := rfl
@[simp] theorem setMg_perst (s : State) (f : Mgmt → Mgmt) : (s.setMg f).perst = s.perst := rfl
@[simp] theorem setMg_ringsUp (s : State) (f : Mgmt → Mgmt) : (s.setMg f).ringsUp = s.ringsUp := rfl
@[simp] theorem setMg_snoops (s : State) (f : Mgmt → Mgmt) : (s.setMg f).snoops = s.snoops := rfl
@[simp] theorem setMg_biWait (s : State) (f : Mgmt → Mgmt) : (s.setMg f).biWait = s.biWait := rfl
@[simp] theorem setMg_hdmLost (s : State) (f : Mgmt → Mgmt) : (s.setMg f).hdmLost = s.hdmLost := rfl
@[simp] theorem setMg_lost (s : State) (f : Mgmt → Mgmt) : (s.setMg f).lost = s.lost := rfl
@[simp] theorem setMg_nextTag (s : State) (f : Mgmt → Mgmt) : (s.setMg f).nextTag = s.nextTag := rfl
@[simp] theorem setMg_flows (s : State) (f : Mgmt → Mgmt) : (s.setMg f).flows = s.flows := rfl
@[simp] theorem setMg_hostMem (s : State) (f : Mgmt → Mgmt) : (s.setMg f).hostMem = s.hostMem := rfl
@[simp] theorem setMg_launchQ (s : State) (f : Mgmt → Mgmt) : (s.setMg f).launchQ = s.launchQ := rfl
@[simp] theorem setMg_ev (s : State) (f : Mgmt → Mgmt) : (s.setMg f).ev = s.ev := rfl
@[simp] theorem setMg_mirrorStep (s : State) (f : Mgmt → Mgmt) : (s.setMg f).mirrorStep = s.mirrorStep := rfl
@[simp] theorem setMg_repairs (s : State) (f : Mgmt → Mgmt) : (s.setMg f).repairs = s.repairs := rfl
@[simp] theorem setMg_xchkCount (s : State) (f : Mgmt → Mgmt) : (s.setMg f).xchkCount = s.xchkCount := rfl
@[simp] theorem setMg_caps (s : State) (f : Mgmt → Mgmt) : (s.setMg f).caps = s.caps := rfl
@[simp] theorem setMg_rowHits (s : State) (f : Mgmt → Mgmt) : (s.setMg f).rowHits = s.rowHits := rfl
@[simp] theorem setMg_links (s : State) (f : Mgmt → Mgmt) : (s.setMg f).links = s.links := rfl
@[simp] theorem setMg_lanes (s : State) (f : Mgmt → Mgmt) : (s.setMg f).lanes = s.lanes := rfl
@[simp] theorem setMg_pllLol (s : State) (f : Mgmt → Mgmt) : (s.setMg f).pllLol = s.pllLol := rfl
@[simp] theorem setMg_quadMis (s : State) (f : Mgmt → Mgmt) : (s.setMg f).quadMis = s.quadMis := rfl
@[simp] theorem setMg_recs (s : State) (f : Mgmt → Mgmt) : (s.setMg f).recs = s.recs := rfl
@[simp] theorem setMg_boots (s : State) (f : Mgmt → Mgmt) : (s.setMg f).boots = s.boots := rfl
@[simp] theorem setMg_buf (s : State) (f : Mgmt → Mgmt) : (s.setMg f).buf = s.buf := rfl
@[simp] theorem setMg_nextFrame (s : State) (f : Mgmt → Mgmt) : (s.setMg f).nextFrame = s.nextFrame := rfl
@[simp] theorem setMg_nextJoin (s : State) (f : Mgmt → Mgmt) : (s.setMg f).nextJoin = s.nextJoin := rfl
@[simp] theorem setMg_cells (s : State) (f : Mgmt → Mgmt) : (s.setMg f).cells = s.cells := rfl
@[simp] theorem setMg_sharedUsed (s : State) (f : Mgmt → Mgmt) : (s.setMg f).sharedUsed = s.sharedUsed := rfl
@[simp] theorem setMg_gminEff (s : State) (f : Mgmt → Mgmt) : (s.setMg f).gminEff = s.gminEff := rfl
@[simp] theorem setMg_fences (s : State) (f : Mgmt → Mgmt) : (s.setMg f).fences = s.fences := rfl
@[simp] theorem setMg_sched (s : State) (f : Mgmt → Mgmt) : (s.setMg f).sched = s.sched := rfl
@[simp] theorem setMg_rsv (s : State) (f : Mgmt → Mgmt) : (s.setMg f).rsv = s.rsv := rfl
@[simp] theorem setMg_deliv (s : State) (f : Mgmt → Mgmt) : (s.setMg f).deliv = s.deliv := rfl
@[simp] theorem setMg_msgWait (s : State) (f : Mgmt → Mgmt) : (s.setMg f).msgWait = s.msgWait := rfl
@[simp] theorem setMg_causes (s : State) (f : Mgmt → Mgmt) : (s.setMg f).causes = s.causes := rfl
@[simp] theorem setMg_slots (s : State) (f : Mgmt → Mgmt) : (s.setMg f).slots = s.slots := rfl
@[simp] theorem setMg_stuDrops (s : State) (f : Mgmt → Mgmt) : (s.setMg f).stuDrops = s.stuDrops := rfl
@[simp] theorem setMg_kernelJob (s : State) (f : Mgmt → Mgmt) : (s.setMg f).kernelJob = s.kernelJob := rfl
@[simp] theorem setMg_groups (s : State) (f : Mgmt → Mgmt) : (s.setMg f).groups = s.groups := rfl
@[simp] theorem setMg_groupPend (s : State) (f : Mgmt → Mgmt) : (s.setMg f).groupPend = s.groupPend := rfl
@[simp] theorem setMg_colls (s : State) (f : Mgmt → Mgmt) : (s.setMg f).colls = s.colls := rfl
@[simp] theorem setMg_nextColl (s : State) (f : Mgmt → Mgmt) : (s.setMg f).nextColl = s.nextColl := rfl
@[simp] theorem setMg_collWaits (s : State) (f : Mgmt → Mgmt) : (s.setMg f).collWaits = s.collWaits := rfl
@[simp] theorem setMg_readies (s : State) (f : Mgmt → Mgmt) : (s.setMg f).readies = s.readies := rfl
@[simp] theorem setMg_endJobs (s : State) (f : Mgmt → Mgmt) : (s.setMg f).endJobs = s.endJobs := rfl
@[simp] theorem setMg_out (s : State) (f : Mgmt → Mgmt) : (s.setMg f).out = s.out := rfl

/-! setPool. -/

@[simp] theorem setPool_pending (s : State) (i : Nat) (p : Pool) : (s.setPool i p).pending = s.pending := rfl
@[simp] theorem setPool_clock (s : State) (i : Nat) (p : Pool) : (s.setPool i p).clock = s.clock := rfl
@[simp] theorem setPool_freeCtr (s : State) (i : Nat) (p : Pool) : (s.setPool i p).freeCtr = s.freeCtr := rfl
@[simp] theorem setPool_regs (s : State) (i : Nat) (p : Pool) : (s.setPool i p).regs = s.regs := rfl
@[simp] theorem setPool_mem (s : State) (i : Nat) (p : Pool) : (s.setPool i p).mem = s.mem := rfl
@[simp] theorem setPool_memBad (s : State) (i : Nat) (p : Pool) : (s.setPool i p).memBad = s.memBad := rfl
@[simp] theorem setPool_gone (s : State) (i : Nat) (p : Pool) : (s.setPool i p).gone = s.gone := rfl
@[simp] theorem setPool_kept (s : State) (i : Nat) (p : Pool) : (s.setPool i p).kept = s.kept := rfl
@[simp] theorem setPool_corrected (s : State) (i : Nat) (p : Pool) : (s.setPool i p).corrected = s.corrected := rfl
@[simp] theorem setPool_cores (s : State) (i : Nat) (p : Pool) : (s.setPool i p).cores = s.cores := rfl
@[simp] theorem setPool_reqs (s : State) (i : Nat) (p : Pool) : (s.setPool i p).reqs = s.reqs := rfl
@[simp] theorem setPool_unsent (s : State) (i : Nat) (p : Pool) : (s.setPool i p).unsent = s.unsent := rfl
@[simp] theorem setPool_inj (s : State) (i : Nat) (p : Pool) : (s.setPool i p).inj = s.inj := rfl
@[simp] theorem setPool_injHold (s : State) (i : Nat) (p : Pool) : (s.setPool i p).injHold = s.injHold := rfl
@[simp] theorem setPool_works (s : State) (i : Nat) (p : Pool) : (s.setPool i p).works = s.works := rfl
@[simp] theorem setPool_nextWork (s : State) (i : Nat) (p : Pool) : (s.setPool i p).nextWork = s.nextWork := rfl
@[simp] theorem setPool_due (s : State) (i : Nat) (p : Pool) : (s.setPool i p).due = s.due := rfl
@[simp] theorem setPool_sqs (s : State) (i : Nat) (p : Pool) : (s.setPool i p).sqs = s.sqs := rfl
@[simp] theorem setPool_cqs (s : State) (i : Nat) (p : Pool) : (s.setPool i p).cqs = s.cqs := rfl
@[simp] theorem setPool_evr (s : State) (i : Nat) (p : Pool) : (s.setPool i p).evr = s.evr := rfl
@[simp] theorem setPool_lastSq (s : State) (i : Nat) (p : Pool) : (s.setPool i p).lastSq = s.lastSq := rfl
@[simp] theorem setPool_lines (s : State) (i : Nat) (p : Pool) : (s.setPool i p).lines = s.lines := rfl
@[simp] theorem setPool_wants (s : State) (i : Nat) (p : Pool) : (s.setPool i p).wants = s.wants := rfl
@[simp] theorem setPool_msix (s : State) (i : Nat) (p : Pool) : (s.setPool i p).msix = s.msix := rfl
@[simp] theorem setPool_vmask (s : State) (i : Nat) (p : Pool) : (s.setPool i p).vmask = s.vmask := rfl
@[simp] theorem setPool_evq (s : State) (i : Nat) (p : Pool) : (s.setPool i p).evq = s.evq := rfl
@[simp] theorem setPool_perst (s : State) (i : Nat) (p : Pool) : (s.setPool i p).perst = s.perst := rfl
@[simp] theorem setPool_ringsUp (s : State) (i : Nat) (p : Pool) : (s.setPool i p).ringsUp = s.ringsUp := rfl
@[simp] theorem setPool_snoops (s : State) (i : Nat) (p : Pool) : (s.setPool i p).snoops = s.snoops := rfl
@[simp] theorem setPool_biWait (s : State) (i : Nat) (p : Pool) : (s.setPool i p).biWait = s.biWait := rfl
@[simp] theorem setPool_hdmLost (s : State) (i : Nat) (p : Pool) : (s.setPool i p).hdmLost = s.hdmLost := rfl
@[simp] theorem setPool_lost (s : State) (i : Nat) (p : Pool) : (s.setPool i p).lost = s.lost := rfl
@[simp] theorem setPool_nextTag (s : State) (i : Nat) (p : Pool) : (s.setPool i p).nextTag = s.nextTag := rfl
@[simp] theorem setPool_flows (s : State) (i : Nat) (p : Pool) : (s.setPool i p).flows = s.flows := rfl
@[simp] theorem setPool_hostMem (s : State) (i : Nat) (p : Pool) : (s.setPool i p).hostMem = s.hostMem := rfl
@[simp] theorem setPool_launchQ (s : State) (i : Nat) (p : Pool) : (s.setPool i p).launchQ = s.launchQ := rfl
@[simp] theorem setPool_ev (s : State) (i : Nat) (p : Pool) : (s.setPool i p).ev = s.ev := rfl
@[simp] theorem setPool_mirrorStep (s : State) (i : Nat) (p : Pool) : (s.setPool i p).mirrorStep = s.mirrorStep := rfl
@[simp] theorem setPool_repairs (s : State) (i : Nat) (p : Pool) : (s.setPool i p).repairs = s.repairs := rfl
@[simp] theorem setPool_xchkCount (s : State) (i : Nat) (p : Pool) : (s.setPool i p).xchkCount = s.xchkCount := rfl
@[simp] theorem setPool_caps (s : State) (i : Nat) (p : Pool) : (s.setPool i p).caps = s.caps := rfl
@[simp] theorem setPool_rowHits (s : State) (i : Nat) (p : Pool) : (s.setPool i p).rowHits = s.rowHits := rfl
@[simp] theorem setPool_links (s : State) (i : Nat) (p : Pool) : (s.setPool i p).links = s.links := rfl
@[simp] theorem setPool_lanes (s : State) (i : Nat) (p : Pool) : (s.setPool i p).lanes = s.lanes := rfl
@[simp] theorem setPool_pllLol (s : State) (i : Nat) (p : Pool) : (s.setPool i p).pllLol = s.pllLol := rfl
@[simp] theorem setPool_quadMis (s : State) (i : Nat) (p : Pool) : (s.setPool i p).quadMis = s.quadMis := rfl
@[simp] theorem setPool_recs (s : State) (i : Nat) (p : Pool) : (s.setPool i p).recs = s.recs := rfl
@[simp] theorem setPool_boots (s : State) (i : Nat) (p : Pool) : (s.setPool i p).boots = s.boots := rfl
@[simp] theorem setPool_buf (s : State) (i : Nat) (p : Pool) : (s.setPool i p).buf = s.buf := rfl
@[simp] theorem setPool_nextFrame (s : State) (i : Nat) (p : Pool) : (s.setPool i p).nextFrame = s.nextFrame := rfl
@[simp] theorem setPool_nextJoin (s : State) (i : Nat) (p : Pool) : (s.setPool i p).nextJoin = s.nextJoin := rfl
@[simp] theorem setPool_cells (s : State) (i : Nat) (p : Pool) : (s.setPool i p).cells = s.cells := rfl
@[simp] theorem setPool_sharedUsed (s : State) (i : Nat) (p : Pool) : (s.setPool i p).sharedUsed = s.sharedUsed := rfl
@[simp] theorem setPool_gminEff (s : State) (i : Nat) (p : Pool) : (s.setPool i p).gminEff = s.gminEff := rfl
@[simp] theorem setPool_fences (s : State) (i : Nat) (p : Pool) : (s.setPool i p).fences = s.fences := rfl
@[simp] theorem setPool_sched (s : State) (i : Nat) (p : Pool) : (s.setPool i p).sched = s.sched := rfl
@[simp] theorem setPool_rsv (s : State) (i : Nat) (p : Pool) : (s.setPool i p).rsv = s.rsv := rfl
@[simp] theorem setPool_deliv (s : State) (i : Nat) (p : Pool) : (s.setPool i p).deliv = s.deliv := rfl
@[simp] theorem setPool_msgWait (s : State) (i : Nat) (p : Pool) : (s.setPool i p).msgWait = s.msgWait := rfl
@[simp] theorem setPool_causes (s : State) (i : Nat) (p : Pool) : (s.setPool i p).causes = s.causes := rfl
@[simp] theorem setPool_slots (s : State) (i : Nat) (p : Pool) : (s.setPool i p).slots = s.slots := rfl
@[simp] theorem setPool_stuDrops (s : State) (i : Nat) (p : Pool) : (s.setPool i p).stuDrops = s.stuDrops := rfl
@[simp] theorem setPool_kernelJob (s : State) (i : Nat) (p : Pool) : (s.setPool i p).kernelJob = s.kernelJob := rfl
@[simp] theorem setPool_groups (s : State) (i : Nat) (p : Pool) : (s.setPool i p).groups = s.groups := rfl
@[simp] theorem setPool_groupPend (s : State) (i : Nat) (p : Pool) : (s.setPool i p).groupPend = s.groupPend := rfl
@[simp] theorem setPool_colls (s : State) (i : Nat) (p : Pool) : (s.setPool i p).colls = s.colls := rfl
@[simp] theorem setPool_nextColl (s : State) (i : Nat) (p : Pool) : (s.setPool i p).nextColl = s.nextColl := rfl
@[simp] theorem setPool_collWaits (s : State) (i : Nat) (p : Pool) : (s.setPool i p).collWaits = s.collWaits := rfl
@[simp] theorem setPool_readies (s : State) (i : Nat) (p : Pool) : (s.setPool i p).readies = s.readies := rfl
@[simp] theorem setPool_endJobs (s : State) (i : Nat) (p : Pool) : (s.setPool i p).endJobs = s.endJobs := rfl
@[simp] theorem setPool_mg (s : State) (i : Nat) (p : Pool) : (s.setPool i p).mg = s.mg := rfl
@[simp] theorem setPool_out (s : State) (i : Nat) (p : Pool) : (s.setPool i p).out = s.out := rfl

/-! setFlow. -/

@[simp] theorem setFlow_pending (s : State) (k : Nat) (v : Flow) : (s.setFlow k v).pending = s.pending := rfl
@[simp] theorem setFlow_clock (s : State) (k : Nat) (v : Flow) : (s.setFlow k v).clock = s.clock := rfl
@[simp] theorem setFlow_freeCtr (s : State) (k : Nat) (v : Flow) : (s.setFlow k v).freeCtr = s.freeCtr := rfl
@[simp] theorem setFlow_regs (s : State) (k : Nat) (v : Flow) : (s.setFlow k v).regs = s.regs := rfl
@[simp] theorem setFlow_mem (s : State) (k : Nat) (v : Flow) : (s.setFlow k v).mem = s.mem := rfl
@[simp] theorem setFlow_memBad (s : State) (k : Nat) (v : Flow) : (s.setFlow k v).memBad = s.memBad := rfl
@[simp] theorem setFlow_gone (s : State) (k : Nat) (v : Flow) : (s.setFlow k v).gone = s.gone := rfl
@[simp] theorem setFlow_kept (s : State) (k : Nat) (v : Flow) : (s.setFlow k v).kept = s.kept := rfl
@[simp] theorem setFlow_corrected (s : State) (k : Nat) (v : Flow) : (s.setFlow k v).corrected = s.corrected := rfl
@[simp] theorem setFlow_cores (s : State) (k : Nat) (v : Flow) : (s.setFlow k v).cores = s.cores := rfl
@[simp] theorem setFlow_pools (s : State) (k : Nat) (v : Flow) : (s.setFlow k v).pools = s.pools := rfl
@[simp] theorem setFlow_reqs (s : State) (k : Nat) (v : Flow) : (s.setFlow k v).reqs = s.reqs := rfl
@[simp] theorem setFlow_unsent (s : State) (k : Nat) (v : Flow) : (s.setFlow k v).unsent = s.unsent := rfl
@[simp] theorem setFlow_inj (s : State) (k : Nat) (v : Flow) : (s.setFlow k v).inj = s.inj := rfl
@[simp] theorem setFlow_injHold (s : State) (k : Nat) (v : Flow) : (s.setFlow k v).injHold = s.injHold := rfl
@[simp] theorem setFlow_works (s : State) (k : Nat) (v : Flow) : (s.setFlow k v).works = s.works := rfl
@[simp] theorem setFlow_nextWork (s : State) (k : Nat) (v : Flow) : (s.setFlow k v).nextWork = s.nextWork := rfl
@[simp] theorem setFlow_due (s : State) (k : Nat) (v : Flow) : (s.setFlow k v).due = s.due := rfl
@[simp] theorem setFlow_sqs (s : State) (k : Nat) (v : Flow) : (s.setFlow k v).sqs = s.sqs := rfl
@[simp] theorem setFlow_cqs (s : State) (k : Nat) (v : Flow) : (s.setFlow k v).cqs = s.cqs := rfl
@[simp] theorem setFlow_evr (s : State) (k : Nat) (v : Flow) : (s.setFlow k v).evr = s.evr := rfl
@[simp] theorem setFlow_lastSq (s : State) (k : Nat) (v : Flow) : (s.setFlow k v).lastSq = s.lastSq := rfl
@[simp] theorem setFlow_lines (s : State) (k : Nat) (v : Flow) : (s.setFlow k v).lines = s.lines := rfl
@[simp] theorem setFlow_wants (s : State) (k : Nat) (v : Flow) : (s.setFlow k v).wants = s.wants := rfl
@[simp] theorem setFlow_msix (s : State) (k : Nat) (v : Flow) : (s.setFlow k v).msix = s.msix := rfl
@[simp] theorem setFlow_vmask (s : State) (k : Nat) (v : Flow) : (s.setFlow k v).vmask = s.vmask := rfl
@[simp] theorem setFlow_evq (s : State) (k : Nat) (v : Flow) : (s.setFlow k v).evq = s.evq := rfl
@[simp] theorem setFlow_perst (s : State) (k : Nat) (v : Flow) : (s.setFlow k v).perst = s.perst := rfl
@[simp] theorem setFlow_ringsUp (s : State) (k : Nat) (v : Flow) : (s.setFlow k v).ringsUp = s.ringsUp := rfl
@[simp] theorem setFlow_snoops (s : State) (k : Nat) (v : Flow) : (s.setFlow k v).snoops = s.snoops := rfl
@[simp] theorem setFlow_biWait (s : State) (k : Nat) (v : Flow) : (s.setFlow k v).biWait = s.biWait := rfl
@[simp] theorem setFlow_hdmLost (s : State) (k : Nat) (v : Flow) : (s.setFlow k v).hdmLost = s.hdmLost := rfl
@[simp] theorem setFlow_lost (s : State) (k : Nat) (v : Flow) : (s.setFlow k v).lost = s.lost := rfl
@[simp] theorem setFlow_nextTag (s : State) (k : Nat) (v : Flow) : (s.setFlow k v).nextTag = s.nextTag := rfl
@[simp] theorem setFlow_hostMem (s : State) (k : Nat) (v : Flow) : (s.setFlow k v).hostMem = s.hostMem := rfl
@[simp] theorem setFlow_launchQ (s : State) (k : Nat) (v : Flow) : (s.setFlow k v).launchQ = s.launchQ := rfl
@[simp] theorem setFlow_ev (s : State) (k : Nat) (v : Flow) : (s.setFlow k v).ev = s.ev := rfl
@[simp] theorem setFlow_mirrorStep (s : State) (k : Nat) (v : Flow) : (s.setFlow k v).mirrorStep = s.mirrorStep := rfl
@[simp] theorem setFlow_repairs (s : State) (k : Nat) (v : Flow) : (s.setFlow k v).repairs = s.repairs := rfl
@[simp] theorem setFlow_xchkCount (s : State) (k : Nat) (v : Flow) : (s.setFlow k v).xchkCount = s.xchkCount := rfl
@[simp] theorem setFlow_caps (s : State) (k : Nat) (v : Flow) : (s.setFlow k v).caps = s.caps := rfl
@[simp] theorem setFlow_rowHits (s : State) (k : Nat) (v : Flow) : (s.setFlow k v).rowHits = s.rowHits := rfl
@[simp] theorem setFlow_links (s : State) (k : Nat) (v : Flow) : (s.setFlow k v).links = s.links := rfl
@[simp] theorem setFlow_lanes (s : State) (k : Nat) (v : Flow) : (s.setFlow k v).lanes = s.lanes := rfl
@[simp] theorem setFlow_pllLol (s : State) (k : Nat) (v : Flow) : (s.setFlow k v).pllLol = s.pllLol := rfl
@[simp] theorem setFlow_quadMis (s : State) (k : Nat) (v : Flow) : (s.setFlow k v).quadMis = s.quadMis := rfl
@[simp] theorem setFlow_recs (s : State) (k : Nat) (v : Flow) : (s.setFlow k v).recs = s.recs := rfl
@[simp] theorem setFlow_boots (s : State) (k : Nat) (v : Flow) : (s.setFlow k v).boots = s.boots := rfl
@[simp] theorem setFlow_buf (s : State) (k : Nat) (v : Flow) : (s.setFlow k v).buf = s.buf := rfl
@[simp] theorem setFlow_nextFrame (s : State) (k : Nat) (v : Flow) : (s.setFlow k v).nextFrame = s.nextFrame := rfl
@[simp] theorem setFlow_nextJoin (s : State) (k : Nat) (v : Flow) : (s.setFlow k v).nextJoin = s.nextJoin := rfl
@[simp] theorem setFlow_cells (s : State) (k : Nat) (v : Flow) : (s.setFlow k v).cells = s.cells := rfl
@[simp] theorem setFlow_sharedUsed (s : State) (k : Nat) (v : Flow) : (s.setFlow k v).sharedUsed = s.sharedUsed := rfl
@[simp] theorem setFlow_gminEff (s : State) (k : Nat) (v : Flow) : (s.setFlow k v).gminEff = s.gminEff := rfl
@[simp] theorem setFlow_fences (s : State) (k : Nat) (v : Flow) : (s.setFlow k v).fences = s.fences := rfl
@[simp] theorem setFlow_sched (s : State) (k : Nat) (v : Flow) : (s.setFlow k v).sched = s.sched := rfl
@[simp] theorem setFlow_rsv (s : State) (k : Nat) (v : Flow) : (s.setFlow k v).rsv = s.rsv := rfl
@[simp] theorem setFlow_deliv (s : State) (k : Nat) (v : Flow) : (s.setFlow k v).deliv = s.deliv := rfl
@[simp] theorem setFlow_msgWait (s : State) (k : Nat) (v : Flow) : (s.setFlow k v).msgWait = s.msgWait := rfl
@[simp] theorem setFlow_causes (s : State) (k : Nat) (v : Flow) : (s.setFlow k v).causes = s.causes := rfl
@[simp] theorem setFlow_slots (s : State) (k : Nat) (v : Flow) : (s.setFlow k v).slots = s.slots := rfl
@[simp] theorem setFlow_stuDrops (s : State) (k : Nat) (v : Flow) : (s.setFlow k v).stuDrops = s.stuDrops := rfl
@[simp] theorem setFlow_kernelJob (s : State) (k : Nat) (v : Flow) : (s.setFlow k v).kernelJob = s.kernelJob := rfl
@[simp] theorem setFlow_groups (s : State) (k : Nat) (v : Flow) : (s.setFlow k v).groups = s.groups := rfl
@[simp] theorem setFlow_groupPend (s : State) (k : Nat) (v : Flow) : (s.setFlow k v).groupPend = s.groupPend := rfl
@[simp] theorem setFlow_colls (s : State) (k : Nat) (v : Flow) : (s.setFlow k v).colls = s.colls := rfl
@[simp] theorem setFlow_nextColl (s : State) (k : Nat) (v : Flow) : (s.setFlow k v).nextColl = s.nextColl := rfl
@[simp] theorem setFlow_collWaits (s : State) (k : Nat) (v : Flow) : (s.setFlow k v).collWaits = s.collWaits := rfl
@[simp] theorem setFlow_readies (s : State) (k : Nat) (v : Flow) : (s.setFlow k v).readies = s.readies := rfl
@[simp] theorem setFlow_endJobs (s : State) (k : Nat) (v : Flow) : (s.setFlow k v).endJobs = s.endJobs := rfl
@[simp] theorem setFlow_mg (s : State) (k : Nat) (v : Flow) : (s.setFlow k v).mg = s.mg := rfl
@[simp] theorem setFlow_out (s : State) (k : Nat) (v : Flow) : (s.setFlow k v).out = s.out := rfl

/-! setLink. -/

@[simp] theorem setLink_pending (s : State) (p : Nat) (l : Link) : (s.setLink p l).pending = s.pending := rfl
@[simp] theorem setLink_clock (s : State) (p : Nat) (l : Link) : (s.setLink p l).clock = s.clock := rfl
@[simp] theorem setLink_freeCtr (s : State) (p : Nat) (l : Link) : (s.setLink p l).freeCtr = s.freeCtr := rfl
@[simp] theorem setLink_regs (s : State) (p : Nat) (l : Link) : (s.setLink p l).regs = s.regs := rfl
@[simp] theorem setLink_mem (s : State) (p : Nat) (l : Link) : (s.setLink p l).mem = s.mem := rfl
@[simp] theorem setLink_memBad (s : State) (p : Nat) (l : Link) : (s.setLink p l).memBad = s.memBad := rfl
@[simp] theorem setLink_gone (s : State) (p : Nat) (l : Link) : (s.setLink p l).gone = s.gone := rfl
@[simp] theorem setLink_kept (s : State) (p : Nat) (l : Link) : (s.setLink p l).kept = s.kept := rfl
@[simp] theorem setLink_corrected (s : State) (p : Nat) (l : Link) : (s.setLink p l).corrected = s.corrected := rfl
@[simp] theorem setLink_cores (s : State) (p : Nat) (l : Link) : (s.setLink p l).cores = s.cores := rfl
@[simp] theorem setLink_pools (s : State) (p : Nat) (l : Link) : (s.setLink p l).pools = s.pools := rfl
@[simp] theorem setLink_reqs (s : State) (p : Nat) (l : Link) : (s.setLink p l).reqs = s.reqs := rfl
@[simp] theorem setLink_unsent (s : State) (p : Nat) (l : Link) : (s.setLink p l).unsent = s.unsent := rfl
@[simp] theorem setLink_inj (s : State) (p : Nat) (l : Link) : (s.setLink p l).inj = s.inj := rfl
@[simp] theorem setLink_injHold (s : State) (p : Nat) (l : Link) : (s.setLink p l).injHold = s.injHold := rfl
@[simp] theorem setLink_works (s : State) (p : Nat) (l : Link) : (s.setLink p l).works = s.works := rfl
@[simp] theorem setLink_nextWork (s : State) (p : Nat) (l : Link) : (s.setLink p l).nextWork = s.nextWork := rfl
@[simp] theorem setLink_due (s : State) (p : Nat) (l : Link) : (s.setLink p l).due = s.due := rfl
@[simp] theorem setLink_sqs (s : State) (p : Nat) (l : Link) : (s.setLink p l).sqs = s.sqs := rfl
@[simp] theorem setLink_cqs (s : State) (p : Nat) (l : Link) : (s.setLink p l).cqs = s.cqs := rfl
@[simp] theorem setLink_evr (s : State) (p : Nat) (l : Link) : (s.setLink p l).evr = s.evr := rfl
@[simp] theorem setLink_lastSq (s : State) (p : Nat) (l : Link) : (s.setLink p l).lastSq = s.lastSq := rfl
@[simp] theorem setLink_lines (s : State) (p : Nat) (l : Link) : (s.setLink p l).lines = s.lines := rfl
@[simp] theorem setLink_wants (s : State) (p : Nat) (l : Link) : (s.setLink p l).wants = s.wants := rfl
@[simp] theorem setLink_msix (s : State) (p : Nat) (l : Link) : (s.setLink p l).msix = s.msix := rfl
@[simp] theorem setLink_vmask (s : State) (p : Nat) (l : Link) : (s.setLink p l).vmask = s.vmask := rfl
@[simp] theorem setLink_evq (s : State) (p : Nat) (l : Link) : (s.setLink p l).evq = s.evq := rfl
@[simp] theorem setLink_perst (s : State) (p : Nat) (l : Link) : (s.setLink p l).perst = s.perst := rfl
@[simp] theorem setLink_ringsUp (s : State) (p : Nat) (l : Link) : (s.setLink p l).ringsUp = s.ringsUp := rfl
@[simp] theorem setLink_snoops (s : State) (p : Nat) (l : Link) : (s.setLink p l).snoops = s.snoops := rfl
@[simp] theorem setLink_biWait (s : State) (p : Nat) (l : Link) : (s.setLink p l).biWait = s.biWait := rfl
@[simp] theorem setLink_hdmLost (s : State) (p : Nat) (l : Link) : (s.setLink p l).hdmLost = s.hdmLost := rfl
@[simp] theorem setLink_lost (s : State) (p : Nat) (l : Link) : (s.setLink p l).lost = s.lost := rfl
@[simp] theorem setLink_nextTag (s : State) (p : Nat) (l : Link) : (s.setLink p l).nextTag = s.nextTag := rfl
@[simp] theorem setLink_flows (s : State) (p : Nat) (l : Link) : (s.setLink p l).flows = s.flows := rfl
@[simp] theorem setLink_hostMem (s : State) (p : Nat) (l : Link) : (s.setLink p l).hostMem = s.hostMem := rfl
@[simp] theorem setLink_launchQ (s : State) (p : Nat) (l : Link) : (s.setLink p l).launchQ = s.launchQ := rfl
@[simp] theorem setLink_ev (s : State) (p : Nat) (l : Link) : (s.setLink p l).ev = s.ev := rfl
@[simp] theorem setLink_mirrorStep (s : State) (p : Nat) (l : Link) : (s.setLink p l).mirrorStep = s.mirrorStep := rfl
@[simp] theorem setLink_repairs (s : State) (p : Nat) (l : Link) : (s.setLink p l).repairs = s.repairs := rfl
@[simp] theorem setLink_xchkCount (s : State) (p : Nat) (l : Link) : (s.setLink p l).xchkCount = s.xchkCount := rfl
@[simp] theorem setLink_caps (s : State) (p : Nat) (l : Link) : (s.setLink p l).caps = s.caps := rfl
@[simp] theorem setLink_rowHits (s : State) (p : Nat) (l : Link) : (s.setLink p l).rowHits = s.rowHits := rfl
@[simp] theorem setLink_lanes (s : State) (p : Nat) (l : Link) : (s.setLink p l).lanes = s.lanes := rfl
@[simp] theorem setLink_pllLol (s : State) (p : Nat) (l : Link) : (s.setLink p l).pllLol = s.pllLol := rfl
@[simp] theorem setLink_quadMis (s : State) (p : Nat) (l : Link) : (s.setLink p l).quadMis = s.quadMis := rfl
@[simp] theorem setLink_recs (s : State) (p : Nat) (l : Link) : (s.setLink p l).recs = s.recs := rfl
@[simp] theorem setLink_boots (s : State) (p : Nat) (l : Link) : (s.setLink p l).boots = s.boots := rfl
@[simp] theorem setLink_buf (s : State) (p : Nat) (l : Link) : (s.setLink p l).buf = s.buf := rfl
@[simp] theorem setLink_nextFrame (s : State) (p : Nat) (l : Link) : (s.setLink p l).nextFrame = s.nextFrame := rfl
@[simp] theorem setLink_nextJoin (s : State) (p : Nat) (l : Link) : (s.setLink p l).nextJoin = s.nextJoin := rfl
@[simp] theorem setLink_cells (s : State) (p : Nat) (l : Link) : (s.setLink p l).cells = s.cells := rfl
@[simp] theorem setLink_sharedUsed (s : State) (p : Nat) (l : Link) : (s.setLink p l).sharedUsed = s.sharedUsed := rfl
@[simp] theorem setLink_gminEff (s : State) (p : Nat) (l : Link) : (s.setLink p l).gminEff = s.gminEff := rfl
@[simp] theorem setLink_fences (s : State) (p : Nat) (l : Link) : (s.setLink p l).fences = s.fences := rfl
@[simp] theorem setLink_sched (s : State) (p : Nat) (l : Link) : (s.setLink p l).sched = s.sched := rfl
@[simp] theorem setLink_rsv (s : State) (p : Nat) (l : Link) : (s.setLink p l).rsv = s.rsv := rfl
@[simp] theorem setLink_deliv (s : State) (p : Nat) (l : Link) : (s.setLink p l).deliv = s.deliv := rfl
@[simp] theorem setLink_msgWait (s : State) (p : Nat) (l : Link) : (s.setLink p l).msgWait = s.msgWait := rfl
@[simp] theorem setLink_causes (s : State) (p : Nat) (l : Link) : (s.setLink p l).causes = s.causes := rfl
@[simp] theorem setLink_slots (s : State) (p : Nat) (l : Link) : (s.setLink p l).slots = s.slots := rfl
@[simp] theorem setLink_stuDrops (s : State) (p : Nat) (l : Link) : (s.setLink p l).stuDrops = s.stuDrops := rfl
@[simp] theorem setLink_kernelJob (s : State) (p : Nat) (l : Link) : (s.setLink p l).kernelJob = s.kernelJob := rfl
@[simp] theorem setLink_groups (s : State) (p : Nat) (l : Link) : (s.setLink p l).groups = s.groups := rfl
@[simp] theorem setLink_groupPend (s : State) (p : Nat) (l : Link) : (s.setLink p l).groupPend = s.groupPend := rfl
@[simp] theorem setLink_colls (s : State) (p : Nat) (l : Link) : (s.setLink p l).colls = s.colls := rfl
@[simp] theorem setLink_nextColl (s : State) (p : Nat) (l : Link) : (s.setLink p l).nextColl = s.nextColl := rfl
@[simp] theorem setLink_collWaits (s : State) (p : Nat) (l : Link) : (s.setLink p l).collWaits = s.collWaits := rfl
@[simp] theorem setLink_readies (s : State) (p : Nat) (l : Link) : (s.setLink p l).readies = s.readies := rfl
@[simp] theorem setLink_endJobs (s : State) (p : Nat) (l : Link) : (s.setLink p l).endJobs = s.endJobs := rfl
@[simp] theorem setLink_mg (s : State) (p : Nat) (l : Link) : (s.setLink p l).mg = s.mg := rfl
@[simp] theorem setLink_out (s : State) (p : Nat) (l : Link) : (s.setLink p l).out = s.out := rfl

/-! setSlot. -/

@[simp] theorem setSlot_pending (s : State) (n : Nat) (x : Option Slot) : (s.setSlot n x).pending = s.pending := rfl
@[simp] theorem setSlot_clock (s : State) (n : Nat) (x : Option Slot) : (s.setSlot n x).clock = s.clock := rfl
@[simp] theorem setSlot_freeCtr (s : State) (n : Nat) (x : Option Slot) : (s.setSlot n x).freeCtr = s.freeCtr := rfl
@[simp] theorem setSlot_regs (s : State) (n : Nat) (x : Option Slot) : (s.setSlot n x).regs = s.regs := rfl
@[simp] theorem setSlot_mem (s : State) (n : Nat) (x : Option Slot) : (s.setSlot n x).mem = s.mem := rfl
@[simp] theorem setSlot_memBad (s : State) (n : Nat) (x : Option Slot) : (s.setSlot n x).memBad = s.memBad := rfl
@[simp] theorem setSlot_gone (s : State) (n : Nat) (x : Option Slot) : (s.setSlot n x).gone = s.gone := rfl
@[simp] theorem setSlot_kept (s : State) (n : Nat) (x : Option Slot) : (s.setSlot n x).kept = s.kept := rfl
@[simp] theorem setSlot_corrected (s : State) (n : Nat) (x : Option Slot) : (s.setSlot n x).corrected = s.corrected := rfl
@[simp] theorem setSlot_cores (s : State) (n : Nat) (x : Option Slot) : (s.setSlot n x).cores = s.cores := rfl
@[simp] theorem setSlot_pools (s : State) (n : Nat) (x : Option Slot) : (s.setSlot n x).pools = s.pools := rfl
@[simp] theorem setSlot_reqs (s : State) (n : Nat) (x : Option Slot) : (s.setSlot n x).reqs = s.reqs := rfl
@[simp] theorem setSlot_unsent (s : State) (n : Nat) (x : Option Slot) : (s.setSlot n x).unsent = s.unsent := rfl
@[simp] theorem setSlot_inj (s : State) (n : Nat) (x : Option Slot) : (s.setSlot n x).inj = s.inj := rfl
@[simp] theorem setSlot_injHold (s : State) (n : Nat) (x : Option Slot) : (s.setSlot n x).injHold = s.injHold := rfl
@[simp] theorem setSlot_works (s : State) (n : Nat) (x : Option Slot) : (s.setSlot n x).works = s.works := rfl
@[simp] theorem setSlot_nextWork (s : State) (n : Nat) (x : Option Slot) : (s.setSlot n x).nextWork = s.nextWork := rfl
@[simp] theorem setSlot_due (s : State) (n : Nat) (x : Option Slot) : (s.setSlot n x).due = s.due := rfl
@[simp] theorem setSlot_sqs (s : State) (n : Nat) (x : Option Slot) : (s.setSlot n x).sqs = s.sqs := rfl
@[simp] theorem setSlot_cqs (s : State) (n : Nat) (x : Option Slot) : (s.setSlot n x).cqs = s.cqs := rfl
@[simp] theorem setSlot_evr (s : State) (n : Nat) (x : Option Slot) : (s.setSlot n x).evr = s.evr := rfl
@[simp] theorem setSlot_lastSq (s : State) (n : Nat) (x : Option Slot) : (s.setSlot n x).lastSq = s.lastSq := rfl
@[simp] theorem setSlot_lines (s : State) (n : Nat) (x : Option Slot) : (s.setSlot n x).lines = s.lines := rfl
@[simp] theorem setSlot_wants (s : State) (n : Nat) (x : Option Slot) : (s.setSlot n x).wants = s.wants := rfl
@[simp] theorem setSlot_msix (s : State) (n : Nat) (x : Option Slot) : (s.setSlot n x).msix = s.msix := rfl
@[simp] theorem setSlot_vmask (s : State) (n : Nat) (x : Option Slot) : (s.setSlot n x).vmask = s.vmask := rfl
@[simp] theorem setSlot_evq (s : State) (n : Nat) (x : Option Slot) : (s.setSlot n x).evq = s.evq := rfl
@[simp] theorem setSlot_perst (s : State) (n : Nat) (x : Option Slot) : (s.setSlot n x).perst = s.perst := rfl
@[simp] theorem setSlot_ringsUp (s : State) (n : Nat) (x : Option Slot) : (s.setSlot n x).ringsUp = s.ringsUp := rfl
@[simp] theorem setSlot_snoops (s : State) (n : Nat) (x : Option Slot) : (s.setSlot n x).snoops = s.snoops := rfl
@[simp] theorem setSlot_biWait (s : State) (n : Nat) (x : Option Slot) : (s.setSlot n x).biWait = s.biWait := rfl
@[simp] theorem setSlot_hdmLost (s : State) (n : Nat) (x : Option Slot) : (s.setSlot n x).hdmLost = s.hdmLost := rfl
@[simp] theorem setSlot_lost (s : State) (n : Nat) (x : Option Slot) : (s.setSlot n x).lost = s.lost := rfl
@[simp] theorem setSlot_nextTag (s : State) (n : Nat) (x : Option Slot) : (s.setSlot n x).nextTag = s.nextTag := rfl
@[simp] theorem setSlot_flows (s : State) (n : Nat) (x : Option Slot) : (s.setSlot n x).flows = s.flows := rfl
@[simp] theorem setSlot_hostMem (s : State) (n : Nat) (x : Option Slot) : (s.setSlot n x).hostMem = s.hostMem := rfl
@[simp] theorem setSlot_launchQ (s : State) (n : Nat) (x : Option Slot) : (s.setSlot n x).launchQ = s.launchQ := rfl
@[simp] theorem setSlot_ev (s : State) (n : Nat) (x : Option Slot) : (s.setSlot n x).ev = s.ev := rfl
@[simp] theorem setSlot_mirrorStep (s : State) (n : Nat) (x : Option Slot) : (s.setSlot n x).mirrorStep = s.mirrorStep := rfl
@[simp] theorem setSlot_repairs (s : State) (n : Nat) (x : Option Slot) : (s.setSlot n x).repairs = s.repairs := rfl
@[simp] theorem setSlot_xchkCount (s : State) (n : Nat) (x : Option Slot) : (s.setSlot n x).xchkCount = s.xchkCount := rfl
@[simp] theorem setSlot_caps (s : State) (n : Nat) (x : Option Slot) : (s.setSlot n x).caps = s.caps := rfl
@[simp] theorem setSlot_rowHits (s : State) (n : Nat) (x : Option Slot) : (s.setSlot n x).rowHits = s.rowHits := rfl
@[simp] theorem setSlot_links (s : State) (n : Nat) (x : Option Slot) : (s.setSlot n x).links = s.links := rfl
@[simp] theorem setSlot_lanes (s : State) (n : Nat) (x : Option Slot) : (s.setSlot n x).lanes = s.lanes := rfl
@[simp] theorem setSlot_pllLol (s : State) (n : Nat) (x : Option Slot) : (s.setSlot n x).pllLol = s.pllLol := rfl
@[simp] theorem setSlot_quadMis (s : State) (n : Nat) (x : Option Slot) : (s.setSlot n x).quadMis = s.quadMis := rfl
@[simp] theorem setSlot_recs (s : State) (n : Nat) (x : Option Slot) : (s.setSlot n x).recs = s.recs := rfl
@[simp] theorem setSlot_boots (s : State) (n : Nat) (x : Option Slot) : (s.setSlot n x).boots = s.boots := rfl
@[simp] theorem setSlot_buf (s : State) (n : Nat) (x : Option Slot) : (s.setSlot n x).buf = s.buf := rfl
@[simp] theorem setSlot_nextFrame (s : State) (n : Nat) (x : Option Slot) : (s.setSlot n x).nextFrame = s.nextFrame := rfl
@[simp] theorem setSlot_nextJoin (s : State) (n : Nat) (x : Option Slot) : (s.setSlot n x).nextJoin = s.nextJoin := rfl
@[simp] theorem setSlot_cells (s : State) (n : Nat) (x : Option Slot) : (s.setSlot n x).cells = s.cells := rfl
@[simp] theorem setSlot_sharedUsed (s : State) (n : Nat) (x : Option Slot) : (s.setSlot n x).sharedUsed = s.sharedUsed := rfl
@[simp] theorem setSlot_gminEff (s : State) (n : Nat) (x : Option Slot) : (s.setSlot n x).gminEff = s.gminEff := rfl
@[simp] theorem setSlot_fences (s : State) (n : Nat) (x : Option Slot) : (s.setSlot n x).fences = s.fences := rfl
@[simp] theorem setSlot_sched (s : State) (n : Nat) (x : Option Slot) : (s.setSlot n x).sched = s.sched := rfl
@[simp] theorem setSlot_rsv (s : State) (n : Nat) (x : Option Slot) : (s.setSlot n x).rsv = s.rsv := rfl
@[simp] theorem setSlot_deliv (s : State) (n : Nat) (x : Option Slot) : (s.setSlot n x).deliv = s.deliv := rfl
@[simp] theorem setSlot_msgWait (s : State) (n : Nat) (x : Option Slot) : (s.setSlot n x).msgWait = s.msgWait := rfl
@[simp] theorem setSlot_causes (s : State) (n : Nat) (x : Option Slot) : (s.setSlot n x).causes = s.causes := rfl
@[simp] theorem setSlot_stuDrops (s : State) (n : Nat) (x : Option Slot) : (s.setSlot n x).stuDrops = s.stuDrops := rfl
@[simp] theorem setSlot_kernelJob (s : State) (n : Nat) (x : Option Slot) : (s.setSlot n x).kernelJob = s.kernelJob := rfl
@[simp] theorem setSlot_groups (s : State) (n : Nat) (x : Option Slot) : (s.setSlot n x).groups = s.groups := rfl
@[simp] theorem setSlot_groupPend (s : State) (n : Nat) (x : Option Slot) : (s.setSlot n x).groupPend = s.groupPend := rfl
@[simp] theorem setSlot_colls (s : State) (n : Nat) (x : Option Slot) : (s.setSlot n x).colls = s.colls := rfl
@[simp] theorem setSlot_nextColl (s : State) (n : Nat) (x : Option Slot) : (s.setSlot n x).nextColl = s.nextColl := rfl
@[simp] theorem setSlot_collWaits (s : State) (n : Nat) (x : Option Slot) : (s.setSlot n x).collWaits = s.collWaits := rfl
@[simp] theorem setSlot_readies (s : State) (n : Nat) (x : Option Slot) : (s.setSlot n x).readies = s.readies := rfl
@[simp] theorem setSlot_endJobs (s : State) (n : Nat) (x : Option Slot) : (s.setSlot n x).endJobs = s.endJobs := rfl
@[simp] theorem setSlot_mg (s : State) (n : Nat) (x : Option Slot) : (s.setSlot n x).mg = s.mg := rfl
@[simp] theorem setSlot_out (s : State) (n : Nat) (x : Option Slot) : (s.setSlot n x).out = s.out := rfl

/-! setHeld. -/

@[simp] theorem setHeld_pending (s : State) (h : Held) : (s.setHeld h).pending = s.pending := rfl
@[simp] theorem setHeld_clock (s : State) (h : Held) : (s.setHeld h).clock = s.clock := rfl
@[simp] theorem setHeld_freeCtr (s : State) (h : Held) : (s.setHeld h).freeCtr = s.freeCtr := rfl
@[simp] theorem setHeld_regs (s : State) (h : Held) : (s.setHeld h).regs = s.regs := rfl
@[simp] theorem setHeld_mem (s : State) (h : Held) : (s.setHeld h).mem = s.mem := rfl
@[simp] theorem setHeld_memBad (s : State) (h : Held) : (s.setHeld h).memBad = s.memBad := rfl
@[simp] theorem setHeld_gone (s : State) (h : Held) : (s.setHeld h).gone = s.gone := rfl
@[simp] theorem setHeld_kept (s : State) (h : Held) : (s.setHeld h).kept = s.kept := rfl
@[simp] theorem setHeld_corrected (s : State) (h : Held) : (s.setHeld h).corrected = s.corrected := rfl
@[simp] theorem setHeld_cores (s : State) (h : Held) : (s.setHeld h).cores = s.cores := rfl
@[simp] theorem setHeld_pools (s : State) (h : Held) : (s.setHeld h).pools = s.pools := rfl
@[simp] theorem setHeld_reqs (s : State) (h : Held) : (s.setHeld h).reqs = s.reqs := rfl
@[simp] theorem setHeld_unsent (s : State) (h : Held) : (s.setHeld h).unsent = s.unsent := rfl
@[simp] theorem setHeld_inj (s : State) (h : Held) : (s.setHeld h).inj = s.inj := rfl
@[simp] theorem setHeld_injHold (s : State) (h : Held) : (s.setHeld h).injHold = s.injHold := rfl
@[simp] theorem setHeld_works (s : State) (h : Held) : (s.setHeld h).works = s.works := rfl
@[simp] theorem setHeld_nextWork (s : State) (h : Held) : (s.setHeld h).nextWork = s.nextWork := rfl
@[simp] theorem setHeld_due (s : State) (h : Held) : (s.setHeld h).due = s.due := rfl
@[simp] theorem setHeld_sqs (s : State) (h : Held) : (s.setHeld h).sqs = s.sqs := rfl
@[simp] theorem setHeld_cqs (s : State) (h : Held) : (s.setHeld h).cqs = s.cqs := rfl
@[simp] theorem setHeld_evr (s : State) (h : Held) : (s.setHeld h).evr = s.evr := rfl
@[simp] theorem setHeld_lastSq (s : State) (h : Held) : (s.setHeld h).lastSq = s.lastSq := rfl
@[simp] theorem setHeld_lines (s : State) (h : Held) : (s.setHeld h).lines = s.lines := rfl
@[simp] theorem setHeld_wants (s : State) (h : Held) : (s.setHeld h).wants = s.wants := rfl
@[simp] theorem setHeld_msix (s : State) (h : Held) : (s.setHeld h).msix = s.msix := rfl
@[simp] theorem setHeld_vmask (s : State) (h : Held) : (s.setHeld h).vmask = s.vmask := rfl
@[simp] theorem setHeld_evq (s : State) (h : Held) : (s.setHeld h).evq = s.evq := rfl
@[simp] theorem setHeld_perst (s : State) (h : Held) : (s.setHeld h).perst = s.perst := rfl
@[simp] theorem setHeld_ringsUp (s : State) (h : Held) : (s.setHeld h).ringsUp = s.ringsUp := rfl
@[simp] theorem setHeld_snoops (s : State) (h : Held) : (s.setHeld h).snoops = s.snoops := rfl
@[simp] theorem setHeld_biWait (s : State) (h : Held) : (s.setHeld h).biWait = s.biWait := rfl
@[simp] theorem setHeld_hdmLost (s : State) (h : Held) : (s.setHeld h).hdmLost = s.hdmLost := rfl
@[simp] theorem setHeld_lost (s : State) (h : Held) : (s.setHeld h).lost = s.lost := rfl
@[simp] theorem setHeld_nextTag (s : State) (h : Held) : (s.setHeld h).nextTag = s.nextTag := rfl
@[simp] theorem setHeld_flows (s : State) (h : Held) : (s.setHeld h).flows = s.flows := rfl
@[simp] theorem setHeld_hostMem (s : State) (h : Held) : (s.setHeld h).hostMem = s.hostMem := rfl
@[simp] theorem setHeld_launchQ (s : State) (h : Held) : (s.setHeld h).launchQ = s.launchQ := rfl
@[simp] theorem setHeld_ev (s : State) (h : Held) : (s.setHeld h).ev = s.ev := rfl
@[simp] theorem setHeld_mirrorStep (s : State) (h : Held) : (s.setHeld h).mirrorStep = s.mirrorStep := rfl
@[simp] theorem setHeld_repairs (s : State) (h : Held) : (s.setHeld h).repairs = s.repairs := rfl
@[simp] theorem setHeld_xchkCount (s : State) (h : Held) : (s.setHeld h).xchkCount = s.xchkCount := rfl
@[simp] theorem setHeld_caps (s : State) (h : Held) : (s.setHeld h).caps = s.caps := rfl
@[simp] theorem setHeld_rowHits (s : State) (h : Held) : (s.setHeld h).rowHits = s.rowHits := rfl
@[simp] theorem setHeld_links (s : State) (h : Held) : (s.setHeld h).links = s.links := rfl
@[simp] theorem setHeld_lanes (s : State) (h : Held) : (s.setHeld h).lanes = s.lanes := rfl
@[simp] theorem setHeld_pllLol (s : State) (h : Held) : (s.setHeld h).pllLol = s.pllLol := rfl
@[simp] theorem setHeld_quadMis (s : State) (h : Held) : (s.setHeld h).quadMis = s.quadMis := rfl
@[simp] theorem setHeld_recs (s : State) (h : Held) : (s.setHeld h).recs = s.recs := rfl
@[simp] theorem setHeld_boots (s : State) (h : Held) : (s.setHeld h).boots = s.boots := rfl
@[simp] theorem setHeld_nextFrame (s : State) (h : Held) : (s.setHeld h).nextFrame = s.nextFrame := rfl
@[simp] theorem setHeld_nextJoin (s : State) (h : Held) : (s.setHeld h).nextJoin = s.nextJoin := rfl
@[simp] theorem setHeld_cells (s : State) (h : Held) : (s.setHeld h).cells = s.cells := rfl
@[simp] theorem setHeld_sharedUsed (s : State) (h : Held) : (s.setHeld h).sharedUsed = s.sharedUsed := rfl
@[simp] theorem setHeld_gminEff (s : State) (h : Held) : (s.setHeld h).gminEff = s.gminEff := rfl
@[simp] theorem setHeld_fences (s : State) (h : Held) : (s.setHeld h).fences = s.fences := rfl
@[simp] theorem setHeld_sched (s : State) (h : Held) : (s.setHeld h).sched = s.sched := rfl
@[simp] theorem setHeld_rsv (s : State) (h : Held) : (s.setHeld h).rsv = s.rsv := rfl
@[simp] theorem setHeld_deliv (s : State) (h : Held) : (s.setHeld h).deliv = s.deliv := rfl
@[simp] theorem setHeld_msgWait (s : State) (h : Held) : (s.setHeld h).msgWait = s.msgWait := rfl
@[simp] theorem setHeld_causes (s : State) (h : Held) : (s.setHeld h).causes = s.causes := rfl
@[simp] theorem setHeld_slots (s : State) (h : Held) : (s.setHeld h).slots = s.slots := rfl
@[simp] theorem setHeld_stuDrops (s : State) (h : Held) : (s.setHeld h).stuDrops = s.stuDrops := rfl
@[simp] theorem setHeld_kernelJob (s : State) (h : Held) : (s.setHeld h).kernelJob = s.kernelJob := rfl
@[simp] theorem setHeld_groups (s : State) (h : Held) : (s.setHeld h).groups = s.groups := rfl
@[simp] theorem setHeld_groupPend (s : State) (h : Held) : (s.setHeld h).groupPend = s.groupPend := rfl
@[simp] theorem setHeld_colls (s : State) (h : Held) : (s.setHeld h).colls = s.colls := rfl
@[simp] theorem setHeld_nextColl (s : State) (h : Held) : (s.setHeld h).nextColl = s.nextColl := rfl
@[simp] theorem setHeld_collWaits (s : State) (h : Held) : (s.setHeld h).collWaits = s.collWaits := rfl
@[simp] theorem setHeld_readies (s : State) (h : Held) : (s.setHeld h).readies = s.readies := rfl
@[simp] theorem setHeld_endJobs (s : State) (h : Held) : (s.setHeld h).endJobs = s.endJobs := rfl
@[simp] theorem setHeld_mg (s : State) (h : Held) : (s.setHeld h).mg = s.mg := rfl
@[simp] theorem setHeld_out (s : State) (h : Held) : (s.setHeld h).out = s.out := rfl

/-! setCells. -/

@[simp] theorem setCells_pending (s : State) (p v : Nat) (c : Cells) : (s.setCells p v c).pending = s.pending := rfl
@[simp] theorem setCells_clock (s : State) (p v : Nat) (c : Cells) : (s.setCells p v c).clock = s.clock := rfl
@[simp] theorem setCells_freeCtr (s : State) (p v : Nat) (c : Cells) : (s.setCells p v c).freeCtr = s.freeCtr := rfl
@[simp] theorem setCells_regs (s : State) (p v : Nat) (c : Cells) : (s.setCells p v c).regs = s.regs := rfl
@[simp] theorem setCells_mem (s : State) (p v : Nat) (c : Cells) : (s.setCells p v c).mem = s.mem := rfl
@[simp] theorem setCells_memBad (s : State) (p v : Nat) (c : Cells) : (s.setCells p v c).memBad = s.memBad := rfl
@[simp] theorem setCells_gone (s : State) (p v : Nat) (c : Cells) : (s.setCells p v c).gone = s.gone := rfl
@[simp] theorem setCells_kept (s : State) (p v : Nat) (c : Cells) : (s.setCells p v c).kept = s.kept := rfl
@[simp] theorem setCells_corrected (s : State) (p v : Nat) (c : Cells) : (s.setCells p v c).corrected = s.corrected := rfl
@[simp] theorem setCells_cores (s : State) (p v : Nat) (c : Cells) : (s.setCells p v c).cores = s.cores := rfl
@[simp] theorem setCells_pools (s : State) (p v : Nat) (c : Cells) : (s.setCells p v c).pools = s.pools := rfl
@[simp] theorem setCells_reqs (s : State) (p v : Nat) (c : Cells) : (s.setCells p v c).reqs = s.reqs := rfl
@[simp] theorem setCells_unsent (s : State) (p v : Nat) (c : Cells) : (s.setCells p v c).unsent = s.unsent := rfl
@[simp] theorem setCells_inj (s : State) (p v : Nat) (c : Cells) : (s.setCells p v c).inj = s.inj := rfl
@[simp] theorem setCells_injHold (s : State) (p v : Nat) (c : Cells) : (s.setCells p v c).injHold = s.injHold := rfl
@[simp] theorem setCells_works (s : State) (p v : Nat) (c : Cells) : (s.setCells p v c).works = s.works := rfl
@[simp] theorem setCells_nextWork (s : State) (p v : Nat) (c : Cells) : (s.setCells p v c).nextWork = s.nextWork := rfl
@[simp] theorem setCells_due (s : State) (p v : Nat) (c : Cells) : (s.setCells p v c).due = s.due := rfl
@[simp] theorem setCells_sqs (s : State) (p v : Nat) (c : Cells) : (s.setCells p v c).sqs = s.sqs := rfl
@[simp] theorem setCells_cqs (s : State) (p v : Nat) (c : Cells) : (s.setCells p v c).cqs = s.cqs := rfl
@[simp] theorem setCells_evr (s : State) (p v : Nat) (c : Cells) : (s.setCells p v c).evr = s.evr := rfl
@[simp] theorem setCells_lastSq (s : State) (p v : Nat) (c : Cells) : (s.setCells p v c).lastSq = s.lastSq := rfl
@[simp] theorem setCells_lines (s : State) (p v : Nat) (c : Cells) : (s.setCells p v c).lines = s.lines := rfl
@[simp] theorem setCells_wants (s : State) (p v : Nat) (c : Cells) : (s.setCells p v c).wants = s.wants := rfl
@[simp] theorem setCells_msix (s : State) (p v : Nat) (c : Cells) : (s.setCells p v c).msix = s.msix := rfl
@[simp] theorem setCells_vmask (s : State) (p v : Nat) (c : Cells) : (s.setCells p v c).vmask = s.vmask := rfl
@[simp] theorem setCells_evq (s : State) (p v : Nat) (c : Cells) : (s.setCells p v c).evq = s.evq := rfl
@[simp] theorem setCells_perst (s : State) (p v : Nat) (c : Cells) : (s.setCells p v c).perst = s.perst := rfl
@[simp] theorem setCells_ringsUp (s : State) (p v : Nat) (c : Cells) : (s.setCells p v c).ringsUp = s.ringsUp := rfl
@[simp] theorem setCells_snoops (s : State) (p v : Nat) (c : Cells) : (s.setCells p v c).snoops = s.snoops := rfl
@[simp] theorem setCells_biWait (s : State) (p v : Nat) (c : Cells) : (s.setCells p v c).biWait = s.biWait := rfl
@[simp] theorem setCells_hdmLost (s : State) (p v : Nat) (c : Cells) : (s.setCells p v c).hdmLost = s.hdmLost := rfl
@[simp] theorem setCells_lost (s : State) (p v : Nat) (c : Cells) : (s.setCells p v c).lost = s.lost := rfl
@[simp] theorem setCells_nextTag (s : State) (p v : Nat) (c : Cells) : (s.setCells p v c).nextTag = s.nextTag := rfl
@[simp] theorem setCells_flows (s : State) (p v : Nat) (c : Cells) : (s.setCells p v c).flows = s.flows := rfl
@[simp] theorem setCells_hostMem (s : State) (p v : Nat) (c : Cells) : (s.setCells p v c).hostMem = s.hostMem := rfl
@[simp] theorem setCells_launchQ (s : State) (p v : Nat) (c : Cells) : (s.setCells p v c).launchQ = s.launchQ := rfl
@[simp] theorem setCells_ev (s : State) (p v : Nat) (c : Cells) : (s.setCells p v c).ev = s.ev := rfl
@[simp] theorem setCells_mirrorStep (s : State) (p v : Nat) (c : Cells) : (s.setCells p v c).mirrorStep = s.mirrorStep := rfl
@[simp] theorem setCells_repairs (s : State) (p v : Nat) (c : Cells) : (s.setCells p v c).repairs = s.repairs := rfl
@[simp] theorem setCells_xchkCount (s : State) (p v : Nat) (c : Cells) : (s.setCells p v c).xchkCount = s.xchkCount := rfl
@[simp] theorem setCells_caps (s : State) (p v : Nat) (c : Cells) : (s.setCells p v c).caps = s.caps := rfl
@[simp] theorem setCells_rowHits (s : State) (p v : Nat) (c : Cells) : (s.setCells p v c).rowHits = s.rowHits := rfl
@[simp] theorem setCells_links (s : State) (p v : Nat) (c : Cells) : (s.setCells p v c).links = s.links := rfl
@[simp] theorem setCells_lanes (s : State) (p v : Nat) (c : Cells) : (s.setCells p v c).lanes = s.lanes := rfl
@[simp] theorem setCells_pllLol (s : State) (p v : Nat) (c : Cells) : (s.setCells p v c).pllLol = s.pllLol := rfl
@[simp] theorem setCells_quadMis (s : State) (p v : Nat) (c : Cells) : (s.setCells p v c).quadMis = s.quadMis := rfl
@[simp] theorem setCells_recs (s : State) (p v : Nat) (c : Cells) : (s.setCells p v c).recs = s.recs := rfl
@[simp] theorem setCells_boots (s : State) (p v : Nat) (c : Cells) : (s.setCells p v c).boots = s.boots := rfl
@[simp] theorem setCells_buf (s : State) (p v : Nat) (c : Cells) : (s.setCells p v c).buf = s.buf := rfl
@[simp] theorem setCells_nextFrame (s : State) (p v : Nat) (c : Cells) : (s.setCells p v c).nextFrame = s.nextFrame := rfl
@[simp] theorem setCells_nextJoin (s : State) (p v : Nat) (c : Cells) : (s.setCells p v c).nextJoin = s.nextJoin := rfl
@[simp] theorem setCells_sharedUsed (s : State) (p v : Nat) (c : Cells) : (s.setCells p v c).sharedUsed = s.sharedUsed := rfl
@[simp] theorem setCells_gminEff (s : State) (p v : Nat) (c : Cells) : (s.setCells p v c).gminEff = s.gminEff := rfl
@[simp] theorem setCells_fences (s : State) (p v : Nat) (c : Cells) : (s.setCells p v c).fences = s.fences := rfl
@[simp] theorem setCells_sched (s : State) (p v : Nat) (c : Cells) : (s.setCells p v c).sched = s.sched := rfl
@[simp] theorem setCells_rsv (s : State) (p v : Nat) (c : Cells) : (s.setCells p v c).rsv = s.rsv := rfl
@[simp] theorem setCells_deliv (s : State) (p v : Nat) (c : Cells) : (s.setCells p v c).deliv = s.deliv := rfl
@[simp] theorem setCells_msgWait (s : State) (p v : Nat) (c : Cells) : (s.setCells p v c).msgWait = s.msgWait := rfl
@[simp] theorem setCells_causes (s : State) (p v : Nat) (c : Cells) : (s.setCells p v c).causes = s.causes := rfl
@[simp] theorem setCells_slots (s : State) (p v : Nat) (c : Cells) : (s.setCells p v c).slots = s.slots := rfl
@[simp] theorem setCells_stuDrops (s : State) (p v : Nat) (c : Cells) : (s.setCells p v c).stuDrops = s.stuDrops := rfl
@[simp] theorem setCells_kernelJob (s : State) (p v : Nat) (c : Cells) : (s.setCells p v c).kernelJob = s.kernelJob := rfl
@[simp] theorem setCells_groups (s : State) (p v : Nat) (c : Cells) : (s.setCells p v c).groups = s.groups := rfl
@[simp] theorem setCells_groupPend (s : State) (p v : Nat) (c : Cells) : (s.setCells p v c).groupPend = s.groupPend := rfl
@[simp] theorem setCells_colls (s : State) (p v : Nat) (c : Cells) : (s.setCells p v c).colls = s.colls := rfl
@[simp] theorem setCells_nextColl (s : State) (p v : Nat) (c : Cells) : (s.setCells p v c).nextColl = s.nextColl := rfl
@[simp] theorem setCells_collWaits (s : State) (p v : Nat) (c : Cells) : (s.setCells p v c).collWaits = s.collWaits := rfl
@[simp] theorem setCells_readies (s : State) (p v : Nat) (c : Cells) : (s.setCells p v c).readies = s.readies := rfl
@[simp] theorem setCells_endJobs (s : State) (p v : Nat) (c : Cells) : (s.setCells p v c).endJobs = s.endJobs := rfl
@[simp] theorem setCells_mg (s : State) (p v : Nat) (c : Cells) : (s.setCells p v c).mg = s.mg := rfl
@[simp] theorem setCells_out (s : State) (p v : Nat) (c : Cells) : (s.setCells p v c).out = s.out := rfl

/-! setRsv. -/

@[simp] theorem setRsv_pending (s : State) (r : Nat) (v : Rsv) : (s.setRsv r v).pending = s.pending := rfl
@[simp] theorem setRsv_clock (s : State) (r : Nat) (v : Rsv) : (s.setRsv r v).clock = s.clock := rfl
@[simp] theorem setRsv_freeCtr (s : State) (r : Nat) (v : Rsv) : (s.setRsv r v).freeCtr = s.freeCtr := rfl
@[simp] theorem setRsv_regs (s : State) (r : Nat) (v : Rsv) : (s.setRsv r v).regs = s.regs := rfl
@[simp] theorem setRsv_mem (s : State) (r : Nat) (v : Rsv) : (s.setRsv r v).mem = s.mem := rfl
@[simp] theorem setRsv_memBad (s : State) (r : Nat) (v : Rsv) : (s.setRsv r v).memBad = s.memBad := rfl
@[simp] theorem setRsv_gone (s : State) (r : Nat) (v : Rsv) : (s.setRsv r v).gone = s.gone := rfl
@[simp] theorem setRsv_kept (s : State) (r : Nat) (v : Rsv) : (s.setRsv r v).kept = s.kept := rfl
@[simp] theorem setRsv_corrected (s : State) (r : Nat) (v : Rsv) : (s.setRsv r v).corrected = s.corrected := rfl
@[simp] theorem setRsv_cores (s : State) (r : Nat) (v : Rsv) : (s.setRsv r v).cores = s.cores := rfl
@[simp] theorem setRsv_pools (s : State) (r : Nat) (v : Rsv) : (s.setRsv r v).pools = s.pools := rfl
@[simp] theorem setRsv_reqs (s : State) (r : Nat) (v : Rsv) : (s.setRsv r v).reqs = s.reqs := rfl
@[simp] theorem setRsv_unsent (s : State) (r : Nat) (v : Rsv) : (s.setRsv r v).unsent = s.unsent := rfl
@[simp] theorem setRsv_inj (s : State) (r : Nat) (v : Rsv) : (s.setRsv r v).inj = s.inj := rfl
@[simp] theorem setRsv_injHold (s : State) (r : Nat) (v : Rsv) : (s.setRsv r v).injHold = s.injHold := rfl
@[simp] theorem setRsv_works (s : State) (r : Nat) (v : Rsv) : (s.setRsv r v).works = s.works := rfl
@[simp] theorem setRsv_nextWork (s : State) (r : Nat) (v : Rsv) : (s.setRsv r v).nextWork = s.nextWork := rfl
@[simp] theorem setRsv_due (s : State) (r : Nat) (v : Rsv) : (s.setRsv r v).due = s.due := rfl
@[simp] theorem setRsv_sqs (s : State) (r : Nat) (v : Rsv) : (s.setRsv r v).sqs = s.sqs := rfl
@[simp] theorem setRsv_cqs (s : State) (r : Nat) (v : Rsv) : (s.setRsv r v).cqs = s.cqs := rfl
@[simp] theorem setRsv_evr (s : State) (r : Nat) (v : Rsv) : (s.setRsv r v).evr = s.evr := rfl
@[simp] theorem setRsv_lastSq (s : State) (r : Nat) (v : Rsv) : (s.setRsv r v).lastSq = s.lastSq := rfl
@[simp] theorem setRsv_lines (s : State) (r : Nat) (v : Rsv) : (s.setRsv r v).lines = s.lines := rfl
@[simp] theorem setRsv_wants (s : State) (r : Nat) (v : Rsv) : (s.setRsv r v).wants = s.wants := rfl
@[simp] theorem setRsv_msix (s : State) (r : Nat) (v : Rsv) : (s.setRsv r v).msix = s.msix := rfl
@[simp] theorem setRsv_vmask (s : State) (r : Nat) (v : Rsv) : (s.setRsv r v).vmask = s.vmask := rfl
@[simp] theorem setRsv_evq (s : State) (r : Nat) (v : Rsv) : (s.setRsv r v).evq = s.evq := rfl
@[simp] theorem setRsv_perst (s : State) (r : Nat) (v : Rsv) : (s.setRsv r v).perst = s.perst := rfl
@[simp] theorem setRsv_ringsUp (s : State) (r : Nat) (v : Rsv) : (s.setRsv r v).ringsUp = s.ringsUp := rfl
@[simp] theorem setRsv_snoops (s : State) (r : Nat) (v : Rsv) : (s.setRsv r v).snoops = s.snoops := rfl
@[simp] theorem setRsv_biWait (s : State) (r : Nat) (v : Rsv) : (s.setRsv r v).biWait = s.biWait := rfl
@[simp] theorem setRsv_hdmLost (s : State) (r : Nat) (v : Rsv) : (s.setRsv r v).hdmLost = s.hdmLost := rfl
@[simp] theorem setRsv_lost (s : State) (r : Nat) (v : Rsv) : (s.setRsv r v).lost = s.lost := rfl
@[simp] theorem setRsv_nextTag (s : State) (r : Nat) (v : Rsv) : (s.setRsv r v).nextTag = s.nextTag := rfl
@[simp] theorem setRsv_flows (s : State) (r : Nat) (v : Rsv) : (s.setRsv r v).flows = s.flows := rfl
@[simp] theorem setRsv_hostMem (s : State) (r : Nat) (v : Rsv) : (s.setRsv r v).hostMem = s.hostMem := rfl
@[simp] theorem setRsv_launchQ (s : State) (r : Nat) (v : Rsv) : (s.setRsv r v).launchQ = s.launchQ := rfl
@[simp] theorem setRsv_ev (s : State) (r : Nat) (v : Rsv) : (s.setRsv r v).ev = s.ev := rfl
@[simp] theorem setRsv_mirrorStep (s : State) (r : Nat) (v : Rsv) : (s.setRsv r v).mirrorStep = s.mirrorStep := rfl
@[simp] theorem setRsv_repairs (s : State) (r : Nat) (v : Rsv) : (s.setRsv r v).repairs = s.repairs := rfl
@[simp] theorem setRsv_xchkCount (s : State) (r : Nat) (v : Rsv) : (s.setRsv r v).xchkCount = s.xchkCount := rfl
@[simp] theorem setRsv_caps (s : State) (r : Nat) (v : Rsv) : (s.setRsv r v).caps = s.caps := rfl
@[simp] theorem setRsv_rowHits (s : State) (r : Nat) (v : Rsv) : (s.setRsv r v).rowHits = s.rowHits := rfl
@[simp] theorem setRsv_links (s : State) (r : Nat) (v : Rsv) : (s.setRsv r v).links = s.links := rfl
@[simp] theorem setRsv_lanes (s : State) (r : Nat) (v : Rsv) : (s.setRsv r v).lanes = s.lanes := rfl
@[simp] theorem setRsv_pllLol (s : State) (r : Nat) (v : Rsv) : (s.setRsv r v).pllLol = s.pllLol := rfl
@[simp] theorem setRsv_quadMis (s : State) (r : Nat) (v : Rsv) : (s.setRsv r v).quadMis = s.quadMis := rfl
@[simp] theorem setRsv_recs (s : State) (r : Nat) (v : Rsv) : (s.setRsv r v).recs = s.recs := rfl
@[simp] theorem setRsv_boots (s : State) (r : Nat) (v : Rsv) : (s.setRsv r v).boots = s.boots := rfl
@[simp] theorem setRsv_buf (s : State) (r : Nat) (v : Rsv) : (s.setRsv r v).buf = s.buf := rfl
@[simp] theorem setRsv_nextFrame (s : State) (r : Nat) (v : Rsv) : (s.setRsv r v).nextFrame = s.nextFrame := rfl
@[simp] theorem setRsv_nextJoin (s : State) (r : Nat) (v : Rsv) : (s.setRsv r v).nextJoin = s.nextJoin := rfl
@[simp] theorem setRsv_cells (s : State) (r : Nat) (v : Rsv) : (s.setRsv r v).cells = s.cells := rfl
@[simp] theorem setRsv_sharedUsed (s : State) (r : Nat) (v : Rsv) : (s.setRsv r v).sharedUsed = s.sharedUsed := rfl
@[simp] theorem setRsv_gminEff (s : State) (r : Nat) (v : Rsv) : (s.setRsv r v).gminEff = s.gminEff := rfl
@[simp] theorem setRsv_fences (s : State) (r : Nat) (v : Rsv) : (s.setRsv r v).fences = s.fences := rfl
@[simp] theorem setRsv_sched (s : State) (r : Nat) (v : Rsv) : (s.setRsv r v).sched = s.sched := rfl
@[simp] theorem setRsv_deliv (s : State) (r : Nat) (v : Rsv) : (s.setRsv r v).deliv = s.deliv := rfl
@[simp] theorem setRsv_msgWait (s : State) (r : Nat) (v : Rsv) : (s.setRsv r v).msgWait = s.msgWait := rfl
@[simp] theorem setRsv_causes (s : State) (r : Nat) (v : Rsv) : (s.setRsv r v).causes = s.causes := rfl
@[simp] theorem setRsv_slots (s : State) (r : Nat) (v : Rsv) : (s.setRsv r v).slots = s.slots := rfl
@[simp] theorem setRsv_stuDrops (s : State) (r : Nat) (v : Rsv) : (s.setRsv r v).stuDrops = s.stuDrops := rfl
@[simp] theorem setRsv_kernelJob (s : State) (r : Nat) (v : Rsv) : (s.setRsv r v).kernelJob = s.kernelJob := rfl
@[simp] theorem setRsv_groups (s : State) (r : Nat) (v : Rsv) : (s.setRsv r v).groups = s.groups := rfl
@[simp] theorem setRsv_groupPend (s : State) (r : Nat) (v : Rsv) : (s.setRsv r v).groupPend = s.groupPend := rfl
@[simp] theorem setRsv_colls (s : State) (r : Nat) (v : Rsv) : (s.setRsv r v).colls = s.colls := rfl
@[simp] theorem setRsv_nextColl (s : State) (r : Nat) (v : Rsv) : (s.setRsv r v).nextColl = s.nextColl := rfl
@[simp] theorem setRsv_collWaits (s : State) (r : Nat) (v : Rsv) : (s.setRsv r v).collWaits = s.collWaits := rfl
@[simp] theorem setRsv_readies (s : State) (r : Nat) (v : Rsv) : (s.setRsv r v).readies = s.readies := rfl
@[simp] theorem setRsv_endJobs (s : State) (r : Nat) (v : Rsv) : (s.setRsv r v).endJobs = s.endJobs := rfl
@[simp] theorem setRsv_mg (s : State) (r : Nat) (v : Rsv) : (s.setRsv r v).mg = s.mg := rfl
@[simp] theorem setRsv_out (s : State) (r : Nat) (v : Rsv) : (s.setRsv r v).out = s.out := rfl

/-! setColl. -/

@[simp] theorem setColl_pending (s : State) (c : Coll) : (s.setColl c).pending = s.pending := rfl
@[simp] theorem setColl_clock (s : State) (c : Coll) : (s.setColl c).clock = s.clock := rfl
@[simp] theorem setColl_freeCtr (s : State) (c : Coll) : (s.setColl c).freeCtr = s.freeCtr := rfl
@[simp] theorem setColl_regs (s : State) (c : Coll) : (s.setColl c).regs = s.regs := rfl
@[simp] theorem setColl_mem (s : State) (c : Coll) : (s.setColl c).mem = s.mem := rfl
@[simp] theorem setColl_memBad (s : State) (c : Coll) : (s.setColl c).memBad = s.memBad := rfl
@[simp] theorem setColl_gone (s : State) (c : Coll) : (s.setColl c).gone = s.gone := rfl
@[simp] theorem setColl_kept (s : State) (c : Coll) : (s.setColl c).kept = s.kept := rfl
@[simp] theorem setColl_corrected (s : State) (c : Coll) : (s.setColl c).corrected = s.corrected := rfl
@[simp] theorem setColl_cores (s : State) (c : Coll) : (s.setColl c).cores = s.cores := rfl
@[simp] theorem setColl_pools (s : State) (c : Coll) : (s.setColl c).pools = s.pools := rfl
@[simp] theorem setColl_reqs (s : State) (c : Coll) : (s.setColl c).reqs = s.reqs := rfl
@[simp] theorem setColl_unsent (s : State) (c : Coll) : (s.setColl c).unsent = s.unsent := rfl
@[simp] theorem setColl_inj (s : State) (c : Coll) : (s.setColl c).inj = s.inj := rfl
@[simp] theorem setColl_injHold (s : State) (c : Coll) : (s.setColl c).injHold = s.injHold := rfl
@[simp] theorem setColl_works (s : State) (c : Coll) : (s.setColl c).works = s.works := rfl
@[simp] theorem setColl_nextWork (s : State) (c : Coll) : (s.setColl c).nextWork = s.nextWork := rfl
@[simp] theorem setColl_due (s : State) (c : Coll) : (s.setColl c).due = s.due := rfl
@[simp] theorem setColl_sqs (s : State) (c : Coll) : (s.setColl c).sqs = s.sqs := rfl
@[simp] theorem setColl_cqs (s : State) (c : Coll) : (s.setColl c).cqs = s.cqs := rfl
@[simp] theorem setColl_evr (s : State) (c : Coll) : (s.setColl c).evr = s.evr := rfl
@[simp] theorem setColl_lastSq (s : State) (c : Coll) : (s.setColl c).lastSq = s.lastSq := rfl
@[simp] theorem setColl_lines (s : State) (c : Coll) : (s.setColl c).lines = s.lines := rfl
@[simp] theorem setColl_wants (s : State) (c : Coll) : (s.setColl c).wants = s.wants := rfl
@[simp] theorem setColl_msix (s : State) (c : Coll) : (s.setColl c).msix = s.msix := rfl
@[simp] theorem setColl_vmask (s : State) (c : Coll) : (s.setColl c).vmask = s.vmask := rfl
@[simp] theorem setColl_evq (s : State) (c : Coll) : (s.setColl c).evq = s.evq := rfl
@[simp] theorem setColl_perst (s : State) (c : Coll) : (s.setColl c).perst = s.perst := rfl
@[simp] theorem setColl_ringsUp (s : State) (c : Coll) : (s.setColl c).ringsUp = s.ringsUp := rfl
@[simp] theorem setColl_snoops (s : State) (c : Coll) : (s.setColl c).snoops = s.snoops := rfl
@[simp] theorem setColl_biWait (s : State) (c : Coll) : (s.setColl c).biWait = s.biWait := rfl
@[simp] theorem setColl_hdmLost (s : State) (c : Coll) : (s.setColl c).hdmLost = s.hdmLost := rfl
@[simp] theorem setColl_lost (s : State) (c : Coll) : (s.setColl c).lost = s.lost := rfl
@[simp] theorem setColl_nextTag (s : State) (c : Coll) : (s.setColl c).nextTag = s.nextTag := rfl
@[simp] theorem setColl_flows (s : State) (c : Coll) : (s.setColl c).flows = s.flows := rfl
@[simp] theorem setColl_hostMem (s : State) (c : Coll) : (s.setColl c).hostMem = s.hostMem := rfl
@[simp] theorem setColl_launchQ (s : State) (c : Coll) : (s.setColl c).launchQ = s.launchQ := rfl
@[simp] theorem setColl_ev (s : State) (c : Coll) : (s.setColl c).ev = s.ev := rfl
@[simp] theorem setColl_mirrorStep (s : State) (c : Coll) : (s.setColl c).mirrorStep = s.mirrorStep := rfl
@[simp] theorem setColl_repairs (s : State) (c : Coll) : (s.setColl c).repairs = s.repairs := rfl
@[simp] theorem setColl_xchkCount (s : State) (c : Coll) : (s.setColl c).xchkCount = s.xchkCount := rfl
@[simp] theorem setColl_caps (s : State) (c : Coll) : (s.setColl c).caps = s.caps := rfl
@[simp] theorem setColl_rowHits (s : State) (c : Coll) : (s.setColl c).rowHits = s.rowHits := rfl
@[simp] theorem setColl_links (s : State) (c : Coll) : (s.setColl c).links = s.links := rfl
@[simp] theorem setColl_lanes (s : State) (c : Coll) : (s.setColl c).lanes = s.lanes := rfl
@[simp] theorem setColl_pllLol (s : State) (c : Coll) : (s.setColl c).pllLol = s.pllLol := rfl
@[simp] theorem setColl_quadMis (s : State) (c : Coll) : (s.setColl c).quadMis = s.quadMis := rfl
@[simp] theorem setColl_recs (s : State) (c : Coll) : (s.setColl c).recs = s.recs := rfl
@[simp] theorem setColl_boots (s : State) (c : Coll) : (s.setColl c).boots = s.boots := rfl
@[simp] theorem setColl_buf (s : State) (c : Coll) : (s.setColl c).buf = s.buf := rfl
@[simp] theorem setColl_nextFrame (s : State) (c : Coll) : (s.setColl c).nextFrame = s.nextFrame := rfl
@[simp] theorem setColl_nextJoin (s : State) (c : Coll) : (s.setColl c).nextJoin = s.nextJoin := rfl
@[simp] theorem setColl_cells (s : State) (c : Coll) : (s.setColl c).cells = s.cells := rfl
@[simp] theorem setColl_sharedUsed (s : State) (c : Coll) : (s.setColl c).sharedUsed = s.sharedUsed := rfl
@[simp] theorem setColl_gminEff (s : State) (c : Coll) : (s.setColl c).gminEff = s.gminEff := rfl
@[simp] theorem setColl_fences (s : State) (c : Coll) : (s.setColl c).fences = s.fences := rfl
@[simp] theorem setColl_sched (s : State) (c : Coll) : (s.setColl c).sched = s.sched := rfl
@[simp] theorem setColl_rsv (s : State) (c : Coll) : (s.setColl c).rsv = s.rsv := rfl
@[simp] theorem setColl_deliv (s : State) (c : Coll) : (s.setColl c).deliv = s.deliv := rfl
@[simp] theorem setColl_msgWait (s : State) (c : Coll) : (s.setColl c).msgWait = s.msgWait := rfl
@[simp] theorem setColl_causes (s : State) (c : Coll) : (s.setColl c).causes = s.causes := rfl
@[simp] theorem setColl_slots (s : State) (c : Coll) : (s.setColl c).slots = s.slots := rfl
@[simp] theorem setColl_stuDrops (s : State) (c : Coll) : (s.setColl c).stuDrops = s.stuDrops := rfl
@[simp] theorem setColl_kernelJob (s : State) (c : Coll) : (s.setColl c).kernelJob = s.kernelJob := rfl
@[simp] theorem setColl_groups (s : State) (c : Coll) : (s.setColl c).groups = s.groups := rfl
@[simp] theorem setColl_groupPend (s : State) (c : Coll) : (s.setColl c).groupPend = s.groupPend := rfl
@[simp] theorem setColl_nextColl (s : State) (c : Coll) : (s.setColl c).nextColl = s.nextColl := rfl
@[simp] theorem setColl_collWaits (s : State) (c : Coll) : (s.setColl c).collWaits = s.collWaits := rfl
@[simp] theorem setColl_readies (s : State) (c : Coll) : (s.setColl c).readies = s.readies := rfl
@[simp] theorem setColl_endJobs (s : State) (c : Coll) : (s.setColl c).endJobs = s.endJobs := rfl
@[simp] theorem setColl_mg (s : State) (c : Coll) : (s.setColl c).mg = s.mg := rfl
@[simp] theorem setColl_out (s : State) (c : Coll) : (s.setColl c).out = s.out := rfl

/-! setWork. -/

@[simp] theorem setWork_pending (s : State) (w : Work) : (s.setWork w).pending = s.pending := rfl
@[simp] theorem setWork_clock (s : State) (w : Work) : (s.setWork w).clock = s.clock := rfl
@[simp] theorem setWork_freeCtr (s : State) (w : Work) : (s.setWork w).freeCtr = s.freeCtr := rfl
@[simp] theorem setWork_regs (s : State) (w : Work) : (s.setWork w).regs = s.regs := rfl
@[simp] theorem setWork_mem (s : State) (w : Work) : (s.setWork w).mem = s.mem := rfl
@[simp] theorem setWork_memBad (s : State) (w : Work) : (s.setWork w).memBad = s.memBad := rfl
@[simp] theorem setWork_gone (s : State) (w : Work) : (s.setWork w).gone = s.gone := rfl
@[simp] theorem setWork_kept (s : State) (w : Work) : (s.setWork w).kept = s.kept := rfl
@[simp] theorem setWork_corrected (s : State) (w : Work) : (s.setWork w).corrected = s.corrected := rfl
@[simp] theorem setWork_cores (s : State) (w : Work) : (s.setWork w).cores = s.cores := rfl
@[simp] theorem setWork_pools (s : State) (w : Work) : (s.setWork w).pools = s.pools := rfl
@[simp] theorem setWork_reqs (s : State) (w : Work) : (s.setWork w).reqs = s.reqs := rfl
@[simp] theorem setWork_unsent (s : State) (w : Work) : (s.setWork w).unsent = s.unsent := rfl
@[simp] theorem setWork_inj (s : State) (w : Work) : (s.setWork w).inj = s.inj := rfl
@[simp] theorem setWork_injHold (s : State) (w : Work) : (s.setWork w).injHold = s.injHold := rfl
@[simp] theorem setWork_nextWork (s : State) (w : Work) : (s.setWork w).nextWork = s.nextWork := rfl
@[simp] theorem setWork_due (s : State) (w : Work) : (s.setWork w).due = s.due := rfl
@[simp] theorem setWork_sqs (s : State) (w : Work) : (s.setWork w).sqs = s.sqs := rfl
@[simp] theorem setWork_cqs (s : State) (w : Work) : (s.setWork w).cqs = s.cqs := rfl
@[simp] theorem setWork_evr (s : State) (w : Work) : (s.setWork w).evr = s.evr := rfl
@[simp] theorem setWork_lastSq (s : State) (w : Work) : (s.setWork w).lastSq = s.lastSq := rfl
@[simp] theorem setWork_lines (s : State) (w : Work) : (s.setWork w).lines = s.lines := rfl
@[simp] theorem setWork_wants (s : State) (w : Work) : (s.setWork w).wants = s.wants := rfl
@[simp] theorem setWork_msix (s : State) (w : Work) : (s.setWork w).msix = s.msix := rfl
@[simp] theorem setWork_vmask (s : State) (w : Work) : (s.setWork w).vmask = s.vmask := rfl
@[simp] theorem setWork_evq (s : State) (w : Work) : (s.setWork w).evq = s.evq := rfl
@[simp] theorem setWork_perst (s : State) (w : Work) : (s.setWork w).perst = s.perst := rfl
@[simp] theorem setWork_ringsUp (s : State) (w : Work) : (s.setWork w).ringsUp = s.ringsUp := rfl
@[simp] theorem setWork_snoops (s : State) (w : Work) : (s.setWork w).snoops = s.snoops := rfl
@[simp] theorem setWork_biWait (s : State) (w : Work) : (s.setWork w).biWait = s.biWait := rfl
@[simp] theorem setWork_hdmLost (s : State) (w : Work) : (s.setWork w).hdmLost = s.hdmLost := rfl
@[simp] theorem setWork_lost (s : State) (w : Work) : (s.setWork w).lost = s.lost := rfl
@[simp] theorem setWork_nextTag (s : State) (w : Work) : (s.setWork w).nextTag = s.nextTag := rfl
@[simp] theorem setWork_flows (s : State) (w : Work) : (s.setWork w).flows = s.flows := rfl
@[simp] theorem setWork_hostMem (s : State) (w : Work) : (s.setWork w).hostMem = s.hostMem := rfl
@[simp] theorem setWork_launchQ (s : State) (w : Work) : (s.setWork w).launchQ = s.launchQ := rfl
@[simp] theorem setWork_ev (s : State) (w : Work) : (s.setWork w).ev = s.ev := rfl
@[simp] theorem setWork_mirrorStep (s : State) (w : Work) : (s.setWork w).mirrorStep = s.mirrorStep := rfl
@[simp] theorem setWork_repairs (s : State) (w : Work) : (s.setWork w).repairs = s.repairs := rfl
@[simp] theorem setWork_xchkCount (s : State) (w : Work) : (s.setWork w).xchkCount = s.xchkCount := rfl
@[simp] theorem setWork_caps (s : State) (w : Work) : (s.setWork w).caps = s.caps := rfl
@[simp] theorem setWork_rowHits (s : State) (w : Work) : (s.setWork w).rowHits = s.rowHits := rfl
@[simp] theorem setWork_links (s : State) (w : Work) : (s.setWork w).links = s.links := rfl
@[simp] theorem setWork_lanes (s : State) (w : Work) : (s.setWork w).lanes = s.lanes := rfl
@[simp] theorem setWork_pllLol (s : State) (w : Work) : (s.setWork w).pllLol = s.pllLol := rfl
@[simp] theorem setWork_quadMis (s : State) (w : Work) : (s.setWork w).quadMis = s.quadMis := rfl
@[simp] theorem setWork_recs (s : State) (w : Work) : (s.setWork w).recs = s.recs := rfl
@[simp] theorem setWork_boots (s : State) (w : Work) : (s.setWork w).boots = s.boots := rfl
@[simp] theorem setWork_buf (s : State) (w : Work) : (s.setWork w).buf = s.buf := rfl
@[simp] theorem setWork_nextFrame (s : State) (w : Work) : (s.setWork w).nextFrame = s.nextFrame := rfl
@[simp] theorem setWork_nextJoin (s : State) (w : Work) : (s.setWork w).nextJoin = s.nextJoin := rfl
@[simp] theorem setWork_cells (s : State) (w : Work) : (s.setWork w).cells = s.cells := rfl
@[simp] theorem setWork_sharedUsed (s : State) (w : Work) : (s.setWork w).sharedUsed = s.sharedUsed := rfl
@[simp] theorem setWork_gminEff (s : State) (w : Work) : (s.setWork w).gminEff = s.gminEff := rfl
@[simp] theorem setWork_fences (s : State) (w : Work) : (s.setWork w).fences = s.fences := rfl
@[simp] theorem setWork_sched (s : State) (w : Work) : (s.setWork w).sched = s.sched := rfl
@[simp] theorem setWork_rsv (s : State) (w : Work) : (s.setWork w).rsv = s.rsv := rfl
@[simp] theorem setWork_deliv (s : State) (w : Work) : (s.setWork w).deliv = s.deliv := rfl
@[simp] theorem setWork_msgWait (s : State) (w : Work) : (s.setWork w).msgWait = s.msgWait := rfl
@[simp] theorem setWork_causes (s : State) (w : Work) : (s.setWork w).causes = s.causes := rfl
@[simp] theorem setWork_slots (s : State) (w : Work) : (s.setWork w).slots = s.slots := rfl
@[simp] theorem setWork_stuDrops (s : State) (w : Work) : (s.setWork w).stuDrops = s.stuDrops := rfl
@[simp] theorem setWork_kernelJob (s : State) (w : Work) : (s.setWork w).kernelJob = s.kernelJob := rfl
@[simp] theorem setWork_groups (s : State) (w : Work) : (s.setWork w).groups = s.groups := rfl
@[simp] theorem setWork_groupPend (s : State) (w : Work) : (s.setWork w).groupPend = s.groupPend := rfl
@[simp] theorem setWork_colls (s : State) (w : Work) : (s.setWork w).colls = s.colls := rfl
@[simp] theorem setWork_nextColl (s : State) (w : Work) : (s.setWork w).nextColl = s.nextColl := rfl
@[simp] theorem setWork_collWaits (s : State) (w : Work) : (s.setWork w).collWaits = s.collWaits := rfl
@[simp] theorem setWork_readies (s : State) (w : Work) : (s.setWork w).readies = s.readies := rfl
@[simp] theorem setWork_endJobs (s : State) (w : Work) : (s.setWork w).endJobs = s.endJobs := rfl
@[simp] theorem setWork_mg (s : State) (w : Work) : (s.setWork w).mg = s.mg := rfl
@[simp] theorem setWork_out (s : State) (w : Work) : (s.setWork w).out = s.out := rfl

/-! What each writes. -/

theorem rput_regs (s : State) (o : Nat) (v : Word) : (s.rput o v).regs = tabSet regReset s.regs o v := rfl
theorem mput_mem (s : State) (k : Nat) (b : Byte) : (s.mput k b).mem = tabSet memDefault s.mem k b := rfl
@[simp] theorem emit_out (s : State) (x : Output) : (s.emit x).out = s.out ++ [x] := rfl
theorem setCore_cores (s : State) (n : Nat) (c : Core) : (s.setCore n c).cores = tabSet (fun _ => coreReset) s.cores n c := rfl
@[simp] theorem setMg_mg (s : State) (f : Mgmt → Mgmt) : (s.setMg f).mg = f s.mg := rfl
@[simp] theorem setMg_setMg (s : State) (f g : Mgmt → Mgmt) : (s.setMg f).setMg g = s.setMg fun m => g (f m) := rfl
@[simp] theorem draw_freeCtr (s : State) : s.draw.2.freeCtr = s.freeCtr + 1 := rfl

end Sys2Proof.Machine
end

