-- ==== Sys2Proof/Laws/Memory.lean ====
section
/-! SUPPORT. The laws of memory and of the registers: reading after writing, and that every memory operation keeps
the canonical form. -/

namespace Sys2Proof.Machine

/-! Memory. -/

theorem memWf_iff {s : State} : s.memWf = true ↔ tabWf memDefault s.mem = true ∧ tabWf (fun _ => false) s.kept = true := by
  unfold State.memWf; exact Bool.and_eq_true_iff

/-- A byte that has been written is no longer one that its stack lost. -/
theorem stale_mput {s : State} (h : s.memWf = true) (k j : Nat) (b : Byte) : (s.mput k b).stale j = (s.stale j && decide (j ≠ k)) := by
  have hk : tabGet (fun _ => false) (s.mput k b).kept j = (tabGet (fun _ => false) s.kept j || (s.stale k && decide (j = k))) := by
    show tabGet (fun _ => false) (if s.stale k = true then tabSet (fun _ => false) s.kept k true else s.kept) j = _
    split
    · rename_i e
      rw [tabGet_tabSet (memWf_iff.mp h).2, e]
      by_cases hj : j = k <;> simp [hj]
    · rename_i e; rw [Bool.not_eq_true] at e; rw [e]; simp
  unfold State.stale at hk ⊢
  rw [hk]
  by_cases hj : j = k
  · subst hj
    simp only [mput_gone, decide_true, ne_eq, not_true_eq_false, decide_false, Bool.and_true, Bool.and_false]
    generalize (!s.gone.isEmpty && keyTier j == 1 && tabGet (fun _ => 0) s.gone (keyStack j) != 0) = a
    cases a <;> cases tabGet (fun _ => false) s.kept j <;> rfl
  · simp only [mput_gone, hj, decide_false, Bool.and_false, Bool.or_false, ne_eq, not_false_eq_true, decide_true, Bool.and_true]

/-- Reading a byte after writing one. -/
theorem mget_mput {s : State} (h : s.memWf = true) (k j : Nat) (b : Byte) :
    (s.mput k b).mget j = if j = k then b else s.mget j := by
  unfold State.mget
  rw [stale_mput h]
  have hm : tabGet memDefault (s.mput k b).mem j = if j = k then b else tabGet memDefault s.mem j := tabGet_tabSet (memWf_iff.mp h).1 j
  rw [hm, mput_gone]
  by_cases hj : j = k <;> simp [hj]

theorem mput_memWf {s : State} (h : s.memWf = true) (k : Nat) (b : Byte) : (s.mput k b).memWf = true := by
  rw [memWf_iff] at h ⊢
  refine ⟨tabSet_wf h.1, ?_⟩
  show tabWf (fun _ => false) (if s.stale k = true then tabSet (fun _ => false) s.kept k true else s.kept) = true
  split
  · exact tabSet_wf h.2
  · exact h.2

theorem mputs_memWf (ws : Writes) : ∀ {s : State}, s.memWf = true → (s.mputs ws).memWf = true := by
  induction ws with
  | nil => intro s h; exact h
  | cons x t ih => intro s h; exact ih (mput_memWf h x.1 x.2)

theorem mputBytes_memWf {s : State} (h : s.memWf = true) (k : Nat) (l : List Byte) : (s.mputBytes k l).memWf = true :=
  mputs_memWf _ h

theorem mputWord_memWf {s : State} (h : s.memWf = true) (k : Nat) (w : Word) : (s.mputWord k w).memWf = true :=
  mputs_memWf _ h

/-- Memory right after reset is in canonical form. -/
theorem reset_memWf : State.reset.memWf = true := rfl

/-- A run of writes changes memory, its code words and what it holds of lost stacks alone. -/
theorem mputs_frame (ws : Writes) : ∀ s : State,
    s.mputs ws = { s with mem := (s.mputs ws).mem, memBad := (s.mputs ws).memBad, kept := (s.mputs ws).kept } := by
  induction ws with
  | nil => intro s; rfl
  | cons x t ih => intro s; rw [State.mputs, ih]; rfl

@[simp] theorem mputs_regs (s : State) (ws : Writes) : (s.mputs ws).regs = s.regs := by rw [mputs_frame]
@[simp] theorem mputs_cores (s : State) (ws : Writes) : (s.mputs ws).cores = s.cores := by rw [mputs_frame]
@[simp] theorem mputs_pending (s : State) (ws : Writes) : (s.mputs ws).pending = s.pending := by rw [mputs_frame]

/-- A byte that a run of writes does not name reads as before. -/
theorem mget_mputs_other (ws : Writes) : ∀ {s : State} {j : Nat}, s.memWf = true → (∀ x ∈ ws, x.1 ≠ j) → (s.mputs ws).mget j = s.mget j := by
  induction ws with
  | nil => intros; rfl
  | cons x t ih =>
    intro s j h hj
    rw [State.mputs, ih (mput_memWf h x.1 x.2) fun y hy => hj y (List.mem_cons_of_mem _ hy), mget_mput h,
      if_neg fun e => hj x (List.mem_cons_self ..) e.symm]

/-- Host memory keeps its form too. -/
theorem hputBytes_wf {s : State} (h : tabWf memDefault s.hostMem = true) (k : Nat) (l : List Byte) :
    tabWf memDefault (s.hputBytes k l).hostMem = true := by
  unfold State.hputBytes
  generalize placeAt k l = ws
  show tabWf memDefault (ws.foldl _ s.hostMem) = true
  generalize s.hostMem = m at h
  induction ws generalizing m with
  | nil => exact h
  | cons x t ih => exact ih _ (tabSet_wf h)

/-! Registers. -/

/-- Reading a register after writing one. -/
theorem rget_rput {s : State} (h : RegsWf s) (o p : Nat) (v : Word) : (s.rput o v).rget p = if p = o then v else s.rget p :=
  tabGet_tabSet h p

theorem rput_wf {s : State} (h : RegsWf s) (o : Nat) (v : Word) : RegsWf (s.rput o v) := tabSet_wf h

/-- A second write of a register replaces the first. -/
theorem rput_rput {s : State} (h : RegsWf s) (o : Nat) (v w : Word) : (s.rput o v).rput o w = s.rput o w := by
  unfold State.rput
  simp only [tabSet_tabSet (show tabWf regReset s.regs = true from h)]

/-- A command that only reads a register that another command writes reads it as before. -/
theorem rget_rput_other {s : State} (h : RegsWf s) {o p : Nat} (v : Word) (hp : p ≠ o) : (s.rput o v).rget p = s.rget p := by
  rw [rget_rput h, if_neg hp]

theorem rsetFld_wf {s : State} (h : RegsWf s) (o hi lo n : Nat) : RegsWf (s.rsetFld o hi lo n) := rput_wf h ..
theorem rsetBit_wf {s : State} (h : RegsWf s) (o i : Nat) (b : Bool) : RegsWf (s.rsetBit o i b) := rput_wf h ..
theorem rcount_wf {s : State} (h : RegsWf s) (o hi lo k : Nat) : RegsWf (s.rcount o hi lo k) := rput_wf h ..

theorem rget_rsetFld {s : State} (h : RegsWf s) (o hi lo n p : Nat) :
    (s.rsetFld o hi lo n).rget p = if p = o then setFld (s.rget o) hi lo n else s.rget p := rget_rput h ..

theorem rget_rcount {s : State} (h : RegsWf s) (o hi lo k p : Nat) (hp : p ≠ o) : (s.rcount o hi lo k).rget p = s.rget p := by
  rw [State.rcount, rget_rsetFld h, if_neg hp]

/-- The field that was written. -/
theorem rfld_rsetFld {s : State} (h : RegsWf s) (o hi lo n : Nat) (hh : hi < 64) (hl : lo ≤ hi) :
    (s.rsetFld o hi lo n).rfld o hi lo = n % 2 ^ (hi + 1 - lo) := by
  unfold State.rfld
  rw [rget_rsetFld h, if_pos rfl, fld_setFld _ _ _ _ hh hl]

/-- A field of another register, or of other bits of this one. -/
theorem rfld_rsetFld_other {s : State} (h : RegsWf s) (o hi lo n p a b : Nat) (hh : hi < 64) (hd : p ≠ o ∨ a < lo ∨ hi < b) :
    (s.rsetFld o hi lo n).rfld p a b = s.rfld p a b := by
  unfold State.rfld
  rw [rget_rsetFld h]
  split
  · rename_i e; subst e
    exact fld_setFld_other _ _ _ _ _ _ hh (by omega)
  · rfl

theorem rbit_rsetFld_other {s : State} (h : RegsWf s) (o hi lo n p i : Nat) (hh : hi < 64) (hd : p ≠ o ∨ i < lo ∨ hi < i) :
    (s.rsetFld o hi lo n).rbit p i = s.rbit p i := by
  unfold State.rbit
  rw [rget_rsetFld h]
  split
  · rename_i e; subst e
    exact bit_setFld_other _ _ _ _ _ hh (by omega)
  · rfl

/-- Raising an event touches the event registers and the latch alone. -/
theorem raise_frame (s : State) (c v : Nat) (it : List (Nat × Nat)) :
    s.raise c v it = { s with regs := (s.raise c v it).regs, ev := (s.raise c v it).ev } := by
  unfold State.raise
  dsimp only
  repeat' split
  all_goals rfl

end Sys2Proof.Machine
end

