-- ==== Sys2Proof/Laws/Issue.lean ====
section
/-! SUPPORT. What issuing a command of each engine does when nothing halts it: one lemma per shared operation. -/

namespace Sys2Proof.Machine

theorem badIn_clean {s : State} (h : Clean s) (k l : Nat) : s.badIn k l = [] := by
  unfold Clean at h; unfold State.badIn; rw [h]; rfl

/-- The halt conditions of a VEC plan. -/
theorem vecPlan_faults (s n w offs kind srcs dOk dCols val) :
    (vecPlan s n w offs kind srcs dOk dCols val).faults = vecFaults s n w offs srcs dOk dCols := by
  unfold vecPlan; dsimp only; split <;> rfl

/-- A VEC command that nothing halts leaves its flight and nothing else. -/
theorem vecIssue_go {s : State} {n op : Nat} {kind srcs dOk dCols val} (h : Ready s n op) (hc : Clean (landed s n))
    (hf : vecHalts s n (srcs (nextCmd s n)) dOk (dCols (nextCmd s n)) = []) :
    vecIssue s n op kind srcs dOk dCols val =
      let p := vecPlan (landed s n) n (nextCmd s n) (offsAt s n) kind (srcs (nextCmd s n)) dOk (dCols (nextCmd s n)) (val (nextCmd s n))
      .next ((landed s n).setCore n (gone ((landed s n).core n) (nextCmd s n) (issueAt s n) p.occ (flightOf ((landed s n).core n) p (issueAt s n) (nextCmd s n) (offsAt s n)))) := by
  unfold vecIssue
  rw [issueCmd_go h]
  dsimp only
  rw [issuePlan_gone h.2.2.2.2.2.2.2.2 (by rw [← hf]; exact vecPlan_faults ..), meetGot_clean hc]
  rfl

/-- What a VEC plan holds when nothing halts it. -/
theorem vecPlan_ok {s n w offs kind srcs dOk dCols val}
    (hf : vecFaults s n w offs srcs dOk dCols = []) :
    let p := vecPlan s n w offs kind srcs dOk dCols val
    let gA := resolve s (s.core n) n w offs 2 (cDim0 w) (cDim1 w)
    let gB := resolve s (s.core n) n w offs 3 (cDim0 w) (cDim1 w)
    let gD := resolve s (s.core n) n w offs 1 (cDim0 w) dCols
    let v := val s.view gD.opd gA.opd gB.opd
    p.occ = (vecTimes kind (cDim0 w) (cDim1 w)).1 ∧ p.wv = (vecTimes kind (cDim0 w) (cDim1 w)).2.2 ∧ p.vlat = false ∧
    p.writes = (writeTensor gD.opd (cWriteMode w) (cDim0 w) dCols (fun r q => (v r q).1)).1 ∧
    p.flags = (rowMajor (cDim0 w) dCols).foldl (fun a x => addFlags a (v x.1 x.2).2)
      (writeTensor gD.opd (cWriteMode w) (cDim0 w) dCols (fun r q => (v r q).1)).2 ∧ p.scalars = [] ∧ p.preds = [] ∧ p.semAdd = [] ∧
    p.amax = (if cAmaxS w = 0 then none
      else some (cAmaxS w, amaxImage (amaxOf ((rowMajor (cDim0 w) dCols).map fun x => (v x.1 x.2).1)))) := by
  unfold vecPlan
  simp only [hf, ne_eq, not_true, if_false]
  exact ⟨trivial, trivial, trivial, trivial, trivial, trivial, trivial, trivial, trivial⟩

/-- A VEC command issues, and its flight holds the values of its elements. -/
theorem vec_gen {s : State} {n op : Nat} {kind srcs dOk dCols val} (h : Ready s n op) (hc : Clean (landed s n))
    (hf : vecHalts s n (srcs (nextCmd s n)) dOk (dCols (nextCmd s n)) = []) :
    ∃ t f, vecIssue s n op kind srcs dOk dCols val = .next t ∧
      Issues s n (vecTimes kind (cDim0 (nextCmd s n)) (cDim1 (nextCmd s n))).1 f t ∧
      VecFlight s n (dCols (nextCmd s n)) (vecTimes kind (cDim0 (nextCmd s n)) (cDim1 (nextCmd s n))).2.2
        (fun r q => (val (nextCmd s n) (landed s n).view (opdAt s n 1 (cDim0 (nextCmd s n)) (dCols (nextCmd s n))).opd
          (opdAt s n 2 (cDim0 (nextCmd s n)) (cDim1 (nextCmd s n))).opd (opdAt s n 3 (cDim0 (nextCmd s n)) (cDim1 (nextCmd s n))).opd r q)) f := by
  rw [vecIssue_go h hc hf]
  obtain ⟨a, b, c, d, l, e, f, g, i⟩ := vecPlan_ok (kind := kind) (val := val (nextCmd s n)) hf
  refine ⟨_, flightOf ((landed s n).core n) (vecPlan (landed s n) n (nextCmd s n) (offsAt s n) kind (srcs (nextCmd s n)) dOk (dCols (nextCmd s n)) (val (nextCmd s n))) (issueAt s n) (nextCmd s n) (offsAt s n), rfl, ⟨?_, rfl, rfl, rfl, rfl, rfl, rfl⟩, ?_⟩
  · rw [a]
  · refine ⟨c, ?_, d, l, e, f, g, i⟩
    rw [← b]; rfl

/-- The halt conditions of VEC.UPD. -/
theorem updPlan_faults (s n w offs) : (updPlan s n w offs).faults = (updOf s (s.core n) n w offs).2.2.2 := by simp only [updPlan]

/-- Sampling counts the product and, unless a capture falls due, does nothing else. -/
theorem xchkSample_counted (s : State) (n w offs dims srcs dsts bank idx writes) :
    Counted s (xchkSample s n w offs dims srcs dsts bank idx writes) := by
  unfold xchkSample
  dsimp only
  have hr : State.rbit { s with xchkCount := s.xchkCount + 1 } Reg.twnXchkCfg 0 = s.rbit Reg.twnXchkCfg 0 := rfl
  have hk : State.captureKey { s with xchkCount := s.xchkCount + 1 } 0 = s.captureKey 0 := rfl
  split
  · exact ⟨rfl, fun _ => rfl⟩
  · rename_i h
    simp only [Bool.or_eq_true, bne_iff_ne, decide_eq_true_eq, not_or, hr, Bool.not_eq_true'] at h
    split
    · exact ⟨rfl, fun _ => rfl⟩
    · rename_i k hk'
      have no : ¬ (s.rbit Reg.twnXchkCfg 0 = false ∨ s.captureKey 0 = none ∨ (s.xchkCount + 1) % 2 ^ max 8 (s.rfld Reg.twnXchkCfg 5 1) ≠ 0) := by
        rw [hk] at hk'
        rintro (a | a | a)
        · exact h.1.1 a
        · rw [a] at hk'; cases hk'
        · exact h.1.2 a
      refine ⟨?_, fun a => absurd a no⟩
      split
      · split
        · rfl
        · rw [State.setCapture, State.mputBytes, mputs_frame, mputs_frame (placeAt _ _)]; rfl
      · rfl

/-- The halt conditions of a product. -/
theorem matPlan_faults (s n w offs pair) : (matPlan s n w offs pair).faults = matFaults s n w offs pair := by
  unfold matPlan; rfl

/-- A product that nothing halts leaves its flight and is counted. -/
theorem mat_gen {s : State} {n op : Nat} {pair : Bool} (h : Ready s n op) (hc : Clean (landed s n))
    (hf : matFaults (landed s n) n (nextCmd s n) (offsAt s n) pair = []) :
      let p := matPlan (landed s n) n (nextCmd s n) (offsAt s n) pair
      let t := (landed s n).setCore n (gone ((landed s n).core n) (nextCmd s n) (issueAt s n) p.occ (flightOf ((landed s n).core n) p (issueAt s n) (nextCmd s n) (offsAt s n)))
      ∃ u, matIssue s n op pair = .next u ∧ Counted t u := by
  unfold matIssue
  rw [issueCmd_go h]
  dsimp only
  rw [issuePlan_gone (p := matPlan (landed s n) n (nextCmd s n) (offsAt s n) pair) h.2.2.2.2.2.2.2.2 ((matPlan_faults ..).trans hf)]
  simp only [if_true]
  rw [meetGot_clean hc]
  exact ⟨_, rfl, xchkSample_counted ..⟩

/-- What the plan of a product holds when nothing halts it. -/
theorem matPlan_ok {s n w offs pair} (hf : matFaults s n w offs pair = []) :
   let p := matPlan s n w offs pair
   let o := matOcc (opdField (cOpd w 2)).fmt (opdField (cOpd w 3)).fmt (16 * cDim0 w) (16 * cDim1 w) (16 * cDim2 w)
   let g := matOperands s n w offs pair
   let r := if pair then mmpWrites s.view w g.d.opd g.l.opd g.a.opd g.b.opd else mmWrites s.view w g.d.opd g.a.opd g.b.opd
   p.occ = o ∧ p.vlat = false ∧ p.wv = o + (if pair then 48 else 32) ∧ p.writes = r.1 ∧ p.amax = (if cAmaxS w = 0 then none else some (cAmaxS w, amaxImage r.2.2)) := by
  unfold matPlan
  simp only [hf, ne_eq, not_true, if_false]
  exact ⟨trivial, trivial, trivial, trivial, trivial⟩

/-- The halt conditions of MAT.MMS. -/
theorem mmsPlan_faults (s n w g) : (mmsPlan s n w g).faults = mmsFaults s w g := by simp only [mmsPlan]

/-- A block-sparse product that nothing halts leaves its flight and nothing else. -/
theorem mms_gen {s : State} {n : Nat} (h : Ready s n 0x03) (hc : Clean (landed s n))
    (hf : mmsFaults (landed s n) (nextCmd s n) (mmsAt s n) = []) (hi : mmsInner (landed s n) n (nextCmd s n) (mmsAt s n) = []) :
    execMatMms n s =
      let p := mmsPlan (landed s n) n (nextCmd s n) (mmsAt s n)
      .next ((landed s n).setCore n (gone ((landed s n).core n) (nextCmd s n) (issueAt s n) p.occ (flightOf ((landed s n).core n) p (issueAt s n) (nextCmd s n) (offsAt s n)))) := by
  unfold execMatMms
  rw [issueCmd_go h]
  dsimp only
  rw [show mmsOperands (landed s n) n (nextCmd s n) (offsAt s n) = mmsAt s n from rfl]
  have hp : (mmsPlan (landed s n) n (nextCmd s n) (mmsAt s n)).faults = [] := by rw [mmsPlan_faults]; exact hf
  have hk := h.2.2.2.2.2.2.2.2
  rw [issuePlan_gone hk hp]
  simp only [hf, hi, Bool.not_true, Bool.false_eq_true, if_false, ite_self, lowestFault]
  rw [meetGot_clean hc]; rfl

/-- The halt conditions of a copying command. -/
theorem movPlan_faults (s n op occ w g) : (movPlan s n op occ w g).faults = movFaults s w g := by
  simp only [movPlan]; split <;> rfl

/-- A copying command within own Pewter leaves its flight and nothing else. -/
theorem mov_fixed {s : State} {n op occ : Nat} {errs : List (Nat × Bool)} (h : Ready s n op) (hc : Clean (landed s n)) (hs : (landed s n).snoops = [])
    (hr : (movAt s n).a.remote = false) (hx : movFixed op (movAt s n) = true)
    (hf : movFaults (landed s n) (nextCmd s n) (movAt s n) = []) :
    movIssue s n op occ errs =
      let p := movPlan (landed s n) n op occ (nextCmd s n) (movAt s n)
      .next (((landed s n).setCore n (gone ((landed s n).core n) (nextCmd s n) (issueAt s n) p.occ (flightOf ((landed s n).core n) p (issueAt s n) (nextCmd s n) (offsAt s n)))).meet errs) := by
  unfold movIssue
  rw [issueCmd_go h]
  dsimp only
  rw [show movOperands (landed s n) ((landed s n).core n) n (nextCmd s n) (offsAt s n) = movAt s n from rfl, gated_free hs]
  have hp : (movPlan (landed s n) n op occ (nextCmd s n) (movAt s n)).faults = [] := by rw [movPlan_faults]; exact hf
  have hk := h.2.2.2.2.2.2.2.2
  rw [issuePlan_gone hk hp]
  simp only [hr, hx, Bool.not_true, Bool.false_eq_true, if_false, if_true]
  rw [meetGot_clean hc, List.append_nil]

theorem wr_nil (s n fid b) : wrReqs s n fid b [] = [] := rfl

/-- Forming a copy whose writes are all local fills its flight and sends nothing. -/
theorem formMov_here {s : State} {n : Nat} {c : Core} {w : Cmd} {i occ : Nat} {f : Flight} (hw : CoresWf s) (hi : FreshIds c) (hf : f.id = c.nextFlight)
   (g : MovOpds) (hg : movOperands (s.setCore n (gone c w i occ f)) (coreAtIssue (gone c w i occ f) f) n f.cmd f.offs = g)
   (hv : viewWith (s.setCore n (gone c w i occ f)) f.got = s.view)
   (he : movEffect f.cmd s.view g.d g.a = movForm f.cmd s.view g.d.opd g.a.opd) (hfa : (movForm f.cmd s.view g.d.opd g.a.opd).faults = [])
   (hl : ∀ x ∈ (movForm f.cmd s.view g.d.opd g.a.opd).writes, x.1 < 2 ^ 64) :
   let e := movForm f.cmd s.view g.d.opd g.a.opd
   formMov (s.setCore n (gone c w i occ f)) n f = s.setCore n (gone c w i occ { f with
      writes := e.writes, flags := e.flags, formed := true, waiting := 0
      amax := match e.amax with | some v => if cAmaxS f.cmd = 0 then none else some (cAmaxS f.cmd, amaxImage v) | none => none }) := by
  have h1 : ∀ l : Writes, (∀ x ∈ l, x.1 < 2^64) → l.filter (fun x => decide (x.1 < 2^64)) = l := by
    intro l h; rw [List.filter_eq_self]; intro a ha; simpa using h a ha
  have h2 : ∀ l : Writes, (∀ x ∈ l, x.1 < 2^64) → l.filter (fun x => decide (2^64 ≤ x.1)) = [] := by
    intro l h; rw [List.filter_eq_nil_iff]; intro a ha; have := h a ha; simp; omega
  unfold formMov
  simp only [core_setCore hw, if_true]
  rw [hg, hv, he, hfa]
  simp only [lowestFault]
  rw [h1 _ hl, h2 _ hl, wr_nil]
  simp only [sendAll, List.find?_nil, List.foldl_nil, State.setFlight, core_setCore hw, if_true, setCore_setCore hw, List.length_nil]
  congr 1
  exact gone_map (g := { f with writes := _, flags := _, formed := true, waiting := 0, amax := _ }) hi hf hf

/-- A SYN command that nothing halts leaves its flight and nothing else. -/
theorem synIssue_go {s : State} {n op : Nat} {plan : Core → Cmd → Plan} (h : Ready s n op) (hf : (plan ((landed s n).core n) (nextCmd s n)).faults = []) :
   synIssue s n op plan =
      let p := plan ((landed s n).core n) (nextCmd s n)
      .next ((landed s n).setCore n (gone ((landed s n).core n) (nextCmd s n) (issueAt s n) p.occ (flightOf ((landed s n).core n) p (issueAt s n) (nextCmd s n) (offsAt s n)))) := by
  unfold synIssue
  rw [issueCmd_go h]
  dsimp only
  rw [issuePlan_gone h.2.2.2.2.2.2.2.2 hf]

/-- A control command leaves no flight: only its effect on the core, u being the module once what has to happen by its issue
has happened. -/
theorem controlIssue_pre {s u : State} {n op : Nat} {faults effect before} (h : Ready s n op) (hu : before (landed s n) = u)
   (hk : (u.core n).check = false) (hw : CoresWf u) (hi : FreshIds (u.core n)) (hf : faults (u.core n) (nextCmd s n) = []) :
   controlIssue s n op faults effect before = .next (u.setCore n (effect (u.core n) (issueAt s n) (nextCmd s n)
      { gone (u.core n) (nextCmd s n) (issueAt s n) 1 (flightOf (u.core n) (synPlan [] [] 0 0 0) (issueAt s n) (nextCmd s n) (offsAt s n)) with flights := (u.core n).flights })) := by
  unfold controlIssue
  rw [issueCmd_go h]
  dsimp only
  rw [hu, issuePlan_gone hk hf, hf]
  simp only [if_true, core_setCore hw, setCore_setCore hw, gone_flights]
  congr 5
  rw [List.filter_append]
  have e1 : (u.core n).flights.filter (fun f => f.id != (u.core n).nextFlight) = (u.core n).flights := by
    rw [List.filter_eq_self]; intro a ha; have := hi a ha; simp; omega
  rw [e1]; simp [flightOf]

/-- A control command that waits for nothing. -/
theorem controlIssue_go {s : State} {n op : Nat} {faults effect} (h : Ready s n op) (hw : CoresWf (landed s n)) (hi : FreshIds ((landed s n).core n))
   (hf : faults ((landed s n).core n) (nextCmd s n) = []) :
   controlIssue s n op faults effect = .next ((landed s n).setCore n (effect ((landed s n).core n) (issueAt s n) (nextCmd s n)
      { gone ((landed s n).core n) (nextCmd s n) (issueAt s n) 1 (flightOf ((landed s n).core n) (synPlan [] [] 0 0 0) (issueAt s n) (nextCmd s n) (offsAt s n)) with flights := ((landed s n).core n).flights })) :=
  controlIssue_pre h rfl h.2.2.2.2.2.2.2.2 hw hi hf

end Sys2Proof.Machine
end

