-- ==== Sys2Proof/Laws/Keeps.lean ====
section
/-! SUPPORT. What keeps the module's invariant and its queue: the rules, one for each way that an operation is written. -/

namespace Sys2Proof.Machine

/-- The invariant holds, and the queue is q. -/
def Keeps (q : List Instr) (s : State) : Prop := Inv s ∧ s.pending = q

/-- A command's answer keeps them. -/
def KeepsO (q : List Instr) (o : Host.Outcome State Fault Refusal) : Prop := ∀ t, o = .next t → Keeps q t

/-- What Keeps says, part by part. -/
def KeepsF (q : List Instr) (mem : Tab Byte) (kept : Tab Bool) (regs : Tab Word) (cores : Tab Core) (pools : Tab Pool) (lanes : Tab Lane)
    (rsv : Tab Rsv) (pending : List Instr) : Prop :=
  (tabWf memDefault mem && tabWf (fun _ => false) kept) = true ∧ tabWf regReset regs = true ∧ tabWf (fun _ => coreReset) cores = true ∧
    (∀ n, CoreOk (tabGet (fun _ => coreReset) cores n)) ∧ tabWf (fun _ => poolReset) pools = true ∧
    tabWf (fun _ => laneReset) lanes = true ∧ tabWf (fun _ => rsvReset) rsv = true ∧ pending = q

theorem Keeps.parts {q} {s : State} (h : Keeps q s) : KeepsF q s.mem s.kept s.regs s.cores s.pools s.lanes s.rsv s.pending :=
  ⟨h.1.mem, h.1.regs, h.1.cores, h.1.core, h.1.pools, h.1.lanes, h.1.rsv, h.2⟩

theorem Keeps.ofParts {q} {s : State} (h : KeepsF q s.mem s.kept s.regs s.cores s.pools s.lanes s.rsv s.pending) : Keeps q s :=
  ⟨⟨h.1, h.2.1, h.2.2.1, h.2.2.2.1, h.2.2.2.2.1, h.2.2.2.2.2.1, h.2.2.2.2.2.2.1⟩, h.2.2.2.2.2.2.2⟩

/-- A state written field by field. -/
theorem keeps_fields {q x_pending x_clock x_freeCtr x_regs x_mem x_memBad x_gone x_kept x_corrected x_cores x_pools x_reqs x_unsent
    x_inj x_injHold x_works x_nextWork x_due x_sqs x_cqs x_evr x_lastSq x_lines x_wants x_msix x_vmask x_evq
    x_perst x_ringsUp x_snoops x_biWait x_hdmLost x_lost x_nextTag x_flows x_hostMem x_launchQ x_ev x_mirrorStep
    x_repairs x_xchkCount x_caps x_rowHits x_links x_lanes x_pllLol x_quadMis x_recs x_boots x_buf x_nextFrame
    x_nextJoin x_cells x_sharedUsed x_gminEff x_fences x_sched x_rsv x_deliv x_msgWait x_causes x_slots x_stuDrops
    x_kernelJob x_groups x_groupPend x_colls x_nextColl x_collWaits x_readies x_endJobs x_mg x_out} :
    Keeps q (State.mk x_pending x_clock x_freeCtr x_regs x_mem x_memBad x_gone x_kept x_corrected x_cores x_pools x_reqs x_unsent
    x_inj x_injHold x_works x_nextWork x_due x_sqs x_cqs x_evr x_lastSq x_lines x_wants x_msix x_vmask x_evq
    x_perst x_ringsUp x_snoops x_biWait x_hdmLost x_lost x_nextTag x_flows x_hostMem x_launchQ x_ev x_mirrorStep
    x_repairs x_xchkCount x_caps x_rowHits x_links x_lanes x_pllLol x_quadMis x_recs x_boots x_buf x_nextFrame
    x_nextJoin x_cells x_sharedUsed x_gminEff x_fences x_sched x_rsv x_deliv x_msgWait x_causes x_slots x_stuDrops
    x_kernelJob x_groups x_groupPend x_colls x_nextColl x_collWaits x_readies x_endJobs x_mg x_out) = KeepsF q x_mem x_kept x_regs x_cores x_pools x_lanes x_rsv x_pending :=
  propext ⟨fun h => h.parts, fun h => Keeps.ofParts (s := State.mk x_pending x_clock x_freeCtr x_regs x_mem x_memBad x_gone x_kept x_corrected x_cores x_pools x_reqs x_unsent
    x_inj x_injHold x_works x_nextWork x_due x_sqs x_cqs x_evr x_lastSq x_lines x_wants x_msix x_vmask x_evq
    x_perst x_ringsUp x_snoops x_biWait x_hdmLost x_lost x_nextTag x_flows x_hostMem x_launchQ x_ev x_mirrorStep
    x_repairs x_xchkCount x_caps x_rowHits x_links x_lanes x_pllLol x_quadMis x_recs x_boots x_buf x_nextFrame
    x_nextJoin x_cells x_sharedUsed x_gminEff x_fences x_sched x_rsv x_deliv x_msgWait x_causes x_slots x_stuDrops
    x_kernelJob x_groups x_groupPend x_colls x_nextColl x_collWaits x_readies x_endJobs x_mg x_out) h⟩

theorem coreOk_fields {x_mode x_bank0 x_bank1 x_active x_index x_scalars x_preds x_sems x_num x_launch x_order x_check x_limit
    x_issued x_tp x_swapGate x_matEnd x_vecEnd x_movEnd x_synEnd x_rep x_block x_flights x_nextFlight x_pends
    x_ending x_haltCode x_haltDetail x_haltBank x_haltIndex x_second x_haltCycle x_haltSeq} :
    CoreOk (Core.mk x_mode x_bank0 x_bank1 x_active x_index x_scalars x_preds x_sems x_num x_launch x_order x_check x_limit
    x_issued x_tp x_swapGate x_matEnd x_vecEnd x_movEnd x_synEnd x_rep x_block x_flights x_nextFlight x_pends
    x_ending x_haltCode x_haltDetail x_haltBank x_haltIndex x_second x_haltCycle x_haltSeq) = (tabWf (fun _ => (0 : Word)) x_scalars = true ∧ ∀ f ∈ x_flights, f.id < x_nextFlight) := rfl

theorem CoreOk.parts {c : Core} (h : CoreOk c) : tabWf (fun _ => (0 : Word)) c.scalars = true ∧ ∀ f ∈ c.flights, f.id < c.nextFlight := h

theorem Keeps.ite {q} {c : Prop} [Decidable c] {a b : State} (ha : Keeps q a) (hb : Keeps q b) : Keeps q (if c then a else b) := by
  split <;> assumption

theorem KeepsO.ite {q} {c : Prop} [Decidable c] {a b : Host.Outcome State Fault Refusal} (ha : KeepsO q a) (hb : KeepsO q b) :
    KeepsO q (if c then a else b) := by
  split <;> assumption

theorem CoreOk.ite {c : Prop} [Decidable c] {a b : Core} (ha : CoreOk a) (hb : CoreOk b) : CoreOk (if c then a else b) := by
  split <;> assumption

theorem Keeps.ite2 {q} {α : Type} {c : Prop} [Decidable c] {a b : α × State} (ha : Keeps q a.2) (hb : Keeps q b.2) :
    Keeps q (if c then a else b).2 := by
  split <;> assumption

theorem KeepsO.next {q} {s : State} (h : Keeps q s) : KeepsO q (.next s) := by
  intro t e; cases e; exact h

theorem KeepsO.refused {q} {r : Refusal} : KeepsO q (.refused r) := by
  intro t e; cases e

theorem Keeps.foldl {q} {α : Type} {f : State → α → State} {l : List α} : ∀ {s : State}, Keeps q s →
    (∀ s x, Keeps q s → Keeps q (f s x)) → Keeps q (l.foldl f s) := by
  induction l with
  | nil => intro s h _; exact h
  | cons a l ih => intro s h hf; exact ih (hf s a h) hf

theorem Keeps.foldl2 {q} {α β : Type} {f : β × State → α → β × State} {l : List α} : ∀ {a : β × State}, Keeps q a.2 →
    (∀ a x, Keeps q a.2 → Keeps q (f a x).2) → Keeps q (l.foldl f a).2 := by
  induction l with
  | nil => intro s h _; exact h
  | cons a l ih => intro s h hf; exact ih (hf s a h) hf

/-- The state of a pair whose parts have names. -/
theorem Keeps.snd {q} {α : Type} {e : α × State} {a : α} {s : State} (h : e = (a, s)) (hk : Keeps q e.2) : Keeps q s := by
  rw [h] at hk; exact hk

theorem Keeps.fst {q} {α : Type} {e : State × α} {a : α} {s : State} (h : e = (s, a)) (hk : Keeps q e.1) : Keeps q s := by
  rw [h] at hk; exact hk

theorem Keeps.foldl1 {q} {α β : Type} {f : State × β → α → State × β} {l : List α} : ∀ {a : State × β}, Keeps q a.1 →
    (∀ a x, Keeps q a.1 → Keeps q (f a x).1) → Keeps q (l.foldl f a).1 := by
  induction l with
  | nil => intro s h _; exact h
  | cons a l ih => intro s h hf; exact ih (hf s a h) hf

theorem CoreOk.foldl {α : Type} {f : Core → α → Core} {l : List α} : ∀ {c : Core}, CoreOk c →
    (∀ c x, CoreOk c → CoreOk (f c x)) → CoreOk (l.foldl f c) := by
  induction l with
  | nil => intro c h _; exact h
  | cons a l ih => intro c h hf; exact ih (hf c a h) hf

/-- How far a core came with its next command: the module then. -/
def KeepsI (q : List Instr) : Issue → Prop
  | .nothing => True
  | .ended s => Keeps q s
  | .go s _ _ _ => Keeps q s

theorem KeepsI.ended {q} {e : Issue} {s : State} (h : e = .ended s) (hk : KeepsI q e) : Keeps q s := by
  rw [h] at hk; exact hk

theorem KeepsI.go {q} {e : Issue} {s : State} {t w l} (h : e = .go s t w l) (hk : KeepsI q e) : Keeps q s := by
  rw [h] at hk; exact hk

theorem KeepsI.of_ended {q} {s : State} (h : Keeps q s) : KeepsI q (.ended s) := h

theorem KeepsI.of_go {q} {s : State} {t w l} (h : Keeps q s) : KeepsI q (.go s t w l) := h

/-- An operation that may answer nothing: the state it answers, alone or second of a pair. -/
def KeepsP1 (q : List Instr) (e : Option State) : Prop := ∀ o, e = some o → Keeps q o
def KeepsP2 (q : List Instr) {α : Type} (e : Option (α × State)) : Prop := ∀ o, e = some o → Keeps q o.2

theorem KeepsP1.none {q} : KeepsP1 q none := fun _ h => nomatch h

theorem KeepsP2.none {q} {α : Type} : KeepsP2 q (none : Option (α × State)) := fun _ h => nomatch h

theorem KeepsP1.some {q} {s : State} (h : Keeps q s) : KeepsP1 q (some s) := fun _ e => Option.some.inj e ▸ h

theorem KeepsP2.some {q} {α : Type} {a : α × State} (h : Keeps q a.2) : KeepsP2 q (some a) := fun _ e => Option.some.inj e ▸ h

theorem KeepsP1.use {q} {e : Option State} {s : State} (h : e = .some s) (hk : KeepsP1 q e) : Keeps q s := hk s h

theorem KeepsP2.use {q} {α : Type} {e : Option (α × State)} {a : α} {s : State} (h : e = .some (a, s)) (hk : KeepsP2 q e) :
    Keeps q s := hk _ h

/-- Either branch. -/
theorem KeepsP2.ite {q} {α : Type} {c : Prop} [Decidable c] {a b : Option (α × State)} (ha : KeepsP2 q a) (hb : KeepsP2 q b) :
    KeepsP2 q (if c then a else b) := by split <;> assumption

theorem KeepsP2.map {q} {α β : Type} {e : Option (α × State)} {g : α × State → β} (hk : KeepsP2 q e) :
    KeepsP2 q (e.map fun x => (g x, x.2)) := by
  intro o h
  cases e with
  | none => cases h
  | some x => rw [← Option.some.inj h]; exact hk x rfl

/-- The same, third of a triple or fourth of four. -/
def KeepsP3 (q : List Instr) {α β : Type} (e : Option (α × β × State)) : Prop := ∀ o, e = some o → Keeps q o.2.2

theorem KeepsP3.none {q} {α β : Type} : KeepsP3 q (none : Option (α × β × State)) := fun _ h => nomatch h

theorem KeepsP3.some {q} {α β : Type} {a : α × β × State} (h : Keeps q a.2.2) : KeepsP3 q (some a) := fun _ e => Option.some.inj e ▸ h

theorem KeepsP3.use {q} {α β : Type} {e : Option (α × β × State)} {a : α} {b : β} {s : State} (h : e = .some (a, b, s))
    (hk : KeepsP3 q e) : Keeps q s := hk _ h

theorem Keeps.snd2 {q} {α β : Type} {e : α × β × State} {a : α} {b : β} {s : State} (h : e = (a, b, s)) (hk : Keeps q e.2.2) : Keeps q s := by
  rw [h] at hk; exact hk

def KeepsP4 (q : List Instr) {α β γ : Type} (e : Option (α × β × γ × State)) : Prop := ∀ o, e = some o → Keeps q o.2.2.2

theorem KeepsP4.none {q} {α β γ : Type} : KeepsP4 q (none : Option (α × β × γ × State)) := fun _ h => nomatch h

theorem KeepsP4.some {q} {α β γ : Type} {a : α × β × γ × State} (h : Keeps q a.2.2.2) : KeepsP4 q (some a) :=
  fun _ e => Option.some.inj e ▸ h

theorem KeepsP4.use {q} {α β γ : Type} {e : Option (α × β × γ × State)} {a : α} {b : β} {c : γ} {s : State} (h : e = .some (a, b, c, s))
    (hk : KeepsP4 q e) : Keeps q s := hk _ h

theorem Keeps.core {q} {s : State} (h : Keeps q s) (n : Nat) : CoreOk (s.core n) := h.1.core n

theorem coreOk_reset : CoreOk coreReset := ⟨rfl, fun f hf => by cases hf⟩

end Sys2Proof.Machine
end

