-- ==== Sys2Proof/Laws/KeepsOps.lean ====
section
/-! SUPPORT. What keeps the invariant and the queue: operations over registers, memory and requests. -/

namespace Sys2Proof.Machine

theorem keeps_rput {q : List Instr} {s : State} {off : Nat} {v : Word} (h_s : Keeps q s) :
    Keeps q (State.rput s off v) := by
  exact ⟨⟨h_s.1.mem, rput_wf h_s.1.regs off v, h_s.1.cores, h_s.1.core, h_s.1.pools, h_s.1.lanes, h_s.1.rsv⟩, h_s.2⟩

theorem keeps_rsetFld {q : List Instr} {s : State} {off : Nat} {hi : Nat} {lo : Nat} {n : Nat} (h_s : Keeps q s) :
    Keeps q (State.rsetFld s off hi lo n) := by
  unfold State.rsetFld
  repeat' first | with_reducible assumption | with_reducible apply keeps_rput

theorem keeps_rsetBit {q : List Instr} {s : State} {off : Nat} {i : Nat} {b : Bool} (h_s : Keeps q s) :
    Keeps q (State.rsetBit s off i b) := by
  unfold State.rsetBit
  repeat' first | with_reducible assumption | with_reducible apply keeps_rsetFld

theorem keeps_rcount {q : List Instr} {s : State} {off : Nat} {hi : Nat} {lo : Nat} {k : Nat} (h_s : Keeps q s) :
    Keeps q (State.rcount s off hi lo k) := by
  unfold State.rcount
  repeat' first | with_reducible assumption | with_reducible apply keeps_rsetFld

theorem keeps_clearCounters {q : List Instr} {s : State} {fields : List (Nat × Nat)} {incs : List (Nat × Nat)}
    (h_s : Keeps q s) :
    Keeps q (State.clearCounters s fields incs) := by
  unfold State.clearCounters
  repeat' first
      | with_reducible assumption | with_reducible apply keeps_rput | with_reducible apply Keeps.foldl
      | with_reducible intro _

theorem keeps_draw {q : List Instr} {s : State} (h_s : Keeps q s) :
    Keeps q (State.draw s).2 := by
  unfold State.draw
  repeat' first | with_reducible assumption | with_reducible apply Keeps.parts | simp only [keeps_fields]

theorem keeps_mput {q : List Instr} {s : State} {k : Nat} {b : Byte} (h_s : Keeps q s) :
    Keeps q (State.mput s k b) := by
  exact ⟨⟨mput_memWf h_s.1.mem k b, h_s.1.regs, h_s.1.cores, h_s.1.core, h_s.1.pools, h_s.1.lanes, h_s.1.rsv⟩, h_s.2⟩

theorem keeps_mputs {q : List Instr} {s : State} {x1 : Writes} (h_s : Keeps q s) :
    Keeps q (State.mputs s x1) := by
  induction x1 generalizing s with
  | nil => exact h_s
  | cons a t ih => exact ih (keeps_mput h_s)

theorem keeps_mputBytes {q : List Instr} {s : State} {k : Nat} {bs : List Byte} (h_s : Keeps q s) :
    Keeps q (State.mputBytes s k bs) := by
  unfold State.mputBytes
  repeat' first | with_reducible assumption | with_reducible apply keeps_mputs

theorem keeps_mputWord {q : List Instr} {s : State} {k : Nat} {w : Word} (h_s : Keeps q s) :
    Keeps q (State.mputWord s k w) := by
  exact keeps_mputBytes h_s

theorem keeps_hputBytes {q : List Instr} {s : State} {k : Nat} {bs : List Byte} (h_s : Keeps q s) :
    Keeps q (State.hputBytes s k bs) := by
  unfold State.hputBytes
  repeat' first | with_reducible assumption | with_reducible apply Keeps.parts | simp only [keeps_fields]

theorem keeps_emit {q : List Instr} {s : State} {o : Output} (h_s : Keeps q s) :
    Keeps q (State.emit s o) := by
  unfold State.emit
  repeat' first | with_reducible assumption | with_reducible apply Keeps.parts | simp only [keeps_fields]

theorem keeps_hostWrite {q : List Instr} {s : State} {a : Nat} {bs : List Byte} (h_s : Keeps q s) :
    Keeps q (State.hostWrite s a bs) := by
  unfold State.hostWrite
  repeat' first
      | with_reducible assumption | with_reducible apply keeps_emit | with_reducible apply keeps_hputBytes
      | with_reducible apply Keeps.foldl | with_reducible intro _

theorem keeps_hostRead {q : List Instr} {s : State} {a : Nat} {len : Nat} (h_s : Keeps q s) :
    Keeps q (State.hostRead s a len) := by
  unfold State.hostRead
  repeat' first
      | with_reducible assumption | with_reducible apply keeps_emit | with_reducible apply Keeps.foldl
      | with_reducible intro _

theorem keeps_raise {q : List Instr} {s : State} {code : Nat} {sev : Nat} {items : List (Nat × Nat)} (h_s : Keeps q s) :
    Keeps q (State.raise s code sev items) := by
  unfold State.raise
  repeat' first
      | with_reducible assumption | with_reducible apply keeps_rcount | with_reducible apply keeps_rput
      | with_reducible apply Keeps.parts | simp only [keeps_fields] | split

theorem keeps_setDirty {q : List Instr} {s : State} (h_s : Keeps q s) :
    Keeps q (State.setDirty s) := by
  unfold State.setDirty
  repeat' first
      | with_reducible assumption | with_reducible apply keeps_rsetBit | with_reducible apply keeps_raise
      | with_reducible apply keeps_rsetFld | split | dsimp only

theorem keeps_mirrorFail {q : List Instr} {s : State} {reason : Nat} (h_s : Keeps q s) :
    Keeps q (State.mirrorFail s reason) := by
  unfold State.mirrorFail
  repeat' first
      | with_reducible assumption | with_reducible apply keeps_raise | with_reducible apply keeps_rsetFld | split

theorem keeps_record {q : List Instr} {s : State} {kind : Nat} {old : Nat} {new : Nat} {logical : Nat} {loc : Word}
    (h_s : Keeps q s) :
    Keeps q (State.record s kind old new logical loc) := by
  unfold State.record
  repeat' first | with_reducible assumption | with_reducible apply Keeps.parts | simp only [keeps_fields]

theorem keeps_addRepair {q : List Instr} {s : State} {r : Repair} (h_s : Keeps q s) :
    Keeps q (State.addRepair s r) := by
  unfold State.addRepair
  repeat' first
      | with_reducible assumption | with_reducible apply keeps_rsetBit | with_reducible apply keeps_raise
      | with_reducible apply Keeps.parts | simp only [keeps_fields] | split

theorem keeps_useSpare {q : List Instr} {s : State} {hi : Nat} {lo : Nat} (h_s : Keeps q s) :
    Keeps q (State.useSpare s hi lo) := by
  unfold State.useSpare
  repeat' first | with_reducible assumption | with_reducible apply keeps_rsetFld

theorem keeps_loseSpare {q : List Instr} {s : State} {off : Nat} {hi : Nat} {lo : Nat} (h_s : Keeps q s) :
    Keeps q (State.loseSpare s off hi lo) := by
  unfold State.loseSpare
  repeat' first | with_reducible assumption | with_reducible apply keeps_useSpare | with_reducible apply keeps_rsetBit

theorem keeps_condemn {q : List Instr} {s : State} {x1 : Part} (h_s : Keeps q s) :
    Keeps q (State.condemn s x1) := by
  unfold State.condemn
  repeat' first
      | with_reducible assumption | with_reducible apply keeps_raise | with_reducible apply keeps_loseSpare
      | with_reducible apply keeps_addRepair | split | dsimp only

theorem keeps_addPoints {q : List Instr} {s : State} {p : Part} {k : Nat} (h_s : Keeps q s) :
    Keeps q (State.addPoints s p k) := by
  unfold State.addPoints
  repeat' first
      | with_reducible assumption | with_reducible apply keeps_rcount | with_reducible apply keeps_raise
      | with_reducible apply keeps_rsetFld | with_reducible apply keeps_condemn | split | dsimp only

theorem keeps_rowError {q : List Instr} {s : State} {k : Nat} {ue : Bool} (h_s : Keeps q s) :
    Keeps q (State.rowError s k ue) := by
  unfold State.rowError
  repeat' first
      | with_reducible assumption | with_reducible apply keeps_addRepair | with_reducible apply keeps_addPoints
      | with_reducible apply Keeps.parts | simp only [keeps_fields] | split

theorem keeps_freshRow {q : List Instr} {s : State} {row : Nat} (h_s : Keeps q s) :
    Keeps q (State.freshRow s row) := by
  unfold State.freshRow
  repeat' first | with_reducible assumption | with_reducible apply Keeps.parts | simp only [keeps_fields]

theorem keeps_countCorrected {q : List Instr} {s : State} {i : Nat} (h_s : Keeps q s) :
    Keeps q (State.countCorrected s i) := by
  unfold State.countCorrected
  repeat' first | with_reducible assumption | with_reducible apply Keeps.parts | simp only [keeps_fields]

theorem keeps_tellCorrected {q : List Instr} {s : State} {t : Nat} {k : Nat} (h_s : Keeps q s) :
    Keeps q (State.tellCorrected s t k) := by
  unfold State.tellCorrected
  repeat' first
      | with_reducible assumption | with_reducible apply keeps_countCorrected | with_reducible apply keeps_raise
      | split | dsimp only

theorem keeps_memCorrected {q : List Instr} {s : State} {k : Nat} (h_s : Keeps q s) :
    Keeps q (State.memCorrected s k) := by
  unfold State.memCorrected
  repeat' first
      | with_reducible assumption | with_reducible apply keeps_rowError | with_reducible apply keeps_tellCorrected
      | with_reducible apply keeps_addPoints | with_reducible apply keeps_rcount
      | with_reducible apply keeps_countCorrected | split

theorem keeps_memUncorrectable {q : List Instr} {s : State} {k : Nat} (h_s : Keeps q s) :
    Keeps q (State.memUncorrectable s k) := by
  unfold State.memUncorrectable
  repeat' first
      | with_reducible assumption | with_reducible apply keeps_addPoints | with_reducible apply keeps_rcount
      | with_reducible apply keeps_raise | with_reducible apply keeps_rowError | with_reducible apply keeps_setDirty
      | split

theorem keeps_meet {q : List Instr} {s : State} {x1 : List (Nat × Bool)} (h_s : Keeps q s) :
    Keeps q (State.meet s x1) := by
  induction x1 generalizing s with
  | nil => exact h_s
  | cons a t ih =>
    unfold State.meet
    repeat' first
        | with_reducible assumption | with_reducible apply keeps_memUncorrectable
        | with_reducible apply keeps_memCorrected | with_reducible apply ih | with_reducible apply Keeps.parts
        | simp only [keeps_fields] | split

theorem keeps_setFlow {q : List Instr} {s : State} {f : Nat} {v : Flow} (h_s : Keeps q s) :
    Keeps q (State.setFlow s f v) := by
  unfold State.setFlow
  repeat' first | with_reducible assumption | with_reducible apply Keeps.parts | simp only [keeps_fields]

theorem keeps_completeFlow {q : List Instr} {s : State} {sq : Nat} {d : List Word} {status : Nat} {counted : Bool}
    (h_s : Keeps q s) :
    Keeps q (State.completeFlow s sq d status counted) := by
  unfold State.completeFlow
  repeat' first | with_reducible assumption | with_reducible apply keeps_setFlow | split

theorem keeps_complete {q : List Instr} {s : State} {sq : Nat} {d : List Word} {status : Nat} {result : Word}
    {detail : Nat} {counted : Bool} (h_s : Keeps q s) :
    Keeps q (State.complete s sq d status result detail counted) := by
  unfold State.complete
  repeat' first
      | with_reducible assumption | with_reducible apply keeps_completeFlow | with_reducible apply Keeps.parts
      | simp only [keeps_fields] | split

theorem keeps_setWork {q : List Instr} {s : State} {w : Work} (h_s : Keeps q s) :
    Keeps q (State.setWork s w) := by
  unfold State.setWork
  repeat' first | with_reducible assumption | with_reducible apply Keeps.parts | simp only [keeps_fields]

theorem keeps_finishWork {q : List Instr} {s : State} {id : Nat} {status : Nat} {result : Word} {detail : Nat}
    (h_s : Keeps q s) :
    Keeps q (State.finishWork s id status result detail) := by
  unfold State.finishWork
  repeat' first
      | with_reducible assumption | with_reducible apply keeps_completeFlow | with_reducible apply keeps_rcount
      | with_reducible apply keeps_complete | with_reducible apply Keeps.parts | simp only [keeps_fields] | split

theorem keeps_inject {q : List Instr} {s : State} {p : Nat} {f : Frame} (h_s : Keeps q s) :
    Keeps q (State.inject s p f) := by
  unfold State.inject
  repeat' first | with_reducible assumption | with_reducible apply Keeps.parts | simp only [keeps_fields]

theorem keeps_pumpGo {q : List Instr} {s : State} {x1 : List Unsent} (h_s : Keeps q s) :
    Keeps q (pumpGo s x1) := by
  induction x1 generalizing s with
  | nil => exact h_s
  | cons a t ih =>
    unfold pumpGo
    repeat' first
        | with_reducible assumption | with_reducible apply keeps_inject | with_reducible apply ih
        | with_reducible apply Keeps.parts | simp only [keeps_fields] | split

theorem keeps_pump {q : List Instr} {s : State} (h_s : Keeps q s) :
    Keeps q (State.pump s) := by
  unfold State.pump
  repeat' first
      | with_reducible assumption | with_reducible apply keeps_pumpGo | with_reducible apply Keeps.parts
      | simp only [keeps_fields]

theorem keeps_sendReq {q : List Instr} {s : State} {u : Unsent} (h_s : Keeps q s) :
    Keeps q (State.sendReq s u) := by
  unfold State.sendReq
  repeat' first
      | with_reducible assumption | with_reducible apply keeps_pump | with_reducible apply Keeps.parts
      | simp only [keeps_fields]

theorem keeps_dropReq {q : List Instr} {s : State} {tag : Nat} (h_s : Keeps q s) :
    Keeps q (State.dropReq s tag) := by
  unfold State.dropReq
  repeat' first
      | with_reducible assumption | with_reducible apply keeps_pump | with_reducible apply Keeps.parts
      | simp only [keeps_fields]

end Sys2Proof.Machine
end

