-- ==== Sys2Proof/Laws/KeepsCore.lean ====
section
/-! SUPPORT. What keeps the invariant and the queue: operations of one tensor core. -/

namespace Sys2Proof.Machine

theorem keeps_setCore {q : List Instr} {s : State} {n : Nat} {c : Core} (h_s : Keeps q s) (h_c : CoreOk c) :
    Keeps q (State.setCore s n c) := by
  refine ⟨⟨h_s.1.mem, h_s.1.regs, tabSet_wf h_s.1.cores, fun m => ?_, h_s.1.pools, h_s.1.lanes, h_s.1.rsv⟩, h_s.2⟩
  simp only [State.core, State.setCore, tabGet_tabSet h_s.1.cores]
  split
  · exact h_c
  · exact h_s.1.core m

theorem keeps_cSetS {c : Core} {k : Nat} {v : Word} (h_c : CoreOk c) :
    CoreOk (cSetS c k v) := by
  unfold cSetS
  split
  · exact h_c
  · exact ⟨tabSet_wf h_c.1, h_c.2⟩

theorem keeps_cSetP {c : Core} {k : Nat} {b : Bool} (h_c : CoreOk c) :
    CoreOk (cSetP c k b) := by
  unfold cSetP
  repeat' first | with_reducible assumption | with_reducible apply CoreOk.parts | simp only [coreOk_fields] | split

theorem keeps_cSetSem {c : Core} {k : Nat} {v : Nat} (h_c : CoreOk c) :
    CoreOk (cSetSem c k v) := by
  unfold cSetSem
  repeat' first | with_reducible assumption | with_reducible apply CoreOk.parts | simp only [coreOk_fields]

theorem keeps_cSetCmd {c : Core} {b : Bool} {i : Nat} {w : Cmd} (h_c : CoreOk c) :
    CoreOk (cSetCmd c b i w) := by
  unfold cSetCmd
  repeat' first | with_reducible assumption | with_reducible apply CoreOk.parts | simp only [coreOk_fields] | split

theorem keeps_haltCore {q : List Instr} {s : State} {n : Nat} {code : Nat} {detail : Nat} {bank : Bool} {idx : Nat}
    {cyc : Nat} (h_s : Keeps q s) :
    Keeps q (haltCore s n code detail bank idx cyc) := by
  unfold haltCore
  repeat' first
      | with_reducible assumption | with_reducible apply keeps_setCore | with_reducible apply Keeps.core (q := q)
      | with_reducible apply CoreOk.parts | simp only [coreOk_fields] | split

theorem keeps_outsideCycle {q : List Instr} {s : State} {n : Nat} (h_s : Keeps q s) :
    Keeps q (State.outsideCycle s n).2 := by
  unfold State.outsideCycle
  repeat' first
      | with_reducible assumption | with_reducible apply keeps_draw
      | (refine Keeps.snd (by with_reducible assumption) ?_) | split | dsimp only

theorem keeps_haltOutside {q : List Instr} {s : State} {n : Nat} {code : Nat} {detail : Nat} {bank : Bool} {idx : Nat}
    (h_s : Keeps q s) :
    Keeps q (haltOutside s n code detail bank idx) := by
  unfold haltOutside
  repeat' first
      | with_reducible assumption | with_reducible apply keeps_outsideCycle | with_reducible apply keeps_haltCore

theorem keeps_semAdd {q : List Instr} {s : State} {n : Nat} {sem : Nat} {k : Nat} {bank : Bool} {idx : Nat}
    {cyc : Nat} (h_s : Keeps q s) :
    Keeps q (semAdd s n sem k bank idx cyc) := by
  unfold semAdd
  repeat' first
      | with_reducible assumption | with_reducible apply keeps_haltCore | with_reducible apply keeps_setCore
      | with_reducible apply keeps_cSetSem | with_reducible apply Keeps.core (q := q) | split | dsimp only

theorem keeps_semAddOutside {q : List Instr} {s : State} {n : Nat} {sem : Nat} {k : Nat} (h_s : Keeps q s) :
    Keeps q (semAddOutside s n sem k) := by
  unfold semAddOutside
  repeat' first
      | with_reducible assumption | with_reducible apply keeps_haltOutside | with_reducible apply keeps_setCore
      | with_reducible apply keeps_cSetSem | with_reducible apply Keeps.core (q := q) | split | dsimp only

/-- A core that keeps only some of its flights. -/
theorem CoreOk.filter {c : Core} (h : CoreOk c) (p : Flight → Bool) :
    tabWf (fun _ => (0 : Word)) c.scalars = true ∧ ∀ f ∈ c.flights.filter p, f.id < c.nextFlight :=
  ⟨h.1, fun f hf => h.2 f (List.mem_filter.mp hf).1⟩

/-- A core with nothing in flight. -/
theorem CoreOk.idle {c : Core} (h : CoreOk c) (n : Nat) :
    tabWf (fun _ => (0 : Word)) c.scalars = true ∧ ∀ f ∈ ([] : List Flight), f.id < n :=
  ⟨h.1, fun f hf => nomatch hf⟩

theorem keeps_landWrites {q : List Instr} {s : State} {n : Nat} {f : Flight} (h_s : Keeps q s) :
    Keeps q (landWrites s n f) := by
  unfold landWrites
  repeat' first
      | with_reducible assumption | with_reducible apply keeps_mputs | with_reducible apply keeps_cSetS
      | with_reducible apply keeps_cSetP | with_reducible apply keeps_setCore
      | with_reducible apply Keeps.core (q := q) | with_reducible apply CoreOk.parts | simp only [coreOk_fields]
      | with_reducible apply CoreOk.foldl | with_reducible intro _ | split

theorem keeps_completeFlight {q : List Instr} {s : State} {n : Nat} {f : Flight} {cyc : Nat} (h_s : Keeps q s) :
    Keeps q (completeFlight s n f cyc) := by
  unfold completeFlight
  repeat' first
      | with_reducible assumption | with_reducible apply keeps_landWrites | with_reducible apply keeps_setCore
      | with_reducible apply keeps_semAdd | with_reducible apply CoreOk.filter | with_reducible apply Keeps.core
      | simp only [coreOk_fields] | with_reducible apply Keeps.foldl | with_reducible intro _ | split

theorem keeps_landFixed {q : List Instr} {s : State} {n : Nat} {t : Nat} {x1 : Nat} (h_s : Keeps q s) :
    Keeps q (landFixed s n t x1) := by
  induction x1 generalizing s with
  | zero => exact h_s
  | succ k ih =>
    unfold landFixed
    split
    · exact ih (keeps_completeFlight h_s)
    · exact h_s

theorem keeps_landUpTo {q : List Instr} {s : State} {n : Nat} {t : Nat} (h_s : Keeps q s) :
    Keeps q (landUpTo s n t) := by
  unfold landUpTo
  repeat' first | with_reducible assumption | with_reducible apply keeps_landFixed

theorem keeps_advance {c : Core} (h_c : CoreOk c) :
    CoreOk (advance c) := by
  unfold advance
  split
  · split <;> exact h_c
  · exact h_c

theorem keeps_issueCmd {q : List Instr} {s : State} {n : Nat} {want : Nat → Bool} (h_s : Keeps q s) :
    KeepsI q (issueCmd s n want) := by
  unfold issueCmd
  have h := keeps_landUpTo (n := n) (t := issueCycle (s.core n) (cFetch (s.core n) (s.core n).active (s.core n).index)) h_s
  have h2 := keeps_landUpTo (n := n) (t := (s.core n).tp + 1) h_s
  repeat' first
      | trivial | with_reducible apply KeepsI.of_ended | with_reducible apply keeps_haltCore
      | with_reducible apply keeps_setCore | with_reducible apply keeps_advance | with_reducible apply Keeps.core
      | with_reducible apply CoreOk.parts | simp only [coreOk_fields] | split

theorem keeps_engineSet {c : Core} {op : Nat} {t : Nat} {occ : Nat} (h_c : CoreOk c) :
    CoreOk (engineSet c op t occ) := by
  unfold engineSet
  split <;> exact h_c

theorem keeps_engineFree {c : Core} {op : Nat} {t : Nat} (h_c : CoreOk c) :
    CoreOk (engineFree c op t) := by
  unfold engineFree
  repeat' first | with_reducible assumption | with_reducible apply CoreOk.parts | simp only [coreOk_fields] | split

theorem keeps_issuePlan {q : List Instr} {s : State} {n : Nat} {t : Nat} {w : Cmd} {offs : List Int} {p : Plan}
    (h_s : Keeps q s) :
    Keeps q (issuePlan s n t w offs p).2 := by
  have hk : CoreOk (engineSet (advance { s.core n with issued := (s.core n).issued + 1, tp := t }) (cOpcode w) t p.occ) :=
    keeps_engineSet (keeps_advance (h_s.core n))
  unfold issuePlan
  dsimp only
  split
  · exact keeps_haltCore h_s
  · refine keeps_setCore h_s ⟨hk.1, fun f hf => ?_⟩
    show f.id < (s.core n).nextFlight + 1
    rcases List.mem_append.mp hf with h | h
    · have := hk.2 f h
      simp at this
      omega
    · rw [List.mem_singleton.mp h]; exact Nat.lt_succ_self _

/-- Commands written into a bank leave the core as CoreOk says. -/
theorem CoreOk.cmds (bank : Bool) (l : List Cmd) : ∀ {c : Core} (i : Nat), CoreOk c →
    CoreOk (l.foldl (fun (x : Nat × Core) w => (x.1 + 1, cSetCmd x.2 bank x.1 w)) (i, c)).2 := by
  induction l with
  | nil => intro c i h; exact h
  | cons w t ih => intro c i h; exact ih _ (keeps_cSetCmd h)

theorem keeps_landLoad {q : List Instr} {s : State} {n : Nat} {m : Nat} {l : Load} {cmds : List Cmd} (h_s : Keeps q s) :
    Keeps q (landLoad s n m l cmds).2 := by
  unfold landLoad
  dsimp only
  split
  · exact h_s
  · split
    · exact h_s
    · exact keeps_setCore h_s (CoreOk.cmds _ _ _ (h_s.core n))

theorem keeps_loadTold {q : List Instr} {s : State} {n : Nat} {l : Load} (h_s : Keeps q s) :
    Keeps q (loadTold s n l) := by
  unfold loadTold
  repeat' first | with_reducible assumption | with_reducible apply keeps_raise | split

theorem keeps_abandonWrites {q : List Instr} {s : State} {x1 : Writes} (h_s : Keeps q s) :
    Keeps q (abandonWrites s x1) := by
  induction x1 generalizing s with
  | nil => exact h_s
  | cons a t ih =>
    unfold abandonWrites
    repeat' first
        | with_reducible assumption | with_reducible apply keeps_draw | with_reducible apply keeps_mput
        | with_reducible apply ih | split

theorem keeps_abandonAll {q : List Instr} {s : State} {n : Nat} (h_s : Keeps q s) :
    Keeps q (abandonAll s n) := by
  unfold abandonAll
  repeat' first
      | with_reducible assumption | with_reducible apply keeps_abandonWrites | with_reducible apply keeps_setCore
      | with_reducible apply keeps_pump | with_reducible apply CoreOk.idle | with_reducible apply Keeps.core
      | with_reducible apply Keeps.parts | simp only [keeps_fields] | simp only [coreOk_fields]
      | with_reducible apply Keeps.foldl | with_reducible intro _

theorem keeps_warmReset {q : List Instr} {s : State} {n : Nat} (h_s : Keeps q s) :
    Keeps q (warmReset s n) := by
  unfold warmReset
  dsimp only
  split
  · exact keeps_finishWork (keeps_setCore h_s (CoreOk.idle coreOk_reset _))
  · exact keeps_setCore h_s (CoreOk.idle coreOk_reset _)

theorem keeps_setCapture {q : List Instr} {s : State} {k : Nat} {c : Option Capture} (h_s : Keeps q s) :
    Keeps q (State.setCapture s k c) := by
  unfold State.setCapture
  repeat' first | with_reducible assumption | with_reducible apply Keeps.parts | simp only [keeps_fields]

theorem keeps_xchkSample {q : List Instr} {s : State} {n : Nat} {w : Cmd} {offs : List Int} {dims : List Nat}
    {srcs : List Got} {dsts : List Got} {bank : Nat} {idx : Nat} {writes : Writes} (h_s : Keeps q s) :
    Keeps q (xchkSample s n w offs dims srcs dsts bank idx writes) := by
  unfold xchkSample
  repeat' first
      | with_reducible assumption | with_reducible apply keeps_rcount | with_reducible apply keeps_mputBytes
      | with_reducible apply keeps_mputs | with_reducible apply keeps_setCapture | with_reducible apply Keeps.parts
      | simp only [keeps_fields] | split

theorem keeps_matIssue {q : List Instr} {s : State} {n : Nat} {op : Nat} {pair : Bool} (h_s : Keeps q s) :
    KeepsO q (matIssue s n op pair) := by
  unfold matIssue
  repeat' first
      | with_reducible assumption | with_reducible apply keeps_issueCmd | with_reducible apply keeps_issuePlan
      | with_reducible apply keeps_meet | with_reducible apply keeps_xchkSample | with_reducible apply KeepsO.next
      | (refine KeepsI.go (by with_reducible assumption) ?_) | (refine KeepsI.ended (by with_reducible assumption) ?_)
      | split | dsimp only

theorem keeps_execMatMm {q : List Instr} {n : Nat} {s : State} (h_s : Keeps q s) :
    KeepsO q (execMatMm n s) := by
  unfold execMatMm
  repeat' first | with_reducible assumption | with_reducible apply keeps_matIssue

theorem keeps_execMatMmp {q : List Instr} {n : Nat} {s : State} (h_s : Keeps q s) :
    KeepsO q (execMatMmp n s) := by
  unfold execMatMmp
  repeat' first | with_reducible assumption | with_reducible apply keeps_matIssue

theorem keeps_biSend {q : List Instr} {s : State} {line : Nat} {inv : Bool} (h_s : Keeps q s) :
    Keeps q (State.biSend s line inv) := by
  unfold State.biSend
  repeat' first
      | with_reducible assumption | with_reducible apply keeps_emit | with_reducible apply Keeps.parts
      | simp only [keeps_fields] | split

theorem keeps_biGate {q : List Instr} {s : State} {rd : List (Nat × Nat)} {wr : List (Nat × Nat)} (h_s : Keeps q s) :
    KeepsP1 q (State.biGate s rd wr) := by
  intro o h
  unfold State.biGate at h
  dsimp only at h
  split at h
  · cases h
  · cases h
    exact Keeps.foldl (Keeps.foldl h_s fun s l h => keeps_biSend h) fun s l h => Keeps.ite h (keeps_biSend h)

theorem keeps_gated {q : List Instr} {s : State} {rd : List (Nat × Nat)} {wr : List (Nat × Nat)}
    {go : Host.Outcome State Fault Refusal} (h_s : Keeps q s) (h_go : KeepsO q go) :
    KeepsO q (gated s rd wr go) := by
  unfold gated
  split
  · exact h_go
  · split
    · rename_i h; exact KeepsO.next (keeps_biGate h_s _ h)
    · exact h_go

theorem keeps_setFlight {q : List Instr} {s : State} {n : Nat} {f : Flight} (h_s : Keeps q s) :
    Keeps q (State.setFlight s n f) := by
  refine keeps_setCore h_s ⟨(h_s.core n).1, fun g hg => ?_⟩
  obtain ⟨g', hg', rfl⟩ := List.mem_map.mp hg
  have hlt := (h_s.core n).2 g' hg'
  show (if g'.id = f.id then f else g').id < (s.core n).nextFlight
  split
  · rename_i e; rw [← e]; exact hlt
  · exact hlt

theorem keeps_failFlight {q : List Instr} {s : State} {n : Nat} {fid : Nat} {code : Nat} {detail : Nat}
    (h_s : Keeps q s) :
    Keeps q (failFlight s n fid code detail) := by
  unfold failFlight
  repeat' first
      | with_reducible assumption | with_reducible apply keeps_pump | with_reducible apply keeps_setCore
      | with_reducible apply keeps_haltOutside | with_reducible apply CoreOk.filter | with_reducible apply Keeps.core
      | with_reducible apply Keeps.parts | simp only [keeps_fields] | simp only [coreOk_fields] | split

theorem keeps_sendAll {q : List Instr} {s : State} {n : Nat} {fid : Nat} {us : List Unsent} (h_s : Keeps q s) :
    Keeps q (sendAll s n fid us) := by
  unfold sendAll
  repeat' first
      | with_reducible assumption | with_reducible apply keeps_failFlight | with_reducible apply keeps_sendReq
      | with_reducible apply Keeps.foldl | split

theorem keeps_formMov {q : List Instr} {s : State} {n : Nat} {f : Flight} (h_s : Keeps q s) :
    Keeps q (formMov s n f) := by
  unfold formMov
  repeat' first
      | with_reducible assumption | with_reducible apply keeps_failFlight | with_reducible apply keeps_setFlight
      | with_reducible apply keeps_sendAll | split | dsimp only

theorem keeps_setPool {q : List Instr} {s : State} {i : Nat} {p : Pool} (h_s : Keeps q s) :
    Keeps q (State.setPool s i p) := by
  exact ⟨⟨h_s.1.mem, h_s.1.regs, h_s.1.cores, h_s.1.core, tabSet_wf h_s.1.pools, h_s.1.lanes, h_s.1.rsv⟩, h_s.2⟩

theorem keeps_buildPool {q : List Instr} {s : State} {set : Nat} {k : Nat} {base : Nat} {count : Nat}
    (h_s : Keeps q s) :
    Keeps q (buildPool s set k base count) := by
  exact keeps_setPool (Keeps.foldl h_s fun s i h => keeps_mputWord (keeps_mputWord h))

theorem keeps_buildSet {q : List Instr} {s : State} {set : Nat} (h_s : Keeps q s) :
    Keeps q (buildSet s set).1 := by
  unfold buildSet
  repeat' first
      | with_reducible assumption | with_reducible apply keeps_setPool | with_reducible apply keeps_buildPool
      | with_reducible apply Keeps.foldl | with_reducible intro _ | split

theorem keeps_poolFail {q : List Instr} {s : State} {i : Nat} (h_s : Keeps q s) :
    Keeps q (poolFail s i) := by
  unfold poolFail
  repeat' first | with_reducible assumption | with_reducible apply keeps_setPool | split

theorem keeps_poolRequest {q : List Instr} {s : State} {set : Nat} {bytes : Nat} (h_s : Keeps q s) :
    Keeps q (poolRequest s set bytes).2 := by
  unfold poolRequest
  repeat' first
      | with_reducible assumption | with_reducible apply keeps_poolFail | with_reducible apply keeps_setPool
      | with_reducible apply keeps_meet | with_reducible apply keeps_raise | with_reducible apply keeps_mputWord
      | split | dsimp only

theorem keeps_freeBuffer {q : List Instr} {s : State} {set : Nat} {k : Nat} {j : Nat} (h_s : Keeps q s) :
    Keeps q (freeBuffer s set k j) := by
  exact keeps_setPool (keeps_mputWord h_s)

theorem keeps_poolRelease {q : List Instr} {s : State} {a : Nat} {phys : Nat} (h_s : Keeps q s) :
    KeepsP1 q (poolRelease s a phys) := by
  intro o h
  unfold poolRelease at h
  split at h
  · cases h
  · dsimp only at h
    split at h
    · rw [← Option.some.inj h]; exact keeps_raise (keeps_meet h_s)
    · rw [← Option.some.inj h]
      exact Keeps.ite (keeps_freeBuffer (keeps_mputWord (keeps_meet h_s))) (keeps_mputWord (keeps_meet h_s))

theorem keeps_execPoolInit {q : List Instr} {s : State} (h_s : Keeps q s) :
    KeepsO q (execPoolInit s) := by
  unfold execPoolInit
  repeat' first
      | with_reducible assumption | with_reducible apply keeps_rput | with_reducible apply KeepsO.next | split

theorem keeps_execPoolInitDone {q : List Instr} {s : State} (h_s : Keeps q s) :
    KeepsO q (execPoolInitDone s) := by
  unfold execPoolInitDone
  repeat' first
      | with_reducible assumption | with_reducible apply keeps_buildSet | with_reducible apply keeps_rput
      | with_reducible apply KeepsO.next | with_reducible apply Keeps.foldl1 | with_reducible intro _ | split

theorem keeps_vecIssue {q : List Instr} {s : State} {n : Nat} {op : Nat} {kind : VecKind} {srcs : Cmd → List Nat}
    {dOk : Fmt → Bool} {dCols : Cmd → Nat}
    {val : Cmd →   View →     Opd →       Opd → Opd → Nat → Nat → XVal × NFlags} (h_s : Keeps q s) :
    KeepsO q (vecIssue s n op kind srcs dOk dCols val) := by
  unfold vecIssue
  repeat' first
      | with_reducible assumption | with_reducible apply keeps_issueCmd | with_reducible apply keeps_issuePlan
      | with_reducible apply keeps_meet | with_reducible apply KeepsO.next
      | (refine KeepsI.go (by with_reducible assumption) ?_) | (refine KeepsI.ended (by with_reducible assumption) ?_)
      | split | dsimp only

theorem keeps_vecBinary {q : List Instr} {s : State} {n : Nat} {op : Nat} {f : XVal → XVal → XVal} (h_s : Keeps q s) :
    KeepsO q (vecBinary s n op f) := by
  unfold vecBinary
  repeat' first | with_reducible assumption | with_reducible apply keeps_vecIssue

theorem keeps_vecUnary {q : List Instr} {s : State} {n : Nat} {op : Nat} {kind : VecKind} {f : XVal → XVal × NFlags}
    (h_s : Keeps q s) :
    KeepsO q (vecUnary s n op kind f) := by
  unfold vecUnary
  repeat' first | with_reducible assumption | with_reducible apply keeps_vecIssue

theorem keeps_execVecAdd {q : List Instr} {n : Nat} {s : State} (h_s : Keeps q s) :
    KeepsO q (execVecAdd n s) := by
  unfold execVecAdd
  repeat' first | with_reducible assumption | with_reducible apply keeps_vecBinary

theorem keeps_execVecMul {q : List Instr} {n : Nat} {s : State} (h_s : Keeps q s) :
    KeepsO q (execVecMul n s) := by
  unfold execVecMul
  repeat' first | with_reducible assumption | with_reducible apply keeps_vecBinary

theorem keeps_execVecFma {q : List Instr} {n : Nat} {s : State} (h_s : Keeps q s) :
    KeepsO q (execVecFma n s) := by
  unfold execVecFma
  repeat' first | with_reducible assumption | with_reducible apply keeps_vecIssue

theorem keeps_execVecMax {q : List Instr} {n : Nat} {s : State} (h_s : Keeps q s) :
    KeepsO q (execVecMax n s) := by
  unfold execVecMax
  repeat' first | with_reducible assumption | with_reducible apply keeps_vecBinary

theorem keeps_execVecMin {q : List Instr} {n : Nat} {s : State} (h_s : Keeps q s) :
    KeepsO q (execVecMin n s) := by
  unfold execVecMin
  repeat' first | with_reducible assumption | with_reducible apply keeps_vecBinary

theorem keeps_execVecNeg {q : List Instr} {n : Nat} {s : State} (h_s : Keeps q s) :
    KeepsO q (execVecNeg n s) := by
  unfold execVecNeg
  repeat' first | with_reducible assumption | with_reducible apply keeps_vecUnary

theorem keeps_execVecAbs {q : List Instr} {n : Nat} {s : State} (h_s : Keeps q s) :
    KeepsO q (execVecAbs n s) := by
  unfold execVecAbs
  repeat' first | with_reducible assumption | with_reducible apply keeps_vecUnary

theorem keeps_execVecCvt {q : List Instr} {n : Nat} {s : State} (h_s : Keeps q s) :
    KeepsO q (execVecCvt n s) := by
  unfold execVecCvt
  repeat' first | with_reducible assumption | with_reducible apply keeps_vecUnary

theorem keeps_execVecExp2 {q : List Instr} {n : Nat} {s : State} (h_s : Keeps q s) :
    KeepsO q (execVecExp2 n s) := by
  unfold execVecExp2
  repeat' first | with_reducible assumption | with_reducible apply keeps_vecUnary

theorem keeps_execVecLog2 {q : List Instr} {n : Nat} {s : State} (h_s : Keeps q s) :
    KeepsO q (execVecLog2 n s) := by
  unfold execVecLog2
  repeat' first | with_reducible assumption | with_reducible apply keeps_vecUnary

theorem keeps_execVecRcp {q : List Instr} {n : Nat} {s : State} (h_s : Keeps q s) :
    KeepsO q (execVecRcp n s) := by
  unfold execVecRcp
  repeat' first | with_reducible assumption | with_reducible apply keeps_vecUnary

theorem keeps_execVecRsqrt {q : List Instr} {n : Nat} {s : State} (h_s : Keeps q s) :
    KeepsO q (execVecRsqrt n s) := by
  unfold execVecRsqrt
  repeat' first | with_reducible assumption | with_reducible apply keeps_vecUnary

theorem keeps_execVecRowsum {q : List Instr} {n : Nat} {s : State} (h_s : Keeps q s) :
    KeepsO q (execVecRowsum n s) := by
  unfold execVecRowsum
  repeat' first | with_reducible assumption | with_reducible apply keeps_vecIssue

theorem keeps_execVecRowmax {q : List Instr} {n : Nat} {s : State} (h_s : Keeps q s) :
    KeepsO q (execVecRowmax n s) := by
  unfold execVecRowmax
  repeat' first | with_reducible assumption | with_reducible apply keeps_vecIssue

end Sys2Proof.Machine
end

