-- ==== Sys2Proof/Laws/KeepsNet.lean ====
section
/-! SUPPORT. What keeps the invariant and the queue: operations of the switch and the links. -/

namespace Sys2Proof.Machine

theorem keeps_setLink {q : List Instr} {s : State} {p : Nat} {l : Link} (h_s : Keeps q s) :
    Keeps q (State.setLink s p l) := by
  unfold State.setLink
  repeat' first | with_reducible assumption | with_reducible apply Keeps.parts | simp only [keeps_fields]

theorem keeps_setCells {q : List Instr} {s : State} {p : Nat} {v : Nat} {c : Cells} (h_s : Keeps q s) :
    Keeps q (State.setCells s p v c) := by
  unfold State.setCells
  repeat' first | with_reducible assumption | with_reducible apply Keeps.parts | simp only [keeps_fields]

theorem keeps_throttle {q : List Instr} {s : State} {p : Nat} (h_s : Keeps q s) :
    Keeps q (State.throttle s p) := by
  unfold State.throttle
  repeat' first
      | with_reducible assumption | with_reducible apply keeps_pump | with_reducible apply Keeps.parts
      | simp only [keeps_fields] | split

theorem keeps_takeCells {q : List Instr} {s : State} {p : Nat} {v : Nat} {n : Nat} (h_s : Keeps q s) :
    Keeps q (State.takeCells s p v n).2 := by
  unfold State.takeCells
  repeat' first
      | with_reducible assumption | with_reducible apply keeps_throttle | with_reducible apply keeps_setCells

theorem keeps_freeCells {q : List Instr} {s : State} {p : Nat} {v : Nat} {n : Nat} {sh : Nat} (h_s : Keeps q s) :
    Keeps q (State.freeCells s p v n sh) := by
  unfold State.freeCells
  repeat' first
      | with_reducible assumption | with_reducible apply keeps_setCells | with_reducible apply keeps_throttle
      | with_reducible apply Keeps.parts | simp only [keeps_fields] | split

theorem keeps_nthCause {q : List Instr} {s : State} {c : Cause} {p : Nat} (h_s : Keeps q s) :
    Keeps q (State.nthCause s c p).2 := by
  unfold State.nthCause
  repeat' first | with_reducible assumption | with_reducible apply Keeps.parts | simp only [keeps_fields]

theorem keeps_countCause {q : List Instr} {s : State} {c : Cause} {inp : Nat} {outp : Nat} {f : Frame} {res : Nat}
    (h_s : Keeps q s) :
    Keeps q (State.countCause s c inp outp f res) := by
  unfold State.countCause
  repeat' first
      | with_reducible assumption | with_reducible apply keeps_rcount | with_reducible apply keeps_raise
      | with_reducible apply keeps_nthCause | split | dsimp only

theorem keeps_setHeld {q : List Instr} {s : State} {h : Held} (h_s : Keeps q s) :
    Keeps q (State.setHeld s h) := by
  unfold State.setHeld
  repeat' first | with_reducible assumption | with_reducible apply Keeps.parts | simp only [keeps_fields]

theorem keeps_settle {q : List Instr} {s : State} {id : Nat} (h_s : Keeps q s) :
    Keeps q (State.settle s id) := by
  unfold State.settle
  repeat' first
      | with_reducible assumption | with_reducible apply keeps_freeCells | with_reducible apply Keeps.parts
      | simp only [keeps_fields] | split

theorem keeps_dropCopy {q : List Instr} {s : State} {h : Held} {c : Copy} {cause : Cause} {outp : Nat}
    (h_s : Keeps q s) :
    Keeps q (State.dropCopy s h c cause outp) := by
  unfold State.dropCopy
  repeat' first
      | with_reducible assumption | with_reducible apply keeps_countCause | with_reducible apply keeps_settle
      | with_reducible apply keeps_setHeld | split | dsimp only

theorem keeps_actedOn {q : List Instr} {s : State} {d : Delivered} (h_s : Keeps q s) :
    Keeps q (State.actedOn s d) := by
  unfold State.actedOn
  repeat' first
      | with_reducible assumption | with_reducible apply keeps_freeCells | with_reducible apply keeps_settle
      | with_reducible apply keeps_setHeld | split

theorem keeps_sinkBad {q : List Instr} {s : State} {h : Held} {c : Copy} (h_s : Keeps q s) :
    Keeps q (State.sinkBad s h c) := by
  unfold State.sinkBad
  repeat' first | with_reducible assumption | with_reducible apply keeps_settle | with_reducible apply keeps_setHeld

theorem keeps_flushPort {q : List Instr} {s : State} {p : Nat} (h_s : Keeps q s) :
    Keeps q (State.flushPort s p) := by
  unfold State.flushPort
  repeat' first
      | with_reducible assumption | with_reducible apply keeps_dropCopy | with_reducible apply Keeps.foldl
      | with_reducible intro _ | split

theorem keeps_setRsv {q : List Instr} {s : State} {r : Nat} {v : Rsv} (h_s : Keeps q s) :
    Keeps q (State.setRsv s r v) := by
  exact ⟨⟨h_s.1.mem, h_s.1.regs, h_s.1.cores, h_s.1.core, h_s.1.pools, h_s.1.lanes, tabSet_wf h_s.1.rsv⟩, h_s.2⟩

theorem keeps_askClass0 {q : List Instr} {s : State} {r : Nat} {p : Nat} {f : Frame} {who : Option Nat}
    (h_s : Keeps q s) :
    Keeps q (State.askClass0 s r p f who).2 := by
  unfold State.askClass0
  repeat' first
      | with_reducible assumption | with_reducible apply keeps_setRsv | with_reducible apply keeps_rsetFld
      | with_reducible apply keeps_rcount | with_reducible apply keeps_raise | split | dsimp only

theorem keeps_failWork {q : List Instr} {s : State} {id : Nat} {status : Nat} {result : Word} {detail : Nat}
    (h_s : Keeps q s) :
    Keeps q (State.failWork s id status result detail) := by
  unfold State.failWork
  repeat' first
      | with_reducible assumption | with_reducible apply keeps_pump | with_reducible apply keeps_loadTold
      | with_reducible apply keeps_abandonWrites | with_reducible apply keeps_setCore
      | with_reducible apply keeps_cSetCmd | with_reducible apply keeps_finishWork
      | with_reducible apply Keeps.core (q := q) | with_reducible apply Keeps.parts | simp only [keeps_fields]
      | with_reducible apply Keeps.foldl | with_reducible intro _ | split

theorem keeps_boundsWork {q : List Instr} {s : State} {id : Nat} {a : Nat} {detail : Nat} (h_s : Keeps q s) :
    Keeps q (State.boundsWork s id a detail) := by
  unfold State.boundsWork
  repeat' first | with_reducible assumption | with_reducible apply keeps_failWork

theorem keeps_withdraw {q : List Instr} {s : State} {id : Nat} (h_s : Keeps q s) :
    Keeps q (State.withdraw s id) := by
  unfold State.withdraw
  repeat' first
      | with_reducible assumption | with_reducible apply keeps_setRsv | with_reducible apply Keeps.foldl
      | with_reducible intro _

theorem keeps_stopWorks {q : List Instr} {s : State} {unsent : List Nat} (h_s : Keeps q s) :
    Keeps q (State.stopWorks s unsent) := by
  unfold State.stopWorks
  repeat' first
      | with_reducible assumption | with_reducible apply keeps_failWork | with_reducible apply keeps_withdraw
      | with_reducible apply Keeps.foldl | with_reducible intro _ | split | dsimp only

theorem keeps_imloadLand {q : List Instr} {s : State} {n : Nat} {f : Flight} (h_s : Keeps q s) :
    Keeps q (imloadLand s n f) := by
  unfold imloadLand
  repeat' first
      | with_reducible assumption | with_reducible apply keeps_landLoad | with_reducible apply keeps_loadTold | split

theorem keeps_someOf {q : List Instr} {s : State} {l : Load} (h_s : Keeps q s) :
    Keeps q (State.someOf s l).2 := by
  unfold State.someOf
  repeat' first | with_reducible assumption | with_reducible apply keeps_draw

theorem keeps_loadsPass {q : List Instr} {s : State} {n : Nat} (h_s : Keeps q s) :
    Keeps q (loadsPass s n) := by
  unfold loadsPass
  repeat' first
      | with_reducible assumption | with_reducible apply keeps_someOf | with_reducible apply keeps_landLoad
      | with_reducible apply keeps_setFlight | with_reducible apply keeps_setWork | with_reducible apply Keeps.foldl
      | with_reducible intro _ | split

theorem keeps_loadsCut {q : List Instr} {s : State} {n : Nat} (h_s : Keeps q s) :
    Keeps q (loadsCut s n) := by
  unfold loadsCut
  repeat' first
      | with_reducible assumption | with_reducible apply keeps_loadTold | with_reducible apply Keeps.foldl
      | with_reducible intro _ | split

theorem keeps_setTxLane {q : List Instr} {s : State} {key : Nat} {j : Nat} (h_s : Keeps q s) :
    Keeps q (State.setTxLane s key j) := by
  unfold State.setTxLane
  repeat' first | with_reducible assumption | with_reducible apply keeps_rsetFld

theorem keeps_setLane {q : List Instr} {s : State} {q1 : Nat} {j : Nat} {l : Lane} (h_s : Keeps q s) :
    Keeps q (State.setLane s q1 j l) := by
  exact ⟨⟨h_s.1.mem, h_s.1.regs, h_s.1.cores, h_s.1.core, h_s.1.pools, tabSet_wf h_s.1.lanes, h_s.1.rsv⟩, h_s.2⟩

theorem keeps_syncLink {q : List Instr} {s : State} {p : Nat} (h_s : Keeps q s) :
    Keeps q (State.syncLink s p) := by
  unfold State.syncLink
  repeat' first | with_reducible assumption | with_reducible apply keeps_rsetFld

theorem keeps_setPhase {q : List Instr} {s : State} {p : Nat} {ph : LinkPhase} (h_s : Keeps q s) :
    Keeps q (State.setPhase s p ph) := by
  unfold State.setPhase
  repeat' first | with_reducible assumption | with_reducible apply keeps_syncLink | with_reducible apply keeps_setLink

theorem keeps_fenceTakes {q : List Instr} {s : State} {p : Nat} (h_s : Keeps q s) :
    Keeps q (State.fenceTakes s p) := by
  unfold State.fenceTakes
  repeat' first
      | with_reducible assumption | with_reducible apply keeps_syncLink | with_reducible apply keeps_flushPort
      | with_reducible apply Keeps.parts | simp only [keeps_fields] | split

theorem keeps_setSched {q : List Instr} {s : State} {p : Nat} {x : Sched} (h_s : Keeps q s) :
    Keeps q (State.setSched s p x) := by
  unfold State.setSched
  repeat' first | with_reducible assumption | with_reducible apply Keeps.parts | simp only [keeps_fields]

theorem keeps_onJoin {q : List Instr} {s : State} {p : Nat} {tc : Nat} (h_s : Keeps q s) :
    Keeps q (State.onJoin s p tc) := by
  unfold State.onJoin
  repeat' first | with_reducible assumption | with_reducible apply keeps_setSched | split | dsimp only

theorem keeps_frameTail {q : List Instr} {s : State} {id : Nat} {lost : Bool} (h_s : Keeps q s) :
    Keeps q (State.frameTail s id lost) := by
  unfold State.frameTail
  repeat' first
      | with_reducible assumption | with_reducible apply keeps_settle | with_reducible apply keeps_setHeld
      | with_reducible apply keeps_countCause | split | dsimp only

theorem keeps_dropInFlight {q : List Instr} {s : State} {p : Nat} (h_s : Keeps q s) :
    Keeps q (State.dropInFlight s p) := by
  unfold State.dropInFlight
  repeat' first
      | with_reducible assumption | with_reducible apply keeps_settle | with_reducible apply keeps_setHeld
      | with_reducible apply keeps_frameTail | split | dsimp only

theorem keeps_sendMarkers {q : List Instr} {s : State} {q1 : Nat} {js : List Nat} (h_s : Keeps q s) :
    Keeps q (State.sendMarkers s q1 js) := by
  unfold State.sendMarkers
  repeat' first
      | with_reducible assumption | with_reducible apply keeps_emit | with_reducible apply Keeps.foldl
      | with_reducible intro _

theorem keeps_restartCells {q : List Instr} {s : State} {p : Nat} (h_s : Keeps q s) :
    Keeps q (State.restartCells s p) := by
  unfold State.restartCells
  repeat' first
      | with_reducible assumption | with_reducible apply keeps_setCells | with_reducible apply Keeps.parts
      | simp only [keeps_fields] | with_reducible apply Keeps.foldl | with_reducible intro _

theorem keeps_retrainLanes {q : List Instr} {s : State} {ls : List (Nat × Nat)} {keep : Bool} (h_s : Keeps q s) :
    Keeps q (State.retrainLanes s ls keep) := by
  unfold State.retrainLanes
  repeat' first
      | with_reducible assumption | with_reducible apply keeps_setLane | with_reducible apply keeps_sendMarkers
      | with_reducible apply Keeps.foldl | with_reducible intro _

theorem keeps_startTrain {q : List Instr} {s : State} {p : Nat} (h_s : Keeps q s) :
    Keeps q (State.startTrain s p) := by
  unfold State.startTrain
  repeat' first
      | with_reducible assumption | with_reducible apply keeps_restartCells | with_reducible apply keeps_setLink
      | with_reducible apply keeps_retrainLanes | with_reducible apply keeps_setPhase | split | dsimp only

theorem keeps_linkGone {q : List Instr} {s : State} {p : Nat} (h_s : Keeps q s) :
    Keeps q (State.linkGone s p) := by
  unfold State.linkGone
  repeat' first
      | with_reducible assumption | with_reducible apply keeps_dropInFlight | with_reducible apply keeps_fenceTakes
      | with_reducible apply keeps_flushPort | with_reducible apply keeps_syncLink
      | with_reducible apply keeps_setLink | with_reducible apply keeps_mirrorFail | split

theorem keeps_linkDown {q : List Instr} {s : State} {p : Nat} {cause : Nat} (h_s : Keeps q s) :
    Keeps q (State.linkDown s p cause) := by
  unfold State.linkDown
  repeat' first
      | with_reducible assumption | with_reducible apply keeps_raise | with_reducible apply keeps_linkGone
      | with_reducible apply keeps_startTrain | split | dsimp only

theorem keeps_linkMismatch {q : List Instr} {s : State} {p : Nat} {which : Nat} (h_s : Keeps q s) :
    Keeps q (State.linkMismatch s p which) := by
  unfold State.linkMismatch
  repeat' first
      | with_reducible assumption | with_reducible apply keeps_linkGone | with_reducible apply keeps_syncLink
      | with_reducible apply keeps_setLink | with_reducible apply keeps_raise

theorem keeps_narrow {q : List Instr} {s : State} {p : Nat} (h_s : Keeps q s) :
    Keeps q (State.narrow s p) := by
  unfold State.narrow
  repeat' first
      | with_reducible assumption | with_reducible apply keeps_setTxLane | with_reducible apply keeps_setLink
      | with_reducible apply Keeps.foldl | with_reducible intro _ | split

theorem keeps_cmisLane {q : List Instr} {s : State} {q1 : Nat} {j : Nat} {on : Bool} (h_s : Keeps q s) :
    Keeps q (State.cmisLane s q1 j on) := by
  unfold State.cmisLane
  repeat' first | with_reducible assumption | with_reducible apply keeps_emit | split

theorem keeps_assignLanes {q : List Instr} {s : State} {q1 : Nat} {keep : Bool} (h_s : Keeps q s) :
    Keeps q (State.assignLanes s q1 keep) := by
  unfold State.assignLanes
  repeat' first
      | with_reducible assumption | with_reducible apply keeps_rsetBit | with_reducible apply keeps_rsetFld
      | with_reducible apply keeps_setLane | with_reducible apply Keeps.foldl | with_reducible intro _

theorem keeps_moveTx {q : List Instr} {s : State} {key : Nat} (h_s : Keeps q s) :
    Keeps q (State.moveTx s key) := by
  unfold State.moveTx
  repeat' first
      | with_reducible assumption | with_reducible apply keeps_cmisLane | with_reducible apply keeps_rsetFld
      | with_reducible apply keeps_setTxLane

theorem keeps_moveRx {q : List Instr} {s : State} {key : Nat} (h_s : Keeps q s) :
    Keeps q (State.moveRx s key) := by
  unfold State.moveRx
  repeat' first | with_reducible assumption | with_reducible apply keeps_setLane | split | dsimp only

theorem keeps_dropLanes {q : List Instr} {s : State} {p : Nat} (h_s : Keeps q s) :
    Keeps q (State.dropLanes s p) := by
  unfold State.dropLanes
  repeat' first
      | with_reducible assumption | with_reducible apply keeps_moveRx | with_reducible apply keeps_moveTx
      | with_reducible apply keeps_setTxLane | with_reducible apply Keeps.foldl | with_reducible intro _ | split
      | dsimp only

theorem keeps_placeLanes {q : List Instr} {s : State} {p : Nat} (h_s : Keeps q s) :
    Keeps q (State.placeLanes s p) := by
  unfold State.placeLanes
  repeat' first
      | with_reducible assumption | with_reducible apply keeps_narrow | with_reducible apply keeps_dropLanes
      | with_reducible apply keeps_assignLanes | with_reducible apply Keeps.foldl | with_reducible intro _ | split

theorem keeps_tryAdvance {q : List Instr} {s : State} {p : Nat} (h_s : Keeps q s) :
    Keeps q (State.tryAdvance s p) := by
  unfold State.tryAdvance
  repeat' first
      | with_reducible assumption | with_reducible apply keeps_placeLanes | with_reducible apply keeps_raise
      | with_reducible apply keeps_setPhase | with_reducible apply keeps_linkDown | with_reducible apply keeps_setLink
      | split | dsimp only

theorem keeps_condemnLane {q : List Instr} {s : State} {q1 : Nat} {j : Nat} (h_s : Keeps q s) :
    Keeps q (State.condemnLane s q1 j) := by
  unfold State.condemnLane
  repeat' first | with_reducible assumption | with_reducible apply keeps_cmisLane | with_reducible apply keeps_rsetBit

theorem keeps_retireLane {q : List Instr} {s : State} {q1 : Nat} {old : Nat} {new : Nat} (h_s : Keeps q s) :
    Keeps q (State.retireLane s q1 old new) := by
  unfold State.retireLane
  repeat' first
      | with_reducible assumption | with_reducible apply keeps_condemnLane | with_reducible apply keeps_record
      | with_reducible apply keeps_rsetBit | with_reducible apply keeps_rsetFld | with_reducible apply keeps_useSpare

theorem keeps_raiseSpared {q : List Instr} {s : State} {x : Nat × Nat × Nat} {kind : Nat} (h_s : Keeps q s) :
    Keeps q (State.raiseSpared s x kind) := by
  unfold State.raiseSpared
  repeat' first | with_reducible assumption | with_reducible apply keeps_raise

theorem keeps_trainSpare {q : List Instr} {s : State} {q1 : Nat} (h_s : Keeps q s) :
    Keeps q (State.trainSpare s q1) := by
  unfold State.trainSpare
  repeat' first
      | with_reducible assumption | with_reducible apply keeps_setLane | with_reducible apply keeps_sendMarkers
      | split

theorem keeps_startSparing {q : List Instr} {s : State} {p : Nat} {lane : Nat} (h_s : Keeps q s) :
    Keeps q (State.startSparing s p lane) := by
  unfold State.startSparing
  repeat' first | with_reducible assumption | with_reducible apply keeps_setLink | split | dsimp only

theorem keeps_spareOwed {q : List Instr} {s : State} {p : Nat} (h_s : Keeps q s) :
    Keeps q (State.spareOwed s p) := by
  unfold State.spareOwed
  repeat' first
      | with_reducible assumption | with_reducible apply keeps_setLane | with_reducible apply keeps_raise
      | with_reducible apply keeps_startSparing | split | dsimp only

theorem keeps_sparingDone {q : List Instr} {s : State} {p : Nat} (h_s : Keeps q s) :
    Keeps q (State.sparingDone s p) := by
  unfold State.sparingDone
  repeat' first
      | with_reducible assumption | with_reducible apply keeps_spareOwed | with_reducible apply keeps_raiseSpared
      | with_reducible apply keeps_retireLane | with_reducible apply keeps_setLink | split | dsimp only

theorem keeps_trySwitch {q : List Instr} {s : State} {p : Nat} (h_s : Keeps q s) :
    Keeps q (State.trySwitch s p) := by
  unfold State.trySwitch
  repeat' first
      | with_reducible assumption | with_reducible apply keeps_sparingDone | with_reducible apply keeps_setLink
      | with_reducible apply keeps_moveTx | split | dsimp only

theorem keeps_dropSparing {q : List Instr} {s : State} {p : Nat} (h_s : Keeps q s) :
    Keeps q (State.dropSparing s p) := by
  unfold State.dropSparing
  repeat' first
      | with_reducible assumption | with_reducible apply keeps_sparingDone | with_reducible apply keeps_setLink
      | with_reducible apply keeps_moveRx | with_reducible apply keeps_spareOwed | split | dsimp only

theorem keeps_fastRetrain {q : List Instr} {s : State} {p : Nat} {cause : Nat} (h_s : Keeps q s) :
    Keeps q (State.fastRetrain s p cause) := by
  unfold State.fastRetrain
  repeat' first
      | with_reducible assumption | with_reducible apply keeps_dropSparing | with_reducible apply keeps_setPhase
      | with_reducible apply keeps_setLink | with_reducible apply keeps_rcount | with_reducible apply keeps_raise
      | with_reducible apply keeps_retrainLanes | with_reducible apply keeps_addPoints | split

theorem keeps_lanePoints {q : List Instr} {s : State} {q1 : Nat} {j : Nat} {k : Nat} (h_s : Keeps q s) :
    Keeps q (State.lanePoints s q1 j k) := by
  unfold State.lanePoints
  repeat' first
      | with_reducible assumption | with_reducible apply keeps_addPoints | with_reducible apply keeps_loseSpare
      | with_reducible apply keeps_condemnLane | with_reducible apply keeps_rsetFld | with_reducible apply keeps_raise
      | with_reducible apply keeps_setLane | with_reducible apply keeps_spareOwed | split | dsimp only

end Sys2Proof.Machine
end

