-- ==== Sys2Proof/Laws/KeepsCmd.lean ====
section
/-! SUPPORT. What keeps the invariant and the queue: meanings of the commands of a core. -/

namespace Sys2Proof.Machine

theorem keeps_movIssue {q : List Instr} {s : State} {n : Nat} {op : Nat} {occ : Nat} {errs : List (Nat × Bool)}
    (h_s : Keeps q s) :
    KeepsO q (movIssue s n op occ errs) := by
  unfold movIssue
  repeat' first
      | with_reducible assumption | with_reducible apply keeps_issueCmd | with_reducible apply keeps_gated
      | with_reducible apply keeps_issuePlan | with_reducible apply keeps_meet | with_reducible apply keeps_sendAll
      | with_reducible apply keeps_setFlight | with_reducible apply keeps_formMov | with_reducible apply KeepsO.next
      | (refine KeepsI.go (by with_reducible assumption) ?_) | (refine KeepsI.ended (by with_reducible assumption) ?_)
      | (refine Keeps.snd (by with_reducible assumption) ?_) | split | dsimp only

theorem keeps_execMovCopy {q : List Instr} {n : Nat} {occ : Nat} {errs : List (Nat × Bool)} {s : State}
    (h_s : Keeps q s) :
    KeepsO q (execMovCopy n occ errs s) := by
  unfold execMovCopy
  repeat' first | with_reducible assumption | with_reducible apply keeps_movIssue

theorem keeps_execMovCvt {q : List Instr} {n : Nat} {occ : Nat} {s : State} (h_s : Keeps q s) :
    KeepsO q (execMovCvt n occ s) := by
  unfold execMovCvt
  repeat' first | with_reducible assumption | with_reducible apply keeps_movIssue

theorem keeps_execMovMxin {q : List Instr} {n : Nat} {occ : Nat} {s : State} (h_s : Keeps q s) :
    KeepsO q (execMovMxin n occ s) := by
  unfold execMovMxin
  repeat' first | with_reducible assumption | with_reducible apply keeps_movIssue

theorem keeps_execMovMxout {q : List Instr} {n : Nat} {occ : Nat} {s : State} (h_s : Keeps q s) :
    KeepsO q (execMovMxout n occ s) := by
  unfold execMovMxout
  repeat' first | with_reducible assumption | with_reducible apply keeps_movIssue

theorem keeps_execMatPadd {q : List Instr} {n : Nat} {occ : Nat} {s : State} (h_s : Keeps q s) :
    KeepsO q (execMatPadd n occ s) := by
  unfold execMatPadd
  repeat' first | with_reducible assumption | with_reducible apply keeps_movIssue

theorem keeps_execMovAtom {q : List Instr} {n : Nat} {occ : Nat} {s : State} (h_s : Keeps q s) :
    KeepsO q (execMovAtom n occ s) := by
  unfold execMovAtom
  repeat' first
      | with_reducible assumption | with_reducible apply keeps_issueCmd | with_reducible apply keeps_issuePlan
      | with_reducible apply keeps_sendAll | with_reducible apply keeps_setFlight | with_reducible apply KeepsO.next
      | (refine KeepsI.go (by with_reducible assumption) ?_) | (refine KeepsI.ended (by with_reducible assumption) ?_)
      | split | dsimp only

theorem keeps_atomHere {q : List Instr} {s : State} {n : Nat} {f : Flight} (h_s : Keeps q s) :
    Keeps q (atomHere s n f).2 := by
  unfold atomHere
  repeat' first
      | with_reducible assumption | with_reducible apply keeps_meet | with_reducible apply keeps_mputWord | split
      | dsimp only

theorem keeps_execMovStash {q : List Instr} {n : Nat} {s : State} (h_s : Keeps q s) :
    KeepsO q (execMovStash n s) := by
  unfold execMovStash
  repeat' first
      | with_reducible assumption | with_reducible apply keeps_issueCmd | with_reducible apply keeps_issuePlan
      | with_reducible apply keeps_setCore | with_reducible apply Keeps.core (q := q)
      | with_reducible apply KeepsO.next | with_reducible apply CoreOk.parts | simp only [coreOk_fields]
      | (refine KeepsI.go (by with_reducible assumption) ?_) | (refine KeepsI.ended (by with_reducible assumption) ?_)
      | split

theorem keeps_stashRequest {q : List Instr} {s : State} {n : Nat} {sub : Nat} {bytes : Nat} (h_s : Keeps q s) :
    Keeps q (stashRequest s n sub bytes).2 := by
  unfold stashRequest
  repeat' first
      | with_reducible assumption | with_reducible apply keeps_poolRequest
      | (refine Keeps.snd (by with_reducible assumption) ?_) | split | dsimp only

theorem keeps_execStashPoolReply {q : List Instr} {n : Nat} {cyc : Nat} {occ : Nat} {s : State} (h_s : Keeps q s) :
    KeepsO q (execStashPoolReply n cyc occ s) := by
  unfold execStashPoolReply
  repeat' first
      | with_reducible assumption | with_reducible apply keeps_gated | with_reducible apply keeps_stashRequest
      | with_reducible apply keeps_landUpTo | with_reducible apply keeps_cSetP | with_reducible apply keeps_cSetS
      | with_reducible apply keeps_setCore | with_reducible apply keeps_completeFlight
      | with_reducible apply keeps_sendAll | with_reducible apply keeps_setFlight | with_reducible apply keeps_meet
      | with_reducible apply Keeps.core (q := q) | with_reducible apply KeepsO.next
      | with_reducible apply CoreOk.parts | simp only [coreOk_fields] | split

theorem keeps_execMovRelease {q : List Instr} {n : Nat} {occ : Nat} {s : State} (h_s : Keeps q s) :
    KeepsO q (execMovRelease n occ s) := by
  unfold execMovRelease
  repeat' first
      | with_reducible assumption | with_reducible apply keeps_issueCmd | with_reducible apply keeps_issuePlan
      | with_reducible apply keeps_failFlight | with_reducible apply KeepsO.next | with_reducible apply keeps_gated
      | (refine KeepsI.go (by with_reducible assumption) ?_) | (refine KeepsI.ended (by with_reducible assumption) ?_)
      | (refine keeps_poolRelease ?_ _ (by with_reducible assumption)) | split | dsimp only

theorem keeps_execMovImload {q : List Instr} {n : Nat} {occ : Nat} {s : State} (h_s : Keeps q s) :
    KeepsO q (execMovImload n occ s) := by
  unfold execMovImload
  repeat' first
      | with_reducible assumption | with_reducible apply keeps_issueCmd | with_reducible apply keeps_issuePlan
      | with_reducible apply keeps_sendAll | with_reducible apply keeps_setFlight | with_reducible apply keeps_meet
      | with_reducible apply KeepsO.next | (refine KeepsI.go (by with_reducible assumption) ?_)
      | (refine KeepsI.ended (by with_reducible assumption) ?_) | split | dsimp only

theorem keeps_formFlight {q : List Instr} {s : State} {n : Nat} {f : Flight} (h_s : Keeps q s) :
    Keeps q (formFlight s n f) := by
  unfold formFlight
  repeat' first
      | with_reducible assumption | with_reducible apply keeps_outsideCycle | with_reducible apply keeps_setCore
      | with_reducible apply keeps_engineFree | with_reducible apply keeps_setFlight
      | with_reducible apply keeps_formMov | with_reducible apply Keeps.core (q := q)
      | (refine Keeps.snd (by with_reducible assumption) ?_) | split

theorem keeps_execMatMms {q : List Instr} {n : Nat} {s : State} (h_s : Keeps q s) :
    KeepsO q (execMatMms n s) := by
  unfold execMatMms
  repeat' first
      | with_reducible assumption | with_reducible apply keeps_issueCmd | with_reducible apply keeps_issuePlan
      | with_reducible apply keeps_failFlight | with_reducible apply keeps_meet | with_reducible apply KeepsO.next
      | (refine KeepsI.go (by with_reducible assumption) ?_) | (refine KeepsI.ended (by with_reducible assumption) ?_)
      | split | dsimp only

theorem keeps_execVecUpd {q : List Instr} {n : Nat} {s : State} (h_s : Keeps q s) :
    KeepsO q (execVecUpd n s) := by
  unfold execVecUpd
  repeat' first
      | with_reducible assumption | with_reducible apply keeps_issueCmd | with_reducible apply keeps_issuePlan
      | with_reducible apply keeps_meet | with_reducible apply KeepsO.next
      | (refine KeepsI.go (by with_reducible assumption) ?_) | (refine KeepsI.ended (by with_reducible assumption) ?_)
      | split

theorem keeps_updComplete {q : List Instr} {s : State} {n : Nat} {f : Flight} {cyc : Nat} (h_s : Keeps q s) :
    Keeps q (updComplete s n f cyc) := by
  unfold updComplete
  repeat' first
      | with_reducible assumption | with_reducible apply keeps_failFlight | with_reducible apply keeps_completeFlight
      | with_reducible apply keeps_raise | with_reducible apply Keeps.foldl | with_reducible intro _ | split

theorem keeps_synIssue {q : List Instr} {s : State} {n : Nat} {op : Nat} {plan : Core → Cmd → Plan} (h_s : Keeps q s) :
    KeepsO q (synIssue s n op plan) := by
  unfold synIssue
  repeat' first
      | with_reducible assumption | with_reducible apply keeps_issueCmd | with_reducible apply keeps_issuePlan
      | with_reducible apply KeepsO.next | (refine KeepsI.go (by with_reducible assumption) ?_)
      | (refine KeepsI.ended (by with_reducible assumption) ?_) | split

theorem keeps_execSynNop {q : List Instr} {n : Nat} {s : State} (h_s : Keeps q s) :
    KeepsO q (execSynNop n s) := by
  unfold execSynNop
  repeat' first | with_reducible assumption | with_reducible apply keeps_synIssue

theorem keeps_execSynSignal {q : List Instr} {n : Nat} {s : State} (h_s : Keeps q s) :
    KeepsO q (execSynSignal n s) := by
  unfold execSynSignal
  repeat' first | with_reducible assumption | with_reducible apply keeps_synIssue

theorem keeps_execSynSetp {q : List Instr} {n : Nat} {s : State} (h_s : Keeps q s) :
    KeepsO q (execSynSetp n s) := by
  unfold execSynSetp
  repeat' first | with_reducible assumption | with_reducible apply keeps_synIssue

theorem keeps_execSynSalu {q : List Instr} {n : Nat} {s : State} (h_s : Keeps q s) :
    KeepsO q (execSynSalu n s) := by
  unfold execSynSalu
  repeat' first | with_reducible assumption | with_reducible apply keeps_synIssue

theorem keeps_execSynSld {q : List Instr} {n : Nat} {s : State} (h_s : Keeps q s) :
    KeepsO q (execSynSld n s) := by
  unfold execSynSld
  repeat' first
      | with_reducible assumption | with_reducible apply keeps_issueCmd | with_reducible apply keeps_issuePlan
      | with_reducible apply keeps_meet | with_reducible apply KeepsO.next
      | (refine KeepsI.go (by with_reducible assumption) ?_) | (refine KeepsI.ended (by with_reducible assumption) ?_)
      | split

theorem keeps_execSynSst {q : List Instr} {n : Nat} {s : State} (h_s : Keeps q s) :
    KeepsO q (execSynSst n s) := by
  unfold execSynSst
  repeat' first | with_reducible assumption | with_reducible apply keeps_synIssue

theorem keeps_execSynFlags {q : List Instr} {n : Nat} {s : State} (h_s : Keeps q s) :
    KeepsO q (execSynFlags n s) := by
  unfold execSynFlags
  repeat' first
      | with_reducible assumption | with_reducible apply keeps_issueCmd | with_reducible apply keeps_issuePlan
      | with_reducible apply keeps_setCore | with_reducible apply Keeps.core (q := q)
      | with_reducible apply KeepsO.next | with_reducible apply CoreOk.parts | simp only [coreOk_fields]
      | (refine KeepsI.go (by with_reducible assumption) ?_) | (refine KeepsI.ended (by with_reducible assumption) ?_)
      | split

/-- An operation that changes nothing. -/
theorem Keeps.self {q} {s : State} (h : Keeps q s) : Keeps q (id s) := h

theorem keeps_controlIssue {q : List Instr} {s : State} {n : Nat} {op : Nat} {faults : Core → Cmd → List (Nat × Nat)}
    {effect : Core → Nat → Cmd → Core → Core} {before : State → State} (h_s : Keeps q s)
    (h_effect : ∀ y0 y1 y2 y3, CoreOk y0 → CoreOk y3 → CoreOk (effect y0 y1 y2 y3))
    (h_before : ∀ y0, Keeps q y0 → Keeps q (before y0)) :
    KeepsO q (controlIssue s n op faults effect before) := by
  unfold controlIssue
  repeat' first
      | with_reducible assumption | with_reducible apply keeps_issueCmd | with_reducible apply keeps_issuePlan
      | with_reducible apply keeps_setCore | with_reducible apply h_effect | with_reducible apply CoreOk.filter
      | with_reducible apply h_before | with_reducible apply Keeps.core (q := q) | with_reducible apply KeepsO.next
      | simp only [coreOk_fields] | (refine KeepsI.go (by with_reducible assumption) ?_)
      | (refine KeepsI.ended (by with_reducible assumption) ?_) | split

theorem keeps_releasePends {c : Core} {sem : Nat} (h_c : CoreOk c) :
    CoreOk (releasePends c sem) := by
  unfold releasePends
  repeat' first | with_reducible assumption | with_reducible apply CoreOk.parts | simp only [coreOk_fields]

theorem keeps_endWait {c : Core} {sem : Nat} {count : Nat} {cyc : Nat} (h_c : CoreOk c) :
    CoreOk (endWait c sem count cyc) := by
  unfold endWait
  repeat' first
      | with_reducible assumption | with_reducible apply keeps_releasePends | with_reducible apply keeps_cSetSem
      | with_reducible apply CoreOk.parts | simp only [coreOk_fields]

theorem keeps_execSynWait {q : List Instr} {n : Nat} {s : State} (h_s : Keeps q s) :
    KeepsO q (execSynWait n s) := by
  unfold execSynWait
  repeat' first
      | with_reducible assumption | with_reducible apply keeps_controlIssue | with_reducible apply keeps_endWait
      | with_reducible apply Keeps.self | with_reducible apply CoreOk.parts | simp only [coreOk_fields]
      | with_reducible intro _ | split

theorem keeps_landForWait {q : List Instr} {s : State} {n : Nat} {sem : Nat} {count : Nat} {t : Nat} {at_ : Nat}
    {x1 : Nat} (h_s : Keeps q s) :
    Keeps q (landForWait s n sem count t at_ x1).1 := by
  induction x1 generalizing s at_ with
  | zero => exact h_s
  | succ k ih =>
    unfold landForWait
    split
    · exact ih (keeps_completeFlight h_s)
    · exact h_s

theorem keeps_execWaitSatisfied {q : List Instr} {n : Nat} {cyc : Nat} {s : State} (h_s : Keeps q s) :
    KeepsO q (execWaitSatisfied n cyc s) := by
  unfold execWaitSatisfied
  repeat' first
      | with_reducible assumption | with_reducible apply keeps_landForWait | with_reducible apply keeps_setCore
      | with_reducible apply keeps_endWait | with_reducible apply Keeps.core (q := q)
      | with_reducible apply KeepsO.next | split | dsimp only

theorem keeps_execWaitTimeout {q : List Instr} {n : Nat} {cyc : Nat} {s : State} (h_s : Keeps q s) :
    KeepsO q (execWaitTimeout n cyc s) := by
  unfold execWaitTimeout
  repeat' first
      | with_reducible assumption | with_reducible apply keeps_landUpTo | with_reducible apply keeps_haltCore
      | with_reducible apply KeepsO.next | split | dsimp only

theorem keeps_execSynSkip {q : List Instr} {n : Nat} {s : State} (h_s : Keeps q s) :
    KeepsO q (execSynSkip n s) := by
  unfold execSynSkip
  repeat' first
      | with_reducible assumption | with_reducible apply keeps_controlIssue | with_reducible apply Keeps.self
      | with_reducible apply CoreOk.parts | simp only [coreOk_fields] | with_reducible intro _

theorem keeps_execSynRepeat {q : List Instr} {n : Nat} {s : State} (h_s : Keeps q s) :
    KeepsO q (execSynRepeat n s) := by
  unfold execSynRepeat
  repeat' first
      | with_reducible assumption | with_reducible apply keeps_controlIssue | with_reducible apply Keeps.self
      | with_reducible apply CoreOk.parts | simp only [coreOk_fields] | with_reducible intro _

theorem keeps_execSynSwap {q : List Instr} {n : Nat} {s : State} (h_s : Keeps q s) :
    KeepsO q (execSynSwap n s) := by
  unfold execSynSwap
  repeat' first
      | with_reducible assumption | with_reducible apply keeps_controlIssue | with_reducible apply keeps_loadsPass
      | with_reducible apply CoreOk.parts | simp only [coreOk_fields] | with_reducible intro _

theorem keeps_execSynEnd {q : List Instr} {n : Nat} {s : State} (h_s : Keeps q s) :
    KeepsO q (execSynEnd n s) := by
  unfold execSynEnd
  repeat' first
      | with_reducible assumption | with_reducible apply keeps_controlIssue | with_reducible apply Keeps.self
      | with_reducible apply CoreOk.parts | simp only [coreOk_fields] | with_reducible intro _

theorem keeps_execSynRsignal {q : List Instr} {n : Nat} {occ : Nat} {s : State} (h_s : Keeps q s) :
    KeepsO q (execSynRsignal n occ s) := by
  unfold execSynRsignal
  repeat' first
      | with_reducible assumption | with_reducible apply keeps_issueCmd | with_reducible apply keeps_issuePlan
      | with_reducible apply keeps_sendAll | with_reducible apply KeepsO.next
      | (refine KeepsI.go (by with_reducible assumption) ?_) | (refine KeepsI.ended (by with_reducible assumption) ?_)
      | split | dsimp only

theorem keeps_setLaunches {q : List Instr} {s : State} {l : Nat} {q1 : List Launch} (h_s : Keeps q s) :
    Keeps q (State.setLaunches s l q1) := by
  unfold State.setLaunches
  repeat' first | with_reducible assumption | with_reducible apply Keeps.parts | simp only [keeps_fields]

theorem keeps_launched {q : List Instr} {s : State} {n : Nat} {c : Core} {l : Launch} (h_s : Keeps q s)
    (h_c : CoreOk c) :
    CoreOk (launched s n c l) := by
  have hw : ∀ (l' : List Nat) (t : Tab Word), tabWf (fun _ => (0 : Word)) t = true →
      tabWf (fun _ => (0 : Word)) (l'.foldl (fun t k => tabSet (fun _ => 0) t k (l.args.getD (k - 1) 0)) t) = true := by
    intro l'
    induction l' with
    | nil => intro t h; exact h
    | cons k l' ih => intro t h; exact ih _ (tabSet_wf h)
  exact ⟨tabSet_wf (tabSet_wf (hw _ _ rfl)), fun f hf => nomatch hf⟩

theorem keeps_execLaunchStart {q : List Instr} {n : Nat} {s : State} (h_s : Keeps q s) :
    KeepsO q (execLaunchStart n s) := by
  unfold execLaunchStart
  repeat' first
      | with_reducible assumption | with_reducible apply keeps_loadsPass | with_reducible apply keeps_setCore
      | with_reducible apply keeps_setLaunches | with_reducible apply keeps_launched
      | with_reducible apply Keeps.core (q := q) | with_reducible apply KeepsO.next | split | dsimp only

theorem keeps_execUndefinedOpcode {q : List Instr} {n : Nat} {s : State} (h_s : Keeps q s) :
    KeepsO q (execUndefinedOpcode n s) := by
  unfold execUndefinedOpcode
  repeat' first
      | with_reducible assumption | with_reducible apply keeps_issueCmd | with_reducible apply KeepsO.next
      | (refine KeepsI.go (by with_reducible assumption) ?_) | (refine KeepsI.ended (by with_reducible assumption) ?_)
      | split

theorem keeps_markWait {c0 : Core} {c : Core} {wv : Nat} (h_c0 : CoreOk c0) (h_c : CoreOk c) :
    CoreOk (markWait c0 c wv) := by
  unfold markWait
  repeat' first | with_reducible assumption | with_reducible apply CoreOk.parts | simp only [coreOk_fields] | split

theorem keeps_execFixedWriteback {q : List Instr} {n : Nat} {s : State} (h_s : Keeps q s) :
    KeepsO q (execFixedWriteback n s) := by
  unfold execFixedWriteback
  repeat' first
      | with_reducible assumption | with_reducible apply keeps_completeFlight | with_reducible apply keeps_setCore
      | with_reducible apply keeps_markWait | with_reducible apply Keeps.core (q := q)
      | with_reducible apply KeepsO.next | split | dsimp only

theorem keeps_finishFlight {q : List Instr} {s : State} {n : Nat} {f : Flight} {cyc : Nat} (h_s : Keeps q s) :
    Keeps q (finishFlight s n f cyc) := by
  unfold finishFlight
  repeat' first
      | with_reducible assumption | with_reducible apply keeps_completeFlight | with_reducible apply keeps_atomHere
      | with_reducible apply keeps_imloadLand | with_reducible apply keeps_updComplete
      | (refine Keeps.snd (by with_reducible assumption) ?_) | split | dsimp only

theorem keeps_execVarCommandComplete {q : List Instr} {n : Nat} {f : Nat} {cyc : Nat} {s : State} (h_s : Keeps q s) :
    KeepsO q (execVarCommandComplete n f cyc s) := by
  unfold execVarCommandComplete
  repeat' first
      | with_reducible assumption | with_reducible apply keeps_gated | with_reducible apply keeps_landUpTo
      | with_reducible apply keeps_finishFlight | with_reducible apply KeepsO.next | split | dsimp only

theorem keeps_haltAt {q : List Instr} {s : State} {n : Nat} {code : Nat} {t : Nat} (h_s : Keeps q s) :
    Keeps q (haltAt s n code t) := by
  unfold haltAt
  repeat' first
      | with_reducible assumption | with_reducible apply keeps_landUpTo | with_reducible apply keeps_haltCore | split
      | dsimp only

theorem keeps_execHaltLimit {q : List Instr} {n : Nat} {s : State} (h_s : Keeps q s) :
    KeepsO q (execHaltLimit n s) := by
  unfold execHaltLimit
  repeat' first
      | with_reducible assumption | with_reducible apply keeps_haltAt | with_reducible apply KeepsO.next | split
      | dsimp only

theorem keeps_execHaltHost {q : List Instr} {n : Nat} {cyc : Nat} {s : State} (h_s : Keeps q s) :
    KeepsO q (execHaltHost n cyc s) := by
  unfold execHaltHost
  repeat' first
      | with_reducible assumption | with_reducible apply keeps_haltAt | with_reducible apply KeepsO.next | split

theorem keeps_writeDump {q : List Instr} {s : State} {n : Nat} {lost : Nat} (h_s : Keeps q s) :
    Keeps q (writeDump s n lost) := by
  unfold writeDump
  repeat' first | with_reducible assumption | with_reducible apply keeps_hostWrite | split | dsimp only

theorem keeps_enterHalted {q : List Instr} {s : State} {n : Nat} {lost : Nat} (h_s : Keeps q s) :
    Keeps q (enterHalted s n lost) := by
  unfold enterHalted
  repeat' first
      | with_reducible assumption | with_reducible apply keeps_writeDump | with_reducible apply keeps_loadsPass
      | with_reducible apply keeps_raise | with_reducible apply keeps_setCore | with_reducible apply keeps_finishWork
      | with_reducible apply Keeps.core (q := q) | with_reducible apply CoreOk.parts | simp only [coreOk_fields]
      | split

theorem keeps_execHaltDrainDone {q : List Instr} {n : Nat} {s : State} (h_s : Keeps q s) :
    KeepsO q (execHaltDrainDone n s) := by
  unfold execHaltDrainDone
  repeat' first
      | with_reducible assumption | with_reducible apply keeps_landUpTo | with_reducible apply keeps_enterHalted
      | with_reducible apply KeepsO.next | split | dsimp only

theorem keeps_prepareAbandon {q : List Instr} {s : State} {n : Nat} (h_s : Keeps q s) :
    Keeps q (prepareAbandon s n) := by
  unfold prepareAbandon
  repeat' first
      | with_reducible assumption | with_reducible apply keeps_draw | with_reducible apply keeps_atomHere
      | with_reducible apply keeps_setFlight | with_reducible apply Keeps.foldl
      | (refine Keeps.snd (by with_reducible assumption) ?_) | with_reducible intro _ | split

theorem keeps_abandonCore {q : List Instr} {s : State} {n : Nat} (h_s : Keeps q s) :
    Keeps q (abandonCore s n) := by
  unfold abandonCore
  repeat' first
      | with_reducible assumption | with_reducible apply keeps_loadsPass | with_reducible apply keeps_abandonAll
      | with_reducible apply keeps_prepareAbandon | with_reducible apply keeps_loadsCut

theorem keeps_execHaltDrainTimeout {q : List Instr} {n : Nat} {cyc : Nat} {s : State} (h_s : Keeps q s) :
    KeepsO q (execHaltDrainTimeout n s cyc) := by
  unfold execHaltDrainTimeout
  repeat' first
      | with_reducible assumption | with_reducible apply keeps_landUpTo | with_reducible apply keeps_enterHalted
      | with_reducible apply keeps_abandonCore | with_reducible apply KeepsO.next | split | dsimp only

theorem keeps_execEndDrainDone {q : List Instr} {n : Nat} {s : State} (h_s : Keeps q s) :
    KeepsO q (execEndDrainDone n s) := by
  unfold execEndDrainDone
  repeat' first
      | with_reducible assumption | with_reducible apply keeps_landUpTo | with_reducible apply keeps_loadsPass
      | with_reducible apply keeps_setCore | with_reducible apply keeps_finishWork
      | with_reducible apply Keeps.core (q := q) | with_reducible apply KeepsO.next
      | with_reducible apply CoreOk.parts | simp only [coreOk_fields] | split

theorem keeps_execClearHalt {q : List Instr} {n : Nat} {s : State} (h_s : Keeps q s) :
    KeepsO q (execClearHalt n s) := by
  unfold execClearHalt
  repeat' first
      | with_reducible assumption | with_reducible apply keeps_setCore | with_reducible apply Keeps.core (q := q)
      | with_reducible apply KeepsO.next | with_reducible apply CoreOk.parts | simp only [coreOk_fields] | split

theorem keeps_stopCore {q : List Instr} {s : State} {n : Nat} (h_s : Keeps q s) :
    Keeps q (stopCore s n) := by
  unfold stopCore
  repeat' first
      | with_reducible assumption | with_reducible apply keeps_warmReset | with_reducible apply keeps_abandonCore

theorem keeps_execCoreReset {q : List Instr} {n : Nat} {s : State} (h_s : Keeps q s) :
    KeepsO q (execCoreReset n s) := by
  unfold execCoreReset
  repeat' first | with_reducible assumption | with_reducible apply keeps_stopCore | with_reducible apply KeepsO.next

theorem keeps_execFlushClear {q : List Instr} {n : Nat} {inc : Nat} {s : State} (h_s : Keeps q s) :
    KeepsO q (execFlushClear n inc s) := by
  unfold execFlushClear
  repeat' first
      | with_reducible assumption | with_reducible apply keeps_setCore | with_reducible apply Keeps.core (q := q)
      | with_reducible apply KeepsO.next | with_reducible apply CoreOk.parts | simp only [coreOk_fields]

theorem keeps_setSlot {q : List Instr} {s : State} {n : Nat} {x : Option Slot} (h_s : Keeps q s) :
    Keeps q (State.setSlot s n x) := by
  unfold State.setSlot
  repeat' first | with_reducible assumption | with_reducible apply Keeps.parts | simp only [keeps_fields]

theorem keeps_release {q : List Instr} {s : State} {n : Nat} (h_s : Keeps q s) :
    Keeps q (State.release s n) := by
  unfold State.release
  repeat' first
      | with_reducible assumption | with_reducible apply keeps_rsetFld | with_reducible apply keeps_setSlot | split

theorem keeps_setColl {q : List Instr} {s : State} {c : Coll} (h_s : Keeps q s) :
    Keeps q (State.setColl s c) := by
  unfold State.setColl
  repeat' first | with_reducible assumption | with_reducible apply Keeps.parts | simp only [keeps_fields]

theorem keeps_tellLauncher {q : List Instr} {s : State} {who : Requester} {code : Nat} {cause : Nat} (h_s : Keeps q s) :
    Keeps q (State.tellLauncher s who code cause) := by
  unfold State.tellLauncher
  repeat' first
      | with_reducible assumption | with_reducible apply keeps_outsideCycle
      | with_reducible apply keeps_completeFlight | with_reducible apply keeps_finishWork | split

theorem keeps_dropSlots {q : List Instr} {s : State} {c : Coll} (h_s : Keeps q s) :
    Keeps q (State.dropSlots s c) := by
  unfold State.dropSlots
  repeat' first
      | with_reducible assumption | with_reducible apply keeps_release | with_reducible apply Keeps.foldl
      | with_reducible intro _ | split

theorem keeps_finish {q : List Instr} {s : State} {h : Nat} {code : Nat} {cause : Nat} {lost : Nat} (h_s : Keeps q s) :
    Keeps q (State.finish s h code cause lost) := by
  unfold State.finish
  repeat' first
      | with_reducible assumption | with_reducible apply keeps_pump | with_reducible apply keeps_mputBytes
      | with_reducible apply keeps_dropSlots | with_reducible apply keeps_rsetFld | with_reducible apply keeps_rcount
      | with_reducible apply keeps_tellLauncher | with_reducible apply Keeps.parts | simp only [keeps_fields] | split

theorem keeps_endWait2 {q : List Instr} {s : State} {w : CollWait} {code : Nat} {cause : Nat} {lost : Nat}
    (h_s : Keeps q s) :
    Keeps q (State.endWait s w code cause lost) := by
  unfold State.endWait
  repeat' first
      | with_reducible assumption | with_reducible apply keeps_mputBytes | with_reducible apply keeps_tellLauncher

theorem keeps_mute {q : List Instr} {s : State} {mine : Frame → Bool} (h_s : Keeps q s) :
    Keeps q (State.mute s mine) := by
  unfold State.mute
  repeat' first
      | with_reducible assumption | with_reducible apply keeps_setRsv | with_reducible apply Keeps.parts
      | simp only [keeps_fields] | with_reducible apply Keeps.foldl | with_reducible intro _

theorem keeps_endColls {q : List Instr} {s : State} (h_s : Keeps q s) :
    Keeps q (State.endColls s) := by
  unfold State.endColls
  repeat' first
      | with_reducible assumption | with_reducible apply keeps_finish | with_reducible apply keeps_endWait2
      | with_reducible apply keeps_mute | with_reducible apply Keeps.parts | simp only [keeps_fields]
      | with_reducible apply Keeps.foldl | with_reducible intro _

end Sys2Proof.Machine
end

