-- ==== Sys2Proof/Laws/KeepsModes.lean ====
section
/-! SUPPORT. What keeps the invariant and the queue: modes, links and the switch. -/

namespace Sys2Proof.Machine

theorem keeps_changeMode {q : List Instr} {s : State} {new : Nat} {cause : Nat} (h_s : Keeps q s) :
    Keeps q (State.changeMode s new cause) := by
  unfold State.changeMode
  repeat' first
      | with_reducible assumption | with_reducible apply keeps_rsetBit | with_reducible apply keeps_raise
      | with_reducible apply keeps_rsetFld | split

theorem keeps_emptyLaunches {q : List Instr} {s : State} (h_s : Keeps q s) :
    Keeps q (State.emptyLaunches s) := by
  unfold State.emptyLaunches
  repeat' first
      | with_reducible assumption | with_reducible apply keeps_finishWork | with_reducible apply keeps_setLaunches
      | with_reducible apply Keeps.foldl | with_reducible intro _

theorem keeps_leaveReady {q : List Instr} {s : State} (h_s : Keeps q s) :
    Keeps q (State.leaveReady s) := by
  unfold State.leaveReady
  repeat' first
      | with_reducible assumption | with_reducible apply keeps_stopCore | with_reducible apply keeps_setDirty
      | with_reducible apply keeps_stopWorks | with_reducible apply keeps_endColls
      | with_reducible apply keeps_emptyLaunches | with_reducible apply Keeps.parts | simp only [keeps_fields]
      | with_reducible apply Keeps.foldl | with_reducible intro _ | split

theorem keeps_enterIsolated {q : List Instr} {s : State} {cause : Nat} (h_s : Keeps q s) :
    Keeps q (State.enterIsolated s cause) := by
  unfold State.enterIsolated
  repeat' first
      | with_reducible assumption | with_reducible apply keeps_leaveReady | with_reducible apply keeps_changeMode

theorem keeps_enterTungsten {q : List Instr} {s : State} {cause : Nat} (h_s : Keeps q s) :
    Keeps q (State.enterTungsten s cause) := by
  unfold State.enterTungsten
  repeat' first
      | with_reducible assumption | with_reducible apply keeps_leaveReady | with_reducible apply keeps_changeMode
      | split

theorem keeps_raiseFatal {q : List Instr} {s : State} {code : Nat} {items : List (Nat × Nat)} (h_s : Keeps q s) :
    Keeps q (State.raiseFatal s code items) := by
  unfold State.raiseFatal
  repeat' first
      | with_reducible assumption | with_reducible apply keeps_enterTungsten | with_reducible apply keeps_setDirty
      | with_reducible apply keeps_raise

theorem keeps_takeFenceMark {q : List Instr} {s : State} {p : Nat} {mark : Bool} (h_s : Keeps q s) :
    Keeps q (State.takeFenceMark s p mark) := by
  unfold State.takeFenceMark
  repeat' first
      | with_reducible assumption | with_reducible apply keeps_rsetBit | with_reducible apply keeps_flushPort
      | with_reducible apply keeps_enterIsolated | split | dsimp only

theorem keeps_sinkArriving {q : List Instr} {s : State} {c : Cause} {p : Nat} {outp : Nat} {f : Frame}
    (h_s : Keeps q s) :
    Keeps q (State.sinkArriving s c p outp f) := by
  unfold State.sinkArriving
  repeat' first
      | with_reducible assumption | with_reducible apply keeps_countCause | with_reducible apply keeps_takeCells
      | with_reducible apply keeps_freeCells | split | dsimp only

theorem keeps_absorb {q : List Instr} {s : State} {p : Nat} (h_s : Keeps q s) :
    Keeps q (State.absorb s p) := by
  unfold State.absorb
  repeat' first
      | with_reducible assumption | with_reducible apply keeps_setLink | with_reducible apply keeps_setHeld | split
      | dsimp only

theorem keeps_enter {q : List Instr} {s : State} {p : Nat} {slots : List (List Word)} (h_s : Keeps q s) :
    Keeps q (State.enter s p slots).2 := by
  unfold State.enter
  repeat' first
      | with_reducible assumption | with_reducible apply keeps_sinkArriving | with_reducible apply keeps_takeCells
      | with_reducible apply keeps_onJoin | with_reducible apply keeps_dropCopy
      | with_reducible apply keeps_countCause | with_reducible apply Keeps.parts | simp only [keeps_fields]
      | with_reducible apply Keeps.foldl | with_reducible intro _ | split

theorem keeps_execFrameArrive {q : List Instr} {p : Nat} {s : State} (h_s : Keeps q s) :
    KeepsO q (execFrameArrive p s) := by
  unfold execFrameArrive
  repeat' first
      | with_reducible assumption | with_reducible apply keeps_absorb | with_reducible apply keeps_linkDown
      | with_reducible apply keeps_countCause | with_reducible apply keeps_setLink | with_reducible apply keeps_enter
      | with_reducible apply keeps_settle | with_reducible apply keeps_frameTail | with_reducible apply KeepsO.next
      | with_reducible apply Keeps.parts | simp only [keeps_fields] | split

theorem keeps_execFrameTail {q : List Instr} {p : Nat} {s : State} (h_s : Keeps q s) :
    KeepsO q (execFrameTail p s) := by
  unfold execFrameTail
  repeat' first
      | with_reducible assumption | with_reducible apply keeps_absorb | with_reducible apply keeps_setLink
      | with_reducible apply keeps_setHeld | with_reducible apply keeps_frameTail | with_reducible apply KeepsO.next
      | split | dsimp only

theorem keeps_execAdaptiveChoice {q : List Instr} {id : Nat} {s : State} (h_s : Keeps q s) :
    KeepsO q (execAdaptiveChoice id s) := by
  unfold execAdaptiveChoice
  repeat' first
      | with_reducible assumption | with_reducible apply keeps_sinkBad | with_reducible apply keeps_onJoin
      | with_reducible apply keeps_setHeld | with_reducible apply keeps_dropCopy | with_reducible apply KeepsO.next
      | with_reducible apply Keeps.parts | simp only [keeps_fields] | split

theorem keeps_pick_other {q : List Instr} {s : State} {p : Nat} (h_s : Keeps q s) :
    KeepsP2 q (State.pick.other s p) := by
  unfold State.pick.other
  repeat' first
      | with_reducible assumption | with_reducible apply keeps_setSched | with_reducible apply KeepsP2.none
      | with_reducible apply KeepsP2.some | split

theorem keeps_pick {q : List Instr} {s : State} {p : Nat} (h_s : Keeps q s) :
    KeepsP2 q (State.pick s p) := by
  unfold State.pick
  repeat' first
      | with_reducible assumption | with_reducible apply keeps_pick_other | with_reducible apply KeepsP2.some | split

theorem keeps_selectNext {q : List Instr} {s : State} {p : Nat} (h_s : Keeps q s) :
    Keeps q (State.selectNext s p) := by
  unfold State.selectNext
  repeat' first
      | with_reducible assumption | with_reducible apply keeps_pick | with_reducible apply keeps_dropCopy
      | with_reducible apply keeps_setLink | with_reducible apply keeps_setHeld | with_reducible apply keeps_actedOn
      | with_reducible apply keeps_countCause | with_reducible apply Keeps.parts | simp only [keeps_fields]
      | (refine KeepsP2.use (by with_reducible assumption) ?_) | split

theorem keeps_execOutputSelect {q : List Instr} {p : Nat} {s : State} (h_s : Keeps q s) :
    KeepsO q (execOutputSelect p s) := by
  unfold execOutputSelect
  repeat' first | with_reducible assumption | with_reducible apply keeps_selectNext | with_reducible apply KeepsO.next

theorem keeps_execCreditGrant {q : List Instr} {p : Nat} {v : Nat} {s : State} (h_s : Keeps q s) :
    KeepsO q (execCreditGrant p v s) := by
  unfold execCreditGrant
  repeat' first
      | with_reducible assumption | with_reducible apply keeps_setCells | with_reducible apply KeepsO.next
      | with_reducible apply Keeps.parts | simp only [keeps_fields] | split

theorem keeps_execAgeCheck {q : List Instr} {s : State} (h_s : Keeps q s) :
    KeepsO q (execAgeCheck s) := by
  unfold execAgeCheck
  repeat' first
      | with_reducible assumption | with_reducible apply keeps_dropCopy | with_reducible apply keeps_countCause
      | with_reducible apply keeps_actedOn | with_reducible apply KeepsO.next | with_reducible apply Keeps.parts
      | simp only [keeps_fields] | with_reducible apply Keeps.foldl | with_reducible intro _ | split

theorem keeps_writeFence {q : List Instr} {s : State} {p : Nat} {v : Bool} (h_s : Keeps q s) :
    Keeps q (State.writeFence s p v) := by
  unfold State.writeFence
  repeat' first
      | with_reducible assumption | with_reducible apply keeps_fenceTakes | with_reducible apply keeps_rsetBit | split

theorem keeps_execFence {q : List Instr} {p : Nat} {v : Bool} {fw : Bool} {s : State} (h_s : Keeps q s) :
    KeepsO q (execFence p v fw s) := by
  unfold execFence
  repeat' first
      | with_reducible assumption | with_reducible apply keeps_writeFence | with_reducible apply KeepsO.next | split

theorem keeps_writeGmin {q : List Instr} {s : State} {p : Nat} {v : Word} (h_s : Keeps q s) :
    Keeps q (State.writeGmin s p v) := by
  unfold State.writeGmin
  repeat' first
      | with_reducible assumption | with_reducible apply keeps_rsetBit | with_reducible apply keeps_rput
      | with_reducible apply Keeps.parts | simp only [keeps_fields] | split

theorem keeps_execGminWrite {q : List Instr} {p : Nat} {v : Word} {fw : Bool} {s : State} (h_s : Keeps q s) :
    KeepsO q (execGminWrite p v fw s) := by
  unfold execGminWrite
  repeat' first
      | with_reducible assumption | with_reducible apply keeps_writeGmin | with_reducible apply KeepsO.next | split

theorem keeps_execSwcClearCnt {q : List Instr} {incs : List (Nat × Nat)} {s : State} (h_s : Keeps q s) :
    KeepsO q (execSwcClearCnt s incs) := by
  unfold execSwcClearCnt
  repeat' first
      | with_reducible assumption | with_reducible apply keeps_clearCounters | with_reducible apply KeepsO.next
      | with_reducible apply Keeps.parts | simp only [keeps_fields]

theorem keeps_writeRsv {q : List Instr} {s : State} {r : Nat} {v : Word} (h_s : Keeps q s) :
    Keeps q (State.writeRsv s r v) := by
  unfold State.writeRsv
  repeat' first | with_reducible assumption | with_reducible apply keeps_rput

theorem keeps_execRsvWrite {q : List Instr} {r : Nat} {v : Word} {fw : Bool} {s : State} (h_s : Keeps q s) :
    KeepsO q (execRsvWrite r v fw s) := by
  unfold execRsvWrite
  repeat' first
      | with_reducible assumption | with_reducible apply keeps_writeRsv | with_reducible apply KeepsO.next | split

theorem keeps_execRefill {q : List Instr} {s : State} (h_s : Keeps q s) :
    KeepsO q (execRefill s) := by
  unfold execRefill
  repeat' first
      | with_reducible assumption | with_reducible apply keeps_setSched | with_reducible apply keeps_setRsv
      | with_reducible apply KeepsO.next | with_reducible apply Keeps.foldl | with_reducible intro _

theorem keeps_execPolicerAccept {q : List Instr} {r : Nat} {s : State} (h_s : Keeps q s) :
    KeepsO q (execPolicerAccept r s) := by
  unfold execPolicerAccept
  repeat' first
      | with_reducible assumption | with_reducible apply keeps_inject | with_reducible apply keeps_setRsv
      | with_reducible apply keeps_finishWork | with_reducible apply KeepsO.next | split | dsimp only

theorem keeps_linkOff {q : List Instr} {s : State} {p : Nat} (h_s : Keeps q s) :
    Keeps q (State.linkOff s p) := by
  unfold State.linkOff
  repeat' first
      | with_reducible assumption | with_reducible apply keeps_linkGone | with_reducible apply keeps_syncLink
      | with_reducible apply keeps_setLink

theorem keeps_writeQcfg {q : List Instr} {s : State} {q1 : Nat} {v : Word} (h_s : Keeps q s) :
    Keeps q (State.writeQcfg s q1 v) := by
  unfold State.writeQcfg
  repeat' first
      | with_reducible assumption | with_reducible apply keeps_rput | with_reducible apply keeps_linkOff
      | with_reducible apply keeps_startTrain | with_reducible apply Keeps.foldl | split | dsimp only

theorem keeps_execEnable {q : List Instr} {q1 : Nat} {v : Word} {fw : Bool} {s : State} (h_s : Keeps q s) :
    KeepsO q (execEnable q1 v fw s) := by
  unfold execEnable
  repeat' first
      | with_reducible assumption | with_reducible apply keeps_writeQcfg | with_reducible apply KeepsO.next | split

theorem keeps_configChanged {q : List Instr} {s : State} {ps : List Nat} (h_s : Keeps q s) :
    Keeps q (State.configChanged s ps) := by
  unfold State.configChanged
  repeat' first
      | with_reducible assumption | with_reducible apply keeps_startTrain | with_reducible apply Keeps.foldl
      | with_reducible intro _ | split

theorem keeps_execRetrain {q : List Instr} {q1 : Nat} {s : State} (h_s : Keeps q s) :
    KeepsO q (execRetrain q1 s) := by
  unfold execRetrain
  repeat' first
      | with_reducible assumption | with_reducible apply keeps_startTrain | with_reducible apply keeps_fastRetrain
      | with_reducible apply KeepsO.next | with_reducible apply Keeps.foldl | with_reducible intro _ | split

theorem keeps_execLnkClearCnt {q : List Instr} {q1 : Nat} {incs : List (Nat × Nat)} {s : State} (h_s : Keeps q s) :
    KeepsO q (execLnkClearCnt q1 s incs) := by
  unfold execLnkClearCnt
  repeat' first
      | with_reducible assumption | with_reducible apply keeps_clearCounters | with_reducible apply KeepsO.next

theorem keeps_execSpareNow {q : List Instr} {q1 : Nat} {lane : Nat} {sub : Nat} {s : State} (h_s : Keeps q s) :
    KeepsO q (execSpareNow q1 lane sub s) := by
  unfold execSpareNow
  repeat' first
      | with_reducible assumption | with_reducible apply keeps_startSparing | with_reducible apply KeepsO.next | split

theorem keeps_execTrainingMarker {q : List Instr} {q1 : Nat} {j : Nat} {inv : Bool} {snr : Nat} {sat : Bool}
    {w : Word} {s : State} (h_s : Keeps q s) :
    KeepsO q (execTrainingMarker q1 j inv snr sat w s) := by
  unfold execTrainingMarker
  repeat' first
      | with_reducible assumption | with_reducible apply keeps_rsetFld | with_reducible apply keeps_rsetBit
      | with_reducible apply keeps_setLane | with_reducible apply keeps_linkMismatch | with_reducible apply keeps_draw
      | with_reducible apply keeps_emit | with_reducible apply keeps_tryAdvance | with_reducible apply KeepsO.next
      | with_reducible apply Keeps.foldl | with_reducible intro _ | split | dsimp only

theorem keeps_execBringupRetry {q : List Instr} {q1 : Nat} {s : State} (h_s : Keeps q s) :
    KeepsO q (execBringupRetry q1 s) := by
  unfold execBringupRetry
  repeat' first
      | with_reducible assumption | with_reducible apply keeps_startTrain | with_reducible apply KeepsO.next
      | with_reducible apply Keeps.foldl | with_reducible intro _ | split | dsimp only

theorem keeps_execEqualiserTimeout {q : List Instr} {q1 : Nat} {s : State} (h_s : Keeps q s) :
    KeepsO q (execEqualiserTimeout q1 s) := by
  unfold execEqualiserTimeout
  repeat' first
      | with_reducible assumption | with_reducible apply keeps_linkMismatch | with_reducible apply keeps_setLane
      | with_reducible apply keeps_tryAdvance | with_reducible apply KeepsO.next | with_reducible apply Keeps.foldl
      | with_reducible intro _ | split | dsimp only

theorem keeps_nextLcs {q : List Instr} {s : State} {p : Nat} (h_s : Keeps q s) :
    Keeps q (State.nextLcs s p).2 := by
  unfold State.nextLcs
  repeat' first | with_reducible assumption | with_reducible apply keeps_setLink

theorem keeps_takeNext {q : List Instr} {p : Nat} {x1 : Nat} {x2 : State} (h_x2 : Keeps q x2) :
    Keeps q (takeNext p x1 x2) := by
  induction x1 generalizing x2 with
  | zero => exact h_x2
  | succ n ih =>
    unfold takeNext
    repeat' first
        | with_reducible assumption | with_reducible apply keeps_selectNext | with_reducible apply ih
        | simp only [keeps_fields] | split

theorem keeps_nextFrameFor {q : List Instr} {s : State} {p : Nat} (h_s : Keeps q s) :
    Keeps q (State.nextFrameFor s p) := by
  unfold State.nextFrameFor
  repeat' first | with_reducible assumption | with_reducible apply keeps_takeNext | split

theorem keeps_fillSlots {q : List Instr} {p : Nat} {x1 : Nat} {x2 : Nat} {x3 : State} (h_x3 : Keeps q x3) :
    Keeps q (fillSlots p x1 x2 x3).2.2 := by
  induction x1 generalizing x2 x3 with
  | zero => exact h_x3
  | succ n ih =>
    unfold fillSlots
    repeat' first
        | with_reducible assumption | with_reducible apply keeps_setLink | with_reducible apply keeps_nextFrameFor
        | with_reducible apply keeps_fenceTakes | with_reducible apply keeps_settle
        | with_reducible apply keeps_setHeld | with_reducible apply ih | split

theorem keeps_controlWord {q : List Instr} {s : State} {p : Nat} (h_s : Keeps q s) :
    Keeps q (State.controlWord s p).2 := by
  unfold State.controlWord
  repeat' first | with_reducible assumption | with_reducible apply keeps_nextLcs

theorem keeps_nextWord {q : List Instr} {s : State} {p : Nat} (h_s : Keeps q s) :
    Keeps q (State.nextWord s p).2 := by
  unfold State.nextWord
  repeat' first
      | with_reducible assumption | with_reducible apply keeps_trySwitch | with_reducible apply keeps_setLink
      | with_reducible apply keeps_nextFrameFor | with_reducible apply keeps_controlWord
      | with_reducible apply keeps_nextLcs | with_reducible apply keeps_fillSlots | split | dsimp only

theorem keeps_sendWord {q : List Instr} {s : State} {p : Nat} {k : Nat} {c : Codeword} (h_s : Keeps q s) :
    Keeps q (State.sendWord s p k c) := by
  unfold State.sendWord
  repeat' first | with_reducible assumption | with_reducible apply keeps_setLane | with_reducible apply keeps_emit

theorem keeps_execCodewordSend {q : List Instr} {p : Nat} {s : State} (h_s : Keeps q s) :
    KeepsO q (execCodewordSend p s) := by
  unfold execCodewordSend
  repeat' first
      | with_reducible assumption | with_reducible apply keeps_nextWord | with_reducible apply keeps_sendWord
      | with_reducible apply KeepsO.next | with_reducible apply Keeps.foldl | with_reducible intro _ | split

theorem keeps_queueLcs {q : List Instr} {s : State} {p : Nat} {w : List Word} (h_s : Keeps q s) :
    Keeps q (State.queueLcs s p w) := by
  unfold State.queueLcs
  repeat' first
      | with_reducible assumption | with_reducible apply keeps_setLink | with_reducible apply keeps_rcount | split

theorem keeps_lossStart {q : List Instr} {s : State} {q1 : Nat} {j : Nat} {lol : Bool} (h_s : Keeps q s) :
    Keeps q (State.lossStart s q1 j lol) := by
  unfold State.lossStart
  repeat' first
      | with_reducible assumption | with_reducible apply keeps_lanePoints | with_reducible apply keeps_rcount
      | with_reducible apply keeps_rsetBit | split | dsimp only

theorem keeps_lossEnd {q : List Instr} {s : State} {q1 : Nat} {j : Nat} {lol : Bool} (h_s : Keeps q s) :
    Keeps q (State.lossEnd s q1 j lol) := by
  unfold State.lossEnd
  repeat' first
      | with_reducible assumption | with_reducible apply keeps_rsetBit | with_reducible apply keeps_setLane | split
      | dsimp only

theorem keeps_laneHears {q : List Instr} {s : State} {q1 : Nat} {j : Nat} {corr : Option Nat} {last : Nat}
    (h_s : Keeps q s) :
    Keeps q (State.laneHears s q1 j corr last) := by
  unfold State.laneHears
  repeat' first
      | with_reducible assumption | with_reducible apply keeps_rcount | with_reducible apply keeps_setLane
      | with_reducible apply keeps_lanePoints | with_reducible apply keeps_lossEnd
      | with_reducible apply keeps_lossStart | split | dsimp only

theorem keeps_heardLink {q : List Instr} {s : State} {q1 : Nat} {j : Nat} {ok : Bool} (h_s : Keeps q s) :
    Keeps q (State.heardLink s q1 j ok).2 := by
  unfold State.heardLink
  repeat' first
      | with_reducible assumption | with_reducible apply keeps_sparingDone | with_reducible apply keeps_setLink
      | with_reducible apply keeps_moveRx | split | dsimp only

theorem keeps_hearWord {q : List Instr} {s : State} {p : Nat} {c : Option Codeword} {map : Nat} (h_s : Keeps q s) :
    Keeps q (State.hearWord s p c map) := by
  unfold State.hearWord
  repeat' first
      | with_reducible assumption | with_reducible apply keeps_queueLcs | with_reducible apply keeps_setLink
      | with_reducible apply keeps_rcount | with_reducible apply Keeps.foldl | with_reducible intro _ | split
      | dsimp only

theorem keeps_execCodewordReceive {q : List Instr} {q1 : Nat} {j : Nat} {r0 r1 r2 r3 r4 : List Nat} {s : State} (h_s : Keeps q s) :
    KeepsO q (execCodewordReceive q1 j r0 r1 r2 r3 r4 s) := by
  unfold execCodewordReceive
  repeat' first
      | with_reducible assumption | with_reducible apply keeps_laneHears | with_reducible apply keeps_heardLink
      | with_reducible apply keeps_hearWord | with_reducible apply KeepsO.next
      | (refine Keeps.snd (by with_reducible assumption) ?_) | split | dsimp only

theorem keeps_replay {q : List Instr} {s : State} {p : Nat} (h_s : Keeps q s) :
    Keeps q (State.replay s p) := by
  unfold State.replay
  repeat' first
      | with_reducible assumption | with_reducible apply keeps_rcount | with_reducible apply keeps_setLink
      | with_reducible apply keeps_addPoints | split | dsimp only

theorem keeps_commonLcs {q : List Instr} {s : State} {p : Nat} {w : List Word} (h_s : Keeps q s) :
    Keeps q (State.commonLcs s p w) := by
  unfold State.commonLcs
  repeat' first
      | with_reducible assumption | with_reducible apply keeps_fastRetrain | with_reducible apply keeps_addPoints
      | with_reducible apply keeps_rcount | with_reducible apply keeps_setLink
      | with_reducible apply keeps_takeFenceMark | split

theorem keeps_takeNak {q : List Instr} {s : State} {p : Nat} {w : List Word} (h_s : Keeps q s) :
    Keeps q (State.takeNak s p w) := by
  unfold State.takeNak
  repeat' first
      | with_reducible assumption | with_reducible apply keeps_replay | with_reducible apply keeps_setLink
      | with_reducible apply keeps_fastRetrain | split | dsimp only

theorem keeps_popLcs {q : List Instr} {s : State} {p : Nat} {kind : Nat} (h_s : Keeps q s) :
    KeepsP2 q (State.popLcs s p kind) := by
  unfold State.popLcs
  repeat' first
      | with_reducible assumption | with_reducible apply keeps_setLink | with_reducible apply KeepsP2.none
      | with_reducible apply KeepsP2.some | split | dsimp only

theorem keeps_execLcsIdle {q : List Instr} {p : Nat} {s : State} (h_s : Keeps q s) :
    KeepsO q (execLcsIdle p s) := by
  unfold execLcsIdle
  repeat' first
      | with_reducible assumption | with_reducible apply keeps_popLcs | with_reducible apply keeps_takeNak
      | with_reducible apply keeps_commonLcs | with_reducible apply KeepsO.next
      | (refine KeepsP2.use (by with_reducible assumption) ?_) | split

theorem keeps_execLcsCtrl {q : List Instr} {p : Nat} {s : State} (h_s : Keeps q s) :
    KeepsO q (execLcsCtrl p s) := by
  unfold execLcsCtrl
  repeat' first
      | with_reducible assumption | with_reducible apply keeps_popLcs | with_reducible apply keeps_takeNak
      | with_reducible apply keeps_commonLcs | with_reducible apply KeepsO.next
      | (refine KeepsP2.use (by with_reducible assumption) ?_) | split

theorem keeps_notePeer {q : List Instr} {s : State} {p : Nat} {w : List Word} (h_s : Keeps q s) :
    Keeps q (State.notePeer s p w) := by
  unfold State.notePeer
  repeat' first | with_reducible assumption | with_reducible apply keeps_rsetFld | with_reducible apply keeps_setLink

theorem keeps_raiseDegraded {q : List Instr} {s : State} {p : Nat} (h_s : Keeps q s) :
    Keeps q (State.raiseDegraded s p) := by
  unfold State.raiseDegraded
  repeat' first | with_reducible assumption | with_reducible apply keeps_raise

theorem keeps_goLive {q : List Instr} {s : State} {p : Nat} {kept : Bool} (h_s : Keeps q s) :
    Keeps q (State.goLive s p kept) := by
  unfold State.goLive
  repeat' first | with_reducible assumption | with_reducible apply keeps_setPhase | with_reducible apply keeps_setLink

theorem keeps_execLcsInit {q : List Instr} {p : Nat} {s : State} (h_s : Keeps q s) :
    KeepsO q (execLcsInit p s) := by
  unfold execLcsInit
  repeat' first
      | with_reducible assumption | with_reducible apply keeps_popLcs | with_reducible apply keeps_takeFenceMark
      | with_reducible apply keeps_linkMismatch | with_reducible apply keeps_notePeer
      | with_reducible apply keeps_goLive | with_reducible apply keeps_setLink | with_reducible apply keeps_addPoints
      | with_reducible apply keeps_rcount | with_reducible apply keeps_raiseDegraded
      | with_reducible apply keeps_spareOwed | with_reducible apply keeps_commonLcs
      | with_reducible apply keeps_linkDown | with_reducible apply keeps_replay
      | with_reducible apply keeps_raiseSpared | with_reducible apply keeps_takeNak | with_reducible apply KeepsO.next
      | with_reducible apply Keeps.foldl | (refine KeepsP2.use (by with_reducible assumption) ?_)
      | with_reducible intro _ | split | dsimp only

theorem keeps_execLcsSpare {q : List Instr} {p : Nat} {s : State} (h_s : Keeps q s) :
    KeepsO q (execLcsSpare p s) := by
  unfold execLcsSpare
  repeat' first
      | with_reducible assumption | with_reducible apply keeps_popLcs | with_reducible apply keeps_takeNak
      | with_reducible apply keeps_commonLcs | with_reducible apply keeps_setLink
      | with_reducible apply keeps_trainSpare | with_reducible apply KeepsO.next
      | (refine KeepsP2.use (by with_reducible assumption) ?_) | split | dsimp only

theorem keeps_execAckTimer {q : List Instr} {p : Nat} {s : State} (h_s : Keeps q s) :
    KeepsO q (execAckTimer p s) := by
  unfold execAckTimer
  repeat' first
      | with_reducible assumption | with_reducible apply keeps_setLink | with_reducible apply KeepsO.next | split

theorem keeps_execNakRepeat {q : List Instr} {p : Nat} {s : State} (h_s : Keeps q s) :
    KeepsO q (execNakRepeat p s) := by
  unfold execNakRepeat
  repeat' first
      | with_reducible assumption | with_reducible apply keeps_setLink | with_reducible apply KeepsO.next | split

theorem keeps_execKeepaliveSend {q : List Instr} {p : Nat} {s : State} (h_s : Keeps q s) :
    KeepsO q (execKeepaliveSend p s) := by
  unfold execKeepaliveSend
  repeat' first
      | with_reducible assumption | with_reducible apply keeps_setLink | with_reducible apply KeepsO.next | split

theorem keeps_execKaTimeout {q : List Instr} {p : Nat} {s : State} (h_s : Keeps q s) :
    KeepsO q (execKaTimeout p s) := by
  unfold execKaTimeout
  repeat' first
      | with_reducible assumption | with_reducible apply keeps_fastRetrain | with_reducible apply keeps_addPoints
      | with_reducible apply keeps_rcount | with_reducible apply KeepsO.next | split

theorem keeps_execFastRetrainTimeout {q : List Instr} {p : Nat} {s : State} (h_s : Keeps q s) :
    KeepsO q (execFastRetrainTimeout p s) := by
  unfold execFastRetrainTimeout
  repeat' first
      | with_reducible assumption | with_reducible apply keeps_linkDown | with_reducible apply keeps_fastRetrain
      | with_reducible apply keeps_setLink | with_reducible apply KeepsO.next | split | dsimp only

theorem keeps_execLaneLossStart {q : List Instr} {q1 : Nat} {j : Nat} {lol : Bool} {s : State} (h_s : Keeps q s) :
    KeepsO q (execLaneLossStart q1 j lol s) := by
  unfold execLaneLossStart
  repeat' first
      | with_reducible assumption | with_reducible apply keeps_lossStart | with_reducible apply keeps_setLane
      | with_reducible apply KeepsO.next | split

theorem keeps_execLaneLossEnd {q : List Instr} {q1 : Nat} {j : Nat} {lol : Bool} {s : State} (h_s : Keeps q s) :
    KeepsO q (execLaneLossEnd q1 j lol s) := by
  unfold execLaneLossEnd
  repeat' first
      | with_reducible assumption | with_reducible apply keeps_setLane | with_reducible apply keeps_lossEnd
      | with_reducible apply KeepsO.next | split

theorem keeps_retrainNow {q : List Instr} {s : State} {p : Nat} {cause : Nat} (h_s : Keeps q s) :
    Keeps q (State.retrainNow s p cause) := by
  unfold State.retrainNow
  repeat' first
      | with_reducible assumption | with_reducible apply keeps_fastRetrain | with_reducible apply keeps_retrainLanes
      | with_reducible apply keeps_setPhase | with_reducible apply keeps_setLink | split

theorem keeps_yieldSpare {q : List Instr} {s : State} {q1 : Nat} (h_s : Keeps q s) :
    Keeps q (State.yieldSpare s q1) := by
  unfold State.yieldSpare
  repeat' first
      | with_reducible assumption | with_reducible apply keeps_setLink | with_reducible apply Keeps.foldl
      | with_reducible intro _ | split | dsimp only

theorem keeps_execLaneLossPersist {q : List Instr} {q1 : Nat} {j : Nat} {s : State} (h_s : Keeps q s) :
    KeepsO q (execLaneLossPersist q1 j s) := by
  unfold execLaneLossPersist
  repeat' first
      | with_reducible assumption | with_reducible apply keeps_setLane | with_reducible apply keeps_retireLane
      | with_reducible apply keeps_moveRx | with_reducible apply keeps_moveTx | with_reducible apply keeps_yieldSpare
      | with_reducible apply keeps_setLink | with_reducible apply keeps_retrainNow
      | with_reducible apply keeps_linkDown | with_reducible apply KeepsO.next | split | dsimp only

theorem keeps_execQuadPllUnlock {q : List Instr} {q1 : Nat} {s : State} (h_s : Keeps q s) :
    KeepsO q (execQuadPllUnlock q1 s) := by
  unfold execQuadPllUnlock
  repeat' first
      | with_reducible assumption | with_reducible apply keeps_raise | with_reducible apply keeps_linkGone
      | with_reducible apply KeepsO.next | with_reducible apply Keeps.parts | simp only [keeps_fields]
      | with_reducible apply Keeps.foldl | with_reducible intro _ | split

theorem keeps_execQuadPllLock {q : List Instr} {q1 : Nat} {s : State} (h_s : Keeps q s) :
    KeepsO q (execQuadPllLock q1 s) := by
  unfold execQuadPllLock
  repeat' first
      | with_reducible assumption | with_reducible apply keeps_startTrain | with_reducible apply KeepsO.next
      | with_reducible apply Keeps.parts | simp only [keeps_fields] | with_reducible apply Keeps.foldl
      | with_reducible intro _ | split

theorem keeps_execClockMismatch {q : List Instr} {q1 : Nat} {j : Nat} {s : State} (h_s : Keeps q s) :
    KeepsO q (execClockMismatch q1 j s) := by
  unfold execClockMismatch
  repeat' first
      | with_reducible assumption | with_reducible apply keeps_raise | with_reducible apply keeps_linkDown
      | with_reducible apply keeps_fastRetrain | with_reducible apply KeepsO.next | with_reducible apply Keeps.parts
      | simp only [keeps_fields] | with_reducible apply Keeps.foldl | with_reducible intro _ | split

theorem keeps_execSpareTrainDone {q : List Instr} {p : Nat} {ok : Bool} {s : State} (h_s : Keeps q s) :
    KeepsO q (execSpareTrainDone p ok s) := by
  unfold execSpareTrainDone
  repeat' first
      | with_reducible assumption | with_reducible apply keeps_trySwitch | with_reducible apply keeps_setLink
      | with_reducible apply keeps_dropSparing | with_reducible apply KeepsO.next | split | dsimp only

end Sys2Proof.Machine
end

