-- ==== Sys2Proof/Laws/KeepsColl.lean ====
section
/-! SUPPORT. What keeps the invariant and the queue: stream units and collectives. -/

namespace Sys2Proof.Machine

theorem keeps_reserve {q : List Instr} {s : State} {half : Nat} {x : Slot} {recw : Nat} {bytes : Nat}
    (h_s : Keeps q s) :
    Keeps q (State.reserve s half x recw bytes).2 := by
  unfold State.reserve
  repeat' first
      | with_reducible assumption | with_reducible apply keeps_rsetFld | with_reducible apply keeps_setSlot | split
      | dsimp only

theorem keeps_slotSend {q : List Instr} {s : State} {n : Nat} {x : Slot} {j : Nat} {no : Nat} {c : ChunkSpec}
    (h_s : Keeps q s) :
    Keeps q (State.slotSend s n x j no c) := by
  unfold State.slotSend
  repeat' first | with_reducible assumption | with_reducible apply keeps_inject | split

theorem keeps_stuDrop {q : List Instr} {s : State} {u : Nat} {cause : Nat} {coll : Nat} (h_s : Keeps q s) :
    Keeps q (State.stuDrop s u cause coll) := by
  unfold State.stuDrop
  repeat' first
      | with_reducible assumption | with_reducible apply keeps_rcount | with_reducible apply keeps_raise
      | with_reducible apply Keeps.parts | simp only [keeps_fields] | split

theorem keeps_stuMismatch {q : List Instr} {s : State} {u : Nat} {n : Nat} {coll : Nat} {no : Nat} {kind : Nat}
    {rank : Nat} (h_s : Keeps q s) :
    Keeps q (State.stuMismatch s u n coll no kind rank) := by
  unfold State.stuMismatch
  repeat' first
      | with_reducible assumption | with_reducible apply keeps_addPoints | with_reducible apply keeps_rcount
      | with_reducible apply keeps_raise | split

theorem keeps_stuMemory {q : List Instr} {s : State} {u : Nat} {n : Nat} {ce : Nat} {ue : Option Nat}
    (h_s : Keeps q s) :
    Keeps q (State.stuMemory s u n ce ue) := by
  unfold State.stuMemory
  repeat' first
      | with_reducible assumption | with_reducible apply keeps_addPoints | with_reducible apply keeps_rcount
      | with_reducible apply keeps_raise | split

theorem keeps_rdMem {q : List Instr} {s : State} {k : Nat} {len : Nat} (h_s : Keeps q s) :
    Keeps q (State.rdMem s k len).2 := by
  unfold State.rdMem
  repeat' first | with_reducible assumption | with_reducible apply keeps_meet

theorem keeps_takeDeliv {q : List Instr} {s : State} {want : Delivered → Bool} (h_s : Keeps q s) :
    KeepsP2 q (State.takeDeliv s want) := by
  unfold State.takeDeliv
  repeat' first
      | with_reducible assumption | with_reducible apply keeps_actedOn | with_reducible apply Keeps.parts
      | simp only [keeps_fields] | with_reducible apply KeepsP2.none | with_reducible apply KeepsP2.some | split

theorem keeps_countStale {q : List Instr} {s : State} (h_s : Keeps q s) :
    Keeps q (State.countStale s) := by
  unfold State.countStale
  repeat' first | with_reducible assumption | with_reducible apply keeps_rcount

theorem keeps_sendCtl {q : List Instr} {s : State} {h : Nat} {stripe : Nat} {f : Frame} (h_s : Keeps q s) :
    Keeps q (State.sendCtl s h stripe f) := by
  unfold State.sendCtl
  repeat' first
      | with_reducible assumption | with_reducible apply keeps_askClass0 | with_reducible apply keeps_mute
      | with_reducible apply keeps_finish | with_reducible apply Keeps.parts | simp only [keeps_fields] | split

theorem keeps_sendEnd {q : List Instr} {s : State} {h : Nat} {code : Nat} {cause : Nat} {lost : Nat} {retry : Nat}
    (h_s : Keeps q s) :
    Keeps q (State.sendEnd s h code cause lost retry) := by
  unfold State.sendEnd
  repeat' first
      | with_reducible assumption | with_reducible apply keeps_sendCtl | with_reducible apply Keeps.parts
      | simp only [keeps_fields] | with_reducible apply Keeps.foldl | with_reducible intro _ | split

theorem keeps_noteDone {q : List Instr} {s : State} {h : Nat} {rank : Nat} (h_s : Keeps q s) :
    Keeps q (State.noteDone s h rank) := by
  unfold State.noteDone
  repeat' first
      | with_reducible assumption | with_reducible apply keeps_setColl | with_reducible apply keeps_finish
      | with_reducible apply keeps_sendEnd | split | dsimp only

theorem keeps_reportDone {q : List Instr} {s : State} {h : Nat} (h_s : Keeps q s) :
    Keeps q (State.reportDone s h) := by
  unfold State.reportDone
  repeat' first
      | with_reducible assumption | with_reducible apply keeps_setColl | with_reducible apply keeps_noteDone
      | with_reducible apply keeps_sendCtl | split

theorem keeps_writeChunk {q : List Instr} {s : State} {h : Nat} {stripe : Nat} {j : Nat} {off : Nat} {ns : List Int}
    {e : Int} (h_s : Keeps q s) :
    Keeps q (State.writeChunk s h stripe j off ns e) := by
  unfold State.writeChunk
  repeat' first
      | with_reducible assumption | with_reducible apply keeps_mputBytes | with_reducible apply keeps_setColl | split

theorem keeps_passResult {q : List Instr} {s : State} {h : Nat} {stripe : Nat} {f : Frame} (h_s : Keeps q s) :
    Keeps q (State.passResult s h stripe f) := by
  unfold State.passResult
  repeat' first
      | with_reducible assumption | with_reducible apply keeps_writeChunk | with_reducible apply keeps_mputBytes
      | with_reducible apply keeps_setColl | with_reducible apply keeps_inject | with_reducible apply Keeps.foldl
      | with_reducible intro _ | split | dsimp only

theorem keeps_injectChunk {q : List Instr} {s : State} {h : Nat} {stripe : Nat} {j : Nat} {out : OutTo}
    (h_s : Keeps q s) :
    Keeps q (State.injectChunk s h stripe j out) := by
  unfold State.injectChunk
  repeat' first
      | with_reducible assumption | with_reducible apply keeps_rdMem | with_reducible apply keeps_mputBytes
      | with_reducible apply keeps_writeChunk | with_reducible apply keeps_inject | split | dsimp only

theorem keeps_injectNext {q : List Instr} {s : State} {h : Nat} {stripe : Nat} (h_s : Keeps q s) :
    Keeps q (State.injectNext s h stripe) := by
  unfold State.injectNext
  repeat' first
      | with_reducible assumption | with_reducible apply keeps_injectChunk | with_reducible apply keeps_setColl
      | split | dsimp only

theorem keeps_ackNext {q : List Instr} {s : State} {h : Nat} {stripe : Nat} (h_s : Keeps q s) :
    Keeps q (State.ackNext s h stripe) := by
  unfold State.ackNext
  repeat' first
      | with_reducible assumption | with_reducible apply keeps_setColl | with_reducible apply keeps_sendCtl
      | with_reducible apply keeps_reportDone | with_reducible apply Keeps.foldl | with_reducible intro _ | split
      | dsimp only

theorem keeps_pushGo {q : List Instr} {h : Nat} {stripe : Nat} {x1 : Nat} {x2 : State} (h_x2 : Keeps q x2) :
    Keeps q (State.pushGo h stripe x1 x2) := by
  induction x1 generalizing x2 with
  | zero => exact h_x2
  | succ n ih =>
    unfold State.pushGo
    repeat' first
        | with_reducible assumption | with_reducible apply keeps_injectNext | with_reducible apply keeps_ackNext
        | with_reducible apply ih | simp only [keeps_fields] | split

theorem keeps_push {q : List Instr} {s : State} {h : Nat} {stripe : Nat} (h_s : Keeps q s) :
    Keeps q (State.push s h stripe) := by
  unfold State.push
  repeat' first | with_reducible assumption | with_reducible apply keeps_pushGo | split

theorem keeps_injectRecords {q : List Instr} {s : State} {h : Nat} {n : Nat} (h_s : Keeps q s) :
    Keeps q (State.injectRecords s h n) := by
  unfold State.injectRecords
  repeat' first
      | with_reducible assumption | with_reducible apply keeps_rdMem | with_reducible apply keeps_inject
      | with_reducible apply Keeps.foldl | with_reducible intro _ | split | dsimp only

theorem keeps_tryRole {q : List Instr} {s : State} {h : Nat} {r : Role} (h_s : Keeps q s) :
    Keeps q (State.tryRole s h r) := by
  unfold State.tryRole
  repeat' first
      | with_reducible assumption | with_reducible apply keeps_reserve | with_reducible apply keeps_setColl
      | with_reducible apply keeps_sendCtl | with_reducible apply keeps_injectRecords
      | with_reducible apply Keeps.foldl | (refine Keeps.snd (by with_reducible assumption) ?_)
      | with_reducible intro _ | split | dsimp only

theorem keeps_tryRoles {q : List Instr} {s : State} {h : Nat} (h_s : Keeps q s) :
    Keeps q (State.tryRoles s h) := by
  unfold State.tryRoles
  repeat' first
      | with_reducible assumption | with_reducible apply keeps_tryRole | with_reducible apply Keeps.foldl
      | with_reducible intro _ | split

theorem keeps_startColl {q : List Instr} {s : State} {h : Nat} (h_s : Keeps q s) :
    Keeps q (State.startColl s h) := by
  unfold State.startColl
  repeat' first
      | with_reducible assumption | with_reducible apply keeps_tryRoles | with_reducible apply keeps_setColl
      | with_reducible apply keeps_push | with_reducible apply Keeps.foldl | with_reducible intro _ | split
      | dsimp only

theorem keeps_takeReady {q : List Instr} {s : State} {h : Nat} {f : Frame} (h_s : Keeps q s) :
    Keeps q (State.takeReady s h f) := by
  unfold State.takeReady
  repeat' first
      | with_reducible assumption | with_reducible apply keeps_countStale | with_reducible apply keeps_tryRoles
      | with_reducible apply keeps_setColl | with_reducible apply keeps_push
      | with_reducible apply keeps_injectRecords | with_reducible apply keeps_setSlot | split | dsimp only

theorem keeps_takeHeld {q : List Instr} {s : State} {h : Nat} (h_s : Keeps q s) :
    Keeps q (State.takeHeld s h) := by
  unfold State.takeHeld
  repeat' first
      | with_reducible assumption | with_reducible apply keeps_countStale | with_reducible apply keeps_takeReady
      | with_reducible apply Keeps.parts | simp only [keeps_fields] | with_reducible apply Keeps.foldl
      | with_reducible intro _ | split

theorem keeps_retryColl {q : List Instr} {s : State} {h : Nat} (h_s : Keeps q s) :
    Keeps q (State.retryColl s h) := by
  unfold State.retryColl
  repeat' first
      | with_reducible assumption | with_reducible apply keeps_dropSlots | with_reducible apply keeps_setColl
      | with_reducible apply keeps_takeHeld | with_reducible apply keeps_startColl | split

theorem keeps_onFail {q : List Instr} {s : State} {h : Nat} {attempt : Nat} {code : Nat} {cause : Nat} {lost : Nat}
    (h_s : Keeps q s) :
    Keeps q (State.onFail s h attempt code cause lost) := by
  unfold State.onFail
  repeat' first
      | with_reducible assumption | with_reducible apply keeps_setColl | with_reducible apply keeps_retryColl
      | with_reducible apply keeps_sendEnd | with_reducible apply keeps_finish | split

theorem keeps_failColl {q : List Instr} {s : State} {h : Nat} {code : Nat} {cause : Nat} {lost : Nat}
    (h_s : Keeps q s) :
    Keeps q (State.failColl s h code cause lost) := by
  unfold State.failColl
  repeat' first
      | with_reducible assumption | with_reducible apply keeps_onFail | with_reducible apply keeps_sendCtl | split

theorem keeps_dispatchDone {q : List Instr} {s : State} {h : Nat} (h_s : Keeps q s) :
    Keeps q (State.dispatchDone s h) := by
  unfold State.dispatchDone
  repeat' first | with_reducible assumption | with_reducible apply keeps_reportDone | split | dsimp only

theorem keeps_gatherDone {q : List Instr} {s : State} {h : Nat} {check : Nat} {bytes : Nat} {bad : Bool}
    (h_s : Keeps q s) :
    Keeps q (State.gatherDone s h check bytes bad) := by
  unfold State.gatherDone
  repeat' first
      | with_reducible assumption | with_reducible apply keeps_failColl | with_reducible apply keeps_rdMem
      | with_reducible apply keeps_dispatchDone | with_reducible apply keeps_setColl
      | (refine Keeps.snd (by with_reducible assumption) ?_) | split

theorem keeps_filterDone {q : List Instr} {s : State} {h : Nat} {dropped : Nat} (h_s : Keeps q s) :
    Keeps q (State.filterDone s h dropped) := by
  unfold State.filterDone
  repeat' first
      | with_reducible assumption | with_reducible apply keeps_dispatchDone | with_reducible apply keeps_setColl
      | split

theorem keeps_raceReqs {q : List Instr} {s : State} {h : Nat} {us : List Unsent} (h_s : Keeps q s) :
    Keeps q (State.raceReqs s h us) := by
  unfold State.raceReqs
  repeat' first
      | with_reducible assumption | with_reducible apply keeps_finish | with_reducible apply keeps_sendReq
      | with_reducible apply Keeps.foldl | split

theorem keeps_launchColl {q : List Instr} {s : State} {who : Requester} {flow : Nat} {d : List Word} {phys : Nat}
    (h_s : Keeps q s) :
    Keeps q (State.launchColl s who flow d phys) := by
  unfold State.launchColl
  repeat' first
      | with_reducible assumption | with_reducible apply keeps_rsetFld | with_reducible apply keeps_finish
      | with_reducible apply keeps_raceReqs | with_reducible apply keeps_setColl | with_reducible apply keeps_takeHeld
      | with_reducible apply keeps_startColl | with_reducible apply Keeps.parts | simp only [keeps_fields] | split

theorem keeps_admitGo {q : List Instr} {x1 : Nat} {x2 : State} (h_x2 : Keeps q x2) :
    Keeps q (State.admitGo x1 x2) := by
  induction x1 generalizing x2 with
  | zero => exact h_x2
  | succ n ih =>
    unfold State.admitGo
    repeat' first
        | with_reducible assumption | with_reducible apply keeps_setCore | with_reducible apply keeps_launchColl
        | with_reducible apply keeps_failFlight | with_reducible apply keeps_finishWork | with_reducible apply ih
        | with_reducible apply Keeps.core (q := q) | with_reducible apply Keeps.parts | simp only [keeps_fields]
        | with_reducible apply CoreOk.parts | simp only [coreOk_fields] | split

theorem keeps_admitColls {q : List Instr} {s : State} (h_s : Keeps q s) :
    Keeps q (State.admitColls s) := by
  unfold State.admitColls
  repeat' first | with_reducible assumption | with_reducible apply keeps_admitGo

theorem keeps_askColl {q : List Instr} {s : State} {who : Requester} {flow : Nat} {key : Nat} {phys : Nat}
    (h_s : Keeps q s) :
    Keeps q (State.askColl s who flow key phys) := by
  unfold State.askColl
  repeat' first
      | with_reducible assumption | with_reducible apply keeps_admitColls | with_reducible apply keeps_launchColl
      | with_reducible apply Keeps.parts | simp only [keeps_fields] | split

theorem keeps_gatedColl {q : List Instr} {s : State} {go : Host.Outcome State Fault Refusal} (h_s : Keeps q s)
    (h_go : KeepsO q go) :
    KeepsO q (gatedColl s go) := by
  unfold gatedColl
  repeat' first | with_reducible assumption | with_reducible apply keeps_gated | split

theorem keeps_chunkArrive {q : List Instr} {s : State} {u : Nat} {f : Frame} (h_s : Keeps q s) :
    Keeps q (State.chunkArrive s u f) := by
  unfold State.chunkArrive
  repeat' first
      | with_reducible assumption | with_reducible apply keeps_countStale | with_reducible apply keeps_stuDrop
      | with_reducible apply keeps_setSlot | with_reducible apply Keeps.parts | simp only [keeps_fields] | split

theorem keeps_execChunk {q : List Instr} {u : Nat} {s : State} (h_s : Keeps q s) :
    KeepsO q (execChunk u s) := by
  unfold execChunk
  repeat' first
      | with_reducible assumption | with_reducible apply keeps_gatedColl | with_reducible apply keeps_takeDeliv
      | with_reducible apply keeps_chunkArrive | with_reducible apply KeepsO.next
      | (refine KeepsP2.use (by with_reducible assumption) ?_) | split

theorem keeps_nextChunk {q : List Instr} {s : State} {n : Nat} {op : SlotOp} (h_s : Keeps q s) :
    KeepsP3 q (State.nextChunk s n op) := by
  unfold State.nextChunk
  repeat' first
      | with_reducible assumption | with_reducible apply keeps_setSlot | with_reducible apply KeepsP3.none
      | with_reducible apply KeepsP3.some | split

theorem keeps_countChunk {q : List Instr} {s : State} {n : Nat} (h_s : Keeps q s) :
    Keeps q (State.countChunk s n) := by
  unfold State.countChunk
  repeat' first | with_reducible assumption | with_reducible apply keeps_rput

theorem keeps_inputTest {q : List Instr} {s : State} {n : Nat} {f : Frame} (h_s : Keeps q s) :
    Keeps q (State.inputTest s n f).2 := by
  unfold State.inputTest
  repeat' first | with_reducible assumption | with_reducible apply keeps_stuMismatch | split

theorem keeps_garble {q : List Instr} {s : State} {x1 : List Byte} (h_s : Keeps q s) :
    Keeps q (State.garble s x1).2 := by
  induction x1 generalizing s with
  | nil => exact h_s
  | cons a t ih =>
    unfold State.garble
    repeat' first | with_reducible assumption | with_reducible apply keeps_draw | with_reducible apply ih

theorem keeps_garbleIf {q : List Instr} {s : State} {c : Bool} {bs : List Byte} (h_s : Keeps q s) :
    Keeps q (State.garbleIf s c bs).2 := by
  unfold State.garbleIf
  repeat' first | with_reducible assumption | with_reducible apply keeps_garble | split

theorem keeps_sumSend {q : List Instr} {s : State} {n : Nat} {x : Slot} {j : Nat} {wrong : Bool} (h_s : Keeps q s) :
    Keeps q (State.sumSend s n x j wrong) := by
  unfold State.sumSend
  repeat' first
      | with_reducible assumption | with_reducible apply keeps_garbleIf | with_reducible apply keeps_stuMismatch
      | with_reducible apply keeps_slotSend | with_reducible apply keeps_setSlot | split

theorem keeps_execStuSum {q : List Instr} {n : Nat} {ce : Nat} {ue : Option Nat} {wrong : Bool} {s : State}
    (h_s : Keeps q s) :
    KeepsO q (execStuSum n ce ue wrong s) := by
  unfold execStuSum
  repeat' first
      | with_reducible assumption | with_reducible apply keeps_gatedColl | with_reducible apply keeps_nextChunk
      | with_reducible apply keeps_stuDrop | with_reducible apply keeps_stuMemory
      | with_reducible apply keeps_countChunk | with_reducible apply keeps_inputTest
      | with_reducible apply keeps_sumSend | with_reducible apply keeps_setSlot | with_reducible apply KeepsO.next
      | (refine KeepsP3.use (by with_reducible assumption) ?_) | split | dsimp only

theorem keeps_execStuGatherFixed {q : List Instr} {n : Nat} {ce : Nat} {ue : Option Nat} {wrong : Bool} {s : State}
    (h_s : Keeps q s) :
    KeepsO q (execStuGatherFixed n ce ue wrong s) := by
  unfold execStuGatherFixed
  repeat' first
      | with_reducible assumption | with_reducible apply keeps_gatedColl | with_reducible apply keeps_nextChunk
      | with_reducible apply keeps_stuMemory | with_reducible apply keeps_countChunk
      | with_reducible apply keeps_stuDrop | with_reducible apply keeps_inputTest
      | with_reducible apply keeps_garbleIf | with_reducible apply keeps_inject | with_reducible apply KeepsO.next
      | (refine KeepsP3.use (by with_reducible assumption) ?_) | split

theorem keeps_recChunk {q : List Instr} {s : State} {n : Nat} {op : SlotOp} {ce : Nat} {ue : Option Nat}
    (h_s : Keeps q s) :
    KeepsP4 q (State.recChunk s n op ce ue) := by
  unfold State.recChunk
  repeat' first
      | with_reducible assumption | with_reducible apply keeps_nextChunk | with_reducible apply keeps_stuMemory
      | with_reducible apply keeps_countChunk | with_reducible apply keeps_stuDrop
      | with_reducible apply keeps_inputTest | with_reducible apply KeepsP4.none | with_reducible apply KeepsP4.some
      | (refine KeepsP3.use (by with_reducible assumption) ?_) | split

theorem keeps_packSend {q : List Instr} {s : State} {n : Nat} {x : Slot} {j : Nat} {last : Bool} (h_s : Keeps q s) :
    Keeps q (State.packSend s n x j last).2 := by
  unfold State.packSend
  repeat' first | with_reducible assumption | with_reducible apply keeps_slotSend

theorem keeps_packRec {q : List Instr} {s : State} {n : Nat} {x : Slot} {j : Nat} {r : List Byte} {wrong : Bool}
    (h_s : Keeps q s) :
    Keeps q (State.packRec s n x j r wrong).2 := by
  unfold State.packRec
  repeat' first
      | with_reducible assumption | with_reducible apply keeps_garbleIf | with_reducible apply keeps_packSend
      | (refine Keeps.snd (by with_reducible assumption) ?_) | split | dsimp only

theorem keeps_packAll {q : List Instr} {s : State} {n : Nat} {x : Slot} {j : Nat} {wrong : Bool}
    {x1 : List (List Byte)} (h_s : Keeps q s) :
    Keeps q (State.packAll s n x j wrong x1).2 := by
  induction x1 generalizing s x with
  | nil => exact h_s
  | cons a t ih =>
    unfold State.packAll
    repeat' first | with_reducible assumption | with_reducible apply keeps_packRec | with_reducible apply ih

theorem keeps_packEnd {q : List Instr} {s : State} {n : Nat} {x : Slot} {no : Nat} (h_s : Keeps q s) :
    Keeps q (State.packEnd s n x no).2 := by
  unfold State.packEnd
  repeat' first
      | with_reducible assumption | with_reducible apply keeps_packSend | with_reducible apply keeps_stuMismatch
      | with_reducible apply Keeps.foldl2 | (refine Keeps.snd (by with_reducible assumption) ?_)
      | with_reducible intro _ | split

theorem keeps_execStuSortLocal {q : List Instr} {n : Nat} {ce : Nat} {ue : Option Nat} {wrong : Bool} {s : State}
    (h_s : Keeps q s) :
    KeepsO q (execStuSortLocal n ce ue wrong s) := by
  unfold execStuSortLocal
  repeat' first
      | with_reducible assumption | with_reducible apply keeps_gatedColl | with_reducible apply keeps_recChunk
      | with_reducible apply keeps_setSlot | with_reducible apply keeps_packSend | with_reducible apply keeps_packAll
      | with_reducible apply keeps_packEnd | with_reducible apply KeepsO.next
      | (refine KeepsP4.use (by with_reducible assumption) ?_) | split | dsimp only

theorem keeps_execStuSortMerge {q : List Instr} {n : Nat} {ce : Nat} {ue : Option Nat} {wrong : Bool} {s : State}
    (h_s : Keeps q s) :
    KeepsO q (execStuSortMerge n ce ue wrong s) := by
  unfold execStuSortMerge
  repeat' first
      | with_reducible assumption | with_reducible apply keeps_gatedColl | with_reducible apply keeps_recChunk
      | with_reducible apply keeps_packAll | with_reducible apply keeps_packEnd | with_reducible apply keeps_setSlot
      | with_reducible apply KeepsO.next | (refine KeepsP4.use (by with_reducible assumption) ?_) | split | dsimp only

theorem keeps_filterRec {q : List Instr} {s : State} {n : Nat} {x : Slot} {mask : Word} {r : List Byte} {wrong : Bool}
    (h_s : Keeps q s) :
    Keeps q (State.filterRec s n x mask r wrong).2 := by
  unfold State.filterRec
  repeat' first
      | with_reducible assumption | with_reducible apply keeps_packRec | with_reducible apply Keeps.foldl2
      | with_reducible intro _ | split | dsimp only

theorem keeps_filterAll {q : List Instr} {s : State} {n : Nat} {x : Slot} {ws : List Nat} {wrong : Bool} {x1 : Nat}
    {x2 : List (List Byte)} (h_s : Keeps q s) :
    Keeps q (State.filterAll s n x ws wrong x1 x2).2 := by
  induction x2 generalizing s x x1 with
  | nil => exact h_s
  | cons a t ih =>
    unfold State.filterAll
    repeat' first | with_reducible assumption | with_reducible apply keeps_filterRec | with_reducible apply ih

theorem keeps_execStuFilter {q : List Instr} {n : Nat} {ce : Nat} {ue : Option Nat} {wrong : Bool} {s : State}
    (h_s : Keeps q s) :
    KeepsO q (execStuFilter n ce ue wrong s) := by
  unfold execStuFilter
  repeat' first
      | with_reducible assumption | with_reducible apply keeps_gatedColl | with_reducible apply keeps_recChunk
      | with_reducible apply keeps_filterAll | with_reducible apply keeps_packEnd
      | with_reducible apply keeps_admitColls | with_reducible apply keeps_filterDone
      | with_reducible apply keeps_setSlot | with_reducible apply KeepsO.next
      | (refine KeepsP4.use (by with_reducible assumption) ?_) | (refine Keeps.snd (by with_reducible assumption) ?_)
      | split

theorem keeps_putAt {q : List Instr} {s : State} {a : Nat} {bs : List Byte} (h_s : Keeps q s) :
    Keeps q (State.putAt s a bs) := by
  unfold State.putAt
  repeat' first | with_reducible assumption | with_reducible apply keeps_mputBytes | split

theorem keeps_stageFree {q : List Instr} {s : State} {x : Slot} (h_s : Keeps q s) :
    Keeps q (State.stageFree s x) := by
  unfold State.stageFree
  repeat' first | with_reducible assumption | with_reducible apply keeps_garble | with_reducible apply keeps_putAt

theorem keeps_lanesEnd {q : List Instr} {s : State} {n : Nat} {x : Slot} {wrong : Bool} (h_s : Keeps q s) :
    Keeps q (State.lanesEnd s n x wrong) := by
  unfold State.lanesEnd
  repeat' first
      | with_reducible assumption | with_reducible apply keeps_stageFree | with_reducible apply keeps_garbleIf
      | with_reducible apply keeps_putAt | with_reducible apply keeps_setSlot | with_reducible apply keeps_gatherDone

theorem keeps_execStuGatherLanes {q : List Instr} {n : Nat} {ce : Nat} {ue : Option Nat} {wrong : Bool} {s : State}
    (h_s : Keeps q s) :
    KeepsO q (execStuGatherLanes n ce ue wrong s) := by
  unfold execStuGatherLanes
  repeat' first
      | with_reducible assumption | with_reducible apply keeps_gatedColl | with_reducible apply keeps_recChunk
      | with_reducible apply keeps_admitColls | with_reducible apply keeps_lanesEnd
      | with_reducible apply keeps_setSlot | with_reducible apply KeepsO.next
      | (refine KeepsP4.use (by with_reducible assumption) ?_) | split | dsimp only

theorem keeps_execStuClearCnt {q : List Instr} {u : Nat} {incs : List (Nat × Nat)} {s : State} (h_s : Keeps q s) :
    KeepsO q (execStuClearCnt u s incs) := by
  unfold execStuClearCnt
  repeat' first
      | with_reducible assumption | with_reducible apply keeps_clearCounters | with_reducible apply KeepsO.next

theorem keeps_writeKctrl {q : List Instr} {s : State} {v : Word} {rwl : Bool} (h_s : Keeps q s) :
    Keeps q (State.writeKctrl s v rwl) := by
  unfold State.writeKctrl
  repeat' first
      | with_reducible assumption | with_reducible apply keeps_rsetFld | with_reducible apply Keeps.parts
      | simp only [keeps_fields] | split

theorem keeps_execKctrlCommit {q : List Instr} {v : Word} {fw : Bool} {s : State} (h_s : Keeps q s) :
    KeepsO q (execKctrlCommit v fw s) := by
  unfold execKctrlCommit
  repeat' first | with_reducible assumption | with_reducible apply keeps_writeKctrl | with_reducible apply KeepsO.next

theorem keeps_execKernelInstallDone {q : List Instr} {s : State} (h_s : Keeps q s) :
    KeepsO q (execKernelInstallDone s) := by
  unfold execKernelInstallDone
  repeat' first
      | with_reducible assumption | with_reducible apply keeps_rput | with_reducible apply keeps_rsetFld
      | with_reducible apply keeps_rsetBit | with_reducible apply KeepsO.next | with_reducible apply Keeps.parts
      | simp only [keeps_fields] | with_reducible apply Keeps.foldl | with_reducible intro _ | split

theorem keeps_execSynColl {q : List Instr} {n : Nat} {occ : Nat} {s : State} (h_s : Keeps q s) :
    KeepsO q (execSynColl n occ s) := by
  unfold execSynColl
  repeat' first
      | with_reducible assumption | with_reducible apply keeps_issueCmd | with_reducible apply keeps_gated
      | with_reducible apply keeps_issuePlan | with_reducible apply keeps_meet | with_reducible apply keeps_setCore
      | with_reducible apply keeps_askColl | with_reducible apply Keeps.core (q := q)
      | with_reducible apply KeepsO.next | with_reducible apply CoreOk.parts | simp only [coreOk_fields]
      | (refine KeepsI.go (by with_reducible assumption) ?_) | (refine KeepsI.ended (by with_reducible assumption) ?_)
      | split

theorem keeps_commitGroup {q : List Instr} {s : State} {g : Nat} (h_s : Keeps q s) :
    Keeps q (State.commitGroup s g) := by
  unfold State.commitGroup
  repeat' first
      | with_reducible assumption | with_reducible apply keeps_rsetFld | with_reducible apply keeps_meet
      | with_reducible apply Keeps.parts | simp only [keeps_fields] | split

theorem keeps_execGsetCommit {q : List Instr} {g : Nat} {s : State} (h_s : Keeps q s) :
    KeepsO q (execGsetCommit g s) := by
  unfold execGsetCommit
  repeat' first
      | with_reducible assumption | with_reducible apply keeps_gated | with_reducible apply keeps_commitGroup
      | with_reducible apply KeepsO.next

theorem keeps_setGroup {q : List Instr} {s : State} {g : Nat} {e : Group} (h_s : Keeps q s) :
    Keeps q (State.setGroup s g e) := by
  unfold State.setGroup
  repeat' first
      | with_reducible assumption | with_reducible apply keeps_countStale | with_reducible apply keeps_finish
      | with_reducible apply Keeps.parts | simp only [keeps_fields] | with_reducible apply Keeps.foldl
      | with_reducible intro _ | split

theorem keeps_execGroupCommitDone {q : List Instr} {s : State} (h_s : Keeps q s) :
    KeepsO q (execGroupCommitDone s) := by
  unfold execGroupCommitDone
  repeat' first
      | with_reducible assumption | with_reducible apply keeps_gatedColl | with_reducible apply keeps_rsetFld
      | with_reducible apply keeps_admitColls | with_reducible apply keeps_setGroup | with_reducible apply KeepsO.next
      | with_reducible apply Keeps.parts | simp only [keeps_fields] | split

theorem keeps_execReserveRetry {q : List Instr} {h : Nat} {s : State} (h_s : Keeps q s) :
    KeepsO q (execReserveRetry h s) := by
  unfold execReserveRetry
  repeat' first
      | with_reducible assumption | with_reducible apply keeps_gatedColl | with_reducible apply keeps_admitColls
      | with_reducible apply keeps_tryRoles | with_reducible apply KeepsO.next

theorem keeps_holdReady {q : List Instr} {s : State} {f : Frame} (h_s : Keeps q s) :
    Keeps q (State.holdReady s f) := by
  unfold State.holdReady
  repeat' first
      | with_reducible assumption | with_reducible apply keeps_countStale | with_reducible apply Keeps.parts
      | simp only [keeps_fields] | split

theorem keeps_takeColl {q : List Instr} {s : State} {ty : Nat} {act : State → Coll → Frame → State} (h_s : Keeps q s)
    (h_act : ∀ y0 y1 y2, Keeps q y0 → Keeps q (act y0 y1 y2)) :
    Keeps q (State.takeColl s ty act) := by
  unfold State.takeColl
  repeat' first
      | with_reducible assumption | with_reducible apply keeps_takeDeliv | with_reducible apply keeps_countStale
      | with_reducible apply keeps_holdReady | with_reducible apply keeps_admitColls | with_reducible apply h_act
      | (refine KeepsP2.use (by with_reducible assumption) ?_) | split | dsimp only

theorem keeps_execReady {q : List Instr} {s : State} (h_s : Keeps q s) :
    KeepsO q (execReady s) := by
  unfold execReady
  repeat' first
      | with_reducible assumption | with_reducible apply keeps_gatedColl | with_reducible apply keeps_takeColl
      | with_reducible apply keeps_takeReady | with_reducible apply KeepsO.next | with_reducible intro _

theorem keeps_missResult {q : List Instr} {s : State} {c : Coll} {stripe : Nat} {j : Nat} (h_s : Keeps q s) :
    Keeps q (State.missResult s c stripe j) := by
  unfold State.missResult
  repeat' first
      | with_reducible assumption | with_reducible apply keeps_failColl | with_reducible apply keeps_setColl
      | with_reducible apply keeps_rcount | with_reducible apply keeps_sendCtl | split | dsimp only

theorem keeps_sumResult {q : List Instr} {s : State} {c : Coll} {f : Frame} (h_s : Keeps q s) :
    Keeps q (State.sumResult s c f) := by
  unfold State.sumResult
  repeat' first
      | with_reducible assumption | with_reducible apply keeps_failColl | with_reducible apply keeps_push
      | with_reducible apply keeps_passResult | with_reducible apply keeps_missResult | split | dsimp only

theorem keeps_sortResult {q : List Instr} {s : State} {c : Coll} {f : Frame} (h_s : Keeps q s) :
    Keeps q (State.sortResult s c f) := by
  unfold State.sortResult
  repeat' first
      | with_reducible assumption | with_reducible apply keeps_failColl | with_reducible apply keeps_mputBytes
      | with_reducible apply keeps_setColl | with_reducible apply keeps_reportDone | split | dsimp only

theorem keeps_execResult {q : List Instr} {s : State} (h_s : Keeps q s) :
    KeepsO q (execResult s) := by
  unfold execResult
  repeat' first
      | with_reducible assumption | with_reducible apply keeps_gatedColl | with_reducible apply keeps_takeColl
      | with_reducible apply keeps_sumResult | with_reducible apply keeps_sortResult
      | with_reducible apply KeepsO.next | with_reducible intro _ | split

theorem keeps_execResultVisible {q : List Instr} {h : Nat} {stripe : Nat} {j : Nat} {s : State} (h_s : Keeps q s) :
    KeepsO q (execResultVisible h stripe j s) := by
  unfold execResultVisible
  repeat' first
      | with_reducible assumption | with_reducible apply keeps_gatedColl | with_reducible apply keeps_admitColls
      | with_reducible apply keeps_push | with_reducible apply keeps_setColl | with_reducible apply KeepsO.next
      | split

theorem keeps_execAck {q : List Instr} {s : State} (h_s : Keeps q s) :
    KeepsO q (execAck s) := by
  unfold execAck
  repeat' first
      | with_reducible assumption | with_reducible apply keeps_gatedColl | with_reducible apply keeps_takeColl
      | with_reducible apply keeps_push | with_reducible apply keeps_setColl | with_reducible apply KeepsO.next
      | with_reducible intro _ | split

theorem keeps_execPace {q : List Instr} {s : State} (h_s : Keeps q s) :
    KeepsO q (execPace s) := by
  unfold execPace
  repeat' first
      | with_reducible assumption | with_reducible apply keeps_gatedColl | with_reducible apply keeps_takeColl
      | with_reducible apply keeps_setColl | with_reducible apply keeps_sendCtl | with_reducible apply keeps_push
      | with_reducible apply KeepsO.next | with_reducible apply Keeps.foldl | with_reducible intro _ | split
      | dsimp only

theorem keeps_execRetx {q : List Instr} {s : State} (h_s : Keeps q s) :
    KeepsO q (execRetx s) := by
  unfold execRetx
  repeat' first
      | with_reducible assumption | with_reducible apply keeps_gatedColl | with_reducible apply keeps_takeColl
      | with_reducible apply keeps_inject | with_reducible apply KeepsO.next | with_reducible intro _ | split
      | dsimp only

theorem keeps_execRetxRepeat {q : List Instr} {h : Nat} {stripe : Nat} {j : Nat} {s : State} (h_s : Keeps q s) :
    KeepsO q (execRetxRepeat h stripe j s) := by
  unfold execRetxRepeat
  repeat' first
      | with_reducible assumption | with_reducible apply keeps_gatedColl | with_reducible apply keeps_rcount
      | with_reducible apply keeps_setColl | with_reducible apply keeps_admitColls
      | with_reducible apply keeps_sendCtl | with_reducible apply KeepsO.next | split

theorem keeps_execReport {q : List Instr} {s : State} (h_s : Keeps q s) :
    KeepsO q (execReport s) := by
  unfold execReport
  repeat' first
      | with_reducible assumption | with_reducible apply keeps_gatedColl | with_reducible apply keeps_takeColl
      | with_reducible apply keeps_noteDone | with_reducible apply keeps_onFail | with_reducible apply KeepsO.next
      | with_reducible intro _ | split

theorem keeps_execCollEnd {q : List Instr} {s : State} (h_s : Keeps q s) :
    KeepsO q (execCollEnd s) := by
  unfold execCollEnd
  repeat' first
      | with_reducible assumption | with_reducible apply keeps_gatedColl | with_reducible apply keeps_takeColl
      | with_reducible apply keeps_sendCtl | with_reducible apply keeps_retryColl | with_reducible apply keeps_finish
      | with_reducible apply KeepsO.next | with_reducible apply Keeps.foldl | with_reducible intro _ | split
      | dsimp only

theorem keeps_repeatEnd {q : List Instr} {e : EndJob} {x1 : List Frame} {x2 : State} (h_x2 : Keeps q x2) :
    Keeps q (repeatEnd e x1 x2) := by
  induction x1 generalizing x2 with
  | nil => exact h_x2
  | cons a t ih =>
    unfold repeatEnd
    repeat' first
        | with_reducible assumption | with_reducible apply keeps_sendCtl | with_reducible apply keeps_askClass0
        | with_reducible apply ih | with_reducible apply Keeps.parts | simp only [keeps_fields] | split

theorem keeps_execEndRepeat {q : List Instr} {i : Nat} {s : State} (h_s : Keeps q s) :
    KeepsO q (execEndRepeat i s) := by
  unfold execEndRepeat
  repeat' first
      | with_reducible assumption | with_reducible apply keeps_gatedColl | with_reducible apply keeps_admitColls
      | with_reducible apply keeps_repeatEnd | with_reducible apply KeepsO.next | with_reducible apply Keeps.parts
      | simp only [keeps_fields] | split

theorem keeps_execCollProgressTimeout {q : List Instr} {h : Nat} {s : State} (h_s : Keeps q s) :
    KeepsO q (execCollProgressTimeout h s) := by
  unfold execCollProgressTimeout
  repeat' first
      | with_reducible assumption | with_reducible apply keeps_gatedColl | with_reducible apply keeps_admitColls
      | with_reducible apply keeps_failColl | with_reducible apply KeepsO.next | split

theorem keeps_execCollSelfEnd {q : List Instr} {h : Nat} {s : State} (h_s : Keeps q s) :
    KeepsO q (execCollSelfEnd h s) := by
  unfold execCollSelfEnd
  repeat' first
      | with_reducible assumption | with_reducible apply keeps_gatedColl | with_reducible apply keeps_admitColls
      | with_reducible apply keeps_finish | with_reducible apply KeepsO.next | split

theorem keeps_execMemberPoll {q : List Instr} {h : Nat} {s : State} (h_s : Keeps q s) :
    KeepsO q (execMemberPoll h s) := by
  unfold execMemberPoll
  repeat' first
      | with_reducible assumption | with_reducible apply keeps_gatedColl | with_reducible apply keeps_admitColls
      | with_reducible apply keeps_failColl | with_reducible apply KeepsO.next | split

theorem keeps_raceCopy {q : List Instr} {s : State} {c : Coll} (h_s : Keeps q s) :
    Keeps q (State.raceCopy s c) := by
  unfold State.raceCopy
  repeat' first
      | with_reducible assumption | with_reducible apply keeps_finish | with_reducible apply keeps_rdMem
      | with_reducible apply keeps_mputBytes | with_reducible apply keeps_raceReqs
      | with_reducible apply keeps_setColl | split | dsimp only

theorem keeps_execRaceCasReply {q : List Instr} {h : Nat} {s : State} (h_s : Keeps q s) :
    KeepsO q (execRaceCasReply h s) := by
  unfold execRaceCasReply
  repeat' first
      | with_reducible assumption | with_reducible apply keeps_gatedColl | with_reducible apply keeps_meet
      | with_reducible apply keeps_mputWord | with_reducible apply keeps_admitColls
      | with_reducible apply keeps_finish | with_reducible apply keeps_raceCopy | with_reducible apply keeps_setColl
      | with_reducible apply KeepsO.next | (refine Keeps.snd (by with_reducible assumption) ?_) | split

theorem keeps_execRaceCopyDone {q : List Instr} {h : Nat} {s : State} (h_s : Keeps q s) :
    KeepsO q (execRaceCopyDone h s) := by
  unfold execRaceCopyDone
  repeat' first
      | with_reducible assumption | with_reducible apply keeps_gatedColl | with_reducible apply keeps_admitColls
      | with_reducible apply keeps_finish | with_reducible apply KeepsO.next | split

end Sys2Proof.Machine
end

