-- ==== Sys2Proof/Laws/KeepsHost.lean ====
section
/-! SUPPORT. What keeps the invariant and the queue: the host interface and the fabric. -/

namespace Sys2Proof.Machine

theorem keeps_setMg {q : List Instr} {s : State} {f : Mgmt → Mgmt} (h_s : Keeps q s) :
    Keeps q (State.setMg s f) := by
  unfold State.setMg
  repeat' first | with_reducible assumption | with_reducible apply Keeps.parts | simp only [keeps_fields]

theorem keeps_quadsOff {q : List Instr} {s : State} (h_s : Keeps q s) :
    Keeps q (State.quadsOff s) := by
  unfold State.quadsOff
  repeat' first
      | with_reducible assumption | with_reducible apply keeps_writeQcfg | with_reducible apply Keeps.foldl
      | with_reducible intro _

theorem keeps_spareIn {q : List Instr} {s : State} {kind : Nat} {old : Nat} {new : Nat} {logical : Nat}
    (h_s : Keeps q s) :
    Keeps q (State.spareIn s kind old new logical) := by
  unfold State.spareIn
  repeat' first | with_reducible assumption | with_reducible apply keeps_raise

theorem keeps_moveCore {q : List Instr} {s : State} {l : Nat} {n : Nat} {m : Nat} {copy : Bool} (h_s : Keeps q s) :
    Keeps q (State.moveCore s l n m copy) := by
  unfold State.moveCore
  repeat' first
      | with_reducible assumption | with_reducible apply keeps_setCore | with_reducible apply keeps_rsetBit
      | with_reducible apply keeps_rput | with_reducible apply keeps_buildSet
      | with_reducible apply Keeps.core (q := q) | with_reducible apply CoreOk.parts | simp only [coreOk_fields]
      | split

theorem keeps_repairOne {q : List Instr} {s : State} {errs : List Nat} {r : Repair} (h_s : Keeps q s) :
    Keeps q (State.repairOne s errs r) := by
  unfold State.repairOne
  repeat' first
      | with_reducible assumption | with_reducible apply keeps_record | with_reducible apply keeps_rsetFld
      | with_reducible apply keeps_moveCore | with_reducible apply keeps_spareIn | with_reducible apply keeps_raise
      | with_reducible apply keeps_rsetBit | with_reducible apply keeps_freshRow
      | with_reducible apply keeps_enterTungsten | with_reducible apply Keeps.parts | simp only [keeps_fields] | split

theorem keeps_boundary {q : List Instr} {s : State} {errs : List Nat} (h_s : Keeps q s) :
    Keeps q (State.boundary s errs) := by
  unfold State.boundary
  repeat' first
      | with_reducible assumption | with_reducible apply keeps_repairOne | with_reducible apply keeps_rsetBit
      | with_reducible apply Keeps.parts | simp only [keeps_fields] | with_reducible apply Keeps.foldl
      | with_reducible intro _

theorem keeps_setSq {q : List Instr} {s : State} {q1 : Sq} (h_s : Keeps q s) :
    Keeps q (State.setSq s q1) := by
  unfold State.setSq
  repeat' first | with_reducible assumption | with_reducible apply Keeps.parts | simp only [keeps_fields]

theorem keeps_setCq {q : List Instr} {s : State} {q1 : Cq} (h_s : Keeps q s) :
    Keeps q (State.setCq s q1) := by
  unfold State.setCq
  repeat' first | with_reducible assumption | with_reducible apply Keeps.parts | simp only [keeps_fields]

theorem keeps_setLine {q : List Instr} {s : State} {k : Nat} {b : Bool} (h_s : Keeps q s) :
    Keeps q (State.setLine s k b) := by
  unfold State.setLine
  repeat' first | with_reducible assumption | with_reducible apply Keeps.parts | simp only [keeps_fields]

theorem keeps_setWant {q : List Instr} {s : State} {k : Nat} {b : Bool} (h_s : Keeps q s) :
    Keeps q (State.setWant s k b) := by
  unfold State.setWant
  repeat' first | with_reducible assumption | with_reducible apply Keeps.parts | simp only [keeps_fields]

theorem keeps_askLine {q : List Instr} {s : State} {k : Nat} (h_s : Keeps q s) :
    Keeps q (State.askLine s k) := by
  unfold State.askLine
  repeat' first
      | with_reducible assumption | with_reducible apply keeps_emit | with_reducible apply keeps_setWant | split

theorem keeps_dropLine {q : List Instr} {s : State} {k : Nat} (h_s : Keeps q s) :
    Keeps q (State.dropLine s k) := by
  unfold State.dropLine
  repeat' first
      | with_reducible assumption | with_reducible apply keeps_emit | with_reducible apply keeps_setWant
      | with_reducible apply keeps_setLine | split

theorem keeps_hostFault {q : List Instr} {s : State} (h_s : Keeps q s) :
    Keeps q (State.hostFault s) := by
  unfold State.hostFault
  repeat' first | with_reducible assumption | with_reducible apply keeps_rsetBit

theorem keeps_dropStage {q : List Instr} {s : State} {a : Nat} (h_s : Keeps q s) :
    Keeps q (State.dropStage s a) := by
  unfold State.dropStage
  repeat' first
      | with_reducible assumption | with_reducible apply keeps_freeBuffer | with_reducible apply keeps_mputWord
      | split

theorem keeps_ownPut {q : List Instr} {s : State} {a : Nat} {bs : List Byte} (h_s : Keeps q s) :
    Keeps q (State.ownPut s a bs) := by
  unfold State.ownPut
  repeat' first | with_reducible assumption | with_reducible apply keeps_mputBytes | split

theorem keeps_stageDesc {q : List Instr} {s : State} {q1 : Sq} {d : List Word} (h_s : Keeps q s) :
    Keeps q (State.stageDesc s q1 d) := by
  unfold State.stageDesc
  repeat' first
      | with_reducible assumption | with_reducible apply keeps_poolRequest | with_reducible apply keeps_setSq
      | with_reducible apply keeps_ownPut | (refine Keeps.snd (by with_reducible assumption) ?_) | split

theorem keeps_passGo {q : List Instr} {x1 : Nat} {x2 : List Byte} {x3 : State} (h_x3 : Keeps q x3) :
    Keeps q (State.passGo x1 x2 x3).2 := by
  induction x1 generalizing x2 x3 with
  | zero => exact h_x3
  | succ n ih =>
    unfold State.passGo
    repeat' first
        | with_reducible assumption | with_reducible apply keeps_poolRequest | with_reducible apply keeps_dropStage
        | with_reducible apply keeps_ownPut | with_reducible apply ih
        | (refine Keeps.snd (by with_reducible assumption) ?_) | split

theorem keeps_passStage {q : List Instr} {s : State} {bs : List Byte} (h_s : Keeps q s) :
    Keeps q (State.passStage s bs).2 := by
  unfold State.passStage
  repeat' first | with_reducible assumption | with_reducible apply keeps_passGo

theorem keeps_sqError {q : List Instr} {s : State} {q1 : Sq} {tail : Nat} (h_s : Keeps q s) :
    Keeps q (State.sqError s q1 tail) := by
  unfold State.sqError
  repeat' first
      | with_reducible assumption | with_reducible apply keeps_setSq | with_reducible apply keeps_rsetBit
      | with_reducible apply keeps_raise | with_reducible apply keeps_draw | with_reducible apply Keeps.parts
      | simp only [keeps_fields] | split

theorem keeps_writeTail {q : List Instr} {s : State} {ok : Bool} (h_s : Keeps q s) :
    Keeps q (State.writeTail s ok) := by
  unfold State.writeTail
  repeat' first
      | with_reducible assumption | with_reducible apply keeps_emit | with_reducible apply keeps_hputBytes
      | with_reducible apply keeps_hostFault | with_reducible apply keeps_rsetBit | split

theorem keeps_startRings {q : List Instr} {s : State} {tail : Bool} (h_s : Keeps q s) :
    Keeps q (State.startRings s tail) := by
  unfold State.startRings
  repeat' first
      | with_reducible assumption | with_reducible apply keeps_askLine | with_reducible apply keeps_rsetBit
      | with_reducible apply keeps_writeTail | with_reducible apply Keeps.parts | simp only [keeps_fields] | split

theorem keeps_workSend {q : List Instr} {s : State} {id : Nat} {us : List Unsent} (h_s : Keeps q s) :
    Keeps q (State.workSend s id us) := by
  unfold State.workSend
  repeat' first
      | with_reducible assumption | with_reducible apply keeps_boundsWork | with_reducible apply keeps_sendReq
      | with_reducible apply Keeps.foldl | split

theorem keeps_formWork {q : List Instr} {s : State} {w : Work} (h_s : Keeps q s) :
    Keeps q (State.formWork s w) := by
  unfold State.formWork
  repeat' first
      | with_reducible assumption | with_reducible apply keeps_setWork | with_reducible apply keeps_failWork
      | with_reducible apply keeps_askClass0 | with_reducible apply keeps_finishWork
      | with_reducible apply keeps_workSend | split | dsimp only

theorem keeps_stageWork {q : List Instr} {s : State} {w : Work} (h_s : Keeps q s) :
    Keeps q (State.stageWork s w) := by
  unfold State.stageWork
  repeat' first
      | with_reducible assumption | with_reducible apply keeps_passStage | with_reducible apply keeps_formWork
      | with_reducible apply keeps_setWork | (refine Keeps.snd (by with_reducible assumption) ?_) | split

theorem keeps_beginWork {q : List Instr} {s : State} {w : Work} {data : List Byte} {fail : Option Nat}
    (h_s : Keeps q s) :
    Keeps q (State.beginWork s w data fail) := by
  unfold State.beginWork
  repeat' first
      | with_reducible assumption | with_reducible apply keeps_boundsWork | with_reducible apply keeps_hostFault
      | with_reducible apply keeps_hostRead | with_reducible apply keeps_setWork
      | with_reducible apply keeps_stageWork | with_reducible apply keeps_rdMem | with_reducible apply keeps_formWork
      | with_reducible apply keeps_workSend | split | dsimp only

theorem keeps_endWork {q : List Instr} {s : State} {w : Work} (h_s : Keeps q s) :
    Keeps q (State.endWork s w) := by
  unfold State.endWork
  repeat' first
      | with_reducible assumption | with_reducible apply keeps_finishWork | with_reducible apply keeps_landLoad
      | with_reducible apply keeps_loadTold | with_reducible apply keeps_hostFault
      | with_reducible apply keeps_hostWrite | with_reducible apply keeps_boundsWork
      | with_reducible apply keeps_ownPut | split | dsimp only

theorem keeps_maskSeen {q : List Instr} {s : State} {v : Nat} {masked : Bool} (h_s : Keeps q s) :
    Keeps q (State.maskSeen s v masked) := by
  unfold State.maskSeen
  repeat' first
      | with_reducible assumption | with_reducible apply keeps_emit | with_reducible apply Keeps.parts
      | simp only [keeps_fields] | split

theorem keeps_signal {q : List Instr} {s : State} {v : Nat} (h_s : Keeps q s) :
    Keeps q (State.signal s v) := by
  unfold State.signal
  repeat' first
      | with_reducible assumption | with_reducible apply keeps_emit | with_reducible apply Keeps.parts
      | simp only [keeps_fields] | split

theorem keeps_writeEntry {q : List Instr} {s : State} {n : Nat} {ok : Bool} (h_s : Keeps q s) :
    Keeps q (State.writeEntry s n ok) := by
  unfold State.writeEntry
  repeat' first
      | with_reducible assumption | with_reducible apply keeps_askLine | with_reducible apply keeps_emit
      | with_reducible apply keeps_hputBytes | with_reducible apply keeps_hostFault
      | with_reducible apply keeps_signal | with_reducible apply keeps_setCq | with_reducible apply Keeps.parts
      | simp only [keeps_fields] | split

theorem keeps_writeEntries {q : List Instr} {n : Nat} {x1 : Nat} {x2 : State} (h_x2 : Keeps q x2) :
    Keeps q (State.writeEntries n x1 x2) := by
  induction x1 generalizing x2 with
  | zero => exact h_x2
  | succ n ih =>
    unfold State.writeEntries
    repeat' first
        | with_reducible assumption | with_reducible apply keeps_writeEntry | with_reducible apply ih
        | simp only [keeps_fields] | split

theorem keeps_putRecord {q : List Instr} {s : State} {l : Latched} {ok : Bool} {tail : Bool} (h_s : Keeps q s) :
    Keeps q (State.putRecord s l ok tail).2 := by
  unfold State.putRecord
  repeat' first
      | with_reducible assumption | with_reducible apply keeps_emit | with_reducible apply keeps_writeTail
      | with_reducible apply keeps_hputBytes | with_reducible apply keeps_signal
      | with_reducible apply keeps_hostFault | with_reducible apply keeps_rsetBit | with_reducible apply Keeps.parts
      | simp only [keeps_fields] | split

theorem keeps_writeEvent {q : List Instr} {s : State} {ok : Bool} {tail : Bool} (h_s : Keeps q s) :
    Keeps q (State.writeEvent s ok tail) := by
  unfold State.writeEvent
  repeat' first
      | with_reducible assumption | with_reducible apply keeps_putRecord | with_reducible apply keeps_askLine
      | with_reducible apply keeps_rcount | with_reducible apply Keeps.parts | simp only [keeps_fields] | split

theorem keeps_writeLoss {q : List Instr} {s : State} {ok : Bool} {tail : Bool} (h_s : Keeps q s) :
    Keeps q (State.writeLoss s ok tail) := by
  unfold State.writeLoss
  repeat' first
      | with_reducible assumption | with_reducible apply keeps_putRecord | with_reducible apply Keeps.parts
      | simp only [keeps_fields] | split

theorem keeps_dropRings {q : List Instr} {s : State} (h_s : Keeps q s) :
    Keeps q (State.dropRings s) := by
  unfold State.dropRings
  repeat' first
      | with_reducible assumption | with_reducible apply keeps_dropStage | with_reducible apply keeps_dropLine
      | with_reducible apply Keeps.parts | simp only [keeps_fields] | with_reducible apply Keeps.foldl
      | with_reducible intro _

/-- Set-up registers of which some are back at reset. -/
theorem Keeps.filterRegs {q} {s : State} (h : Keeps q s) (p : Nat × Word → Bool) :
    KeepsF q s.mem s.kept (s.regs.filter p) s.cores s.pools s.lanes s.rsv s.pending :=
  ⟨h.1.mem, tabWf_filter p h.1.regs, h.parts.2.2⟩

/-- Memory of which some bytes are unlisted, or kept no more. -/
theorem Keeps.filterMem {q} {s : State} (h : Keeps q s) (p : Nat × Byte → Bool) (r : Nat × Bool → Bool) :
    KeepsF q (s.mem.filter p) (s.kept.filter r) s.regs s.cores s.pools s.lanes s.rsv s.pending :=
  ⟨Bool.and_eq_true_iff.mpr ⟨tabWf_filter p (memWf_iff.mp h.1.mem).1, tabWf_filter r (memWf_iff.mp h.1.mem).2⟩, h.parts.2⟩

theorem Keeps.filterMem1 {q} {s : State} (h : Keeps q s) (p : Nat × Byte → Bool) :
    KeepsF q (s.mem.filter p) s.kept s.regs s.cores s.pools s.lanes s.rsv s.pending :=
  ⟨Bool.and_eq_true_iff.mpr ⟨tabWf_filter p (memWf_iff.mp h.1.mem).1, (memWf_iff.mp h.1.mem).2⟩, h.parts.2⟩

theorem Keeps.filterKept {q} {s : State} (h : Keeps q s) (r : Nat × Bool → Bool) :
    KeepsF q s.mem (s.kept.filter r) s.regs s.cores s.pools s.lanes s.rsv s.pending :=
  ⟨Bool.and_eq_true_iff.mpr ⟨(memWf_iff.mp h.1.mem).1, tabWf_filter r (memWf_iff.mp h.1.mem).2⟩, h.parts.2⟩

theorem keeps_hifReset {q : List Instr} {s : State} (h_s : Keeps q s) :
    Keeps q (State.hifReset s) := by
  unfold State.hifReset
  repeat' first
      | with_reducible assumption | with_reducible apply keeps_dropRings | with_reducible apply keeps_rput
      | with_reducible apply keeps_rsetBit | with_reducible apply keeps_rcount | with_reducible apply Keeps.filterRegs
      | simp only [keeps_fields]

theorem keeps_hostDown {q : List Instr} {s : State} (h_s : Keeps q s) :
    Keeps q (State.hostDown s) := by
  unfold State.hostDown
  repeat' first | with_reducible assumption | with_reducible apply keeps_rput

theorem keeps_takeDesc {q : List Instr} {s : State} {op : Nat} (h_s : Keeps q s) :
    KeepsP3 q (State.takeDesc s op) := by
  unfold State.takeDesc
  repeat' first
      | with_reducible assumption | with_reducible apply keeps_dropStage | with_reducible apply keeps_setSq
      | with_reducible apply Keeps.parts | simp only [keeps_fields] | with_reducible apply KeepsP3.none
      | with_reducible apply KeepsP3.some | split

theorem keeps_startWork {q : List Instr} {s : State} {n : Nat} {d : List Word} (h_s : Keeps q s) :
    Keeps q (State.startWork s n d).2 := by
  unfold State.startWork
  repeat' first
      | with_reducible assumption | with_reducible apply keeps_setFlow | with_reducible apply Keeps.parts
      | simp only [keeps_fields] | split

theorem keeps_runDesc {q : List Instr} {s : State} {op : Nat} {act : Nat → List Word → State → State}
    (h_s : Keeps q s) (h_act : ∀ y0 y1 y2, Keeps q y2 → Keeps q (act y0 y1 y2)) :
    KeepsO q (runDesc s op act) := by
  unfold runDesc
  repeat' first
      | with_reducible assumption | with_reducible apply keeps_takeDesc | with_reducible apply keeps_complete
      | with_reducible apply h_act | with_reducible apply KeepsO.next
      | (refine KeepsP3.use (by with_reducible assumption) ?_) | split

theorem keeps_execNop {q : List Instr} {s : State} (h_s : Keeps q s) :
    KeepsO q (execNop s) := by
  unfold execNop
  repeat' first
      | with_reducible assumption | with_reducible apply keeps_runDesc | with_reducible apply keeps_complete
      | with_reducible intro _

theorem keeps_execLaunch {q : List Instr} {s : State} (h_s : Keeps q s) :
    KeepsO q (execLaunch s) := by
  unfold execLaunch
  repeat' first
      | with_reducible assumption | with_reducible apply keeps_runDesc | with_reducible apply keeps_startWork
      | with_reducible apply keeps_setLaunches | with_reducible intro _

theorem keeps_runData {q : List Instr} {s : State} {op : Nat} {data : List Byte} {fail : Option Nat} (h_s : Keeps q s) :
    KeepsO q (runData s op data fail) := by
  unfold runData
  repeat' first
      | with_reducible assumption | with_reducible apply keeps_runDesc | with_reducible apply keeps_startWork
      | with_reducible apply keeps_beginWork | with_reducible intro _

theorem keeps_execPload {q : List Instr} {data : List Byte} {fail : Option Nat} {s : State} (h_s : Keeps q s) :
    KeepsO q (execPload data fail s) := by
  unfold execPload
  repeat' first | with_reducible assumption | with_reducible apply keeps_runData

theorem keeps_execCopy {q : List Instr} {data : List Byte} {fail : Option Nat} {s : State} (h_s : Keeps q s) :
    KeepsO q (execCopy data fail s) := by
  unfold execCopy
  repeat' first | with_reducible assumption | with_reducible apply keeps_runData

theorem keeps_execFlowsend {q : List Instr} {data : List Byte} {fail : Option Nat} {s : State} (h_s : Keeps q s) :
    KeepsO q (execFlowsend data fail s) := by
  unfold execFlowsend
  repeat' first | with_reducible assumption | with_reducible apply keeps_runData

theorem keeps_execColl {q : List Instr} {s : State} (h_s : Keeps q s) :
    KeepsO q (execColl s) := by
  unfold execColl
  repeat' first
      | with_reducible assumption | with_reducible apply keeps_gated | with_reducible apply keeps_runDesc
      | with_reducible apply keeps_startWork | with_reducible apply keeps_askColl
      | (refine Keeps.snd (by with_reducible assumption) ?_) | with_reducible intro _ | split

theorem keeps_execCreateSq {q : List Instr} {s : State} (h_s : Keeps q s) :
    KeepsO q (execCreateSq s) := by
  unfold execCreateSq
  repeat' first
      | with_reducible assumption | with_reducible apply keeps_runDesc | with_reducible apply keeps_startWork
      | with_reducible apply keeps_askLine | with_reducible apply Keeps.parts | simp only [keeps_fields]
      | with_reducible intro _

theorem keeps_execCreateCq {q : List Instr} {s : State} (h_s : Keeps q s) :
    KeepsO q (execCreateCq s) := by
  unfold execCreateCq
  repeat' first
      | with_reducible assumption | with_reducible apply keeps_runDesc | with_reducible apply keeps_complete
      | with_reducible apply Keeps.parts | simp only [keeps_fields] | with_reducible intro _

theorem keeps_execDeleteSq {q : List Instr} {s : State} (h_s : Keeps q s) :
    KeepsO q (execDeleteSq s) := by
  unfold execDeleteSq
  repeat' first
      | with_reducible assumption | with_reducible apply keeps_runDesc | with_reducible apply keeps_startWork
      | with_reducible apply keeps_setSq | with_reducible apply keeps_dropStage | with_reducible apply keeps_complete
      | with_reducible apply Keeps.foldl | (refine Keeps.snd (by with_reducible assumption) ?_)
      | with_reducible intro _ | split

theorem keeps_execDeleteCq {q : List Instr} {s : State} (h_s : Keeps q s) :
    KeepsO q (execDeleteCq s) := by
  unfold execDeleteCq
  repeat' first
      | with_reducible assumption | with_reducible apply keeps_runDesc | with_reducible apply keeps_dropLine
      | with_reducible apply keeps_complete | with_reducible apply Keeps.parts | simp only [keeps_fields]
      | with_reducible intro _

theorem keeps_execOpenFlow {q : List Instr} {s : State} (h_s : Keeps q s) :
    KeepsO q (execOpenFlow s) := by
  unfold execOpenFlow
  repeat' first
      | with_reducible assumption | with_reducible apply keeps_runDesc | with_reducible apply keeps_complete
      | with_reducible apply keeps_setFlow | with_reducible intro _

theorem keeps_execCloseFlow {q : List Instr} {s : State} (h_s : Keeps q s) :
    KeepsO q (execCloseFlow s) := by
  unfold execCloseFlow
  repeat' first
      | with_reducible assumption | with_reducible apply keeps_runDesc | with_reducible apply keeps_complete
      | with_reducible apply keeps_setFlow | with_reducible apply keeps_startWork | with_reducible intro _ | split
      | dsimp only

theorem keeps_execResetFlow {q : List Instr} {s : State} (h_s : Keeps q s) :
    KeepsO q (execResetFlow s) := by
  unfold execResetFlow
  repeat' first
      | with_reducible assumption | with_reducible apply keeps_runDesc | with_reducible apply keeps_complete
      | with_reducible apply keeps_setFlow | with_reducible intro _

theorem keeps_removeSq {q : List Instr} {s : State} {q1 : Sq} (h_s : Keeps q s) :
    Keeps q (State.removeSq s q1) := by
  unfold State.removeSq
  repeat' first
      | with_reducible assumption | with_reducible apply keeps_dropLine | with_reducible apply Keeps.parts
      | simp only [keeps_fields]

theorem keeps_execDescriptorWorkDone {q : List Instr} {id : Nat} {s : State} (h_s : Keeps q s) :
    KeepsO q (execDescriptorWorkDone id s) := by
  unfold execDescriptorWorkDone
  repeat' first
      | with_reducible assumption | with_reducible apply keeps_endWork | with_reducible apply keeps_finishWork
      | with_reducible apply keeps_removeSq | with_reducible apply KeepsO.next | split | dsimp only

theorem keeps_execDoorbellSnoop {q : List Instr} {k : Nat} {s : State} (h_s : Keeps q s) :
    KeepsO q (execDoorbellSnoop k s) := by
  unfold execDoorbellSnoop
  repeat' first
      | with_reducible assumption | with_reducible apply keeps_emit | with_reducible apply keeps_setLine
      | with_reducible apply keeps_askLine | with_reducible apply KeepsO.next | split

theorem keeps_execSnoopData {q : List Instr} {k : Nat} {s : State} (h_s : Keeps q s) :
    KeepsO q (execSnoopData k s) := by
  unfold execSnoopData
  repeat' first
      | with_reducible assumption | with_reducible apply keeps_emit | with_reducible apply KeepsO.next | split

theorem keeps_execDoorbellLineFill {q : List Instr} {n : Nat} {tail : Nat} {ok : Bool} {s : State} (h_s : Keeps q s) :
    KeepsO q (execDoorbellLineFill n tail ok s) := by
  unfold execDoorbellLineFill
  repeat' first
      | with_reducible assumption | with_reducible apply keeps_setWant | with_reducible apply keeps_setLine
      | with_reducible apply keeps_hostFault | with_reducible apply keeps_setSq | with_reducible apply keeps_sqError
      | with_reducible apply keeps_finishWork | with_reducible apply KeepsO.next | split

theorem keeps_execDescriptorFetch {q : List Instr} {n : Nat} {words : List Word} {ok : Bool} {s : State}
    (h_s : Keeps q s) :
    KeepsO q (execDescriptorFetch n words ok s) := by
  unfold execDescriptorFetch
  repeat' first
      | with_reducible assumption | with_reducible apply keeps_emit | with_reducible apply keeps_stageDesc
      | with_reducible apply keeps_sqError | with_reducible apply keeps_hostFault | with_reducible apply KeepsO.next
      | split

theorem keeps_execStagingRetry {q : List Instr} {s : State} (h_s : Keeps q s) :
    KeepsO q (execStagingRetry s) := by
  unfold execStagingRetry
  repeat' first
      | with_reducible assumption | with_reducible apply keeps_stageDesc | with_reducible apply keeps_stageWork
      | with_reducible apply KeepsO.next | with_reducible apply Keeps.foldl | with_reducible intro _ | split

theorem keeps_execCqEntryWrite {q : List Instr} {n : Nat} {masked : Bool} {ok : Bool} {s : State} (h_s : Keeps q s) :
    KeepsO q (execCqEntryWrite n masked ok s) := by
  unfold execCqEntryWrite
  repeat' first
      | with_reducible assumption | with_reducible apply keeps_maskSeen | with_reducible apply keeps_writeEntry
      | with_reducible apply KeepsO.next | split

theorem keeps_execCqIrqDelay {q : List Instr} {n : Nat} {masked : Bool} {s : State} (h_s : Keeps q s) :
    KeepsO q (execCqIrqDelay n masked s) := by
  unfold execCqIrqDelay
  repeat' first
      | with_reducible assumption | with_reducible apply keeps_maskSeen | with_reducible apply keeps_signal
      | with_reducible apply keeps_setCq | with_reducible apply KeepsO.next | split | dsimp only

theorem keeps_execEventRecordWrite {q : List Instr} {masked : Bool} {ok : Bool} {tail : Bool} {s : State}
    (h_s : Keeps q s) :
    KeepsO q (execEventRecordWrite masked ok s tail) := by
  unfold execEventRecordWrite
  repeat' first
      | with_reducible assumption | with_reducible apply keeps_maskSeen | with_reducible apply keeps_writeLoss
      | with_reducible apply keeps_writeEvent | with_reducible apply KeepsO.next | split

theorem keeps_execEventIrqDelay {q : List Instr} {masked : Bool} {s : State} (h_s : Keeps q s) :
    KeepsO q (execEventIrqDelay masked s) := by
  unfold execEventIrqDelay
  repeat' first
      | with_reducible assumption | with_reducible apply keeps_maskSeen | with_reducible apply keeps_signal
      | with_reducible apply KeepsO.next | with_reducible apply Keeps.parts | simp only [keeps_fields] | split

theorem keeps_execHeadLineFill {q : List Instr} {k : Nat} {head : Nat} {ok : Bool} {masked : Bool} {s : State}
    (h_s : Keeps q s) :
    KeepsO q (execHeadLineFill k head ok masked s) := by
  unfold execHeadLineFill
  repeat' first
      | with_reducible assumption | with_reducible apply keeps_setWant | with_reducible apply keeps_maskSeen
      | with_reducible apply keeps_setLine | with_reducible apply keeps_hostFault | with_reducible apply keeps_rsetBit
      | with_reducible apply keeps_writeEvent | with_reducible apply keeps_writeLoss
      | with_reducible apply keeps_setCq | with_reducible apply keeps_writeEntries | with_reducible apply KeepsO.next
      | with_reducible apply Keeps.parts | simp only [keeps_fields] | with_reducible apply Keeps.foldl
      | with_reducible intro _ | split

theorem keeps_hdmLose {q : List Instr} {s : State} {range : Nat} (h_s : Keeps q s) :
    Keeps q (State.hdmLose s range) := by
  unfold State.hdmLose
  repeat' first
      | with_reducible assumption | with_reducible apply keeps_raise | with_reducible apply Keeps.parts
      | simp only [keeps_fields] | split

theorem keeps_filterLine {q : List Instr} {s : State} {line : Nat} {caches : Bool} (h_s : Keeps q s) :
    Keeps q (State.filterLine s line caches) := by
  unfold State.filterLine
  repeat' first | with_reducible assumption | with_reducible apply Keeps.parts | simp only [keeps_fields]

theorem keeps_execHdmRead {q : List Instr} {range : Nat} {off : Nat} {caches : Bool} {s : State} (h_s : Keeps q s) :
    KeepsO q (execHdmRead range off caches s) := by
  unfold execHdmRead
  repeat' first
      | with_reducible assumption | with_reducible apply keeps_emit | with_reducible apply keeps_rsetBit
      | with_reducible apply keeps_hdmLose | with_reducible apply keeps_biSend | with_reducible apply keeps_rdMem
      | with_reducible apply keeps_filterLine | with_reducible apply KeepsO.next | split | dsimp only

theorem keeps_execHdmWrite {q : List Instr} {range : Nat} {off : Nat} {data : List Byte} {be : Word} {caches : Bool}
    {s : State} (h_s : Keeps q s) :
    KeepsO q (execHdmWrite range off data be caches s) := by
  unfold execHdmWrite
  repeat' first
      | with_reducible assumption | with_reducible apply keeps_rsetBit | with_reducible apply keeps_hdmLose
      | with_reducible apply keeps_biSend | with_reducible apply keeps_filterLine | with_reducible apply keeps_mputs
      | with_reducible apply KeepsO.next | split | dsimp only

theorem keeps_execBisnpResponse {q : List Instr} {line : Nat} {inv : Bool} {data : List Byte} {keep : Bool}
    {s : State} (h_s : Keeps q s) :
    KeepsO q (execBisnpResponse line inv data keep s) := by
  unfold execBisnpResponse
  repeat' first
      | with_reducible assumption | with_reducible apply keeps_mputBytes | with_reducible apply KeepsO.next
      | with_reducible apply Keeps.parts | simp only [keeps_fields] | split

theorem keeps_resumeRings {q : List Instr} {s : State} {tail : Bool} (h_s : Keeps q s) :
    Keeps q (State.resumeRings s tail) := by
  unfold State.resumeRings
  repeat' first
      | with_reducible assumption | with_reducible apply keeps_rsetBit | with_reducible apply keeps_askLine
      | with_reducible apply keeps_startRings | with_reducible apply Keeps.foldl | with_reducible intro _ | split
      | dsimp only

theorem keeps_execHostLinkTrain {q : List Instr} {width : Nat} {rate : Nat} {tail : Bool} {s : State}
    (h_s : Keeps q s) :
    KeepsO q (execHostLinkTrain width rate s tail) := by
  unfold execHostLinkTrain
  repeat' first
      | with_reducible assumption | with_reducible apply keeps_rsetFld | with_reducible apply keeps_rsetBit
      | with_reducible apply keeps_raise | with_reducible apply keeps_resumeRings | with_reducible apply KeepsO.next
      | split | dsimp only

theorem keeps_execHostFullOperationLoss {q : List Instr} {s : State} (h_s : Keeps q s) :
    KeepsO q (execHostFullOperationLoss s) := by
  unfold execHostFullOperationLoss
  repeat' first | with_reducible assumption | with_reducible apply keeps_rsetFld | with_reducible apply KeepsO.next

theorem keeps_linkReset1 {q : List Instr} {s : State} (h_s : Keeps q s) :
    Keeps q (State.linkReset1 s) := by
  unfold State.linkReset1
  repeat' first
      | with_reducible assumption | with_reducible apply keeps_rsetFld | with_reducible apply keeps_hifReset
      | with_reducible apply Keeps.parts | simp only [keeps_fields]

theorem keeps_execPerstN {q : List Instr} {s : State} (h_s : Keeps q s) :
    KeepsO q (execPerstN s) := by
  unfold execPerstN
  repeat' first
      | with_reducible assumption | with_reducible apply keeps_linkReset1 | with_reducible apply KeepsO.next
      | with_reducible apply Keeps.parts | simp only [keeps_fields]

theorem keeps_execPerstNDeassert {q : List Instr} {s : State} (h_s : Keeps q s) :
    KeepsO q (execPerstNDeassert s) := by
  unfold execPerstNDeassert
  repeat' first
      | with_reducible assumption | with_reducible apply KeepsO.next | with_reducible apply Keeps.parts
      | simp only [keeps_fields]

theorem keeps_execHotReset {q : List Instr} {s : State} (h_s : Keeps q s) :
    KeepsO q (execHotReset s) := by
  unfold execHotReset
  repeat' first | with_reducible assumption | with_reducible apply keeps_linkReset1 | with_reducible apply KeepsO.next

theorem keeps_execLinkDisable {q : List Instr} {s : State} (h_s : Keeps q s) :
    KeepsO q (execLinkDisable s) := by
  unfold execLinkDisable
  repeat' first | with_reducible assumption | with_reducible apply keeps_linkReset1 | with_reducible apply KeepsO.next

theorem keeps_execFunctionLevelReset {q : List Instr} {s : State} (h_s : Keeps q s) :
    KeepsO q (execFunctionLevelReset s) := by
  unfold execFunctionLevelReset
  repeat' first
      | with_reducible assumption | with_reducible apply keeps_hifReset | with_reducible apply KeepsO.next
      | with_reducible apply Keeps.parts | simp only [keeps_fields]

theorem keeps_execHifReset {q : List Instr} {s : State} (h_s : Keeps q s) :
    KeepsO q (execHifReset s) := by
  unfold execHifReset
  repeat' first | with_reducible assumption | with_reducible apply keeps_hifReset | with_reducible apply KeepsO.next

theorem keeps_writeEnable {q : List Instr} {s : State} {v : Bool} {tail : Bool} (h_s : Keeps q s) :
    Keeps q (State.writeEnable s v tail) := by
  unfold State.writeEnable
  repeat' first
      | with_reducible assumption | with_reducible apply keeps_rsetBit | with_reducible apply keeps_startRings
      | with_reducible apply keeps_hifReset | split | dsimp only

theorem keeps_execHifEnable {q : List Instr} {v : Bool} {tail : Bool} {s : State} (h_s : Keeps q s) :
    KeepsO q (execHifEnable v s tail) := by
  unfold execHifEnable
  repeat' first
      | with_reducible assumption | with_reducible apply keeps_writeEnable | with_reducible apply KeepsO.next

theorem keeps_execHostInterfaceIslandFails {q : List Instr} {s : State} (h_s : Keeps q s) :
    KeepsO q (execHostInterfaceIslandFails s) := by
  unfold execHostInterfaceIslandFails
  repeat' first
      | with_reducible assumption | with_reducible apply keeps_enterTungsten | with_reducible apply keeps_flushPort
      | with_reducible apply keeps_rsetFld | with_reducible apply KeepsO.next | with_reducible apply Keeps.parts
      | simp only [keeps_fields]

theorem keeps_setLocked {q : List Instr} {s : State} {v : Bool} (h_s : Keeps q s) :
    Keeps q (State.setLocked s v) := by
  unfold State.setLocked
  repeat' first
      | with_reducible assumption | with_reducible apply keeps_rsetBit | with_reducible apply Keeps.parts
      | simp only [keeps_fields]

theorem keeps_execLock {q : List Instr} {s : State} (h_s : Keeps q s) :
    KeepsO q (execLock s) := by
  unfold execLock
  repeat' first | with_reducible assumption | with_reducible apply keeps_setLocked | with_reducible apply KeepsO.next

theorem keeps_unlock {q : List Instr} {s : State} {kind : Nat} (h_s : Keeps q s) :
    Keeps q (State.unlock s kind) := by
  unfold State.unlock
  repeat' first
      | with_reducible assumption | with_reducible apply keeps_raise | with_reducible apply keeps_setLocked
      | with_reducible apply keeps_rsetFld

theorem keeps_execRequest {q : List Instr} {s : State} (h_s : Keeps q s) :
    KeepsO q (execRequest s) := by
  unfold execRequest
  repeat' first
      | with_reducible assumption | with_reducible apply keeps_unlock | with_reducible apply keeps_rsetFld
      | with_reducible apply KeepsO.next | split

theorem keeps_execUnlockAuthTimeout {q : List Instr} {s : State} (h_s : Keeps q s) :
    KeepsO q (execUnlockAuthTimeout s) := by
  unfold execUnlockAuthTimeout
  repeat' first
      | with_reducible assumption | with_reducible apply keeps_rsetFld | with_reducible apply KeepsO.next | split

theorem keeps_takeType {q : List Instr} {s : State} {ty : Nat} (h_s : Keeps q s) :
    KeepsP2 q (State.takeType s ty) := by
  unfold State.takeType
  repeat' first | with_reducible assumption | with_reducible apply keeps_takeDeliv

theorem keeps_answer {q : List Instr} {s : State} {d : Delivered} {ty : Nat} {aux : Nat} {addr : Word} {arg0 : Word}
    {payload : List Byte} (h_s : Keeps q s) :
    Keeps q (State.answer s d ty aux addr arg0 payload) := by
  unfold State.answer
  repeat' first | with_reducible assumption | with_reducible apply keeps_inject

theorem keeps_answerErr {q : List Instr} {s : State} {d : Delivered} {cause : Nat} (h_s : Keeps q s) :
    Keeps q (State.answerErr s d cause) := by
  unfold State.answerErr
  repeat' first | with_reducible assumption | with_reducible apply keeps_answer

theorem keeps_execWr {q : List Instr} {s : State} (h_s : Keeps q s) :
    KeepsO q (execWr s) := by
  unfold execWr
  repeat' first
      | with_reducible assumption | with_reducible apply keeps_takeType | with_reducible apply keeps_answerErr
      | with_reducible apply keeps_gated | with_reducible apply keeps_answer | with_reducible apply keeps_mputBytes
      | with_reducible apply KeepsO.next | (refine KeepsP2.use (by with_reducible assumption) ?_) | split | dsimp only

theorem keeps_execRd {q : List Instr} {errs : List (Nat × Bool)} {s : State} (h_s : Keeps q s) :
    KeepsO q (execRd errs s) := by
  unfold execRd
  repeat' first
      | with_reducible assumption | with_reducible apply keeps_takeType | with_reducible apply keeps_answerErr
      | with_reducible apply keeps_gated | with_reducible apply keeps_rdMem | with_reducible apply keeps_meet
      | with_reducible apply keeps_draw | with_reducible apply keeps_answer | with_reducible apply KeepsO.next
      | (refine KeepsP2.use (by with_reducible assumption) ?_) | split | dsimp only

theorem keeps_execAtom {q : List Instr} {s : State} (h_s : Keeps q s) :
    KeepsO q (execAtom s) := by
  unfold execAtom
  repeat' first
      | with_reducible assumption | with_reducible apply keeps_takeType | with_reducible apply keeps_answerErr
      | with_reducible apply keeps_gated | with_reducible apply keeps_rdMem | with_reducible apply keeps_draw
      | with_reducible apply keeps_answer | with_reducible apply keeps_mputWord | with_reducible apply KeepsO.next
      | (refine KeepsP2.use (by with_reducible assumption) ?_) | split | dsimp only

theorem keeps_execSig {q : List Instr} {s : State} (h_s : Keeps q s) :
    KeepsO q (execSig s) := by
  unfold execSig
  repeat' first
      | with_reducible assumption | with_reducible apply keeps_takeType | with_reducible apply keeps_answerErr
      | with_reducible apply keeps_answer | with_reducible apply keeps_semAddOutside
      | with_reducible apply KeepsO.next | (refine KeepsP2.use (by with_reducible assumption) ?_) | split

theorem keeps_execFlow {q : List Instr} {s : State} (h_s : Keeps q s) :
    KeepsO q (execFlow s) := by
  unfold execFlow
  repeat' first
      | with_reducible assumption | with_reducible apply keeps_takeType | with_reducible apply keeps_gated
      | with_reducible apply keeps_mputBytes | with_reducible apply KeepsO.next
      | (refine KeepsP2.use (by with_reducible assumption) ?_) | split | dsimp only

theorem keeps_takeReply {q : List Instr} {s : State} {ty : Nat} (h_s : Keeps q s) :
    KeepsP3 q (State.takeReply s ty) := by
  unfold State.takeReply
  repeat' first
      | with_reducible assumption | with_reducible apply keeps_takeType | with_reducible apply KeepsP3.none
      | with_reducible apply KeepsP3.some | (refine KeepsP2.use (by with_reducible assumption) ?_) | split

theorem keeps_replied {q : List Instr} {s : State} {r : Req} {core : Flight → Flight} {work : Work → Work}
    (h_s : Keeps q s) :
    Keeps q (State.replied s r core work) := by
  unfold State.replied
  repeat' first
      | with_reducible assumption | with_reducible apply keeps_dropReq | with_reducible apply keeps_setFlight
      | with_reducible apply keeps_setWork | with_reducible apply keeps_setColl | split | dsimp only

theorem keeps_sourcesIn {q : List Instr} {s : State} {who : Requester} (h_s : Keeps q s) :
    Keeps q (State.sourcesIn s who) := by
  unfold State.sourcesIn
  repeat' first
      | with_reducible assumption | with_reducible apply keeps_formFlight | with_reducible apply keeps_formWork
      | split

theorem keeps_execRddata {q : List Instr} {s : State} (h_s : Keeps q s) :
    KeepsO q (execRddata s) := by
  unfold execRddata
  repeat' first
      | with_reducible assumption | with_reducible apply keeps_takeReply | with_reducible apply keeps_replied
      | with_reducible apply keeps_sourcesIn | with_reducible apply KeepsO.next
      | (refine KeepsP3.use (by with_reducible assumption) ?_) | split

theorem keeps_plainReply {q : List Instr} {s : State} {ty : Nat} {kind : ReqKind} (h_s : Keeps q s) :
    KeepsO q (plainReply s ty kind) := by
  unfold plainReply
  repeat' first
      | with_reducible assumption | with_reducible apply keeps_takeReply | with_reducible apply keeps_replied
      | with_reducible apply KeepsO.next | (refine KeepsP3.use (by with_reducible assumption) ?_) | split

theorem keeps_execWrack {q : List Instr} {s : State} (h_s : Keeps q s) :
    KeepsO q (execWrack s) := by
  unfold execWrack
  repeat' first | with_reducible assumption | with_reducible apply keeps_plainReply

theorem keeps_execSigack {q : List Instr} {s : State} (h_s : Keeps q s) :
    KeepsO q (execSigack s) := by
  unfold execSigack
  repeat' first | with_reducible assumption | with_reducible apply keeps_plainReply

theorem keeps_execMsgack {q : List Instr} {s : State} (h_s : Keeps q s) :
    KeepsO q (execMsgack s) := by
  unfold execMsgack
  repeat' first | with_reducible assumption | with_reducible apply keeps_plainReply

theorem keeps_execAtomrsp {q : List Instr} {s : State} (h_s : Keeps q s) :
    KeepsO q (execAtomrsp s) := by
  unfold execAtomrsp
  repeat' first
      | with_reducible assumption | with_reducible apply keeps_takeReply | with_reducible apply keeps_replied
      | with_reducible apply keeps_setColl | with_reducible apply KeepsO.next
      | (refine KeepsP3.use (by with_reducible assumption) ?_) | split | dsimp only

theorem keeps_failFor {q : List Instr} {s : State} {r : Req} {cause : Nat} (h_s : Keeps q s) :
    Keeps q (State.failFor s r cause) := by
  unfold State.failFor
  repeat' first
      | with_reducible assumption | with_reducible apply keeps_failFlight | with_reducible apply keeps_boundsWork
      | with_reducible apply keeps_admitColls | with_reducible apply keeps_finish | split

theorem keeps_failReq {q : List Instr} {s : State} {r : Req} {cause : Nat} (h_s : Keeps q s) :
    Keeps q (State.failReq s r cause) := by
  unfold State.failReq
  repeat' first | with_reducible assumption | with_reducible apply keeps_failFor | with_reducible apply keeps_dropReq

theorem keeps_execErr {q : List Instr} {s : State} (h_s : Keeps q s) :
    KeepsO q (execErr s) := by
  unfold execErr
  repeat' first
      | with_reducible assumption | with_reducible apply keeps_takeReply | with_reducible apply keeps_failReq
      | with_reducible apply KeepsO.next | (refine KeepsP3.use (by with_reducible assumption) ?_) | split

theorem keeps_execRequestTimeout {q : List Instr} {port : Nat} {tag : Nat} {s : State} (h_s : Keeps q s) :
    KeepsO q (execRequestTimeout port tag s) := by
  unfold execRequestTimeout
  repeat' first
      | with_reducible assumption | with_reducible apply keeps_failReq | with_reducible apply KeepsO.next | split

theorem keeps_retireGo {q : List Instr} {x1 : Nat} {x2 : State} (h_x2 : Keeps q x2) :
    Keeps q (State.retireGo x1 x2) := by
  induction x1 generalizing x2 with
  | zero => exact h_x2
  | succ n ih =>
    unfold State.retireGo
    repeat' first
        | with_reducible assumption | with_reducible apply keeps_failReq | with_reducible apply keeps_failFor
        | with_reducible apply ih | with_reducible apply Keeps.parts | simp only [keeps_fields] | split

theorem keeps_retireUnreachable {q : List Instr} {s : State} (h_s : Keeps q s) :
    Keeps q (State.retireUnreachable s) := by
  unfold State.retireUnreachable
  repeat' first | with_reducible assumption | with_reducible apply keeps_retireGo

theorem keeps_tryMsg {q : List Instr} {s : State} {d : Delivered} (h_s : Keeps q s) :
    Keeps q (State.tryMsg s d).1 := by
  unfold State.tryMsg
  repeat' first
      | with_reducible assumption | with_reducible apply keeps_poolRequest | with_reducible apply keeps_answer
      | with_reducible apply keeps_actedOn | with_reducible apply keeps_ownPut
      | (refine Keeps.snd (by with_reducible assumption) ?_) | split | dsimp only

theorem keeps_execMsg {q : List Instr} {s : State} (h_s : Keeps q s) :
    KeepsO q (execMsg s) := by
  unfold execMsg
  repeat' first
      | with_reducible assumption | with_reducible apply keeps_answerErr | with_reducible apply keeps_actedOn
      | with_reducible apply keeps_gated | with_reducible apply keeps_tryMsg | with_reducible apply KeepsO.next
      | with_reducible apply Keeps.parts | simp only [keeps_fields]
      | (refine Keeps.fst (by with_reducible assumption) ?_) | split

theorem keeps_execMsgDeliverRetry {q : List Instr} {i : Nat} {s : State} (h_s : Keeps q s) :
    KeepsO q (execMsgDeliverRetry i s) := by
  unfold execMsgDeliverRetry
  repeat' first
      | with_reducible assumption | with_reducible apply keeps_gated | with_reducible apply keeps_tryMsg
      | with_reducible apply KeepsO.next | with_reducible apply Keeps.parts | simp only [keeps_fields]
      | (refine Keeps.fst (by with_reducible assumption) ?_) | split

theorem keeps_execDeliverDrop {q : List Instr} {i : Nat} {s : State} (h_s : Keeps q s) :
    KeepsO q (execDeliverDrop i s) := by
  unfold execDeliverDrop
  repeat' first
      | with_reducible assumption | with_reducible apply keeps_actedOn | with_reducible apply keeps_answer
      | with_reducible apply keeps_countCause | with_reducible apply KeepsO.next | with_reducible apply Keeps.parts
      | simp only [keeps_fields] | split

theorem keeps_execMemErrClear {q : List Instr} {inc : Word} {s : State} (h_s : Keeps q s) :
    KeepsO q (execMemErrClear inc s) := by
  unfold execMemErrClear
  repeat' first | with_reducible assumption | with_reducible apply keeps_rput | with_reducible apply KeepsO.next

theorem keeps_execPatrolScrub {q : List Instr} {key : Nat} {found : Nat} {reader : Bool} {s : State} (h_s : Keeps q s) :
    KeepsO q (execPatrolScrub key found s reader) := by
  unfold execPatrolScrub
  repeat' first
      | with_reducible assumption | with_reducible apply keeps_meet | with_reducible apply KeepsO.next | split

theorem keeps_execFarEccPoll {q : List Instr} {p : Nat} {answers : Bool} {errs : List Nat} {s : State}
    (h_s : Keeps q s) :
    KeepsO q (execFarEccPoll p answers errs s) := by
  unfold execFarEccPoll
  repeat' first
      | with_reducible assumption | with_reducible apply keeps_meet | with_reducible apply keeps_enterTungsten
      | with_reducible apply KeepsO.next | with_reducible apply Keeps.parts | simp only [keeps_fields] | split

theorem keeps_loseStack {q : List Instr} {s : State} {st : Nat} (h_s : Keeps q s) :
    Keeps q (State.loseStack s st) := by
  unfold State.loseStack
  repeat' first | with_reducible assumption | with_reducible apply Keeps.filterKept | simp only [keeps_fields]

theorem keeps_execStackTempChange {q : List Instr} {st : Nat} {temp : Nat} {s : State} (h_s : Keeps q s) :
    KeepsO q (execStackTempChange st temp s) := by
  unfold execStackTempChange
  repeat' first
      | with_reducible assumption | with_reducible apply keeps_rsetFld | with_reducible apply keeps_addPoints
      | with_reducible apply keeps_setDirty | with_reducible apply keeps_raise | with_reducible apply keeps_loseStack
      | with_reducible apply keeps_enterTungsten | with_reducible apply KeepsO.next | with_reducible apply Keeps.parts
      | simp only [keeps_fields] | split

end Sys2Proof.Machine
end

