-- ==== Sys2Proof/Laws/KeepsTwin.lean ====
section
/-! SUPPORT. What keeps the invariant and the queue: the twin, registers and pins. -/

namespace Sys2Proof.Machine

theorem keeps_clearNum {q : List Instr} {s : State} {n : Nat} {v : Word} {sets : Nat} (h_s : Keeps q s) :
    Keeps q (State.clearNum s n v sets) := by
  unfold State.clearNum
  repeat' first
      | with_reducible assumption | with_reducible apply keeps_setCore | with_reducible apply Keeps.core (q := q)
      | with_reducible apply CoreOk.parts | simp only [coreOk_fields]

theorem keeps_regPut {q : List Instr} {s : State} {off : Nat} {base : Nat} {new : Word} (h_s : Keeps q s) :
    Keeps q (State.regPut s off base new) := by
  unfold State.regPut
  dsimp only
  repeat' first
      | with_reducible assumption | with_reducible apply keeps_writeQcfg | with_reducible apply keeps_writeFence
      | with_reducible apply keeps_rsetBit | with_reducible apply keeps_writeGmin
      | with_reducible apply keeps_writeRsv | with_reducible apply keeps_retireUnreachable
      | with_reducible apply keeps_rput | with_reducible apply keeps_configChanged
      | with_reducible apply keeps_throttle | with_reducible apply keeps_writeKctrl
      | with_reducible apply keeps_writeEnable | with_reducible apply Keeps.ite | with_reducible apply Keeps.foldl

theorem keeps_regWrite {q : List Instr} {s : State} {off : Nat} {v : Word} {half : Word} {fw : Bool} {sets : Nat}
    (h_s : Keeps q s) :
    Keeps q (State.regWrite s off v half fw sets) := by
  unfold State.regWrite
  repeat' first
      | with_reducible assumption | with_reducible apply keeps_clearNum | with_reducible apply keeps_rput
      | with_reducible apply keeps_regPut | split | dsimp only

theorem keeps_execRegWrite {q : List Instr} {off : Nat} {size : Nat} {v : Word} {sets : Nat} {s : State}
    (h_s : Keeps q s) :
    KeepsO q (execRegWrite off size v s sets) := by
  unfold execRegWrite
  repeat' first
      | with_reducible assumption | with_reducible apply keeps_regWrite | with_reducible apply KeepsO.next | split

theorem keeps_execConfigRequest {q : List Instr} {early : Bool} {s : State} (h_s : Keeps q s) :
    KeepsO q (execConfigRequest early s) := by
  unfold execConfigRequest
  repeat' first
      | with_reducible assumption | with_reducible apply keeps_emit | with_reducible apply KeepsO.next | split

theorem keeps_execSrGo {q : List Instr} {tensor : Nat} {s : State} (h_s : Keeps q s) :
    KeepsO q (execSrGo tensor s) := by
  unfold execSrGo
  repeat' first
      | with_reducible assumption | with_reducible apply keeps_rsetFld | with_reducible apply keeps_rsetBit
      | with_reducible apply KeepsO.next | with_reducible apply Keeps.parts | simp only [keeps_fields] | split

theorem keeps_execSrEvalDone {q : List Instr} {s : State} (h_s : Keeps q s) :
    KeepsO q (execSrEvalDone s) := by
  unfold execSrEvalDone
  repeat' first
      | with_reducible assumption | with_reducible apply keeps_rsetBit | with_reducible apply keeps_rput
      | with_reducible apply KeepsO.next | with_reducible apply Keeps.parts | simp only [keeps_fields] | split

theorem keeps_committed {q : List Instr} {s : State} {step : Word} (h_s : Keeps q s) :
    Keeps q (State.committed s step) := by
  unfold State.committed
  repeat' first | with_reducible assumption | with_reducible apply keeps_rput

theorem keeps_execTwnCommit {q : List Instr} {step : Word} {s : State} (h_s : Keeps q s) :
    KeepsO q (execTwnCommit step s) := by
  unfold execTwnCommit
  repeat' first
      | with_reducible assumption | with_reducible apply keeps_rcount | with_reducible apply keeps_raise
      | with_reducible apply keeps_rsetFld | with_reducible apply keeps_setMg | with_reducible apply keeps_committed
      | with_reducible apply KeepsO.next | with_reducible apply Keeps.parts | simp only [keeps_fields] | split

theorem keeps_execMirrorInject {q : List Instr} {s : State} (h_s : Keeps q s) :
    KeepsO q (execMirrorInject s) := by
  unfold execMirrorInject
  repeat' first
      | with_reducible assumption | with_reducible apply keeps_inject | with_reducible apply keeps_setMg
      | with_reducible apply keeps_gated | with_reducible apply keeps_rdMem | with_reducible apply KeepsO.next | split
      | dsimp only

theorem keeps_mirrorIn {q : List Instr} {s : State} {isSeal : Bool} (h_s : Keeps q s) :
    KeepsP2 q (State.mirrorIn s isSeal) := by
  unfold State.mirrorIn
  repeat' first | with_reducible assumption | with_reducible apply keeps_takeDeliv

theorem keeps_twinFor {q : List Instr} {s : State} {f : Frame} (h_s : Keeps q s) :
    Keeps q (State.twinFor s f).2 := by
  unfold State.twinFor
  repeat' first | with_reducible assumption | with_reducible apply keeps_rput | split | dsimp only

theorem keeps_execMirror {q : List Instr} {s : State} (h_s : Keeps q s) :
    KeepsO q (execMirror s) := by
  unfold execMirror
  repeat' first
      | with_reducible assumption | with_reducible apply keeps_mirrorIn | with_reducible apply keeps_gated
      | with_reducible apply keeps_twinFor | with_reducible apply keeps_setMg | with_reducible apply keeps_mputBytes
      | with_reducible apply KeepsO.next | (refine KeepsP2.use (by with_reducible assumption) ?_)
      | (refine Keeps.snd (by with_reducible assumption) ?_) | split

theorem keeps_execSeal {q : List Instr} {s : State} (h_s : Keeps q s) :
    KeepsO q (execSeal s) := by
  unfold execSeal
  repeat' first
      | with_reducible assumption | with_reducible apply keeps_mirrorIn | with_reducible apply keeps_twinFor
      | with_reducible apply keeps_setMg | with_reducible apply KeepsO.next
      | (refine KeepsP2.use (by with_reducible assumption) ?_) | split

theorem keeps_execSealVerify {q : List Instr} {s : State} (h_s : Keeps q s) :
    KeepsO q (execSealVerify s) := by
  unfold execSealVerify
  repeat' first
      | with_reducible assumption | with_reducible apply keeps_rput | with_reducible apply keeps_setMg
      | with_reducible apply keeps_askClass0 | with_reducible apply KeepsO.next | split

theorem keeps_execMirrorack {q : List Instr} {s : State} (h_s : Keeps q s) :
    KeepsO q (execMirrorack s) := by
  unfold execMirrorack
  repeat' first
      | with_reducible assumption | with_reducible apply keeps_takeDeliv | with_reducible apply keeps_committed
      | with_reducible apply keeps_mirrorFail | with_reducible apply KeepsO.next
      | (refine KeepsP2.use (by with_reducible assumption) ?_) | split | dsimp only

theorem keeps_execMirrorAckTimeout {q : List Instr} {s : State} (h_s : Keeps q s) :
    KeepsO q (execMirrorAckTimeout s) := by
  unfold execMirrorAckTimeout
  repeat' first
      | with_reducible assumption | with_reducible apply keeps_mirrorFail | with_reducible apply KeepsO.next | split

theorem keeps_execTwnRestart {q : List Instr} {c : Word} {errs : List Nat} {s : State} (h_s : Keeps q s) :
    KeepsO q (execTwnRestart c errs s) := by
  unfold execTwnRestart
  repeat' first
      | with_reducible assumption | with_reducible apply keeps_rput | with_reducible apply keeps_boundary
      | with_reducible apply keeps_setMg | with_reducible apply keeps_rsetBit | with_reducible apply KeepsO.next
      | split | dsimp only

theorem keeps_execBoundary {q : List Instr} {errs : List Nat} {s : State} (h_s : Keeps q s) :
    KeepsO q (execBoundary errs s) := by
  unfold execBoundary
  repeat' first
      | with_reducible assumption | with_reducible apply keeps_boundary | with_reducible apply keeps_rsetBit
      | with_reducible apply KeepsO.next | split

theorem keeps_execTwnSwap {q : List Instr} {l : Nat} {request : Bool} {s : State} (h_s : Keeps q s) :
    KeepsO q (execTwnSwap l request s) := by
  unfold execTwnSwap
  repeat' first
      | with_reducible assumption | with_reducible apply keeps_rsetBit | with_reducible apply keeps_addRepair
      | with_reducible apply KeepsO.next | split

theorem keeps_execHealthDecay {q : List Instr} {s : State} (h_s : Keeps q s) :
    KeepsO q (execHealthDecay s) := by
  unfold execHealthDecay
  repeat' first
      | with_reducible assumption | with_reducible apply keeps_rsetFld | with_reducible apply KeepsO.next
      | with_reducible apply Keeps.foldl | with_reducible intro _ | split

theorem keeps_captureRecord {q : List Instr} {s : State} {c : Capture} (h_s : Keeps q s) :
    Keeps q (State.captureRecord s c).2 := by
  unfold State.captureRecord
  repeat' first | with_reducible assumption | with_reducible apply keeps_draw

theorem keeps_verdict {q : List Instr} {s : State} {k : Nat} {c : Capture} {v : Nat} (h_s : Keeps q s) :
    Keeps q (State.verdict s k c v) := by
  unfold State.verdict
  repeat' first
      | with_reducible assumption | with_reducible apply keeps_rcount | with_reducible apply keeps_setCapture
      | with_reducible apply keeps_captureRecord | with_reducible apply keeps_mputBytes
      | with_reducible apply keeps_raise | with_reducible apply keeps_addPoints | with_reducible apply keeps_setDirty
      | split

theorem keeps_clearPewter {q : List Instr} {s : State} {n : Nat} (h_s : Keeps q s) :
    Keeps q (State.clearPewter s n) := by
  unfold State.clearPewter
  repeat' first | with_reducible assumption | with_reducible apply Keeps.filterMem1 | simp only [keeps_fields]

theorem keeps_execXchkSpareDone {q : List Instr} {k : Nat} {bytes : List Byte} {s : State} (h_s : Keeps q s) :
    KeepsO q (execXchkSpareDone k bytes s) := by
  unfold execXchkSpareDone
  repeat' first
      | with_reducible assumption | with_reducible apply keeps_setCapture | with_reducible apply keeps_verdict
      | with_reducible apply keeps_mputs | with_reducible apply keeps_clearPewter | with_reducible apply KeepsO.next
      | split | dsimp only

theorem keeps_execFree {q : List Instr} {slot : Nat} {s : State} (h_s : Keeps q s) :
    KeepsO q (execFree slot s) := by
  unfold execFree
  repeat' first
      | with_reducible assumption | with_reducible apply keeps_rsetFld | with_reducible apply keeps_setCapture
      | with_reducible apply KeepsO.next | split | dsimp only

theorem keeps_setClock {q : List Instr} {s : State} {half : Nat} {n : Nat} (h_s : Keeps q s) :
    Keeps q (State.setClock s half n) := by
  unfold State.setClock
  repeat' first | with_reducible assumption | with_reducible apply keeps_rsetFld | split

theorem keeps_execGo {q : List Instr} {slot : Nat} {count : Nat} {s : State} (h_s : Keeps q s) :
    KeepsO q (execGo slot count s) := by
  unfold execGo
  repeat' first
      | with_reducible assumption | with_reducible apply keeps_rsetFld | with_reducible apply keeps_setMg
      | with_reducible apply keeps_rsetBit | with_reducible apply keeps_setClock | with_reducible apply KeepsO.next
      | split | dsimp only

theorem keeps_replayDone {q : List Instr} {s : State} {mism : Nat} {temp : Nat} {vdd : Nat} (h_s : Keeps q s) :
    Keeps q (State.replayDone s mism temp vdd) := by
  unfold State.replayDone
  repeat' first
      | with_reducible assumption | with_reducible apply keeps_rsetFld | with_reducible apply keeps_setClock
      | with_reducible apply keeps_raise

theorem keeps_execReplayHeatDone {q : List Instr} {s : State} (h_s : Keeps q s) :
    KeepsO q (execReplayHeatDone s) := by
  unfold execReplayHeatDone
  repeat' first
      | with_reducible assumption | with_reducible apply keeps_rsetFld | with_reducible apply KeepsO.next | split

theorem keeps_execReplayHeatTimeout {q : List Instr} {temp : Nat} {vdd : Nat} {s : State} (h_s : Keeps q s) :
    KeepsO q (execReplayHeatTimeout temp vdd s) := by
  unfold execReplayHeatTimeout
  repeat' first
      | with_reducible assumption | with_reducible apply keeps_replayDone | with_reducible apply keeps_rsetBit
      | with_reducible apply KeepsO.next | split

theorem keeps_execReplayRunDone {q : List Instr} {mism : Nat} {temp : Nat} {vdd : Nat} {s : State} (h_s : Keeps q s) :
    KeepsO q (execReplayRunDone mism temp vdd s) := by
  unfold execReplayRunDone
  repeat' first
      | with_reducible assumption | with_reducible apply keeps_replayDone | with_reducible apply KeepsO.next | split

theorem keeps_execFatalClear {q : List Instr} {s : State} (h_s : Keeps q s) :
    KeepsO q (execFatalClear s) := by
  unfold execFatalClear
  repeat' first | with_reducible assumption | with_reducible apply keeps_rput | with_reducible apply KeepsO.next

theorem keeps_execEventHandle {q : List Instr} {s : State} (h_s : Keeps q s) :
    KeepsO q (execEventHandle s) := by
  unfold execEventHandle
  repeat' first
      | with_reducible assumption | with_reducible apply KeepsO.next | with_reducible apply Keeps.parts
      | simp only [keeps_fields] | split

theorem keeps_logPut {q : List Instr} {s : State} {l : Latched} (h_s : Keeps q s) :
    Keeps q (State.logPut s l) := by
  unfold State.logPut
  repeat' first | with_reducible assumption | with_reducible apply keeps_setMg

theorem keeps_logOne {q : List Instr} {s : State} {l : Latched} (h_s : Keeps q s) :
    Keeps q (State.logOne s l) := by
  unfold State.logOne
  repeat' first
      | with_reducible assumption | with_reducible apply keeps_setMg | with_reducible apply keeps_raise
      | with_reducible apply keeps_logPut | split | dsimp only

theorem keeps_logAll {q : List Instr} {x1 : Nat} {x2 : State} (h_x2 : Keeps q x2) :
    Keeps q (State.logAll x1 x2) := by
  induction x1 generalizing x2 with
  | zero => exact h_x2
  | succ n ih =>
    unfold State.logAll
    repeat' first | with_reducible assumption | with_reducible apply keeps_logOne | with_reducible apply ih | split

theorem keeps_execLogWrite {q : List Instr} {s : State} (h_s : Keeps q s) :
    KeepsO q (execLogWrite s) := by
  unfold execLogWrite
  repeat' first
      | with_reducible assumption | with_reducible apply keeps_setMg | with_reducible apply keeps_logAll
      | with_reducible apply KeepsO.next | with_reducible apply Keeps.parts | simp only [keeps_fields] | split

theorem keeps_execWatchdogStrobe {q : List Instr} {s : State} (h_s : Keeps q s) :
    KeepsO q (execWatchdogStrobe s) := by
  unfold execWatchdogStrobe
  repeat' first | with_reducible assumption | with_reducible apply keeps_setMg | with_reducible apply KeepsO.next

theorem keeps_execWatchdogExpire {q : List Instr} {s : State} (h_s : Keeps q s) :
    KeepsO q (execWatchdogExpire s) := by
  unfold execWatchdogExpire
  repeat' first
      | with_reducible assumption | with_reducible apply keeps_quadsOff | with_reducible apply KeepsO.next | split

theorem keeps_setPins {q : List Instr} {s : State} {f : Pins → Pins} (h_s : Keeps q s) :
    Keeps q (State.setPins s f) := by
  unfold State.setPins
  repeat' first | with_reducible assumption | with_reducible apply keeps_setMg

theorem keeps_setThr {q : List Instr} {s : State} {f : Throttle → Throttle} (h_s : Keeps q s) :
    Keeps q (State.setThr s f) := by
  unfold State.setThr
  repeat' first | with_reducible assumption | with_reducible apply keeps_setMg

theorem keeps_opticsCheck {q : List Instr} {s : State} {c : Nat} {lane : Nat} {q1 : Nat} {thr : List Nat}
    {old : Option Nat} {v : Nat} (h_s : Keeps q s) :
    Keeps q (State.opticsCheck s c lane q1 thr old v) := by
  unfold State.opticsCheck
  repeat' first
      | with_reducible assumption | with_reducible apply keeps_rsetBit | with_reducible apply keeps_raise
      | with_reducible apply keeps_lanePoints | split | dsimp only

theorem keeps_opticsLane {q : List Instr} {s : State} {c : Nat} {n : Nat} {thr : List Nat} {w : Word}
    (h_s : Keeps q s) :
    Keeps q (State.opticsLane s c n thr w) := by
  unfold State.opticsLane
  repeat' first
      | with_reducible assumption | with_reducible apply keeps_rput | with_reducible apply keeps_opticsCheck
      | with_reducible apply keeps_lanePoints | split | dsimp only

theorem keeps_execOpticsPoll {q : List Instr} {c : Nat} {cmis : Bool} {modw : Word} {lanes : List Word}
    {thr : List Nat} {s : State} (h_s : Keeps q s) :
    KeepsO q (execOpticsPoll c cmis modw lanes thr s) := by
  unfold execOpticsPoll
  repeat' first
      | with_reducible assumption | with_reducible apply keeps_rsetBit | with_reducible apply keeps_setMg
      | with_reducible apply keeps_emit | with_reducible apply keeps_setPins | with_reducible apply keeps_rsetFld
      | with_reducible apply keeps_opticsCheck | with_reducible apply keeps_opticsLane
      | with_reducible apply KeepsO.next | with_reducible apply Keeps.foldl | with_reducible intro _ | split
      | dsimp only

theorem keeps_vccUpdate {q : List Instr} {s : State} (h_s : Keeps q s) :
    Keeps q (State.vccUpdate s) := by
  unfold State.vccUpdate
  repeat' first
      | with_reducible assumption | with_reducible apply keeps_setPins | with_reducible apply keeps_emit
      | with_reducible apply Keeps.foldl | with_reducible intro _ | split | dsimp only

theorem keeps_execOptPresentChange {q : List Instr} {c : Nat} {low : Bool} {s : State} (h_s : Keeps q s) :
    KeepsO q (execOptPresentChange c low s) := by
  unfold execOptPresentChange
  repeat' first
      | with_reducible assumption | with_reducible apply keeps_setPins | with_reducible apply keeps_rsetBit
      | with_reducible apply keeps_setMg | with_reducible apply keeps_vccUpdate | with_reducible apply KeepsO.next
      | split

theorem keeps_execAux12vChange {q : List Instr} {mv : Nat} {s : State} (h_s : Keeps q s) :
    KeepsO q (execAux12vChange mv s) := by
  unfold execAux12vChange
  repeat' first
      | with_reducible assumption | with_reducible apply keeps_vccUpdate | with_reducible apply keeps_setPins
      | with_reducible apply KeepsO.next

theorem keeps_execVccOptOvercurrent {q : List Instr} {c : Nat} {s : State} (h_s : Keeps q s) :
    KeepsO q (execVccOptOvercurrent c s) := by
  unfold execVccOptOvercurrent
  repeat' first
      | with_reducible assumption | with_reducible apply keeps_rsetBit | with_reducible apply keeps_vccUpdate
      | with_reducible apply keeps_setPins | with_reducible apply KeepsO.next | split

theorem keeps_execVccOptRetry {q : List Instr} {c : Nat} {ok : Bool} {s : State} (h_s : Keeps q s) :
    KeepsO q (execVccOptRetry c ok s) := by
  unfold execVccOptRetry
  repeat' first
      | with_reducible assumption | with_reducible apply keeps_rsetBit | with_reducible apply keeps_vccUpdate
      | with_reducible apply keeps_setPins | with_reducible apply KeepsO.next | split

theorem keeps_execPinsUpdate {q : List Instr} {twin : Bool} {fab : Bool} {host : Bool} {s : State} (h_s : Keeps q s) :
    KeepsO q (execPinsUpdate twin fab host s) := by
  unfold execPinsUpdate
  repeat' first
      | with_reducible assumption | with_reducible apply keeps_setPins | with_reducible apply keeps_rput
      | with_reducible apply keeps_quadsOff | with_reducible apply KeepsO.next | split

theorem keeps_execAlertResponse {q : List Instr} {s : State} (h_s : Keeps q s) :
    KeepsO q (execAlertResponse s) := by
  unfold execAlertResponse
  repeat' first | with_reducible assumption | with_reducible apply keeps_setMg | with_reducible apply KeepsO.next

theorem keeps_throttleHalf {q : List Instr} {s : State} {h : Nat} (h_s : Keeps q s) :
    Keeps q (State.throttleHalf s h) := by
  unfold State.throttleHalf
  repeat' first
      | with_reducible assumption | with_reducible apply keeps_setClock | with_reducible apply keeps_setThr
      | with_reducible apply keeps_rsetFld | with_reducible apply keeps_raise | split | dsimp only

theorem keeps_trip {q : List Instr} {s : State} {h : Nat} {tsw : Nat} (h_s : Keeps q s) :
    Keeps q (State.trip s h tsw) := by
  unfold State.trip
  repeat' first
      | with_reducible assumption | with_reducible apply keeps_raiseFatal | with_reducible apply keeps_quadsOff
      | with_reducible apply Keeps.parts | simp only [keeps_fields] | split

theorem keeps_execSensorSample {q : List Instr} {inw : Word} {h0 : Word} {h1 : Word} {slices : Nat} {rom : Bool}
    {s : State} (h_s : Keeps q s) :
    KeepsO q (execSensorSample inw h0 h1 s slices rom) := by
  unfold execSensorSample
  repeat' first
      | with_reducible assumption | with_reducible apply keeps_rput | with_reducible apply keeps_throttleHalf
      | with_reducible apply keeps_setThr | with_reducible apply keeps_trip | with_reducible apply keeps_raise
      | with_reducible apply keeps_quadsOff | with_reducible apply KeepsO.next | split

theorem keeps_setJtag {q : List Instr} {s : State} {f : Jtag → Jtag} (h_s : Keeps q s) :
    Keeps q (State.setJtag s f) := by
  unfold State.setJtag
  repeat' first | with_reducible assumption | with_reducible apply keeps_setMg

theorem keeps_execTrstN {q : List Instr} {s : State} (h_s : Keeps q s) :
    KeepsO q (execTrstN s) := by
  unfold execTrstN
  repeat' first | with_reducible assumption | with_reducible apply keeps_setJtag | with_reducible apply KeepsO.next

theorem keeps_execIdcode {q : List Instr} {s : State} (h_s : Keeps q s) :
    KeepsO q (execIdcode s) := by
  unfold execIdcode
  repeat' first
      | with_reducible assumption | with_reducible apply keeps_emit | with_reducible apply keeps_setJtag
      | with_reducible apply KeepsO.next

theorem keeps_bypassShift {q : List Instr} {s : State} {tdi : List Bool} (h_s : Keeps q s) :
    Keeps q (State.bypassShift s tdi) := by
  unfold State.bypassShift
  repeat' first | with_reducible assumption | with_reducible apply keeps_emit | with_reducible apply keeps_setJtag

theorem keeps_execBypass {q : List Instr} {tdi : List Bool} {s : State} (h_s : Keeps q s) :
    KeepsO q (execBypass tdi s) := by
  unfold execBypass
  repeat' first
      | with_reducible assumption | with_reducible apply keeps_bypassShift | with_reducible apply KeepsO.next

theorem keeps_execSample {q : List Instr} {image : List Bool} {s : State} (h_s : Keeps q s) :
    KeepsO q (execSample image s) := by
  unfold execSample
  repeat' first
      | with_reducible assumption | with_reducible apply keeps_emit | with_reducible apply keeps_setJtag
      | with_reducible apply KeepsO.next

theorem keeps_execPreload {q : List Instr} {image : List Bool} {s : State} (h_s : Keeps q s) :
    KeepsO q (execPreload image s) := by
  unfold execPreload
  repeat' first | with_reducible assumption | with_reducible apply keeps_setJtag | with_reducible apply KeepsO.next

theorem keeps_execExtest {q : List Instr} {tdi : List Bool} {s : State} (h_s : Keeps q s) :
    KeepsO q (execExtest tdi s) := by
  unfold execExtest
  repeat' first
      | with_reducible assumption | with_reducible apply keeps_emit | with_reducible apply keeps_setJtag
      | with_reducible apply keeps_bypassShift | with_reducible apply KeepsO.next | split

end Sys2Proof.Machine
end

