-- ==== Sys2Proof/Laws/KeepsMgmt.lean ====
section
/-! SUPPORT. What keeps the invariant and the queue: start-up and management. -/

namespace Sys2Proof.Machine

theorem keeps_chooseSlot {q : List Instr} {s : State} (h_s : Keeps q s) :
    Keeps q (State.chooseSlot s).2.2 := by
  unfold State.chooseSlot
  repeat' first | with_reducible assumption | with_reducible apply keeps_setMg | split | dsimp only

theorem keeps_replayRec {q : List Instr} {s : State} {r : RepairRec} (h_s : Keeps q s) :
    Keeps q (State.replayRec s r) := by
  unfold State.replayRec
  repeat' first
      | with_reducible assumption | with_reducible apply keeps_setTxLane | with_reducible apply keeps_rsetBit
      | with_reducible apply keeps_rsetFld | with_reducible apply keeps_useSpare | with_reducible apply keeps_moveCore
      | split

theorem keeps_replayRecs {q : List Instr} {s : State} {bad : List Nat} {x1 : Nat} {x2 : List RepairRec}
    (h_s : Keeps q s) :
    Keeps q (State.replayRecs s bad x1 x2) := by
  induction x2 generalizing s x1 with
  | nil => exact h_s
  | cons a t ih =>
    unfold State.replayRecs
    repeat' first
        | with_reducible assumption | with_reducible apply keeps_raise | with_reducible apply keeps_setMg
        | with_reducible apply keeps_replayRec | with_reducible apply ih | split

theorem keeps_fuseCores {q : List Instr} {s : State} (h_s : Keeps q s) :
    Keeps q (State.fuseCores s) := by
  unfold State.fuseCores
  repeat' first
      | with_reducible assumption | with_reducible apply keeps_rsetBit | with_reducible apply keeps_rput
      | with_reducible apply keeps_rsetFld | with_reducible apply Keeps.foldl | with_reducible intro _ | split
      | dsimp only

theorem keeps_startUnits {q : List Instr} {s : State} (h_s : Keeps q s) :
    Keeps q (State.startUnits s) := by
  unfold State.startUnits
  repeat' first
      | with_reducible assumption | with_reducible apply keeps_rsetFld | with_reducible apply Keeps.foldl
      | with_reducible intro _ | split

theorem keeps_failCore {q : List Instr} {s : State} {n : Nat} (h_s : Keeps q s) :
    Keeps q (State.failCore s n) := by
  unfold State.failCore
  repeat' first
      | with_reducible assumption | with_reducible apply keeps_repairOne | with_reducible apply keeps_rput | split
      | dsimp only

theorem keeps_bist {q : List Instr} {s : State} {fails : List Nat} (h_s : Keeps q s) :
    Keeps q (State.bist s fails) := by
  unfold State.bist
  repeat' first
      | with_reducible assumption | with_reducible apply keeps_rsetFld | with_reducible apply keeps_raise
      | with_reducible apply keeps_loseSpare | with_reducible apply keeps_failCore | with_reducible apply Keeps.foldl
      | with_reducible intro _ | split | dsimp only

theorem keeps_applyProfile {q : List Instr} {s : State} (h_s : Keeps q s) :
    Keeps q (State.applyProfile s) := by
  unfold State.applyProfile
  repeat' first
      | with_reducible assumption | with_reducible apply keeps_regWrite | with_reducible apply keeps_writeQcfg
      | with_reducible apply Keeps.foldl | with_reducible intro _ | split

theorem keeps_bootState {q : List Instr} {s : State} {old : Nat} (h_s : Keeps q s) :
    Keeps q (State.bootState s old) := by
  unfold State.bootState
  repeat' first | with_reducible assumption | with_reducible apply keeps_raise | split

theorem keeps_boot {q : List Instr} {s : State} {old : Nat} {fails : List Nat} {bad : List Nat} (h_s : Keeps q s) :
    Keeps q (State.boot s old fails bad) := by
  unfold State.boot
  repeat' first
      | with_reducible assumption | with_reducible apply keeps_chooseSlot | with_reducible apply keeps_raise
      | with_reducible apply keeps_setMg | with_reducible apply keeps_bootState | with_reducible apply keeps_bist
      | with_reducible apply keeps_replayRecs | with_reducible apply keeps_startUnits
      | with_reducible apply keeps_fuseCores | with_reducible apply keeps_applyProfile
      | with_reducible apply Keeps.parts | simp only [keeps_fields] | split

theorem keeps_cleared {q : List Instr} {s : State} {warm : Bool} (h_s : Keeps q s) :
    Keeps q (State.cleared s warm) := by
  unfold State.cleared
  dsimp only
  apply keeps_rsetBit
  simp only [keeps_fields]
  exact ⟨rfl, tabWf_filter _ h_s.1.regs, rfl, fun n => coreOk_reset, rfl, rfl, rfl, h_s.2⟩

theorem keeps_moduleReset {q : List Instr} {s : State} {old : Nat} {fails : List Nat} {bad : List Nat}
    (h_s : Keeps q s) :
    Keeps q (State.moduleReset s old fails bad) := by
  unfold State.moduleReset
  repeat' first | with_reducible assumption | with_reducible apply keeps_boot | with_reducible apply keeps_cleared

theorem keeps_execModResetNAssert {q : List Instr} {s : State} (h_s : Keeps q s) :
    KeepsO q (execModResetNAssert s) := by
  unfold execModResetNAssert
  repeat' first
      | with_reducible assumption | with_reducible apply keeps_setMg | with_reducible apply keeps_setPins
      | with_reducible apply keeps_cleared | with_reducible apply KeepsO.next | split

theorem keeps_execModResetNDeassert {q : List Instr} {fails : List Nat} {bad : List Nat} {s : State} (h_s : Keeps q s) :
    KeepsO q (execModResetNDeassert fails bad s) := by
  unfold execModResetNDeassert
  repeat' first
      | with_reducible assumption | with_reducible apply keeps_setPins | with_reducible apply keeps_moduleReset
      | with_reducible apply KeepsO.next | split

theorem keeps_bootDone {q : List Instr} {s : State} (h_s : Keeps q s) :
    Keeps q (State.bootDone s) := by
  unfold State.bootDone
  repeat' first
      | with_reducible assumption | with_reducible apply keeps_setMg | with_reducible apply keeps_raise
      | with_reducible apply keeps_enterIsolated | with_reducible apply keeps_changeMode
      | with_reducible apply keeps_enterTungsten | with_reducible apply keeps_quadsOff | split | dsimp only

theorem keeps_execBootComplete {q : List Instr} {s : State} (h_s : Keeps q s) :
    KeepsO q (execBootComplete s) := by
  unfold execBootComplete
  repeat' first
      | with_reducible assumption | with_reducible apply keeps_boot | with_reducible apply keeps_bootDone
      | with_reducible apply KeepsO.next | split

theorem keeps_execVinRise {q : List Instr} {vin : Nat} {s : State} (h_s : Keeps q s) :
    KeepsO q (execVinRise vin s) := by
  unfold execVinRise
  repeat' first
      | with_reducible assumption | with_reducible apply keeps_setPins | with_reducible apply KeepsO.next | split

theorem keeps_execPowerGood {q : List Instr} {fails : List Nat} {bad : List Nat} {s : State} (h_s : Keeps q s) :
    KeepsO q (execPowerGood fails bad s) := by
  unfold execPowerGood
  repeat' first
      | with_reducible assumption | with_reducible apply keeps_setPins | with_reducible apply keeps_moduleReset
      | with_reducible apply KeepsO.next | split

theorem keeps_execPowerOff {q : List Instr} {vin : Nat} {s : State} (h_s : Keeps q s) :
    KeepsO q (execPowerOff vin s) := by
  unfold execPowerOff
  repeat' first
      | with_reducible assumption | with_reducible apply keeps_logPut | with_reducible apply keeps_setPins
      | with_reducible apply keeps_cleared | with_reducible apply KeepsO.next | split

theorem keeps_sessionFail {q : List Instr} {s : State} {iface : Nat} {code : Nat} (h_s : Keeps q s) :
    Keeps q (State.sessionFail s iface code) := by
  unfold State.sessionFail
  repeat' first | with_reducible assumption | with_reducible apply keeps_raise

theorem keeps_mgTake {q : List Instr} {s : State} {op : Nat} {via : Nat} {sess : Option Nat} {msg : List Word}
    (h_s : Keeps q s) :
    KeepsP2 q (State.mgTake s op via sess msg) := by
  unfold State.mgTake
  refine KeepsP2.ite .none (KeepsP2.ite (KeepsP2.ite (KeepsP2.map (keeps_takeDeliv h_s)) .none)
    (KeepsP2.ite ?_ (KeepsP2.ite (.some h_s) .none)))
  cases s.nextMsg with
  | none => exact .none
  | some w =>
    refine KeepsP2.ite ?_ .none
    cases w.deliv with
    | none => exact .some h_s
    | some d => exact KeepsP2.map (keeps_takeDeliv h_s)

theorem keeps_secure {q : List Instr} {s : State} {bs : List Byte} (h_s : Keeps q s) :
    Keeps q (State.secure s bs).2 := by
  unfold State.secure
  repeat' first | with_reducible assumption | with_reducible apply Keeps.parts | simp only [keeps_fields]

theorem keeps_mgmtFrame {q : List Instr} {s : State} {d : Delivered} {bytes : List Byte} (h_s : Keeps q s) :
    Keeps q (State.mgmtFrame s d bytes) := by
  unfold State.mgmtFrame
  repeat' first | with_reducible assumption | with_reducible apply keeps_inject

theorem keeps_mgFrame {q : List Instr} {s : State} {d : Delivered} {sess : Option Nat} {bytes : List Byte}
    (h_s : Keeps q s) :
    Keeps q (State.mgFrame s d sess bytes).2 := by
  unfold State.mgFrame
  repeat' first | with_reducible assumption | with_reducible apply keeps_secure | split

theorem keeps_mgAnswer {q : List Instr} {s : State} {r : MgReq} {status : Nat} {body : List Byte} (h_s : Keeps q s) :
    Keeps q (State.mgAnswer s r status body) := by
  unfold State.mgAnswer
  repeat' first
      | with_reducible assumption | with_reducible apply keeps_rput | with_reducible apply keeps_setMg
      | with_reducible apply keeps_rsetBit | with_reducible apply keeps_mgFrame | with_reducible apply keeps_inject
      | with_reducible apply keeps_emit | with_reducible apply Keeps.foldl | with_reducible intro _ | split

theorem keeps_mgRefuse {q : List Instr} {s : State} {r : MgReq} (h_s : Keeps q s) :
    Keeps q (State.mgRefuse s r) := by
  unfold State.mgRefuse
  repeat' first | with_reducible assumption | with_reducible apply keeps_mgAnswer | with_reducible apply keeps_raise

theorem keeps_mgHandle {q : List Instr} {s : State} {op : Nat} {via : Nat} {sess : Option Nat} {msg : List Word}
    {fits : List Byte → Bool} {act : State → MgReq → List Byte → State} (h_s : Keeps q s)
    (h_act : ∀ y0 y1 y2, Keeps q y0 → Keeps q (act y0 y1 y2)) :
    KeepsO q (mgHandle s op via sess msg fits act) := by
  unfold mgHandle
  repeat' first
      | with_reducible assumption | with_reducible apply keeps_mgTake | with_reducible apply keeps_sessionFail
      | with_reducible apply keeps_mgAnswer | with_reducible apply keeps_mgRefuse | with_reducible apply h_act
      | with_reducible apply KeepsO.next | (refine KeepsP2.use (by with_reducible assumption) ?_) | split | dsimp only

theorem keeps_fcEffect {q : List Instr} {s : State} {b : List Byte} (h_s : Keeps q s) :
    Keeps q (State.fcEffect s b) := by
  unfold State.fcEffect
  repeat' first
      | with_reducible assumption | with_reducible apply keeps_writeFence
      | with_reducible apply keeps_retireUnreachable | with_reducible apply keeps_rsetFld
      | with_reducible apply keeps_rsetBit | with_reducible apply keeps_enterTungsten
      | with_reducible apply Keeps.foldl | with_reducible intro _ | split | dsimp only

theorem keeps_fcSend {q : List Instr} {s : State} {b : List Byte} {result : Nat} (h_s : Keeps q s) :
    Keeps q (State.fcSend s b result).2 := by
  unfold State.fcSend
  repeat' first | with_reducible assumption | with_reducible apply keeps_askClass0 | split

theorem keeps_fenceCommand {q : List Instr} {s : State} {b : List Byte} (h_s : Keeps q s) :
    Keeps q (State.fenceCommand s b).2 := by
  unfold State.fenceCommand
  repeat' first
      | with_reducible assumption | with_reducible apply keeps_raise | with_reducible apply keeps_rcount
      | with_reducible apply keeps_rsetFld | with_reducible apply keeps_fcEffect | with_reducible apply keeps_fcSend
      | split

theorem keeps_fenceRow {q : List Instr} {fop : Nat} {via : Nat} {sess : Option Nat} {msg : List Word} {s : State}
    (h_s : Keeps q s) :
    KeepsO q (fenceRow fop via sess msg s) := by
  unfold fenceRow
  repeat' first
      | with_reducible assumption | with_reducible apply keeps_mgHandle | with_reducible apply keeps_fenceCommand
      | with_reducible apply keeps_mgAnswer | with_reducible apply KeepsO.next | with_reducible intro _ | split
      | dsimp only

theorem keeps_execFencePorts {q : List Instr} {via : Nat} {sess : Option Nat} {msg : List Word} {s : State}
    (h_s : Keeps q s) :
    KeepsO q (execFencePorts via sess msg s) := by
  unfold execFencePorts
  repeat' first | with_reducible assumption | with_reducible apply keeps_fenceRow

theorem keeps_execUnfencePorts {q : List Instr} {via : Nat} {sess : Option Nat} {msg : List Word} {s : State}
    (h_s : Keeps q s) :
    KeepsO q (execUnfencePorts via sess msg s) := by
  unfold execUnfencePorts
  repeat' first | with_reducible assumption | with_reducible apply keeps_fenceRow

theorem keeps_execMarkFenced {q : List Instr} {via : Nat} {sess : Option Nat} {msg : List Word} {s : State}
    (h_s : Keeps q s) :
    KeepsO q (execMarkFenced via sess msg s) := by
  unfold execMarkFenced
  repeat' first | with_reducible assumption | with_reducible apply keeps_fenceRow

theorem keeps_execMarkValid {q : List Instr} {via : Nat} {sess : Option Nat} {msg : List Word} {s : State}
    (h_s : Keeps q s) :
    KeepsO q (execMarkValid via sess msg s) := by
  unfold execMarkValid
  repeat' first | with_reducible assumption | with_reducible apply keeps_fenceRow

theorem keeps_execSoloOn {q : List Instr} {via : Nat} {sess : Option Nat} {msg : List Word} {s : State}
    (h_s : Keeps q s) :
    KeepsO q (execSoloOn via sess msg s) := by
  unfold execSoloOn
  repeat' first | with_reducible assumption | with_reducible apply keeps_fenceRow

theorem keeps_execSoloOff {q : List Instr} {via : Nat} {sess : Option Nat} {msg : List Word} {s : State}
    (h_s : Keeps q s) :
    KeepsO q (execSoloOff via sess msg s) := by
  unfold execSoloOff
  repeat' first | with_reducible assumption | with_reducible apply keeps_fenceRow

theorem keeps_execEnterTungsten {q : List Instr} {via : Nat} {sess : Option Nat} {msg : List Word} {s : State}
    (h_s : Keeps q s) :
    KeepsO q (execEnterTungsten via sess msg s) := by
  unfold execEnterTungsten
  repeat' first | with_reducible assumption | with_reducible apply keeps_fenceRow

theorem keeps_execMailboxGo {q : List Instr} {s : State} (h_s : Keeps q s) :
    KeepsO q (execMailboxGo s) := by
  unfold execMailboxGo
  repeat' first
      | with_reducible assumption | with_reducible apply keeps_setMg | with_reducible apply keeps_rsetBit
      | with_reducible apply KeepsO.next | split

theorem keeps_execReadReg {q : List Instr} {via : Nat} {sess : Option Nat} {msg : List Word} {s : State}
    (h_s : Keeps q s) :
    KeepsO q (execReadReg via sess msg s) := by
  unfold execReadReg
  repeat' first
      | with_reducible assumption | with_reducible apply keeps_mgHandle | with_reducible apply keeps_mgAnswer
      | with_reducible intro _

theorem keeps_execWriteReg {q : List Instr} {via : Nat} {sess : Option Nat} {msg : List Word} {s : State}
    (h_s : Keeps q s) :
    KeepsO q (execWriteReg via sess msg s) := by
  unfold execWriteReg
  repeat' first
      | with_reducible assumption | with_reducible apply keeps_mgHandle | with_reducible apply keeps_mgAnswer
      | with_reducible apply keeps_regWrite | with_reducible apply keeps_mgRefuse | with_reducible intro _ | split
      | dsimp only

theorem keeps_execProfileWrite {q : List Instr} {via : Nat} {sess : Option Nat} {msg : List Word} {s : State}
    (h_s : Keeps q s) :
    KeepsO q (execProfileWrite via sess msg s) := by
  unfold execProfileWrite
  repeat' first
      | with_reducible assumption | with_reducible apply keeps_mgHandle | with_reducible apply keeps_mgAnswer
      | with_reducible apply keeps_mgRefuse | with_reducible apply keeps_setMg | with_reducible intro _ | split
      | dsimp only

theorem keeps_execProfileRoute {q : List Instr} {via : Nat} {sess : Option Nat} {msg : List Word} {s : State}
    (h_s : Keeps q s) :
    KeepsO q (execProfileRoute via sess msg s) := by
  unfold execProfileRoute
  repeat' first
      | with_reducible assumption | with_reducible apply keeps_mgHandle | with_reducible apply keeps_mgAnswer
      | with_reducible apply keeps_setMg | with_reducible intro _ | split

theorem keeps_execKernelCommit {q : List Instr} {via : Nat} {sess : Option Nat} {msg : List Word} {s : State}
    (h_s : Keeps q s) :
    KeepsO q (execKernelCommit via sess msg s) := by
  unfold execKernelCommit
  repeat' first
      | with_reducible assumption | with_reducible apply keeps_mgHandle | with_reducible apply keeps_mgAnswer
      | with_reducible apply keeps_rsetFld | with_reducible apply keeps_writeKctrl | with_reducible apply Keeps.foldl
      | with_reducible intro _ | split

theorem keeps_execThrottleCap {q : List Instr} {via : Nat} {sess : Option Nat} {msg : List Word} {s : State}
    (h_s : Keeps q s) :
    KeepsO q (execThrottleCap via sess msg s) := by
  unfold execThrottleCap
  repeat' first
      | with_reducible assumption | with_reducible apply keeps_mgHandle | with_reducible apply keeps_rsetFld
      | with_reducible apply keeps_mgAnswer | with_reducible intro _

theorem keeps_execLogRead {q : List Instr} {via : Nat} {sess : Option Nat} {msg : List Word} {s : State}
    (h_s : Keeps q s) :
    KeepsO q (execLogRead via sess msg s) := by
  unfold execLogRead
  repeat' first
      | with_reducible assumption | with_reducible apply keeps_mgHandle | with_reducible apply keeps_mgAnswer
      | with_reducible intro _

theorem keeps_execSensorRead {q : List Instr} {via : Nat} {sess : Option Nat} {msg : List Word} {s : State}
    (h_s : Keeps q s) :
    KeepsO q (execSensorRead via sess msg s) := by
  unfold execSensorRead
  repeat' first
      | with_reducible assumption | with_reducible apply keeps_mgHandle | with_reducible apply keeps_mgAnswer
      | with_reducible intro _

theorem keeps_execRepairRead {q : List Instr} {via : Nat} {sess : Option Nat} {msg : List Word} {s : State}
    (h_s : Keeps q s) :
    KeepsO q (execRepairRead via sess msg s) := by
  unfold execRepairRead
  repeat' first
      | with_reducible assumption | with_reducible apply keeps_mgHandle | with_reducible apply keeps_mgAnswer
      | with_reducible intro _

theorem keeps_execUnlockAuth {q : List Instr} {via : Nat} {sess : Option Nat} {msg : List Word} {s : State}
    (h_s : Keeps q s) :
    KeepsO q (execUnlockAuth via sess msg s) := by
  unfold execUnlockAuth
  repeat' first
      | with_reducible assumption | with_reducible apply keeps_mgHandle | with_reducible apply keeps_unlock
      | with_reducible apply keeps_mgAnswer | with_reducible intro _ | split

theorem keeps_execModuleReset {q : List Instr} {via : Nat} {sess : Option Nat} {msg : List Word} {fails : List Nat}
    {bad : List Nat} {s : State} (h_s : Keeps q s) :
    KeepsO q (execModuleReset via sess msg fails bad s) := by
  unfold execModuleReset
  repeat' first
      | with_reducible assumption | with_reducible apply keeps_mgHandle | with_reducible apply keeps_mgFrame
      | with_reducible apply keeps_emit | with_reducible apply keeps_moduleReset | with_reducible intro _ | split

theorem keeps_execFwCommitSvn {q : List Instr} {via : Nat} {sess : Option Nat} {msg : List Word} {s : State}
    (h_s : Keeps q s) :
    KeepsO q (execFwCommitSvn via sess msg s) := by
  unfold execFwCommitSvn
  repeat' first
      | with_reducible assumption | with_reducible apply keeps_mgHandle | with_reducible apply keeps_raise
      | with_reducible apply keeps_rsetFld | with_reducible apply keeps_mgAnswer | with_reducible intro _ | split

theorem keeps_blow {q : List Instr} {s : State} {bits_ : Nat} (h_s : Keeps q s) :
    Keeps q (State.blow s bits_) := by
  unfold State.blow
  repeat' first
      | with_reducible assumption | with_reducible apply keeps_raise | with_reducible apply keeps_rput | split
      | dsimp only

theorem keeps_execFuseBlowMap {q : List Instr} {via : Nat} {sess : Option Nat} {msg : List Word} {s : State}
    (h_s : Keeps q s) :
    KeepsO q (execFuseBlowMap via sess msg s) := by
  unfold execFuseBlowMap
  repeat' first
      | with_reducible assumption | with_reducible apply keeps_mgHandle | with_reducible apply keeps_mgRefuse
      | with_reducible apply keeps_blow | with_reducible apply keeps_mgAnswer | with_reducible intro _ | split

theorem keeps_execFuseBlowOwner {q : List Instr} {via : Nat} {sess : Option Nat} {msg : List Word} {s : State}
    (h_s : Keeps q s) :
    KeepsO q (execFuseBlowOwner via sess msg s) := by
  unfold execFuseBlowOwner
  repeat' first
      | with_reducible assumption | with_reducible apply keeps_mgHandle | with_reducible apply keeps_mgRefuse
      | with_reducible apply keeps_rput | with_reducible apply keeps_blow | with_reducible apply keeps_mgAnswer
      | with_reducible apply Keeps.foldl | with_reducible intro _ | split

theorem keeps_drawBytes {q : List Instr} {s : State} {n : Nat} (h_s : Keeps q s) :
    Keeps q (State.drawBytes s n).2 := by
  unfold State.drawBytes
  repeat' first | with_reducible assumption | with_reducible apply Keeps.parts | simp only [keeps_fields]

theorem keeps_execSetEndpointId {q : List Instr} {b : Nat} {eid : Nat} {s : State} (h_s : Keeps q s) :
    KeepsO q (execSetEndpointId b eid s) := by
  unfold execSetEndpointId
  repeat' first
      | with_reducible assumption | with_reducible apply keeps_emit | with_reducible apply keeps_setMg
      | with_reducible apply KeepsO.next | split

theorem keeps_execGetEndpointId {q : List Instr} {b : Nat} {s : State} (h_s : Keeps q s) :
    KeepsO q (execGetEndpointId b s) := by
  unfold execGetEndpointId
  repeat' first
      | with_reducible assumption | with_reducible apply keeps_emit | with_reducible apply KeepsO.next | split

theorem keeps_execGetMctpVersionSupport {q : List Instr} {b : Nat} {ty : Nat} {s : State} (h_s : Keeps q s) :
    KeepsO q (execGetMctpVersionSupport b ty s) := by
  unfold execGetMctpVersionSupport
  repeat' first
      | with_reducible assumption | with_reducible apply keeps_drawBytes | with_reducible apply keeps_emit
      | with_reducible apply KeepsO.next | split

theorem keeps_execGetMessageTypeSupport {q : List Instr} {b : Nat} {s : State} (h_s : Keeps q s) :
    KeepsO q (execGetMessageTypeSupport b s) := by
  unfold execGetMessageTypeSupport
  repeat' first
      | with_reducible assumption | with_reducible apply keeps_emit | with_reducible apply KeepsO.next | split

theorem keeps_execGetVendorDefinedMessageSupport {q : List Instr} {b : Nat} {sel : Nat} {s : State} (h_s : Keeps q s) :
    KeepsO q (execGetVendorDefinedMessageSupport b sel s) := by
  unfold execGetVendorDefinedMessageSupport
  repeat' first
      | with_reducible assumption | with_reducible apply keeps_drawBytes | with_reducible apply keeps_emit
      | with_reducible apply KeepsO.next | split

theorem keeps_setSpdm {q : List Instr} {s : State} {iface : Nat} {k : Nat} (h_s : Keeps q s) :
    Keeps q (State.setSpdm s iface k) := by
  unfold State.setSpdm
  repeat' first | with_reducible assumption | with_reducible apply keeps_setMg

theorem keeps_spdmTake {q : List Instr} {s : State} {iface : Nat} {code : Nat} {sess : Option Nat} (h_s : Keeps q s) :
    KeepsP2 q (State.spdmTake s iface code sess) := by
  unfold State.spdmTake
  repeat' first
      | with_reducible assumption | with_reducible apply keeps_takeDeliv | with_reducible apply KeepsP2.map
      | with_reducible apply KeepsP2.none | with_reducible apply KeepsP2.some | split

theorem keeps_spdmAnswer {q : List Instr} {s : State} {iface : Nat} {sess : Option Nat} {d : Option Delivered}
    {bytes : List Byte} (h_s : Keeps q s) :
    Keeps q (State.spdmAnswer s iface sess d bytes) := by
  unfold State.spdmAnswer
  repeat' first
      | with_reducible assumption | with_reducible apply keeps_mgmtFrame | with_reducible apply keeps_secure
      | with_reducible apply keeps_emit | split

theorem keeps_spdmError {q : List Instr} {s : State} {iface : Nat} {sess : Option Nat} {d : Option Delivered}
    {e : Nat} (h_s : Keeps q s) :
    Keeps q (State.spdmError s iface sess d e) := by
  unfold State.spdmError
  repeat' first | with_reducible assumption | with_reducible apply keeps_spdmAnswer

theorem keeps_spdmHandle {q : List Instr} {s : State} {iface : Nat} {code : Nat} {sess : Option Nat} {need : Nat}
    {act : State → Option Delivered → State} (h_s : Keeps q s) (h_act : ∀ y0 y1, Keeps q y0 → Keeps q (act y0 y1)) :
    KeepsO q (spdmHandle s iface code sess need act) := by
  unfold spdmHandle
  repeat' first
      | with_reducible assumption | with_reducible apply keeps_spdmTake | with_reducible apply keeps_spdmError
      | with_reducible apply keeps_sessionFail | with_reducible apply h_act | with_reducible apply KeepsO.next
      | (refine KeepsP2.use (by with_reducible assumption) ?_) | split | dsimp only

theorem keeps_execGetVersion {q : List Instr} {i : Nat} {s : State} (h_s : Keeps q s) :
    KeepsO q (execGetVersion i s) := by
  unfold execGetVersion
  repeat' first
      | with_reducible assumption | with_reducible apply keeps_spdmHandle | with_reducible apply keeps_spdmAnswer
      | with_reducible apply keeps_setSpdm | with_reducible intro _

theorem keeps_execGetCapabilities {q : List Instr} {i : Nat} {s : State} (h_s : Keeps q s) :
    KeepsO q (execGetCapabilities i s) := by
  unfold execGetCapabilities
  repeat' first
      | with_reducible assumption | with_reducible apply keeps_spdmHandle | with_reducible apply keeps_drawBytes
      | with_reducible apply keeps_spdmAnswer | with_reducible apply keeps_setSpdm | with_reducible intro _

theorem keeps_execNegotiateAlgorithms {q : List Instr} {i : Nat} {offered : Bool} {s : State} (h_s : Keeps q s) :
    KeepsO q (execNegotiateAlgorithms i offered s) := by
  unfold execNegotiateAlgorithms
  repeat' first
      | with_reducible assumption | with_reducible apply keeps_spdmHandle | with_reducible apply keeps_spdmAnswer
      | with_reducible apply keeps_setSpdm | with_reducible apply keeps_spdmError | with_reducible intro _ | split

theorem keeps_execGetDigests {q : List Instr} {i : Nat} {sess : Option Nat} {s : State} (h_s : Keeps q s) :
    KeepsO q (execGetDigests i sess s) := by
  unfold execGetDigests
  repeat' first
      | with_reducible assumption | with_reducible apply keeps_spdmHandle | with_reducible apply keeps_spdmAnswer
      | with_reducible intro _

theorem keeps_execGetCertificate {q : List Instr} {i : Nat} {sess : Option Nat} {slot : Nat} {off : Nat} {len : Nat}
    {s : State} (h_s : Keeps q s) :
    KeepsO q (execGetCertificate i sess slot off len s) := by
  unfold execGetCertificate
  repeat' first
      | with_reducible assumption | with_reducible apply keeps_spdmHandle | with_reducible apply keeps_spdmError
      | with_reducible apply keeps_spdmAnswer | with_reducible intro _ | split

theorem keeps_execChallenge {q : List Instr} {i : Nat} {slot : Nat} {nonce : List Byte} {s : State} (h_s : Keeps q s) :
    KeepsO q (execChallenge i slot nonce s) := by
  unfold execChallenge
  repeat' first
      | with_reducible assumption | with_reducible apply keeps_spdmHandle | with_reducible apply keeps_spdmError
      | with_reducible apply keeps_drawBytes | with_reducible apply keeps_spdmAnswer | with_reducible intro _ | split

theorem keeps_execGetMeasurements {q : List Instr} {i : Nat} {sess : Option Nat} {op : Nat} {sign : Bool}
    {nonce : List Byte} {restarts : Nat} {s : State} (h_s : Keeps q s) :
    KeepsO q (execGetMeasurements i sess op sign nonce restarts s) := by
  unfold execGetMeasurements
  repeat' first
      | with_reducible assumption | with_reducible apply keeps_spdmHandle | with_reducible apply keeps_spdmError
      | with_reducible apply keeps_drawBytes | with_reducible apply keeps_spdmAnswer
      | (refine Keeps.snd (by with_reducible assumption) ?_) | with_reducible intro _ | split | dsimp only

theorem keeps_setSessions {q : List Instr} {s : State} {f : List Session → List Session} (h_s : Keeps q s) :
    Keeps q (State.setSessions s f) := by
  unfold State.setSessions
  repeat' first | with_reducible assumption | with_reducible apply keeps_setMg

theorem keeps_execKeyExchange {q : List Instr} {i : Nat} {mut_ : Bool} {ok : Bool} {s : State} (h_s : Keeps q s) :
    KeepsO q (execKeyExchange i mut_ ok s) := by
  unfold execKeyExchange
  repeat' first
      | with_reducible assumption | with_reducible apply keeps_spdmHandle | with_reducible apply keeps_spdmError
      | with_reducible apply keeps_sessionFail | with_reducible apply keeps_drawBytes
      | with_reducible apply keeps_setMg | with_reducible apply keeps_spdmAnswer | with_reducible intro _ | split

theorem keeps_execFinish {q : List Instr} {i : Nat} {id : Nat} {root : List Byte} {ok : Bool} {s : State}
    (h_s : Keeps q s) :
    KeepsO q (execFinish i id root ok s) := by
  unfold execFinish
  repeat' first
      | with_reducible assumption | with_reducible apply keeps_spdmTake | with_reducible apply keeps_spdmError
      | with_reducible apply keeps_sessionFail | with_reducible apply keeps_setSessions
      | with_reducible apply keeps_spdmAnswer | with_reducible apply KeepsO.next
      | (refine KeepsP2.use (by with_reducible assumption) ?_) | split

theorem keeps_sessionRow {q : List Instr} {s : State} {i : Nat} {id : Nat} {code : Nat} {ok : Bool}
    {act : State → State} (h_s : Keeps q s) (h_act : ∀ y0, Keeps q y0 → Keeps q (act y0)) :
    KeepsO q (sessionRow s i id code ok act) := by
  unfold sessionRow
  repeat' first
      | with_reducible assumption | with_reducible apply keeps_spdmHandle | with_reducible apply keeps_spdmAnswer
      | with_reducible apply keeps_spdmError | with_reducible apply keeps_sessionFail | with_reducible apply h_act
      | with_reducible intro _ | split

theorem keeps_execHeartbeat {q : List Instr} {i : Nat} {id : Nat} {ok : Bool} {s : State} (h_s : Keeps q s) :
    KeepsO q (execHeartbeat i id ok s) := by
  unfold execHeartbeat
  repeat' first | with_reducible assumption | with_reducible apply keeps_sessionRow | with_reducible intro _

theorem keeps_execKeyUpdate {q : List Instr} {i : Nat} {id : Nat} {ok : Bool} {s : State} (h_s : Keeps q s) :
    KeepsO q (execKeyUpdate i id ok s) := by
  unfold execKeyUpdate
  repeat' first
      | with_reducible assumption | with_reducible apply keeps_sessionRow | with_reducible apply keeps_setSessions
      | with_reducible intro _

theorem keeps_execEndSession {q : List Instr} {i : Nat} {id : Nat} {ok : Bool} {s : State} (h_s : Keeps q s) :
    KeepsO q (execEndSession i id ok s) := by
  unfold execEndSession
  repeat' first
      | with_reducible assumption | with_reducible apply keeps_sessionRow | with_reducible apply keeps_setSessions
      | with_reducible intro _

theorem keeps_execVendorDefinedRequest {q : List Instr} {i : Nat} {sess : Option Nat} {obj : Nat} {data : List Byte}
    {s : State} (h_s : Keeps q s) :
    KeepsO q (execVendorDefinedRequest i sess obj data s) := by
  unfold execVendorDefinedRequest
  repeat' first
      | with_reducible assumption | with_reducible apply keeps_spdmHandle | with_reducible apply keeps_spdmError
      | with_reducible apply keeps_drawBytes | with_reducible apply keeps_spdmAnswer
      | with_reducible apply keeps_setMg | with_reducible intro _ | split

theorem keeps_execKSetGo {q : List Instr} {i : Nat} {sess : Option Nat} {s : State} (h_s : Keeps q s) :
    KeepsO q (execKSetGo i sess s) := by
  unfold execKSetGo
  repeat' first
      | with_reducible assumption | with_reducible apply keeps_spdmHandle | with_reducible apply keeps_spdmError
      | with_reducible apply keeps_spdmAnswer | with_reducible apply keeps_setMg | with_reducible intro _ | split

theorem keeps_setPldm {q : List Instr} {s : State} {f : Pldm → Pldm} (h_s : Keeps q s) :
    Keeps q (State.setPldm s f) := by
  unfold State.setPldm
  repeat' first | with_reducible assumption | with_reducible apply keeps_setMg

theorem keeps_raiseUpdate {q : List Instr} {s : State} {phase : Nat} (h_s : Keeps q s) :
    Keeps q (State.raiseUpdate s phase) := by
  unfold State.raiseUpdate
  repeat' first | with_reducible assumption | with_reducible apply keeps_raise

theorem keeps_pldmRow {q : List Instr} {s : State} {cmd : Nat} {st : List Nat} {act : State → State} (h_s : Keeps q s)
    (h_act : ∀ y0, Keeps q y0 → Keeps q (act y0)) :
    KeepsO q (pldmRow s cmd st act) := by
  unfold pldmRow
  repeat' first
      | with_reducible assumption | with_reducible apply keeps_emit | with_reducible apply h_act
      | with_reducible apply KeepsO.next | split

theorem keeps_execQueryDeviceIdentifiers {q : List Instr} {s : State} (h_s : Keeps q s) :
    KeepsO q (execQueryDeviceIdentifiers s) := by
  unfold execQueryDeviceIdentifiers
  repeat' first
      | with_reducible assumption | with_reducible apply keeps_emit | with_reducible apply KeepsO.next | split

theorem keeps_execGetFirmwareParameters {q : List Instr} {s : State} (h_s : Keeps q s) :
    KeepsO q (execGetFirmwareParameters s) := by
  unfold execGetFirmwareParameters
  repeat' first
      | with_reducible assumption | with_reducible apply keeps_emit | with_reducible apply KeepsO.next | split

theorem keeps_execRequestUpdate {q : List Instr} {s : State} (h_s : Keeps q s) :
    KeepsO q (execRequestUpdate s) := by
  unfold execRequestUpdate
  repeat' first
      | with_reducible assumption | with_reducible apply keeps_emit | with_reducible apply keeps_setPldm
      | with_reducible apply KeepsO.next | split

theorem keeps_execPassComponentTable {q : List Instr} {id : Nat} {s : State} (h_s : Keeps q s) :
    KeepsO q (execPassComponentTable id s) := by
  unfold execPassComponentTable
  repeat' first
      | with_reducible assumption | with_reducible apply keeps_pldmRow | with_reducible apply keeps_emit
      | with_reducible apply keeps_setPldm | with_reducible intro _ | split

theorem keeps_execUpdateComponent {q : List Instr} {id : Nat} {size : Nat} {s : State} (h_s : Keeps q s) :
    KeepsO q (execUpdateComponent id size s) := by
  unfold execUpdateComponent
  repeat' first
      | with_reducible assumption | with_reducible apply keeps_pldmRow | with_reducible apply keeps_raiseUpdate
      | with_reducible apply keeps_setMg | with_reducible apply keeps_emit | with_reducible apply keeps_setPldm
      | with_reducible intro _ | split

theorem keeps_execRequestFirmwareData {q : List Instr} {data : List Byte} {s : State} (h_s : Keeps q s) :
    KeepsO q (execRequestFirmwareData data s) := by
  unfold execRequestFirmwareData
  repeat' first
      | with_reducible assumption | with_reducible apply keeps_emit | with_reducible apply keeps_setPldm
      | with_reducible apply keeps_setMg | with_reducible apply KeepsO.next | split

theorem keeps_execTransferComplete {q : List Instr} {s : State} (h_s : Keeps q s) :
    KeepsO q (execTransferComplete s) := by
  unfold execTransferComplete
  repeat' first
      | with_reducible assumption | with_reducible apply keeps_emit | with_reducible apply keeps_setPldm
      | with_reducible apply KeepsO.next | split

theorem keeps_execVerifyComplete {q : List Instr} {s : State} (h_s : Keeps q s) :
    KeepsO q (execVerifyComplete s) := by
  unfold execVerifyComplete
  repeat' first
      | with_reducible assumption | with_reducible apply keeps_emit | with_reducible apply keeps_raiseUpdate
      | with_reducible apply keeps_setPldm | with_reducible apply KeepsO.next | split

theorem keeps_execApplyComplete {q : List Instr} {s : State} (h_s : Keeps q s) :
    KeepsO q (execApplyComplete s) := by
  unfold execApplyComplete
  repeat' first
      | with_reducible assumption | with_reducible apply keeps_setMg | with_reducible apply keeps_emit
      | with_reducible apply keeps_setPldm | with_reducible apply KeepsO.next | split

theorem keeps_execActivateFirmware {q : List Instr} {s : State} (h_s : Keeps q s) :
    KeepsO q (execActivateFirmware s) := by
  unfold execActivateFirmware
  repeat' first
      | with_reducible assumption | with_reducible apply keeps_setMg | with_reducible apply keeps_raiseUpdate
      | with_reducible apply keeps_emit | with_reducible apply keeps_setPldm | with_reducible apply KeepsO.next
      | split

theorem keeps_execGetStatus {q : List Instr} {s : State} (h_s : Keeps q s) :
    KeepsO q (execGetStatus s) := by
  unfold execGetStatus
  repeat' first
      | with_reducible assumption | with_reducible apply keeps_emit | with_reducible apply KeepsO.next | split

theorem keeps_execCancelUpdateComponent {q : List Instr} {s : State} (h_s : Keeps q s) :
    KeepsO q (execCancelUpdateComponent s) := by
  unfold execCancelUpdateComponent
  repeat' first
      | with_reducible assumption | with_reducible apply keeps_pldmRow | with_reducible apply keeps_emit
      | with_reducible apply keeps_setPldm | with_reducible intro _

theorem keeps_execCancelUpdate {q : List Instr} {s : State} (h_s : Keeps q s) :
    KeepsO q (execCancelUpdate s) := by
  unfold execCancelUpdate
  repeat' first
      | with_reducible assumption | with_reducible apply keeps_pldmRow | with_reducible apply keeps_emit
      | with_reducible apply keeps_setPldm | with_reducible apply keeps_raiseUpdate | with_reducible intro _

end Sys2Proof.Machine
end

