-- ==== Sys2Proof/Laws/Shared.lean ====
section
/-! SUPPORT. What the shared operations of the core's halts, of slots, collectives, management messages and SPDM
requests do, once for every command that uses them. -/

namespace Sys2Proof.Machine

/-- A running core halts with the code given. -/
theorem haltCore_running {s : State} {n code detail idx cyc} {b} (h : (s.core n).mode = .running) (hb : b = (s.core n).active) :
    haltCore s n code detail b idx cyc = s.setCore n (haltingAs (s.core n) code detail idx cyc) := by
  subst hb
  unfold haltCore haltingAs
  simp only [h, true_or, if_true]
  all_goals congr 2

/-- Meeting no error changes nothing. -/
@[simp] theorem meet_nil (s : State) : s.meet [] = s := rfl

/-- No snoop pends: a command on a collective runs at once. -/
theorem gatedColl_free {s : State} {go} (h : s.snoops = []) : gatedColl s go = go := by unfold gatedColl; rw [h]; rfl

/-- A control frame that names a collective in flight acts on it, and waiting launches are looked at again. -/
theorem takeColl_of {s u : State} {ty c f act} (h : Names s u ty c f) : s.takeColl ty act = (act u c f).admitColls := by
  obtain ⟨d, h1, h2, h3, h4, h5⟩ := h
  subst h2
  unfold State.takeColl; rw [h1]; dsimp only; rw [h3]; simp only [Bool.not_true, Bool.false_eq_true, if_false]; rw [h4]; dsimp only
  rw [if_neg (by omega), if_neg (by omega)]

/-- The next chunk of a slot. -/
theorem nextChunk_of {s : State} {n op x f t} (h : Takes s n op x f t) : s.nextChunk n op = some ({ x with inbox := t }, f, s.setSlot n (some { x with inbox := t })) := by
  obtain ⟨h1, h2, k, h3, h4⟩ := h
  unfold State.nextChunk; rw [h1]; dsimp only; rw [h3]; dsimp only; rw [if_pos ⟨h2, h4⟩]

/-- The next chunk of a slot that works on records. -/
theorem recChunk_of {s : State} {n op x f t ce ue} (h : Takes s n op x f t) :
   s.recChunk n op ce ue = some (recSlot x f t ue, f, recsIn x f, testedIn (workedOn s n ce ue x t) (unitNow s n x t) n (recGood x f) x f) := by
  unfold State.recChunk; rw [nextChunk_of h]; rfl

/-- A management message that its row finds, is allowed and well formed is acted on. -/
theorem mgHandle_of {s u : State} {op via sess msg r fits act} (h : Handles s u op via sess msg r fits) : mgHandle s op via sess msg fits act = .next (act u r (mgBody r.bytes)) := by
  obtain ⟨a, b, c, d, e, f⟩ := h
  unfold mgHandle
  rw [a]
  cases sess with
  | none => simp [c, d, e, f]
  | some id => simp [b id rfl, c, d, e, f]

/-- An SPDM request that its row finds, at a time when it is allowed, is answered. -/
theorem spdmHandle_of {s u : State} {i code sess need d act} (h : Asked s u i code sess need d) : spdmHandle s i code sess need act = .next (act u d) := by
  obtain ⟨a, b, c⟩ := h
  have c' : ¬ u.spdmAt i < need := by omega
  unfold spdmHandle
  rw [a]
  cases sess with
  | none => simp [c']
  | some id => simp [b id rfl, c']

end Sys2Proof.Machine
end

