-- ==== Sys2Proof/WellFormed.lean ====
section
/-! DEFINITION. Well-formed commands: every operand names a part that exists (192 cores, 120 links, 32 quads,
208 ports and so on) and every structure has its laid-down length. -/

namespace Sys2Proof

/-- A PAM4 level. -/
def pamLevel (x : Nat) : Bool := decide (x < 4)

/-- The check of a command. -/
def wellFormed : Instr → Bool
  | .regWrite off _ _ _ => decide (off < 2 ^ 24)
  | .configRequest _ => true
  | .flushClear n _ => decide (n < 192)
  | .srGo tensor => decide (tensor < 2 ^ 32)
  | .srEvalDone => true
  | .launchStart n => decide (n < 192)
  | .undefinedOpcode n => decide (n < 192)
  | .matMm n => decide (n < 192)
  | .matMmp n => decide (n < 192)
  | .matMms n => decide (n < 192)
  | .matPadd n _ => decide (n < 192)
  | .vecAdd n => decide (n < 192)
  | .vecMul n => decide (n < 192)
  | .vecFma n => decide (n < 192)
  | .vecMax n => decide (n < 192)
  | .vecMin n => decide (n < 192)
  | .vecNeg n => decide (n < 192)
  | .vecAbs n => decide (n < 192)
  | .vecCvt n => decide (n < 192)
  | .vecExp2 n => decide (n < 192)
  | .vecLog2 n => decide (n < 192)
  | .vecRcp n => decide (n < 192)
  | .vecRsqrt n => decide (n < 192)
  | .vecRowsum n => decide (n < 192)
  | .vecRowmax n => decide (n < 192)
  | .vecUpd n => decide (n < 192)
  | .movCopy n _ _ => decide (n < 192)
  | .movCvt n _ => decide (n < 192)
  | .movMxin n _ => decide (n < 192)
  | .movMxout n _ => decide (n < 192)
  | .movAtom n _ => decide (n < 192)
  | .movStash n => decide (n < 192)
  | .stashPoolReply n _ _ => decide (n < 192)
  | .movRelease n _ => decide (n < 192)
  | .movImload n _ => decide (n < 192)
  | .synNop n => decide (n < 192)
  | .synWait n => decide (n < 192)
  | .waitSatisfied n _ => decide (n < 192)
  | .waitTimeout n _ => decide (n < 192)
  | .synSignal n => decide (n < 192)
  | .synRsignal n _ => decide (n < 192)
  | .synSetp n => decide (n < 192)
  | .synSkip n => decide (n < 192)
  | .synRepeat n => decide (n < 192)
  | .synSwap n => decide (n < 192)
  | .synEnd n => decide (n < 192)
  | .synSalu n => decide (n < 192)
  | .synSld n => decide (n < 192)
  | .synSst n => decide (n < 192)
  | .synFlags n => decide (n < 192)
  | .synColl n _ => decide (n < 192)
  | .fixedWriteback n => decide (n < 192)
  | .varCommandComplete n _ _ => decide (n < 192)
  | .haltLimit n => decide (n < 192)
  | .endDrainDone n => decide (n < 192)
  | .haltDrainDone n => decide (n < 192)
  | .haltDrainTimeout n _ => decide (n < 192)
  | .haltHost n _ => decide (n < 192)
  | .clearHalt n => decide (n < 192)
  | .coreReset n => decide (n < 192)
  | .poolInit => true
  | .poolInitDone => true
  | .memErrClear _ => true
  | .requestTimeout port tag => decide (port < 208) && decide (tag < 65536)
  | .patrolScrub _ _ _ => true
  | .farEccPoll p _ _ => decide (p < 16)
  | .stackTempChange st temp => decide (st < 32) && decide (temp < 256)
  | .hdmRead range off _ => decide (range < 2) && decide (off < 2 ^ 47)
  | .hdmWrite range off data _ _ => decide (range < 2) && decide (off < 2 ^ 47) && decide (data.length = 64)
  | .bisnpResponse _ _ _ _ => true
  | .enable q _ _ => decide (q < 32)
  | .retrain q => decide (q < 32)
  | .lnkClearCnt q _ => decide (q < 32)
  | .spareNow q lane sub => decide (q < 32) && decide (lane < 4) && decide (sub < 4)
  | .trainingMarker q j _ snr _ _ => decide (q < 32) && decide (j < 5) && decide (snr < 256)
  | .bringupRetry q => decide (q < 32)
  | .equaliserTimeout q => decide (q < 32)
  | .codewordSend p => decide (p < 121)
  | .codewordReceive q j r0 r1 r2 r3 r4 => decide (q < 32) && decide (j < 5) && [r0, r1, r2, r3, r4].all fun r => r.length == 544 && r.all pamLevel
  | .lcsIdle p => decide (p < 121)
  | .lcsCtrl p => decide (p < 121)
  | .lcsInit p => decide (p < 121)
  | .lcsSpare p => decide (p < 121)
  | .ackTimer p => decide (p < 121)
  | .nakRepeat p => decide (p < 121)
  | .keepaliveSend p => decide (p < 121)
  | .kaTimeout p => decide (p < 121)
  | .fastRetrainTimeout p => decide (p < 121)
  | .laneLossStart q j _ => decide (q < 32) && decide (j < 5)
  | .laneLossEnd q j _ => decide (q < 32) && decide (j < 5)
  | .laneLossPersist q j => decide (q < 32) && decide (j < 5)
  | .quadPllUnlock q => decide (q < 32)
  | .quadPllLock q => decide (q < 32)
  | .clockMismatch q j => decide (q < 32) && decide (j < 5)
  | .spareTrainDone p _ => decide (p < 121)
  | .opticsPoll c _ _ _ _ => decide (c < 8)
  | .optPresentChange c _ => decide (c < 8)
  | .vccOptOvercurrent c => decide (c < 8)
  | .vccOptRetry c _ => decide (c < 8)
  | .frameArrive p => decide (p < 208)
  | .frameTail p => decide (p < 121)
  | .adaptiveChoice _ => true
  | .outputSelect p => decide (p < 208)
  | .creditGrant p v => decide (p < 208) && decide (v < 6)
  | .ageCheck => true
  | .fence p _ _ => decide (p < 121)
  | .gminWrite p _ _ => decide (p < 208)
  | .swcClearCnt _ => true
  | .rsvWrite r _ _ => decide (r < 64)
  | .refill => true
  | .policerAccept r => decide (r < 64)
  | .wr => true
  | .rd _ => true
  | .rddata => true
  | .wrack => true
  | .atom => true
  | .atomrsp => true
  | .sig => true
  | .sigack => true
  | .err => true
  | .msg => true
  | .msgDeliverRetry _ => true
  | .deliverDrop _ => true
  | .msgack => true
  | .flow => true
  | .chunk u => decide (u < 64)
  | .stuSum n _ _ _ => decide (n < 7168)
  | .stuGatherFixed n _ _ _ => decide (n < 7168)
  | .stuGatherLanes n _ _ _ => decide (n < 7168)
  | .stuSortLocal n _ _ _ => decide (n < 7168)
  | .stuSortMerge n _ _ _ => decide (n < 7168)
  | .stuFilter n _ _ _ => decide (n < 7168)
  | .stuClearCnt u _ => decide (u < 64)
  | .kctrlCommit _ _ => true
  | .kernelInstallDone => true
  | .gsetCommit g => decide (g < 64)
  | .groupCommitDone => true
  | .reserveRetry _ => true
  | .ready => true
  | .result => true
  | .resultVisible _ stripe j => decide (stripe < 64) && decide (j < 65536)
  | .ack => true
  | .pace => true
  | .retx => true
  | .retxRepeat _ stripe j => decide (stripe < 64) && decide (j < 65536)
  | .report => true
  | .collEnd => true
  | .endRepeat _ => true
  | .collProgressTimeout _ => true
  | .collSelfEnd _ => true
  | .memberPoll _ => true
  | .raceCasReply _ => true
  | .raceCopyDone _ => true
  | .doorbellSnoop k => decide (k < 513)
  | .snoopData k => decide (k < 513)
  | .doorbellLineFill n tail _ => decide (n < 256) && decide (tail < 2 ^ 32)
  | .descriptorFetch n words _ => decide (n < 256) && decide (words.length = 8)
  | .stagingRetry => true
  | .nop => true
  | .launch => true
  | .pload _ _ => true
  | .copy _ _ => true
  | .coll => true
  | .flowsend _ _ => true
  | .createSq => true
  | .createCq => true
  | .deleteSq => true
  | .deleteCq => true
  | .openFlow => true
  | .closeFlow => true
  | .resetFlow => true
  | .descriptorWorkDone _ => true
  | .cqEntryWrite n _ _ => decide (n < 256)
  | .eventRecordWrite _ _ _ => true
  | .cqIrqDelay n _ => decide (n < 256)
  | .eventIrqDelay _ => true
  | .hostLinkTrain width rate _ => decide (width < 32) && decide (rate < 256)
  | .hostFullOperationLoss => true
  | .perstN => true
  | .perstNDeassert => true
  | .hotReset => true
  | .linkDisable => true
  | .functionLevelReset => true
  | .hifReset => true
  | .hifEnable _ _ => true
  | .lock => true
  | .request => true
  | .unlockAuthTimeout => true
  | .twnCommit _ => true
  | .mirrorInject => true
  | .mirror => true
  | .twnSeal => true
  | .sealVerify => true
  | .mirrorack => true
  | .mirrorAckTimeout => true
  | .twnRestart _ _ => true
  | .boundary _ => true
  | .twnSwap l _ => decide (l < 256)
  | .fencePorts via _ _ => decide (via < 4)
  | .unfencePorts via _ _ => decide (via < 4)
  | .markFenced via _ _ => decide (via < 4)
  | .markValid via _ _ => decide (via < 4)
  | .soloOn via _ _ => decide (via < 4)
  | .soloOff via _ _ => decide (via < 4)
  | .enterTungsten via _ _ => decide (via < 4)
  | .healthDecay => true
  | .xchkSpareDone k _ => decide (k < 16)
  | .go slot count => decide (slot < 16) && decide (count < 65536)
  | .free slot => decide (slot < 16)
  | .replayHeatDone => true
  | .replayHeatTimeout temp vdd => decide (temp < 65536) && decide (vdd < 65536)
  | .replayRunDone mism temp vdd => decide (mism < 65536) && decide (temp < 65536) && decide (vdd < 65536)
  | .fatalClear => true
  | .eventHandle => true
  | .logWrite => true
  | .watchdogStrobe => true
  | .watchdogExpire => true
  | .sensorSample _ _ _ slices _ => decide (slices < 256)
  | .pinsUpdate _ _ _ => true
  | .alertResponse => true
  | .mailboxGo => true
  | .readReg via _ _ => decide (via < 4)
  | .writeReg via _ _ => decide (via < 4)
  | .profileWrite via _ _ => decide (via < 4)
  | .profileRoute via _ _ => decide (via < 4)
  | .kernelCommit via _ _ => decide (via < 4)
  | .throttleCap via _ _ => decide (via < 4)
  | .logRead via _ _ => decide (via < 4)
  | .sensorRead via _ _ => decide (via < 4)
  | .repairRead via _ _ => decide (via < 4)
  | .unlockAuth via _ _ => decide (via < 4)
  | .moduleReset via _ _ _ _ => decide (via < 4)
  | .fwCommitSvn via _ _ => decide (via < 4)
  | .fuseBlowMap via _ _ => decide (via < 4)
  | .fuseBlowOwner via _ _ => decide (via < 4)
  | .setEndpointId b eid => decide (b < 2) && decide (eid < 256)
  | .getEndpointId b => decide (b < 2)
  | .getMctpVersionSupport b ty => decide (b < 2) && decide (ty < 256)
  | .getMessageTypeSupport b => decide (b < 2)
  | .getVendorDefinedMessageSupport b sel => decide (b < 2) && decide (sel < 256)
  | .getVersion i => decide (i < 3)
  | .getCapabilities i => decide (i < 3)
  | .negotiateAlgorithms i _ => decide (i < 3)
  | .getDigests i _ => decide (i < 3)
  | .getCertificate i _ slot off len => decide (i < 3) && decide (slot < 256) && decide (off < 65536) && decide (len < 65536)
  | .challenge i slot _ => decide (i < 3) && decide (slot < 256)
  | .getMeasurements i _ op _ _ _ => decide (i < 3) && decide (op < 256)
  | .keyExchange i _ _ => decide (i < 3)
  | .finish i _ _ _ => decide (i < 3)
  | .heartbeat i _ _ => decide (i < 3)
  | .keyUpdate i _ _ => decide (i < 3)
  | .endSession i _ _ => decide (i < 3)
  | .vendorDefinedRequest i _ obj _ => decide (i < 3) && decide (obj < 256)
  | .kSetGo i _ => decide (i < 3)
  | .queryDeviceIdentifiers => true
  | .getFirmwareParameters => true
  | .requestUpdate => true
  | .passComponentTable id => decide (id < 65536)
  | .updateComponent id size => decide (id < 65536) && decide (size < 2 ^ 32)
  | .requestFirmwareData _ => true
  | .transferComplete => true
  | .verifyComplete => true
  | .applyComplete => true
  | .activateFirmware => true
  | .getStatus => true
  | .cancelUpdateComponent => true
  | .cancelUpdate => true
  | .vinRise vin => decide (vin < 65536)
  | .powerGood _ _ => true
  | .powerOff vin => decide (vin < 65536)
  | .aux12vChange mv => decide (mv < 65536)
  | .modResetNAssert => true
  | .modResetNDeassert _ _ => true
  | .bootComplete => true
  | .trstN => true
  | .idcode => true
  | .bypass _ => true
  | .sample _ => true
  | .preload _ => true
  | .extest _ => true
  | .headLineFill k head _ _ => decide (k < 257) && decide (head < 2 ^ 32)
  | .hostInterfaceIslandFails => true

end Sys2Proof
end

