-- ==== Sys2Proof/Tests/Slice0.lean ====
section
/-! SUPPORT. Small tests of the model: the check of commands refuses ill-formed ones, for each statement a small state
meets its hypotheses (wit_), and one step of each family does what the spec's tables and examples say (test_). -/

namespace Sys2Proof.Machine

/-! One thread: each thread of these evaluations takes its own stack. -/
set_option Elab.async false

/-! Builders. -/

/-- A command word from (place of its least significant bit, value) pairs, SENSE being 1. -/
def cmdOf (l : List (Nat × Nat)) : Cmd := BitVec.ofNat 256 (l.foldl (fun a x => a + x.2 <<< x.1) 0x1000)

/-- An operand field: EBASE, SBASE, format. -/
def opdOf (e s f : Nat) : Nat := e + s <<< 5 + f <<< 10

/-- Levels of 0 on a lane. -/
def zl (n : Nat) : List Nat := List.replicate n 0

/-- Core 0 of a state about to run the command w with its first scalars v. -/
def about (w : Cmd) (v : List Nat) : Core :=
  { coreReset with
    mode := .running
    bank0 := [(0, w)]
    scalars := ((upFrom 1 v.length).zip v).foldl (fun t x => tabSet (fun _ => 0) t x.1 (BitVec.ofNat 64 x.2)) [] }

/-- The module after reset, core 0 about to run w. -/
def running (w : Cmd) (v : List Nat) : State := State.reset.setCore 0 (about w v)

/-- As running, in FREE order. -/
def runningFree (w : Cmd) (v : List Nat) : State := State.reset.setCore 0 { about w v with order := true }


/-! Witnesses: tensor cores. -/

/-- A VEC command of BF16 operands D at S1, A at S2, B at S3, one element. -/
def vecWord (op : Nat) (b : Bool) : Cmd :=
  cmdOf [(0, op), (64, opdOf 1 0 6), (128, opdOf 2 0 6), (192, if b then opdOf 3 0 6 else 0), (112, 1), (176, 1)]

def vecState (op : Nat) (b : Bool) : State := running (vecWord op b) [0, 64, 128]

theorem wit_vecTwoSources : ∀ op ∈ [0x40, 0x41, 0x43, 0x44], let s := vecState op true
    Ready s 0 op ∧ Clean (landed s 0) ∧ vecHalts s 0 [2, 3] isTyped (cDim1 (nextCmd s 0)) = [] := by
  unfold Ready Clean; decide +kernel

theorem wit_vecOneSource : ∀ op ∈ [0x45, 0x46, 0x47, 0x48, 0x49, 0x4A, 0x4B], let s := vecState op false
    Ready s 0 op ∧ Clean (landed s 0) ∧ vecHalts s 0 [2] isTyped (cDim1 (nextCmd s 0)) = [] := by
  unfold Ready Clean; decide +kernel

theorem wit_vecFma : let s := vecState 0x42 true
    Ready s 0 0x42 ∧ Clean (landed s 0) ∧
      vecHalts s 0 (if cAccum (nextCmd s 0) then [2, 3, 1] else [2, 3]) isTyped (cDim1 (nextCmd s 0)) = [] := by
  unfold Ready Clean; decide +kernel

theorem wit_vecRows : ∀ op ∈ [0x4C, 0x4D], let s := vecState op false
    Ready s 0 op ∧ Clean (landed s 0) ∧ vecHalts s 0 [2] isRowDest 1 = [] := by
  unfold Ready Clean; decide +kernel


theorem wit_vecUpd : let s := running (cmdOf [(0, 0x50), (64, opdOf 1 0 6), (128, opdOf 2 0 6), (192, opdOf 3 0 13), (112, 1), (176, 1)]) [0, 64, 128]
    Ready s 0 0x50 ∧ Clean (landed s 0) ∧ (updOf (landed s 0) ((landed s 0).core 0) 0 (nextCmd s 0) (offsAt s 0)).2.2.2 = [] := by
  unfold Ready Clean; decide +kernel

/-- A MAT command of BF16 operands, 16 x 16 x 16. -/
def matWord (op : Nat) (pair : Bool) : Cmd :=
  cmdOf [(0, op), (64, opdOf 1 (if pair then 4 else 0) 6), (128, opdOf 2 0 6), (192, opdOf 3 0 6), (112, 1), (176, 1), (240, 1)]

theorem wit_matProducts : ∀ pair : Bool, let s := running (matWord (if pair then 2 else 1) pair) [0, 0x1000, 0x2000, 0x3000]
    Ready s 0 (if pair then 2 else 1) ∧ Clean (landed s 0) ∧
      matFaults (landed s 0) 0 (nextCmd s 0) (offsAt s 0) pair = [] := by
  unfold Ready Clean; decide +kernel

/-- MAT.MMS of a Q4 image at S2, control word S5, D of format f at S1, B BF16 at S3, kb block columns. -/
def mmsWord (f kb : Nat) : Cmd :=
  cmdOf [(0, 3), (64, opdOf 1 0 f), (128, opdOf 2 6 0), (168, 5), (192, opdOf 3 0 6), (112, 1), (176, 1), (240, kb)]

/-- An image of one block row of kb columns with n stored squares, all of them non-zero, its tile dense when n is not 0. -/
def mmsImage (s : State) (k kb n : Nat) : State :=
  let s := s.mputBytes k (leBytes 8 (kb + 1 <<< 16) ++ leBytes 8 n ++ leBytes 8 (64 + 72 <<< 32) ++ leBytes 8 80 ++
    leBytes 8 (128 + 0x8000 <<< 32) ++ leBytes 24 0 ++ leBytes 4 0 ++ leBytes 4 n ++ leBytes 4 (if n = 0 then 0 else 0x80000000))
  s.mputs ((upFrom 0 n).map fun i => (k + 128 + 128 * i, 1))

def mmsPlain : State := mmsImage (running (mmsWord 6 1) [0, 0x1000, 0x2000, 0, 0, 0]) 0x1000 1 0
def mmsPart : State := mmsImage (running (mmsWord 11 65) [0, 0x1000, 0x10000, 0, 0x1000000000000, 0]) 0x1000 65 65

theorem wit_matMms : Ready mmsPlain 0 3 ∧ Clean (landed mmsPlain 0) ∧ mmsFaults (landed mmsPlain 0) (nextCmd mmsPlain 0) (mmsAt mmsPlain 0) = [] ∧
    mmsInner (landed mmsPlain 0) 0 (nextCmd mmsPlain 0) (mmsAt mmsPlain 0) = [] ∧ (mmsAt mmsPlain 0).k.part = false := by
  unfold Ready Clean; decide +kernel

theorem wit_matMmsPart : Ready mmsPart 0 3 ∧ Clean (landed mmsPart 0) ∧ mmsFaults (landed mmsPart 0) (nextCmd mmsPart 0) (mmsAt mmsPart 0) = [] ∧
    mmsInner (landed mmsPart 0) 0 (nextCmd mmsPart 0) (mmsAt mmsPart 0) = [] ∧ (mmsAt mmsPart 0).k.part = true := by
  unfold Ready Clean; decide +kernel

/-- A copying command, 16 x 32, D at S1 and S3 in format f, A at S2 and S4 in format g; bit 15 of either makes it a
fabric operand. -/
def movWord (op f g : Nat) (fab : Nat) : Cmd :=
  cmdOf [(0, op), (64, opdOf 1 3 f + fab), (128, opdOf 2 4 g + fab), (112, 16), (176, 32)]

/-- An own-Pewter case of each: (opcode, format of D, format of A). -/
def movCases : List (Nat × Nat × Nat) := [(0x80, 6, 6), (0x81, 7, 6), (0x82, 2, 13), (0x83, 13, 2)]

theorem wit_movFixed : ∀ x ∈ movCases, let s := running (movWord x.1 x.2.1 x.2.2 0) [0, 0x1000, 0x2000, 0x3000]
    Ready s 0 x.1 ∧ Clean (landed s 0) ∧ (landed s 0).snoops = [] ∧ (movAt s 0).d.fabric = false ∧ (movAt s 0).a.fabric = false ∧
      (movAt s 0).a.remote = false ∧ movFaults (landed s 0) (nextCmd s 0) (movAt s 0) = [] := by
  unfold Ready Clean; decide +kernel

/-- The address of near memory at an offset, on a module without an ID. -/
def nearAddr (o : Nat) : Nat := 0xFFFF <<< 48 + 1 <<< 46 + o

def movHere (x : Nat × Nat × Nat) : State :=
  running (movWord x.1 x.2.1 x.2.2 0x8000) [nearAddr 0, nearAddr 0x1000, nearAddr 0x2000, nearAddr 0x3000]

theorem wit_movHere : ∀ x ∈ movCases,
    Ready (movHere x) 0 x.1 ∧ Clean (landed (movHere x) 0) ∧ (landed (movHere x) 0).snoops = [] ∧ CoresWf (landed (movHere x) 0) ∧
      FreshIds ((landed (movHere x) 0).core 0) ∧ movFixed x.1 (movAt (movHere x) 0) = false ∧ (movAt (movHere x) 0).a.remote = false ∧
      movFaults (landed (movHere x) 0) (nextCmd (movHere x) 0) (movAt (movHere x) 0) = [] ∧
      ∀ y ∈ (movForm (nextCmd (movHere x) 0) (landed (movHere x) 0).view (movAt (movHere x) 0).d.opd (movAt (movHere x) 0).a.opd).writes,
        y.1 < 2 ^ 64 := by
  unfold Ready Clean CoresWf FreshIds; decide +kernel

/-- MAT.PADD of one square in ACC, A in near memory. -/
def padd : State :=
  runningFree (cmdOf [(0, 4), (64, opdOf 1 0 12), (128, opdOf 2 0 12 + 0x8000), (112, 1), (176, 1)]) [0, nearAddr 0]

theorem wit_matPadd : Ready padd 0 4 ∧ Clean (landed padd 0) ∧ (landed padd 0).snoops = [] ∧ CoresWf (landed padd 0) ∧
    FreshIds ((landed padd 0).core 0) ∧ movFixed 4 (movAt padd 0) = false ∧ (movAt padd 0).a.remote = false ∧
    movFaults (landed padd 0) (nextCmd padd 0) (movAt padd 0) = [] ∧
    ∀ y ∈ (movForm (nextCmd padd 0) (landed padd 0).view (movAt padd 0).d.opd (movAt padd 0).a.opd).writes, y.1 < 2 ^ 64 := by
  unfold Ready Clean CoresWf FreshIds; decide +kernel

def atomState : State := running (cmdOf [(0, 0x84), (64, opdOf 1 4 0 + 0x8000), (128, 2), (192, 3)]) [nearAddr 8, 5, 0]
def imloadState : State := running (cmdOf [(0, 0x87), (128, opdOf 1 0 13), (112, 2), (176, 2046)]) [0x100]
def stashState : State := running (cmdOf [(0, 0x85), (64, 5), (128, opdOf 1 0 13), (112, 1), (176, 256)]) [0x100]
def releaseState (s : State) (a : Nat) : State := s.setCore 0 (about (cmdOf [(0, 0x86), (128, 1)]) [a])

theorem wit_movAtom : let s := atomState
    let w := nextCmd s 0
    let d := opdField (cOpd w 1)
    let base := (cS ((landed s 0).core 0) d.ebase).toNat
    Ready s 0 0x84 ∧ Clean (landed s 0) ∧ d.fmt ≠ .rsvE ∧ d.fmt ≠ .rsvF ∧ ((base : Int) + (offsAt s 0).getD 0 0) % 2 ^ 64 % 8 = 0 ∧
      planeKey (landed s 0) 0 d.fabric base ((offsAt s 0).getD 0 0) 8 = some (2 ^ 46 + 8) ∧ 2 ^ 46 + 8 < 2 ^ 64 := by
  unfold Ready Clean; decide +kernel

theorem wit_movImload : let s := imloadState
    let w := nextCmd s 0
    let g := imloadSource (landed s 0) ((landed s 0).core 0) 0 w (offsAt s 0)
    Ready s 0 0x87 ∧ Clean (landed s 0) ∧ 1 ≤ cDim0 w ∧ cDim1 w ≤ 2047 ∧ cDim0 w + cDim1 w ≤ 2048 ∧
      (opdField (cOpd w 2)).fmt = .raw ∧ g.faults = [] ∧ g.remote = false := by
  unfold Ready Clean; decide +kernel

theorem wit_movStash : let s := stashState
    let w := nextCmd s 0
    CoresWf (landed s 0) ∧ Ready s 0 0x85 ∧ (opdField (cOpd w 2)).fmt = .raw ∧ 1 ≤ cDim0 w ∧ 1 ≤ cDim1 w ∧ cDim0 w * cDim1 w ≤ 65536 ∧
      (stashSource (landed s 0) ((landed s 0).core 0) 0 w (offsAt s 0)).faults = [] := by
  unfold Ready CoresWf; decide +kernel

/-- A near set of one pool of two 256-byte buffers, built, and one of its buffers held. -/
def pools : State := (buildPool (State.reset.rsetBit Reg.memPoolCtrl 1 true) 256 0 0 2)
def heldPool : State := (poolRequest pools 256 256).2

theorem wit_movRelease : let s := releaseState heldPool (nearAddr 0)
    CoresWf (landed s 0) ∧ Ready s 0 0x86 ∧ (landed s 0).snoops = [] ∧
      (poolRelease s (cS ((landed s 0).core 0) (bitsN (cOpd (nextCmd s 0) 2) 4 0)).toNat 0).isSome = true := by
  unfold Ready CoresWf; decide +kernel


/-! Witnesses: SYN commands, and what acts outside the core. -/

/-- A SYN command with its fields SD, SA and SB and its immediate. -/
def synWord (op sd sa sb imm : Nat) : Cmd := cmdOf [(0, op), (64, sd), (128, sa), (133, sb), (192, imm)]

theorem wit_synFixed : ∀ x ∈ [(0xC0, synWord 0xC0 0 0 0 0), (0xC2, synWord 0xC2 0 0 0 (63 + 0xFFFF <<< 6)), (0xC9, synWord 0xC9 31 31 31 1),
      (0xCC, synWord 0xCC 1 0 0 1)], let s := running x.2 [7]
    Ready s 0 x.1 ∧ Clean (landed s 0) ∧ CoresWf (landed s 0) := by
  unfold Ready Clean CoresWf; decide +kernel

theorem wit_synSetp : ∀ d ∈ [1, 14], let s := running (synWord 0xC4 d 1 2 0) [7, 7]
    Ready s 0 0xC4 ∧ Clean (landed s 0) ∧ cSD (nextCmd s 0) % 16 ≠ 0 ∧ cSD (nextCmd s 0) % 16 ≠ 15 := by
  unfold Ready Clean; decide +kernel

theorem wit_synScalarAccess : ∀ op ∈ [0xCA, 0xCB], let s := running (synWord op (if op = 0xCA then 2 else 0) 1 (if op = 0xCA then 0 else 2) 0) [pewterBytes - 8]
    let a := (cS ((landed s 0).core 0) (cSA (nextCmd s 0)) + cImmW (nextCmd s 0)).toNat
    Ready s 0 op ∧ Clean (landed s 0) ∧ a % 8 = 0 ∧ a + 8 = pewterBytes := by
  unfold Ready Clean; decide +kernel

/-- Core 0 with semaphore 5 at v, about to wait for 3 of it. -/
def waiting (v : Nat) : State :=
  State.reset.setCore 0 (cSetSem (about (synWord 0xC1 0 0 0 (5 + 3 <<< 6)) []) 5 v)

theorem wit_synControl : ∀ x ∈ [(0xC1, waiting 3), (0xC1, waiting 2), (0xC5, running (synWord 0xC5 0 0 0 2047) []), (0xC7, running (synWord 0xC7 0 0 0 9) []),
      (0xC8, running (synWord 0xC8 0 0 0 0xFFFFFFFF) []), (0xC6, running (cmdOf [(0, 0xC6), (112, 2), (64, 4)]) [])],
    Ready x.2 0 x.1 ∧ CoresWf (landed x.2 0) ∧ FreshIds ((landed x.2 0).core 0) ∧ ((landed x.2 0).core 0).rep = none := by
  unfold Ready CoresWf FreshIds; decide +kernel

theorem wit_synWait : let c := fun v => (landed (waiting v) 0).core 0
    let w := nextCmd (waiting 3) 0
    cSem (c 3) (bitsN (cImm w) 5 0) ≥ cCount w ∧ cSem (c 2) (bitsN (cImm w) 5 0) < cCount w := by decide +kernel

theorem wit_synSwap : let s := running (synWord 0xC7 0 0 0 9) []
    let u := loadsPass (landed s 0) 0
    Ready s 0 0xC7 ∧ CoresWf u ∧ FreshIds (u.core 0) ∧ (u.core 0).check = false := by
  unfold Ready CoresWf FreshIds; decide +kernel

theorem wit_synSkip : let s := running (synWord 0xC5 0 0 0 2047) []
    ((landed s 0).core 0).index + bitsN (cImm (nextCmd s 0)) 10 0 ≤ 2047 := by decide +kernel

theorem wit_synRsignal : let s := running (synWord 0xC3 0 1 0 (1 <<< 6)) [0xFFFF <<< 48 + 3 <<< 46 + 0x510000 + 0x800]
    Ready s 0 0xC3 ∧ (semOfAddr (cS ((landed s 0).core 0) (cSA (nextCmd s 0))).toNat).isSome = true := by
  unfold Ready; decide +kernel

/-- The descriptor of a RACE of no bytes, at Pewter offset 64 of core 0, its race word in near memory. -/
def raceDesc : List Word := [4, BitVec.ofNat 64 (0xD <<< 42 + 0xD <<< 46), 0, BitVec.ofNat 64 (nearAddr 0), BitVec.ofNat 64 (nearAddr 64)] ++ List.replicate 15 0 ++ [BitVec.ofNat 64 (nearAddr 128)] ++ [0, 0, 0]
def collState : State := (running (synWord 0xCD 1 1 0 0) [64]).mputBytes 64 (raceDesc.flatMap fun w => leBytes 8 w.toNat)

theorem wit_synColl : let s := collState
    let a := (cS ((landed s 0).core 0) (cSA (nextCmd s 0)) + cImmW (nextCmd s 0)).toNat
    Ready s 0 0xCD ∧ Clean (landed s 0) ∧ (landed s 0).snoops = [] ∧ a % 64 = 0 ∧ a + 192 ≤ pewterBytes ∧
      (landed s 0).launchGood ((landed s 0).descAt (pewKey 0 a)) = true ∧ (landed s 0).colls.length < 1024 := by
  unfold Ready Clean; decide +kernel

/-- Core 0 blocked by its STASH to the near pools. -/
def stashing (s : State) : State :=
  let c := about (cmdOf [(0, 0x85), (64, 5), (128, opdOf 1 0 13), (112, 1), (176, 256), (61, 1)]) [0x100]
  match execMovStash 0 (s.setCore 0 c) with
  | .next t => t
  | _ => s

theorem wit_stashReply : ∀ s ∈ [stashing pools, stashing State.reset],
    (s.core 0).block = .stash 0 ∧ s.snoops = [] ∧ ∃ f ∈ (s.core 0).flights, findFlight (s.core 0) 0 = some f := by
  decide +kernel

theorem wit_stashGranted : let s := stashing pools
    ∀ f ∈ (s.core 0).flights, let r := stashRequest (landUpTo s 0 9) 0 (cSubop f.cmd) (cDim0 f.cmd * cDim1 f.cmd)
      r.1 = some (nearAddr 0) ∧ (stashRequest (landUpTo (stashing State.reset) 0 9) 0 (cSubop f.cmd) (cDim0 f.cmd * cDim1 f.cmd)).1 = none ∧
      Clean (r.2.setCore 0 { cSetP (cSetS (r.2.core 0) 5 (BitVec.ofNat 64 (nearAddr 0))) 15 false with
        block := .none, tp := max (r.2.core 0).tp 9, movEnd := max (r.2.core 0).tp 9 + 9 }) ∧
      (stashSource s (coreAtIssue (s.core 0) f) 0 f.cmd f.offs).remote = false := by
  unfold Clean; decide +kernel

/-! Witnesses: launching, halting and completing. -/

def aLaunch : Launch := ⟨7, 0, 0, 1, 5, true, [1, 2, 3]⟩

theorem wit_launch : let s := (State.reset.rsetFld Reg.hifStatus 9 8 1).setLaunches 0 [aLaunch]
    (s.core 0).mode = .idle ∧ s.logicalOf 0 ≠ 0xFF ∧ s.modState ≠ 2 ∧ s.modState ≠ 3 ∧ s.launches (s.logicalOf 0) = aLaunch :: [] := by
  decide +kernel

theorem wit_haltRows : let s := running (cmdOf [(0, 0xFF)]) []
    let u := State.reset.setCore 0 { about (synWord 0xC0 0 0 0 0) [] with limit := 2, issued := 2 }
    (s.core 0).mode = .running ∧ blocked (s.core 0) = false ∧ (s.core 0).index < 2048 ∧ (s.core 0).limit = 0 ∧
      opcodeListed (cOpcode (nextCmd s 0)) = false ∧ ((landed s 0).core 0).mode = .running ∧
      ((landUpTo s 0 (max 9 (s.core 0).tp)).core 0).mode = .running ∧
      (u.core 0).mode = .running ∧ blocked (u.core 0) = false ∧ (u.core 0).index < 2048 ∧ (u.core 0).limit ≠ 0 ∧
      (u.core 0).limit ≤ (u.core 0).issued ∧ ((landed u 0).core 0).mode = .running := by decide +kernel

/-- Core 0 blocked by a WAIT for 3 of semaphore 5, of which it holds v. -/
def blockedWait (v : Nat) : State :=
  (State.reset.rsetFld Reg.coreSemTimeout 31 0 100).setCore 0 (cSetSem { about (synWord 0xC0 0 0 0 0) [] with block := .wait 5 3 0 0 } 5 v)

theorem wit_waitTimeout : let s := blockedWait 2
    (s.core 0).block = .wait 5 3 0 0 ∧ s.rfld Reg.coreSemTimeout 31 0 ≠ 0 ∧ cSem ((landUpTo s 0 9).core 0) 5 < 3 ∧
      ((landUpTo s 0 9).core 0).mode = .running := by decide +kernel

theorem wit_waitSatisfied : let s := blockedWait 3
    (s.core 0).block = .wait 5 3 0 0 ∧ cSem (s.core 0) 5 ≥ 3 ∧ 0 = (s.core 0).tp ∧ nextFixed (s.core 0) 9 = none := by decide +kernel

/-- Core 0 draining, after END of code 9 or a halt, of a launch. -/
def drainingAs (e : Option Nat) : State :=
  State.reset.setCore 0 { about (synWord 0xC0 0 0 0 0) [] with mode := .draining, ending := e, launch := some aLaunch }

theorem wit_endDrain : let s := drainingAs (some 9)
    (s.core 0).mode = .draining ∧ (s.core 0).ending = some 9 ∧ noVariable (s.core 0) = true ∧
      ((drained s 0).core 0).ending.isSome = true ∧ ((loadsPass (drained s 0) 0).core 0).launch = some aLaunch := by decide +kernel

theorem wit_haltDrain : let s := drainingAs none
    (s.core 0).mode = .draining ∧ (s.core 0).ending = none ∧ noVariable (s.core 0) = true ∧
      lastWv (s.core 0) ≤ (s.core 0).haltCycle + drainCycles ∧
      ((writeDump (loadsPass (drained s 0) 0) 0 0).core 0).launch = some aLaunch ∧
      let x := landUpTo s 0 (min (max 9 (s.core 0).haltCycle) ((s.core 0).haltCycle + drainCycles))
      ((writeDump (loadsPass (abandonCore x 0) 0) 0 (x.core 0).flights.length).core 0).launch = some aLaunch := by
  decide +kernel

theorem wit_haltedAndReset : ((State.reset.setCore 0 { coreReset with mode := .halted }).core 0).mode = .halted ∧
    ((abandonCore State.reset 0).core 0).launch = none := by decide +kernel

/-- The module once core 0 has run VEC.NEG, which is still in flight, and drains. -/
def inFlight : State :=
  match execVecNeg 0 (vecState 0x45 false) with
  | .next t => t.setCore 0 { t.core 0 with mode := .draining }
  | _ => State.reset

theorem wit_fixedWriteback : nextIssue (inFlight.core 0) = none ∧ CoresWf inFlight ∧
    tabWf (fun _ => (0 : Word)) (inFlight.core 0).scalars = true ∧
    ∃ f ∈ (inFlight.core 0).flights, nextFixed (inFlight.core 0) (lastWv (inFlight.core 0)) = some f ∧ f.semAdd = [] ∧ f.sig = none := by
  unfold CoresWf; decide +kernel

/-- The module once core 0 has run MOV.COPY from near memory, which is still in flight. -/
def copying : State :=
  match execMovCopy 0 9 [] (movHere (0x80, 6, 6)) with
  | .next t => t
  | _ => State.reset

theorem wit_varComplete : ∃ x ∈ (copying.core 0).flights, findFlight (copying.core 0) 0 = some x ∧ x.vlat = true ∧ x.formed = true ∧
    x.waiting = 0 ∧ x.op ∉ [0x50, 0x84, 0x87, 0xCD] ∧ x.op ≠ 0xCD ∧ copying.snoops = [] ∧ findFlight ((landUpTo copying 0 99).core 0) 0 = some x := by
  decide +kernel

theorem wit_lateIncrement : (State.reset.core 0).mode ≠ .running ∧ (State.reset.core 0).mode ≠ .draining := by decide +kernel


/-! Witnesses: registers, memory and pools. -/

theorem wit_regsAndMemory : RegsWf State.reset ∧ Inv State.reset := by
  exact ⟨rfl, rfl, rfl, rfl, fun _ => ⟨rfl, fun f hf => by cases hf⟩, rfl,
    rfl, rfl⟩

theorem wit_raised : let s := State.reset.raise evCORE_HALT sevFATAL [(8, 0)]
    RegsWf s ∧ (∃ l ∈ s.ev.latches, l.code = evCORE_HALT) ∧ (∀ l ∈ s.ev.latches, l.code ≠ evSCALE_REBUILT) ∧ s.ev.nextSeq < 2 ^ 32 ∧
      s.rfld Reg.twnFatal0 15 0 ≠ 0 ∧ State.reset.rfld Reg.twnFatal0 15 0 = 0 := by
  unfold RegsWf; decide +kernel

/-- A plain register for each size and half: CORE_SEM_TIMEOUT and TWN_HP_CFG. -/
theorem wit_regWrite : ∀ off ∈ [Reg.coreSemTimeout, Reg.twnHpCfg], ∀ x ∈ [(8, 0), (4, 0), (4, 4)],
    let a := off + x.2
    ((x.1 = 8 ∧ a % 8 = 0) ∨ (x.1 = 4 ∧ a % 4 = 0)) ∧ portHole (a - a % 8) = false ∧
      ∃ r ∈ regRow (a - a % 8), plainReg (a - a % 8) r = true := by decide +kernel

theorem wit_srProbe : let s := State.reset
    s.rbit Reg.hifSetupLock 1 = false ∧ (s.rsetFld Reg.coreSrCtrl 31 0 5).rbit Reg.coreSrCtrl 33 = true ∧
      ((s.rsetBit Reg.coreSrCtrl 33 false).rsetFld Reg.coreSrCtrl 31 0 5).rbit Reg.coreSrCtrl 33 = false ∧
      (s.setMg fun m => { m with srJob := some 9 }).mg.srJob = some 9 ∧ s.partLost 48 = false ∧ s.perst = false ∧
      s.mg.bootStep ≠ 0 := by decide +kernel

theorem wit_poolInit : (∀ n < 192, (State.reset.core n).mode = .idle) ∧ State.reset.rbit Reg.memPoolCtrl 3 = false := by decide +kernel

/-- The pools being built, with COUNT 1 and BASE b of the first pool of logical core 0. -/
def building (b : Nat) : State :=
  (State.reset.rsetBit Reg.memPoolCtrl 3 true).rput (Reg.memPpoolCfg 0 0) (BitVec.ofNat 64 (b + 1 <<< 36))

def builtAll (s : State) : State × Option (Nat × Nat) :=
  poolSets.foldl (fun (acc : State × Option (Nat × Nat)) set =>
    let x := buildSet acc.1 set
    (x.1, acc.2.orElse fun _ => x.2.map fun k => (set, k))) (s, none)

theorem wit_poolInitDone : (building 0).rbit Reg.memPoolCtrl 3 = true ∧ (builtAll (building 0)).2 = none ∧
    (building 1).rbit Reg.memPoolCtrl 3 = true ∧ (builtAll (building 1)).2 = some (0, 0) := by decide +kernel

theorem wit_buildPool : State.reset.memWf = true ∧ tabWf (fun _ => poolReset) State.reset.pools = true := by decide +kernel

theorem wit_poolGrant : let s := pools
    let p := s.pool 2048
    let key := setKey s 256 (p.base + 0 * bufSize 0)
    sizeCode 256 = some 0 ∧ s.rbit Reg.memPoolCtrl 1 = true ∧ p.broken = false ∧ p.count ≠ 0 ∧ p.free ≠ 0 ∧ isBuffer s 256 0 p p.head = some 0 ∧
      s.badIn key 8 = [] ∧ (isBuffer s 256 0 p (s.mnat key 8)).isSome = true := by decide +kernel

/-- A second holder of the buffer. -/
def heldTwice : State := heldPool.mputWord (countKey heldPool 256 0 (heldPool.pool 2048) 0) 2

theorem wit_poolRelease : ∀ x ∈ [(pools, 0), (heldPool, 1), (heldTwice, 2)],
    bufferOf x.1 (nearAddr 0) = some (256, 0, 0) ∧ x.1.mnat (countKey x.1 256 0 (x.1.pool 2048) 0) 8 = x.2 ∧
      x.1.badIn (countKey x.1 256 0 (x.1.pool 2048) 0) 8 = [] ∧ x.1.ev.latches.all (fun l => l.code != evPOOL_DOUBLE_FREE) = true := by decide +kernel

/-- Core 0 with a flight that waits for the reply of a request of tag 9. -/
def asking (kind : ReqKind) : State :=
  { copying with reqs := [⟨corePort 0, 9, kind, .core 0 0 2, 5, 2 ^ 64, 8⟩] }.rsetFld Reg.memReqTimeout 31 0 50

theorem wit_requestTimeout : let s := asking .rd
    s.rfld Reg.memReqTimeout 31 0 ≠ 0 ∧ ∃ r ∈ s.reqs, s.reqs.find? (fun r => r.port == corePort 0 && r.tag == 9) = some r ∧ r.who = .core 0 0 2 := by
  decide +kernel

theorem wit_scrub : (∃ reader, reader = true ∨ State.reset.rbit Reg.memScrubCtrl 0 = true) ∧
    let s := State.reset.rsetBit Reg.memScrubCtrl 0 true
    ∀ key ∈ [0, 2 ^ 46], s.rbit Reg.memScrubCtrl 0 = true ∧ keyTier key ≤ 1 ∧ s.badIn (granule key) 1 = [] := by decide +kernel

theorem wit_stackTemp : let s := State.reset
    let was := s.rfld (Reg.memStackStatus 31) 10 8
    1 ≤ was ∧ was ≤ 4 ∧ was < stepDown (stepUp was 105) 105 ∧ s.rfld (Reg.memStackStatus 31) 7 0 < 110 ∧
      let t := s.rsetFld (Reg.memStackStatus 31) 10 8 4
      stepDown (stepUp (t.rfld (Reg.memStackStatus 31) 10 8) 20) 20 < 4 := by decide +kernel

/-- The module in full operation with its host. -/
def hosted : State := (State.reset.rsetBit Reg.hifStatus 5 true).rsetBit Reg.hifStatus 6 true

theorem wit_hdm : ∀ range ∈ [0, 1], ∀ off ∈ [0, hdmSize range - 1], ∀ caches : Bool, let s := hosted
    let k := hdmKey range (off - off % 64)
    s.hostUp = true ∧ off - off % 64 < hdmSize range ∧ s.partLost (partOf k) = false ∧ s.filterFull k caches = none ∧ s.badIn k 64 = [] := by
  decide +kernel

theorem wit_bisnp : ∀ inv : Bool, let s := { hosted with biWait := [(2 ^ 46, inv)] }
    (2 ^ 46, inv) ∈ s.biWait ∧ (List.replicate 64 (0 : Byte)).length = 64 := by decide +kernel


/-! Witnesses: frames delivered to the module's parts, and replies. -/

/-- A frame of a type from module 5, of TAG 9. -/
def frameOf (ty : Nat) (a : Nat) (aux : Nat) (payload : List Byte) : Frame :=
  mkFrame { dst := 0xFFFF, src := 5, tc := 2, vc := vcREQ, ty := ty, flow := 0, tag := 9, addr := BitVec.ofNat 64 a, aux := aux, payload := payload }

/-- A frame delivered at a port, from link port 1. -/
def arrived (f : Frame) (port : Nat) : Delivered := ⟨f, port, 1, vcREQ, 1, 0, none, none, 0, 0⟩

/-- The key that an access reaches, and the cause of the ERR that turns it away. -/
def okKey : Except Nat Nat → Option Nat
  | .ok k => some k
  | .error _ => none
def errCause : Except Nat Nat → Option Nat
  | .ok _ => none
  | .error c => some c

theorem reach_of_okKey {x : Except Nat Nat} {k : Nat} (h : okKey x = some k) : x = .ok k := by
  cases x <;> simp_all [okKey]
theorem reach_of_errCause {x : Except Nat Nat} {k : Nat} (h : errCause x = some k) : x = .error k := by
  cases x <;> simp_all [errCause]

def withArrived (s : State) (f : Frame) (port : Nat) : State := { s with deliv := [arrived f port] }

theorem wit_requestFrames : ∀ x ∈ [(tyWR, 0, [1, 2]), (tyRD, 1, []), (tyRD, 4096, []), (tyATOM, 4, []), (tyFLOW, 0, [7])],
    let s := withArrived State.reset (frameOf x.1 (nearAddr 64) x.2.1 x.2.2) 122
    s.snoops = [] ∧ ∃ y ∈ s.takeType x.1, okKey (s.reach (nearAddr 64) (max 1 x.2.2.length)) = some (2 ^ 46 + 64) ∧
      okKey (s.reach (nearAddr 64) 4096) = some (2 ^ 46 + 64) ∧ y.2.badIn (2 ^ 46 + 64) 4096 = [] ∧ fAux y.1.frame % 2 ^ 13 = x.2.1 := by
  decide +kernel

theorem wit_requestOutside : ∀ ty ∈ [tyWR, tyRD, tyATOM], let s := withArrived State.reset (frameOf ty (nearAddr (2 ^ 40)) 8 []) 122
    (s.takeType ty).isSome = true ∧ s.localKey (nearAddr (2 ^ 40)) 8 = none ∧ errCause (s.reach (nearAddr (2 ^ 40)) 8) = some 1 := by decide +kernel

/-- A TUNGSTEN module without stack 0. -/
def tungsten : State := { State.reset.rsetFld Reg.hifStatus 9 8 3 with lost := [(0, true)] }

theorem wit_requestLost : tungsten.localKey (nearAddr 0) 8 = some (2 ^ 46) ∧ tungsten.modState = mTUNGSTEN ∧
    tungsten.runLost (2 ^ 46) 8 = true ∧ errCause (tungsten.reach (nearAddr 0) 8) = some 2 ∧
    State.reset.localKey (nearAddr (2 ^ 40)) 8 = none := by decide +kernel

theorem wit_sig : let a := 3 <<< 46 + 0x510000 + 0xBF000 + 0x9F8
    let s := withArrived State.reset (frameOf tySIG a 1 []) 128
    s.snoops = [] ∧ (s.takeType tySIG).isSome = true ∧ semOfAddr a = some (191, 63) ∧ s.modState ≠ mTUNGSTEN := by decide +kernel

/-- A module whose core 0 awaits the reply of a request of a kind, of TAG 9 to module 5, and a reply of a type. -/
def replying (kind : ReqKind) (ty : Nat) : State := withArrived (asking kind) (frameOf ty 0 0 []) 128

theorem wit_replies : ∀ x ∈ [(ReqKind.rd, tyRDDATA), (.wr, tyWRACK), (.sig, tySIGACK), (.msg, tyMSGACK), (.atom, tyATOMRSP), (.rd, tyERR)],
    let s := replying x.1 x.2
    ∃ y ∈ s.takeReply x.2, ∃ r ∈ y.2.1, r.kind = x.1 ∧ r.who = .core 0 0 2 ∧ (findFlight ((y.2.2.dropReq r.tag).core 0) 0).isSome = true := by
  decide +kernel

theorem wit_lateReply : ∀ ty ∈ [tyRDDATA, tyWRACK, tySIGACK, tyMSGACK, tyATOMRSP, tyERR],
    ∃ y ∈ (withArrived State.reset (frameOf ty 0 0 []) 128).takeReply ty, y.2.1 = none := by decide +kernel

/-- A MSG for the near pool of core 0's group. -/
def aMsg : Frame := frameOf tyMSG (nearAddr 0) 1 [1, 2, 3]

theorem wit_msg : ∀ s ∈ [pools, State.reset], let t := withArrived s aMsg 128
    let d := arrived aMsg 128
    let u := { t with deliv := t.deliv.erase d }
    t.snoops = [] ∧ t.firstDeliv tyMSG = some d ∧ t.modState ≠ mTUNGSTEN ∧
      ((poolRequest u (msgSet t d) d.frame.payload.length).1.isSome = true ↔ s = pools) := by decide +kernel

theorem wit_msgLost : let t := withArrived { tungsten with lost := [(49, true)] } aMsg 128
    t.snoops = [] ∧ t.firstDeliv tyMSG = some (arrived aMsg 128) ∧ t.modState = mTUNGSTEN ∧
      t.partLost (49 + t.physOf (msgCore (arrived aMsg 128)) / 96) = true := by decide +kernel

theorem wit_msgWait : ∀ s ∈ [pools, State.reset], let d := arrived aMsg 128
    let t := { s with msgWait := [d] }
    t.snoops = [] ∧ t.msgWait[0]? = some d ∧
      ((poolRequest t (msgSet t d) d.frame.payload.length).1.isSome = true ↔ s = pools) := by decide +kernel

/-! Witnesses: links. -/

/-- Quad 0 enabled as one link of four lanes, whose link is in a phase. -/
def linked (ph : LinkPhase) : State :=
  let s := (State.reset.rput (Reg.lnkQcfg 0) 0x11#64).rsetFld (Reg.lnkQmap 0) 14 0 (0 + 1 <<< 3 + 2 <<< 6 + 3 <<< 9 + 4 <<< 12)
  let s := (upFrom 0 5).foldl (fun s j => s.setLane 0 j { laneReset with rxLog := some j, plane := some j, sat := true, peerReady := true }) s
  s.setLink 0 { linkReset with phase := ph }

/-- The Solder link of quads 30 and 31, in service on lanes 0 to 3 of quad 30, with a spare. -/
def soldered : State :=
  let s := (State.reset.rput (Reg.lnkQcfg 30) 0x11#64).rsetFld (Reg.lnkQmap 30) 14 0 (0 + 1 <<< 3 + 2 <<< 6 + 3 <<< 9 + 4 <<< 12)
  let s := (upFrom 0 5).foldl (fun s j => s.setLane 30 j { laneReset with rxLog := some j }) s
  s.setLink 120 { linkReset with phase := .live }

theorem wit_linkEnable : let s := State.reset
    s.rwlOpen false = true ∧ bit (s.rget (Reg.lnkQcfg 29)) 0 = false ∧ (s.rsetBit Reg.hifSetupLock 1 true).rwlOpen false = false := by decide +kernel

theorem wit_linkEnable2 : let s := linked .live
    bit (s.rget (Reg.lnkQcfg 0)) 0 = true ∧ s.rwlOpen false = true ∧ bit (s.rget (Reg.lnkQcfg 0)) 3 ≠ bit 0x19#64 3 ∧ bit 0x19#64 0 = true ∧
      fld (s.rget (Reg.lnkQcfg 0)) 2 1 ≠ fld 0x13#64 2 1 ∧ bit 0x13#64 0 = true := by decide +kernel

theorem wit_spareNow : (let s := linked .live
    (s.quadLinks 0)[0]? = some 0 ∧ 3 < s.linkW 0 ∧ (s.link 0).phase.serving = true ∧ (s.link 0).sparing = none ∧
      s.spareReady ((0 + 3) / 4) = true ∧ (s.activeKeys 0).contains (0 + 3) = true) ∧
    (let s := soldered
    (s.link 120).phase.serving = true ∧ (s.link 120).sparing = none ∧
      s.spareReady ((120 + 3) / 4) = true ∧ (s.activeKeys 120).contains (120 + 3) = true) := by decide +kernel

theorem wit_linkTimers : let s := (linked .live).setLink 0 { (linked .live).link 0 with unacked := true, naking := true }
    (s.link 0).phase = .live ∧ (s.link 0).phase.serving = true ∧ (s.link 0).unacked = true ∧ (s.link 0).naking = true ∧
      ∀ x ∈ s.rxLanes 0, s.lossy x.1 x.2 = false := by decide +kernel

/-- A good marker of plane j. -/
def goodMarker (j : Nat) : Word := State.reset.markerOf 0 j 0 0 true

theorem wit_marker : ∀ x ∈ [(0, some false), (4, some false), (1, none)], let s := linked .mark
    let j := x.1
    let w := goodMarker (if x.2 = none then 2 else j)
    markerGood w = true ∧ s.laneTrains 0 j = true ∧
      let a := (s.rsetBit (Reg.lnkQmap 0) (16 + j) false).rsetFld (Reg.lnkPcnt1 0 j) 39 32 255
      (a.setLane 0 j { a.lane 0 j with plane := some (fld w 2 0), peerCond := fld w 14 10, sat := true, peerReady := bit w 22 }).laneOrder 0 = x.2 := by
  decide +kernel

theorem wit_training : (linked .mark).quadOn 0 = true ∧
    ((linked .mark).quadLinks 0).filter (fun p => ((linked .mark).link p).phase == .mark && (linked .mark).peerSeen p) ≠ [] ∧
    2 ≤ ((upFrom 0 5).filter fun j => ((linked .mark).lane 0 j).plane.isSome).length ∧
    (let s := (upFrom 1 4).foldl (fun (s : State) j => s.setLane 0 j laneReset) (linked .mark)
     (s.quadLinks 0).filter (fun p => (s.link p).phase == .mark && s.peerSeen p) ≠ [] ∧
     ((upFrom 0 5).filter fun j => (s.lane 0 j).plane.isSome).length = 1) ∧
    tabWf (fun _ => laneReset) (linked .mark).lanes = true := by decide +kernel

theorem wit_fastRetrain : ∀ ph ∈ [LinkPhase.fmark, .finit], ((linked ph).link 0).phase = ph ∧ ((linked ph).link 0).failed = 0 ∧
    1 ≤ (((linked ph).setLink 0 { (linked ph).link 0 with failed := 1 }).link 0).failed := by decide +kernel

theorem wit_spareTrain : let s := (linked .live).setLink 0 { (linked .live).link 0 with sparing := some ⟨1, 0, 0, true, true, false, none, false⟩ }
    ∃ sp ∈ (s.link 0).sparing, sp.accepted = true ∧ sp.moved = none := by decide +kernel

/-- The link with lane 0 lost, with or without a spare; all: every lane lost for 10 us. -/
def lossyLink (spare all : Bool) : State :=
  let s := (linked .live).rsetBit (Reg.lnkPcnt1 0 0) 40 true
  let s := if all then (upFrom 0 5).foldl (fun (s : State) j =>
    (s.rsetBit (Reg.lnkPcnt1 0 j) 41 true).setLane 0 j { s.lane 0 j with gone := true }) s else s
  if spare then s else s.rsetFld (Reg.lnkQmap 0) 14 12 7

theorem wit_laneLoss : (linked .live).rbit (Reg.lnkPcnt1 0 4) 40 = false ∧ (linked .live).rbit (Reg.lnkPcnt1 0 4) 41 = false ∧
    (∀ x ∈ [(true, false), (false, false), (false, true)], let s := lossyLink x.1 x.2
      let a := s.setLane 0 0 { s.lane 0 0 with gone := true }
      let b := a.setLane 0 0 { a.lane 0 0 with bringCond := true }
      s.lossy 0 0 = true ∧ a.linkOfLane 0 0 = some (0, 0) ∧ (a.link 0).phase.serving = true ∧
        (x.1 = true → a.spareAuto 0 = true ∧ a.spareReady 0 = true) ∧
        (x.1 = false → a.spareReady 0 = false ∧ (b.laneHopes 0 = [] ↔ x.2 = true))) := by
  decide +kernel

theorem wit_lossEnds : (∀ j ∈ [0, 4], let s := linked .live
    let c := s.setLane 0 j { s.lane 0 j with cdr := false }
    (j = 0 → c.linkOfLane 0 j = some (0, 0) ∧ (c.link 0).phase = .live) ∧ (j = 4 → c.linkOfLane 0 j = none)) := by decide +kernel

theorem wit_pll : tabGet (fun _ => false) [(0, true)] 0 = true ∧ (linked .live).quadOn 0 = true := by decide +kernel

theorem wit_clock : let u := { linked .live with quadMis := tabSet (fun _ => 0) [] 0 1 }.raise evCLOCK_MISMATCH sevCONTAINED [(8, 0), (8, 0)]
    tabGet (fun _ => 0) (linked .live).quadMis 0 = 0 ∧ u.linkOfLane 0 0 = some (0, 0) ∧ tabGet (fun _ => 0) [(0, 1)] 0 ≠ 0 ∧
      (0 : Nat) < tabGet (fun _ => 0) [(0, 1)] 0 - 1 + 1600000000 := by decide +kernel

/-! Codewords, as the symbols on a lane: one of zeros; a control-only one, a multiple of the generator; and one that all
roots of the generator but the last have in common, which does not decode. -/

def spell (symbols : List Nat) : List Nat := pairLevels (symbols.flatMap (bitsOf 10))
def zeroLevels : List Nat := zl 544 ++ zl 544 ++ zl 544 ++ zl 544 ++ zl 544
def ctrlLevels : List Nat := spell ((1 :: rsGen.reverse).map (gfMul 1023) ++ List.replicate 513 0)
def badLevels : List Nat :=
  spell (List.replicate 514 0 ++ [1, 287, 513, 656, 197, 885, 815, 1011, 141, 211, 282, 451, 394, 740, 375, 387, 301, 883, 11,
    812, 927, 370, 437, 2, 961, 563, 614, 564, 941, 464])

theorem wit_wireData : receiveLevels false false 0 zeroLevels = some (0, ⟨0, 0, List.replicate 10 (List.replicate 8 0)⟩) := by decide +kernel
theorem wit_wireControl : (receiveLevels false false 0 ctrlLevels).map (fun x => x.2.map) = some 0x3FF := by decide +kernel
theorem wit_wireBad : receiveLevels false false 0 badLevels = none ∧ receivedMap false false 0 badLevels = 0 := by decide +kernel

/-- A control slot of a kind from a link in a phase, its word 4 given. -/
def slotFrom (ph : LinkPhase) (kind : Nat) (w4 : Word) : List Word := (linked ph).lcsSlot 0 kind w4 false

theorem wit_codewords : ∀ ph ∈ [LinkPhase.init, .live, .finit], let s := linked ph
    (s.link 0).phase = ph ∧ s.rbit (Reg.lnkQmap 0) 16 = false ∧ (s.lane 0 0).rxLast = 0 ∧ s.precode 0 = false ∧ (s.lane 0 0).miss ≠ 3 ∧
      (∀ r ∈ [some 0, none], let a := s.laneHears 0 0 r 0
        let u := (a.heardLink 0 0 r.isSome).2
        (a.heardLink 0 0 r.isSome).1 = some 0 ∧ (u.link 0).phase = ph ∧ (u.link 0).rxSeq = 0) ∧
      (let s := s.setLink 0 { s.link 0 with rxSeq := 1023 };
        (((s.laneHears 0 0 (some 0) 0).heardLink 0 0 true).2.link 0).rxSeq ≠ 0) ∧
      lcsGood (slotFrom ph 0 0) = true ∧ lcsGood ((slotFrom ph 0 0).set 6 1) = false := by decide +kernel

theorem wit_wireRoundTrip : let c : Codeword := ⟨1023, 1023, List.replicate 10 (List.replicate 8 (BitVec.allOnes 64))⟩
    c.seq < 1024 ∧ c.map < 1024 ∧ c.slots.length = 10 ∧ ∀ w ∈ c.slots, w.length = 8 := by decide +kernel

/-- A link with a control slot to act on. -/
def slotted (ph : LinkPhase) (w : List Word) : State := (linked ph).setLink 0 { (linked ph).link 0 with lcs := [w] }

theorem wit_lcsKinds : ∀ k ∈ [0, 1, 2, 3], ((slotted .live (slotFrom .live k 0)).link 0).lcs = slotFrom .live k 0 :: [] ∧
    lcsKind (slotFrom .live k 0) = k := by decide +kernel

/-- The state in which an INIT slot is judged. -/
def initAt (ph : LinkPhase) (w : List Word) : State :=
  ((slotted ph w).setLink 0 { (slotted ph w).link 0 with lcs := [] }).takeFenceMark 0 (bit (w.getD 0 0) 16)

theorem wit_lcsInit : (∀ x ∈ [(LinkPhase.init, LinkPhase.init), (.init, .finit), (.finit, .finit), (.finit, .init)], let w := slotFrom x.2 2 0
      let m := initAt x.1 w
      let v := (m.notePeer 0 w).goLive 0 (x.1 = .finit)
      (m.link 0).phase = x.1 ∧ m.initClash 0 w = none ∧ bit (w.getD 0 0) 17 = decide (x.2 = .finit) ∧ ((m.notePeer 0 w).link 0).trained = false ∧
        (v.link 0).degraded = false ∧ (v.link 0).unplanned = [] ∧ (v.link 0).narrowing = false) ∧
    (let w := (slotFrom .init 2 0).set 3 0;
      ((initAt .init w).link 0).phase = .init ∧ (initAt .init w).initClash 0 w = some 1) := by
  decide +kernel

theorem wit_lcsSpare : let w := slotFrom .live 3 (spareWord 3 1023 false false)
    let u := (slotted .live w).setLink 0 { (slotted .live w).link 0 with lcs := [] }
    let v := (u.commonLcs 0 w).takeNak 0 w
    bit (w.getD 4 0) 14 = false ∧ bit (w.getD 4 0) 13 = false ∧ (v.link 0).sparing = none ∧
      v.spareReady ((0 + fld (w.getD 4 0) 2 0) / 4) = true ∧ (v.activeKeys 0).contains (0 + fld (w.getD 4 0) 2 0) = true := by decide +kernel


/-! Witnesses: the switch. -/

/-- Module 7, which reaches module 9 with its route's STATE, D and first candidate as given, the links of some ports live
with 20 cells of credit on every VC. -/
def switchOf (st d c : Nat) (live : List Nat) : State :=
  let s := (State.reset.rput Reg.swcId 7#64).rput (Reg.swcRoute 9) (BitVec.ofNat 64 (d + c <<< 8 + 0xFFFFFF <<< 16 + st <<< 40))
  live.foldl (fun s p => s.setLink p { linkReset with phase := .live, cred := (upFrom 0 6).map fun v => (v, 20) }) s

/-- A frame of no payload from module 7 to a module, on a VC. -/
def toward (dst vc ty : Nat) : Frame :=
  mkFrame { dst := dst, src := 7, tc := 2, vc := vc, ty := ty, flow := 0, tag := 9, addr := BitVec.ofNat 64 (nearAddr 64), aux := 8 }

/-- The frame f in the buffer as entry 0, from port 128, with one copy. -/
def heldOf (f : Frame) (dest : Dest) (vc : Nat) : Held :=
  { id := 0, inPort := 128, inVc := fVc f, cells := 1, shared := 0, at_ := 0, slots := frameSlots f, need := (frameSlots f).length
    whole := true, bad := false, sending := 0, copies := [⟨dest, vc, 0, 0⟩] }

/-- The state with that frame waiting at a port of a class that its scheduler holds active. -/
def State.waitingAt (s : State) (f : Frame) (dest : Dest) : State :=
  let s := { s with buf := [heldOf f dest (fVc f)], nextFrame := 1, nextJoin := 1 }
  match dest with | .port p => s.onJoin p (fTc f) | .adaptive => s

theorem wit_internalArrive : let f := toward 9 vcREQ tyRD
    let s := { switchOf 1 3 5 [3] with inj := [(128, [f])], cells := [(8 * 128 + 2, ⟨0, 0, 17, 0, 0⟩)] }
    isLinkPort 128 = false ∧ firstFit s 128 [] (s.injQ 128) = some f := by decide +kernel

/-- A link port with slots received. -/
def received (ws : List (List Word)) : State := (switchOf 1 3 5 [3]).setLink 0 { linkReset with phase := .live, rxSlots := ws }

theorem wit_linkArrive : let h := (toward 9 vcREQ tyRD).hdr
    let h2 := (frameOf tyWR (nearAddr 0) 0 [1, 2]).hdr
    (∀ w ∈ [h, h.set 7 1, h2], let u := (received [w]).absorb 0
      (u.link 0).cur = none ∧ (u.link 0).skip = 0 ∧ (u.link 0).rxSlots = w :: []) ∧
    hcrcGood ⟨h, [], []⟩ = true ∧ hcrcGood ⟨h.set 7 1, [], []⟩ = false ∧ slotsNeed h = 1 ∧ hcrcGood ⟨h2, [], []⟩ = true ∧ slotsNeed h2 ≠ 1 := by
  decide +kernel

/-- A two-byte write, of which a link has received all but the last slot, and then that. -/
theorem wit_linkTail : let f := frameOf tyWR (nearAddr 0) 0 [1, 2]
    let h := { heldOf f (.port 128) vcREQ with slots := (frameSlots f).take 1, whole := false, need := 4, inPort := 0 }
    let s := { (received ((frameSlots f).drop 1)).setLink 0 { (received ((frameSlots f).drop 1)).link 0 with cur := some 0 } with buf := [h] }
    let u := s.absorb 0
    (u.link 0).cur = some 0 ∧ (u.link 0).rxSlots = f.trailer :: [] ∧
      ∃ x ∈ u.held1 0, x.slots.length + 1 = x.need := by decide +kernel

/-- A route as data: the cause and port of a frame that is sunk, the copies of one that is held. -/
def routedAs : Routed → Option (Cause × Nat) × List (Dest × Nat)
  | .sink c o => (some (c, o), [])
  | .copies l => (none, l)

/-- The switch with a fence in effect at a port. -/
def fencedAt (p : Nat) (s : State) : State := { s with fences := [(p, true)] }

theorem wit_headerFates : let s := switchOf 1 3 5 [3]
    let f := toward 9 vcREQE tyRD
    State.reset.flatId = 0xFFFF ∧ s.flatId ≠ 0xFFFF ∧ s.fenced 0 = false ∧ (fencedAt 0 s).fenced 0 = true ∧ (fencedAt 0 s).flatId ≠ 0xFFFF ∧ malformedHdr f 0 = false ∧ fMcast f = false ∧ malformedHdr (toward 9 vcREQ 0x3F) 0 = true ∧
    slotsFrame (frameSlots f) = f ∧
    routedAs (s.routeOf f 0) = (none, [(.port 3, vcREQE)]) ∧
    routedAs ((switchOf 0 3 5 [3]).routeOf f 0) = (some (.noRoute, 255), []) ∧
    (switchOf 0 3 5 [3]).flatId ≠ 0xFFFF ∧ (switchOf 0 3 5 [3]).fenced 0 = false ∧ (s.onJoin 3 2).usable 3 = true ∧ (s.enter 0 (frameSlots f)).1 = true := by decide +kernel

/-- COORD mode with a low ID. -/
def coordSwitch : State := (switchOf 1 3 5 [3]).rput Reg.swcId (7#64 ||| 0x10000#64)

theorem wit_routes : let f := toward 9 vcREQ tyRD
    fType f ≠ tyMIRROR ∧ fType f ≠ tyMIRRORACK ∧ fDst (toward 7 vcREQ tyRD) = (switchOf 1 3 5 []).flatId ∧ fDst f ≠ (switchOf 1 3 5 []).flatId ∧
    (∀ st ∈ [0, 1, 2, 3], (switchOf st 3 5 []).rfld (Reg.swcRoute 9) 41 40 = st ∧ (switchOf st 3 5 []).coord = false) ∧
    coordSwitch.coord = true ∧ fDst (toward 0x8000 vcREQ tyRD) ≠ coordSwitch.flatId ∧ (fDst (toward 0x8000 vcREQ tyRD)).testBit 15 = true ∧
    coordSwitch.coord = true ∧ fDst f ≠ coordSwitch.flatId ∧ (fDst f).testBit 15 = false ∧
    fType (toward 9 vcREQ tyMIRROR) = tyMIRROR ∧ (∀ q ∈ ((fencedAt 3 (switchOf 1 3 5 [3])).portsOf 9).1 :: ((fencedAt 3 (switchOf 1 3 5 [3])).portsOf 9).2,
      (fencedAt 3 (switchOf 1 3 5 [3])).usable q = false) ∧
    (∃ q ∈ ((switchOf 1 3 5 [5]).portsOf 9).1 :: ((switchOf 1 3 5 [5]).portsOf 9).2, (switchOf 1 3 5 [5]).usable q = true) ∧
    (∀ v ∈ [vcREQ, vcRSP], fVc (toward 9 v tyRD) = v) ∧ fVc (toward 9 vcREQE tyRD) ≠ vcREQ ∧ fVc (toward 9 vcREQE tyRD) ≠ vcRSP ∧
    ((switchOf 1 3 5 [3]).portsOf 9).1 = 3 ∧ (switchOf 1 3 5 [3]).usable 3 = true ∧ (switchOf 1 3 5 []).usable 3 = false ∧
    (switchOf 1 3 5 []).fenced 3 = false ∧ (fencedAt 3 (switchOf 1 3 5 [3])).fenced 3 = true ∧
    (fencedAt 3 (switchOf 1 3 5 [3])).usable 3 = false := by decide +kernel

/-- The switch with a frame for module 9 that has not chosen its port. -/
def choosing (live : List Nat) : State := (switchOf 1 3 5 live).waitingAt (toward 9 vcREQ tyRD) .adaptive
/-- Its link 3 without credit. -/
def spent : State := (choosing [3]).setLink 3 { (choosing [3]).link 3 with cred := [] }

theorem wit_adaptive : (∀ s ∈ [choosing [3, 5], choosing [3], spent, choosing []], ∃ h ∈ s.held1 0,
      ∃ c ∈ h.copies.find? (fun c => c.dest == .adaptive), c.vc = vcREQ ∧ h.cells = 1 ∧ fDst (heldFrame h) = 9 ∧
      bestPort s c.vc ((s.portsOf 9).2.filter fun p => s.usable p && s.hasCredit p c.vc h.cells) =
        (if s = choosing [3, 5] then some 5 else none) ∧ (s.portsOf 9).1 ≠ 0xFF) ∧
    (choosing [3]).usable 3 = true ∧ (choosing [3]).hasCredit 3 (escVc vcREQ) 1 = true ∧
    spent.hasCredit 3 (escVc vcREQ) 1 = false ∧ (∃ q ∈ (spent.portsOf 9).1 :: (spent.portsOf 9).2, spent.usable q = true) ∧
    (∀ q ∈ ((choosing []).portsOf 9).1 :: ((choosing []).portsOf 9).2, (choosing []).usable q = false) ∧ (choosing []).fenced 3 = false ∧
    (∀ s ∈ [choosing [3, 5], choosing [3], spent, choosing []], ∃ h ∈ s.held1 0, (s.routeFirst (heldFrame h)).isNone = true) ∧
    ∃ h ∈ (choosing [3]).held1 0, ((choosing [3]).rput (Reg.swcRoute 9) 0#64).routeFirst (heldFrame h) |>.any fun r =>
      routedAs r = (some (.noRoute, 255), []) := by
  decide +kernel

/-- A frame waiting at port 3 of a switch whose clock stands at t, class 2's age limit being 1. -/
def leaving (t : Nat) (dest : Nat) (f : Frame) : State :=
  { ((switchOf 1 3 5 [3]).rsetFld Reg.swcAgeLimit0 47 32 1).waitingAt f (.port dest) with clock := t }

theorem wit_outputs : let f := toward 9 vcREQ tyRD
    let m := toward 7 vcRSP tyMGMT
    (∀ x ∈ [(leaving 1 3 f, 3, false, false), (leaving 1000 3 f, 3, true, false), (leaving 1 128 f, 128, false, false), (leaving 1000 128 f, 128, true, false),
        (leaving 1 122 m, 122, false, true)],
      x.1.mg.thr.slices ≠ 0 ∧ x.1.usable x.2.1 = true ∧
      ∃ r ∈ x.1.pick x.2.1, r.2.aged r.1.1 = x.2.2.1 ∧ (r.1.1.copies.filter fun c => c != r.1.2) = [] ∧ r.1.1.sending = 0 ∧
        r.2.hopsLeft (heldFrame r.1.1) = true ∧ noMgmt (slotsFrame (outHdr r.2 r.1.1 r.1.2 false :: r.1.1.slots.drop 1)) = x.2.2.2) ∧
    (∃ r ∈ (leaving 1 3 (withHops f 31)).pick 3, r.2.aged r.1.1 = false ∧ r.2.hopsLeft (heldFrame r.1.1) = false) ∧
    ((leaving 1 3 f).link 3).phase = .live ∧ ((leaving 1 3 f).link 3).tx = none ∧
    isLinkPort 3 = true ∧ isLinkPort 128 = false := by decide +kernel

theorem wit_credits : let s := switchOf 1 3 5 [3]
    let t := s.setCells 3 2 ⟨4000, 0, 0, 0, 0⟩
    3 ∈ allPorts ∧ 128 ∈ allPorts ∧ (s.link 3).phase.serving = true ∧ isLinkPort 128 = false ∧ (s.cellsOf 3 2).g < 16384 ∧
      (s.cellsOf 3 2).o + (s.cellsOf 3 2).g - ((s.cellsOf 3 2).osh + (s.cellsOf 3 2).gsh) < gminOf (s.gminWord 3) 2 ∧
      gminOf (t.gminWord 3) 2 ≤ (t.cellsOf 3 2).o + (t.cellsOf 3 2).g - ((t.cellsOf 3 2).osh + (t.cellsOf 3 2).gsh) ∧ (t.link 3).phase.serving = true ∧
      t.sharedFree ≠ 0 ∧ 16 * ((t.cellsOf 3 2).osh + (t.cellsOf 3 2).gsh) < t.sharedFree * 2 ^ t.rfld Reg.swcCtrl 10 8 := by decide +kernel

/-- A MSG that waits for a buffer, at a clock. -/
def waitingMsg (t : Nat) : State := { (leaving t 128 (toward 9 vcREQ tyRD)) with buf := [], msgWait := [arrived aMsg 128] }

theorem wit_waitAges : (waitingMsg 1).waitAged (arrived aMsg 128) = false ∧ (waitingMsg 1000).waitAged (arrived aMsg 128) = true := by
  decide +kernel

theorem wit_ages : (∀ h ∈ (leaving 1 3 (toward 9 vcREQ tyRD)).buf, (leaving 1 3 (toward 9 vcREQ tyRD)).aged h = false) ∧
    (∃ h, (leaving 1000 3 (toward 9 vcREQ tyRD)).buf = [h] ∧ (leaving 1000 3 (toward 9 vcREQ tyRD)).aged h = true) ∧ RegsWf State.reset :=
  ⟨by decide +kernel, ⟨heldOf (toward 9 vcREQ tyRD) (.port 3) vcREQ, by decide +kernel, by decide +kernel⟩, by unfold RegsWf; decide +kernel⟩

/-- The sum of minima that GMIN_WRITE checks. -/
def gminTotal (s : State) (p : Nat) (w : Word) : Nat :=
  (allPorts.map fun k => if k = p then gminSum w else gminSum (s.rget (Reg.swcPortGmin k))).sum

theorem wit_switchRegs : let s := State.reset
    let big : Word := 0x0FFFFFFFFFFFFFFF#64
    let full := (upFrom 0 40).foldl (fun (s : State) p => s.rput (Reg.swcPortGmin p) big) s
    s.rwlOpen false = true ∧ isLinkPort 120 = true ∧ (s.link 120).tx = none ∧ s.fenced 120 = false ∧ (fencedAt 120 s).fenced 120 = true ∧
      (s.setLink 120 { linkReset with tx := some ⟨0, [], 0, 1⟩ }).rwlOpen false = true ∧ 0 ∈ allPorts ∧ 207 ∈ allPorts ∧ gminTotal s 0 0x10#64 ≤ 245760 ∧ gminTotal s 207 0x10#64 ≤ 245760 ∧
      s.heldCells 207 = 0 ∧ (s.setCells 207 2 ⟨1, 0, 0, 0, 0⟩).heldCells 207 ≠ 0 ∧ 245760 < gminTotal full 207 big ∧ full.rwlOpen false = true ∧
      (s.rsetBit Reg.hifSetupLock 1 true).rwlOpen false = false := by decide +kernel

theorem wit_rsvWrite : let ok (w : Word) := fld w 23 8 ≠ 0 ∧ fld w 52 40 + State.reset.rfld Reg.swcSchedCtrl 5 0 ≤ fld w 39 24
    (bit 0x80000100#64 0 = false) ∧ ok 0x80000101#64 ∧ bit 0x80000101#64 0 = true ∧ bit 0x80000001#64 0 = true ∧ ¬ok 0x80000001#64 := by decide +kernel

theorem wit_refill : tabWf (fun _ => rsvReset) State.reset.rsv = true ∧ bit ((State.reset.rput (Reg.swcRsv 0) 0x80000101#64).rget (Reg.swcRsv 0)) 0 = true := by
  decide +kernel

theorem wit_policer : let f := toward 9 vcGUAR tyFLOW
    let s := State.reset.setRsv 63 ⟨0x80000101#64, 4096, [(128, f, some 1)]⟩
    (s.rsv1 63).queue = (128, f, some 1) :: [] ∧ bit (s.rsv1 63).reg 0 = true ∧
      frameLen f.payload.length + s.rfld Reg.swcSchedCtrl 5 0 ≤ (s.rsv1 63).tokens := by decide +kernel


/-! Witnesses: stream units and collectives. -/

/-- A chunk of one element 1, or of one record of 8 bytes, from module 5 for slot 5 of collective 3: its input rank and number. -/
def aChunk (rank no : Nat) (raw last : Bool) (arg2 : Word) : Frame :=
  let p := if raw then leBytes 8 7 else leBytes 5 1
  chunkFrame 5 7 tyCHUNK 0 (chunkWord 5 rank no 3) arg2
    { fmt := if raw then 0xD else 0xB, last := last, nelem := 1, contrib := if raw then 0 else 1, offset := 0
      check := if raw then checkBytes p else checkOf [1], payload := p }

/-- A slot of an operator that serves collective 3 with inputs from modules 5 and 6. -/
def aSlot (op : SlotOp) : Slot := slotOf op 0 3 0 0 0 [5, 6] [.result] 1

/-- Module 7 with a slot 5, group 0 of GEN gen, and a chunk of GEN 0 delivered to unit 0. -/
def chunked (gen : Nat) (x : Option Slot) (f : Frame) : State :=
  { (switchOf 1 3 5 []).setSlot 5 x with
    deliv := [arrived f 144], groups := [(0, some ⟨gen, true, 2, 1, 1, [], [], [], 3, [7, 9]⟩)] }

theorem wit_chunkStale : let f := aChunk 0 0 false false 0
    (chunked 1 none f).snoops = [] ∧ ∃ z ∈ (chunked 1 none f).takeDeliv (fun d => d.port == 144 + 0 && fType d.frame == tyCHUNK),
      z.1.frame = f ∧ z.2.genCurrent f = false := by decide +kernel

theorem wit_chunk : let x := aSlot .sum
    ∀ y ∈ [(none, 0, 0), (some { x with coll := 4 }, 0, 1), (some { x with arg2 := 0x40#64 }, 0, 2), (some x, 0, 3), (some x, 1, 4), (some x, 2, 4)],
      let f := aChunk y.2.1 0 false false 0
      (chunked 0 y.1 f).snoops = [] ∧ ∃ z ∈ (chunked 0 y.1 f).takeDeliv (fun d => d.port == 144 + 0 && fType d.frame == tyCHUNK), z.1.frame = f ∧ z.2.genCurrent f = true ∧
        z.2.slot1 (chunkSlot f) = y.1 ∧ ∀ w ∈ y.1, (ckColl f = w.coll ↔ y.2.2 ≠ 1) ∧ (argAttempt (fArg f 2) < argAttempt w.arg2 ↔ y.2.2 = 2) ∧
          (ckRank f < w.nin ∧ w.src.getD (ckRank f) 0x10000 = fSrc f ↔ y.2.2 ≠ 4) := by decide +kernel

/-- Module 7 whose slot 5, as x, has taken chunk f. -/
def working (x : Slot) (f : Frame) : State := (switchOf 1 3 5 []).setSlot 5 (some { x with inbox := [(3, f)] })

theorem takes_slot (x : Slot) (f : Frame) : Takes (working x f) 5 x.op { x with inbox := [(3, f)] } f [] := by
  refine ⟨?_, rfl, 3, rfl, ?_⟩
  · show tabGet (fun _ => none) (tabSet (fun _ => none) [] 5 (some _)) 5 = some _
    simp [tabSet, tabGet]
  · have h : (working x f).slots = tabSet (fun _ => none) [] 5 (some { x with inbox := [(3, f)] }) := rfl
    simp [State.firstIn, h, tabSet]

theorem wit_stuSum : let x := aSlot .sum
    let full := { x with held := [⟨0, 1, aChunk 1 0 false false 0, true, false⟩] }
    let twice := { x with held := [⟨0, 0, aChunk 0 0 false false 0, true, false⟩] }
    (working x (aChunk 0 0 false false 0)).snoops = [] ∧ ckNo (aChunk 0 0 false false 0) = 0 ∧ ckNo (aChunk 0 1 false false 0) = 1 ∧
      (0 : Nat) < { x with low := 1 }.low ∧ (0 : Nat) ∈ { x with sentUp := [0] }.sentUp ∧ (twice.held.any fun i => i.j == 0 && i.rank == 0) = true ∧
      x.low ≤ 0 ∧ 0 ∉ x.sentUp ∧ (full.held.any fun i => i.j == 0 && i.rank == 0) = false ∧ x.low + x.w ≤ 1 ∧ 0 < x.low + x.w ∧
      ((full.held ++ [(⟨0, 0, aChunk 0 0 false false 0, true, false⟩ : SumIn)]).filter fun i => i.j == 0).length = x.nin ∧
      ((x.held ++ [(⟨0, 0, aChunk 0 0 false false 0, true, false⟩ : SumIn)]).filter fun i => i.j == 0).length ≠ x.nin := by decide +kernel

theorem wit_sumChunk : let r : SumIn := ⟨0, 0, aChunk 0 0 false false 0, true, false⟩
    let xs := [r, { r with rank := 1 }]
    xs.head? = some r ∧ (∀ x ∈ xs, x.good = true ∧ ckBad x.frame = false) ∧
      (∀ x ∈ xs, ckE x.frame = ckE r.frame ∧ ckNelem x.frame = ckNelem r.frame ∧ ckOffset x.frame = ckOffset r.frame) ∧ (xs.map fun x => ckContrib x.frame).sum ≤ 65536 ∧
      0 < ckNelem r.frame ∧ (xs.map fun x => (ckElems x.frame).getD 0 0).sum = 2 := by decide +kernel

theorem wit_checkLinear : ∀ e ∈ [[1, -2], [3, (4 : Int)]], e.length = 2 := by decide

theorem wit_recordSlots : (aSlot .gatherFixed).outs.getD 0 .unset ≠ .unset ∧
    (∀ last ∈ [false, true], let f := aChunk 0 0 true last 0
      let x := { slotOf .sortLocal 0 3 0 0 0 [5] [.result] 1 with inbox := [(3, f)] }
      let y := recSlot x f [] none
      let a := addRecs y f ((working x f).keyed y f (recsIn x f))
      x.finished = false ∧ (a.ins.map (·.seen)).sum * slotRecBytes a ≤ a.pages * 4096 ∧ allEnded a = last) := by decide +kernel

/-- The kernel store with one word staged, and STU_KCTRL to install it as kernel 9. -/
def staged (w : Nat) : State := State.reset.rput (Reg.stuKstage 0) (BitVec.ofNat 64 w)

theorem wit_kernels : ∀ x ∈ [(staged 0xFC000000, none, false), (staged 0, some 0, false), ((staged 0xFC000000).setSlot 5 (some { aSlot .filter with kernel := 9 }), none, true)],
    let a := x.1.rsetFld Reg.stuKctrl 14 0 (fld 0x10109#64 14 0)
    x.1.rwlOpen false = true ∧ x.1.rfld Reg.stuKctrl 19 17 ≠ 1 ∧ a.rfld Reg.stuKctrl 7 0 = 9 ∧ a.rfld Reg.stuKctrl 14 8 = 1 ∧
      kFault [fld (a.rget (Reg.stuKstage 0)) 31 0] = x.2.1 ∧ a.kernelUsed 9 = x.2.2 ∧ RegsWf x.1 := by unfold RegsWf; decide +kernel

/-- A group of modules 7 and 9, or 9 and 7, as a list. -/
def aGroup (ids : List Nat) : Group := ⟨1, true, 2, 1, 1, [], [], [], 3, ids⟩

/-- A descriptor of a kind, of group 0, GEN 1 and collective 3: 16 elements of E40, one chunk; its race word in the near tier of module 7. -/
def aDesc (kind : Nat) : List Word :=
  [BitVec.ofNat 64 (kind + 1 <<< 16 + 3 <<< 32), BitVec.ofNat 64 (16 + 16 <<< 32 + 0xB <<< 42 + 0xB <<< 46)] ++
    (List.replicate 18 (0 : Word) ++ [BitVec.ofNat 64 (7 <<< 48 + 1 <<< 46 + 64), 0, 0, 0])

/-- Collective 3 in flight, of a kind, at the member of some rank of a group. -/
def aColl (kind : Nat) (g : Group) (me : Nat) : Coll :=
  { h := 0, who := .work 0, flow := 0, desc := aDesc kind, record := 0, grp := g, me := me
    attempt := 0, retried := false, roles := [], feeds := [], sent := [], paced := [], up := [], acks := [], passed := []
    visible := [], kept := [], misses := [], doneSent := false, dones := [], failed := false, gathered := false
    filtered := false, sat := false, invalid := false, flush := 0, retx := 0, amax := 0, dropped := 0, won := false
    waiting := 0, old := none }

/-- The root of a group of two, and its other member. -/
def rootColl : Coll := aColl kALLREDUCE (aGroup [7, 9]) 0
def leafColl : Coll := aColl kALLREDUCE (aGroup [9, 7]) 1

/-- A control frame from module 9 of a type, with its word 2 and payload. -/
def ctlOf (ty : Nat) (w2 : Nat) : Frame :=
  mkFrame { dst := 7, src := 9, tc := 0, vc := vcGUAR, ty := ty, flow := 0, tag := 0, addr := BitVec.ofNat 64 (3 + w2), arg2 := 0x10000#64 }

/-- A RESULT chunk 0 of two elements 1, its CHECK right or not, BAD or not. -/
def resultOf (right bad : Bool) : Frame :=
  let es : List Int := List.replicate 2 1
  chunkFrame 9 7 tyRESULT 0 (resultWord 3 0 false) 0x10000#64
    { fmt := 0xB, bad := bad, nelem := 2, contrib := 1, offset := 0, check := if right then checkOf es else 0, payload := es.flatMap fun _ => leBytes 5 1 }

/-- Module 7 with a collective in flight and a frame delivered. -/
def collecting (c : Coll) (f : Frame) : State :=
  { switchOf 1 3 5 [] with groups := [(0, some c.grp)], colls := [c], deliv := [arrived f 128] }

theorem names_of {s : State} {ty : Nat} {c : Coll} {f : Frame}
    (h : ∃ y ∈ s.takeDeliv (fun d => fType d.frame == ty), y.1.frame = f ∧ y.2.genCurrent f = true ∧
      y.2.colls.find? (fun c => names c f) = some c ∧ frAttempt f = c.attempt) : ∃ u, Names s u ty c f := by
  obtain ⟨⟨d, u⟩, hy, hf, hg, hc, ha⟩ := h
  exact ⟨u, d, hy, hf, hg, hc, ha⟩

/-- The next delivered frame of a type names a collective. -/
def naming (ty : Nat) (c : Coll) (f : Frame) : Prop :=
  (collecting c f).snoops = [] ∧ ∃ y ∈ (collecting c f).takeDeliv (fun d => fType d.frame == ty), y.1.frame = f ∧ y.2.genCurrent f = true ∧
    y.2.colls.find? (fun c => names c f) = some c ∧ frAttempt f = c.attempt

theorem wit_namedControl : ∀ x ∈ [(tyREADY, leafColl, 0), (tyACK, rootColl, 0), (tyPACE, leafColl, 0), (tyREPORT, rootColl, 0), (tyREPORT, rootColl, 1 <<< 57),
      (tyEND, leafColl, 0), (tyEND, leafColl, 1 <<< 56)], naming x.1 x.2.1 (ctlOf x.1 x.2.2) := by unfold naming; decide +kernel

theorem wit_namedRetx : naming tyRETX { rootColl with kept := [⟨0, 0, 0, 16, 0, 1, 0⟩] } (ctlOf tyRETX 0) := by unfold naming; decide +kernel

theorem wit_namedResult : ∀ x ∈ [(leafColl, true, true), (leafColl, true, false), (leafColl, false, false), (rootColl, false, false)],
    naming tyRESULT x.1 (resultOf x.2.1 x.2.2) := by unfold naming; decide +kernel

theorem wit_control : gRankOf rootColl.grp (fSrc (ctlOf tyACK 0)) = some 1 ∧ collRoot leafColl (frStripe (ctlOf tyPACE 0)) ≠ leafColl.me ∧
    tabGet (fun _ => 0) leafColl.paced 0 ≤ fld (hw (ctlOf tyPACE 0) 2) 31 16 ∧
    ([(⟨0, 0, 0, 16, 0, 1, 0⟩ : Kept)].find? fun k => k.s == frStripe (ctlOf tyRETX 0) && k.j == fld (hw (ctlOf tyRETX 0) 2) 31 16).isSome = true ∧
    collRoot rootColl 0 = rootColl.me ∧ coordinator rootColl = rootColl.me ∧ fld (hw (ctlOf tyREPORT 0) 2) 58 57 = 0 ∧
    fld (hw (ctlOf tyREPORT (1 <<< 57)) 2) 58 57 = 1 ∧
    (∃ y ∈ ({ collecting rootColl (ctlOf tyACK 0) with groups := [] }).takeDeliv (fun d => fType d.frame == tyACK), y.2.genCurrent y.1.frame = false) := by
  decide +kernel

theorem wit_result : let good (f : Frame) := ckGood f && ckFmt f == 0xB && checkOf (ckElems f) == ckCheck f
    dSum leafColl.desc = true ∧ 0 < stripeChunks leafColl 0 ∧ frStripe (resultOf true false) = 0 ∧ 0 < dS leafColl.desc ∧ (0, 0) ∉ leafColl.passed ∧
      ckBad (resultOf true true) = true ∧ ckBad (resultOf true false) = false ∧ good (resultOf true false) = true ∧ good (resultOf false false) = false ∧
      ckBad (resultOf false false) = false ∧ collRoot rootColl 0 = rootColl.me ∧ collRoot leafColl 0 ≠ leafColl.me ∧ dSum rootColl.desc = true := by decide +kernel

/-- A collective alone in the table of module 7. -/
def inTable (c : Coll) : State := { switchOf 1 3 5 [] with colls := [c] }

theorem wit_resultVisible : (inTable { leafColl with passed := [(0, 0)] }).coll 0 = some { leafColl with passed := [(0, 0)] } ∧
    (0, 0) ∈ { leafColl with passed := [(0, 0)] }.passed ∧ (0, 0) ∉ leafColl.visible ∧
    (inTable { leafColl with misses := [((0, 0), 1)] }).coll 0 = some { leafColl with misses := [((0, 0), 1)] } ∧
    (∃ x ∈ { leafColl with misses := [((0, 0), 1)] }.misses, x.1 = (0, 0)) ∧ (0, 0) ∉ leafColl.passed := by decide +kernel

theorem wit_collEnds : (inTable leafColl).coll 0 = some leafColl ∧ leafColl.who = .work 0 ∧ leafColl.roles = [] ∧ (inTable leafColl).unsent = [] ∧
    (inTable leafColl).snoops = [] := by decide +kernel

theorem wit_timers : dKind leafColl.desc ≠ kRACE ∧ (inTable leafColl).fencedMember leafColl = none ∧
    ((inTable leafColl).rsetFld (Reg.swcRoute 9) 41 40 2).fencedMember leafColl = some 9 ∧
    ((inTable leafColl).rsetFld (Reg.swcRoute 9) 41 40 2).coll 0 = some leafColl ∧
    dKind (aColl kRACE groupNone 0).desc = kRACE ∧ (inTable (aColl kRACE groupNone 0)).coll 0 = some (aColl kRACE groupNone 0) ∧
    (∀ n ∈ [1, 2], let s := { inTable leafColl with endJobs := [⟨5, n, [], 128⟩] }
      s.endJobs[0]? = some ⟨5, n, [], 128⟩ ∧ (s.coll 5).isSome = false ∧ s.coll 0 = some leafColl) := by decide +kernel

theorem wit_races : let c := aColl kRACE groupNone 0
    let s := inTable c
    dKind c.desc = kRACE ∧ c.waiting = 0 ∧ c.won = false ∧ c.old = none ∧ addrId (dRacew c.desc) = s.flatId ∧
      s.localKey (dRacew c.desc) 8 = some (2 ^ 46 + 64) ∧ s.badIn (2 ^ 46 + 64) 8 = [] ∧ s.mword (2 ^ 46 + 64) = 0 ∧
      ∀ d ∈ [{ c with old := some 0 }, { c with old := some 1 }, { c with won := true }], (inTable d).coll 0 = some d ∧ (inTable d).snoops = [] := by
  decide +kernel

/-- Module 7 with its group table in its near tier, or elsewhere. -/
def grouped (base : Nat) : State := (switchOf 1 3 5 []).rput Reg.stuCollGbase (BitVec.ofNat 64 base)

theorem wit_groups : (let s := grouped (7 <<< 48 + 1 <<< 46)
      let a := (s.rget Reg.stuCollGbase).toNat + 0x20000 * 63
      let b := s.rsetFld Reg.stuCollGset 9 8 1
      s.snoops = [] ∧ s.rfld Reg.stuCollGset 9 8 ≠ 1 ∧ b.ownRegion a 0x20000 = true ∧ addrTier a = 1 ∧ b.localKey a 0x20000 = some (2 ^ 46 + 0x20000 * 63) ∧
        b.badIn (2 ^ 46 + 0x20000 * 63) 0x11100 = [] ∧ b.rfld Reg.stuCollGset 9 8 = 1) ∧
    (let s := grouped (9 <<< 48 + 1 <<< 46);
      (s.rsetFld Reg.stuCollGset 9 8 1).ownRegion ((s.rget Reg.stuCollGbase).toNat + 0x20000 * 63) 0x20000 = false) ∧
    State.reset.group 0 = none := by decide +kernel


/-! Witnesses: the host interface. -/

/-- Module 7 with cores, a CQ 0 and a CQ 5, an idle SQ 3, flow 3 open under reservation 5, and descriptor d staged on SQ n. -/
def descState (n : Nat) (d : List Word) : State :=
  { (switchOf 1 3 5 []).rsetFld Reg.fusePartId 23 16 184 with
    sqs := [⟨n, 4096, 6, 64, 0, 1, 1, false, [⟨d, 0⟩], none, none, none⟩, ⟨3, 8192, 6, 128, 0, 0, 0, false, [], none, none, none⟩]
    cqs := [⟨0, 4096, 6, 192, true, 0, 1, 0, 0, 0⟩, ⟨5, 4096, 6, 192, true, 9, 4, 0, 0, 0⟩]
    flows := [(3, ⟨1, 5, 0⟩)] }

/-- Near-tier address o of module 7. -/
def near7 (o : Nat) : Nat := 7 <<< 48 + 1 <<< 46 + o

/-- A race's descriptor that R479 accepts, stored at near7 0. -/
def raceWords : List Word := [BitVec.ofNat 64 (4 + 3 <<< 32), BitVec.ofNat 64 (64 + 0xD <<< 42 + 0xD <<< 46), 0, BitVec.ofNat 64 (near7 4096), BitVec.ofNat 64 (near7 8192)] ++
  (List.replicate 15 (0 : Word) ++ [BitVec.ofNat 64 (near7 64), 0, 0, 0])

/-- A descriptor of an operation with its SQ, each with the least that R540 asks. -/
def descs : List (Nat × Nat × List Word) :=
  [(opNOP, 1, [0#64]), (opLAUNCH, 1, [1#64]), (opPLOAD, 1, [0x80002#64, 4096#64, 0x10000#64]), (opCOPY, 1, [0x803#64, 4096#64, BitVec.ofNat 64 (near7 0), 64#64]),
   (opFLOWSEND, 1, [0x300000805#64, 4096#64, BitVec.ofNat 64 (near7 0), 64#64]), (opCREATE_SQ, 0, [0x10#64, 4096#64, 64#64, 0x60007#64]),
   (opCREATE_CQ, 0, [0x11#64, 4096#64, 64#64, 0x607#64]), (opDELETE_SQ, 0, [0x12#64, 3#64]), (opDELETE_CQ, 0, [0x13#64, 5#64]),
   (opOPEN_FLOW, 0, [0x14#64, 4#64]), (opCLOSE_FLOW, 0, [0x15#64, 3#64]), (opRESET_FLOW, 0, [0x16#64, 3#64])]

/-- The descriptor d of SQ n of a state is served next and runs. -/
def serves (s : State) (op n : Nat) (d : List Word) : Prop :=
  s.snoops = [] ∧ ∃ y ∈ s.takeDesc op, y.1 = n ∧ y.2.1 = d ∧ s.judge n d = none ∧ wkOp d = op

theorem served_of {s : State} {op n : Nat} {d : List Word} (h : serves s op n d) : ∃ u, Served s op n d u := by
  obtain ⟨-, ⟨m, e, u⟩, hy, hm, he, hj, -⟩ := h
  have hm : m = n := hm
  have he : e = d := he
  subst hm he
  exact ⟨u, hy, hj⟩

theorem wit_descriptors : ∀ x ∈ descs, serves (descState x.2.1 x.2.2) x.1 x.2.1 x.2.2 := by unfold serves; decide +kernel

theorem wit_collDescriptor : let d := [4#64, BitVec.ofNat 64 (near7 0)]
    let s := (descState 1 d).mputBytes (2 ^ 46) (wordsBytes raceWords)
    serves s opCOLL 1 d ∧ (started s 1 d).localKey (wkSource d) 192 = some (2 ^ 46) := by unfold serves; decide +kernel

theorem wit_badDescriptor : let d := [0x3F#64]
    (∀ x ∈ [opNOP, opLAUNCH, opPLOAD, opCOPY, opCOLL, opFLOWSEND, opCREATE_SQ, opCREATE_CQ, opDELETE_SQ, opDELETE_CQ, opOPEN_FLOW, opCLOSE_FLOW, opRESET_FLOW],
      ((descState 1 d).takeDesc x).isSome = true ∧ (State.reset.takeDesc x).isNone = true) ∧ ((descState 1 d).judge 1 d).isSome = true := by decide +kernel

theorem wit_deleteAndClose : (∃ y ∈ (descState 0 [0x12#64, 3#64]).takeDesc opDELETE_SQ, (y.2.2.sq 3).isSome = true) ∧
    (∃ y ∈ (descState 0 [0x15#64, 3#64]).takeDesc opCLOSE_FLOW, (y.2.2.flow 3).work = 0) ∧
    (let s := { descState 0 [0x15#64, 3#64] with flows := [(3, ⟨1, 5, 2⟩)] };
     serves s opCLOSE_FLOW 0 [0x15#64, 3#64] ∧ ∃ y ∈ s.takeDesc opCLOSE_FLOW, (y.2.2.flow 3).work ≠ 0) := by unfold serves; decide +kernel

/-- The host link up and the rings served. -/
def State.up (s : State) : State := s.rsetFld Reg.hifStatus 6 5 3

/-- An SQ 3 whose doorbell line is asked for, with TAIL one past what is fetched. -/
def ringed : State :=
  { State.reset.up with sqs := [⟨3, 8192, 6, 128, 0, 1, 0, false, [], none, none, none⟩], lines := [(4, true)], wants := [(3, true)] }

theorem wit_rings : ∃ q, ringed.sq 3 = some q ∧ ringed.lineHeld 4 = true ∧ ringed.lineWanted 3 = true ∧ q.err = false ∧ q.creator = none ∧
    ringed.serving = true ∧ q.deleting = none ∧ q.stall = none ∧ q.fetch ≠ q.tail :=
  ⟨⟨3, 8192, 6, 128, 0, 1, 0, false, [], none, none, none⟩, by decide +kernel⟩

/-- A work 0 of a descriptor, its sources in. -/
def workOf (d : List Word) : Work := { newWork 0 0 d with formed := true }
def worked (d : List Word) : State := { descState 0 [0#64] with works := [workOf d] }

theorem wit_workDone : (∀ d ∈ [[0x80002#64], [0x803#64]], (worked d).work 0 = some (workOf d) ∧ (wkOp d = opPLOAD ∨ wkOp d = opCOPY) ∧
      (workOf d).formed = true ∧ (workOf d).waiting = 0 ∧ (workOf d).wantsBuf = false) ∧
    (let s := worked [0x12#64, 3#64];
     wkOp (workOf [0x12#64, 3#64]).desc = opDELETE_SQ ∧ (workOf [0x12#64, 3#64]).cut = false ∧ (s.sq 3).isSome = true ∧ ∀ x ∈ s.works, x.sq ≠ 3) ∧
    (∀ d ∈ [[0x80002#64], [0x1803#64]], wkSrcHost (newWork 0 0 d).desc = true ∧
      (wkOp (newWork 0 0 d).desc ≠ opCOPY ∨ wkDstHost (newWork 0 0 d).desc = true) ∧ State.reset.hostUp = false) ∧
    (wkOp [0x15#64, 4#64] = opCLOSE_FLOW ∧ ((worked [0x15#64, 4#64]).flow 4).st ≠ 3) := by decide +kernel

/-- An entry due on CQ 5, whose index and last HEAD are given. -/
def entryDue (index : Nat) : State :=
  { State.reset.up with cqs := [⟨5, 4096, 6, 192, true, 9, 4, index, 0, 1⟩], due := [⟨1, 5, some 0, 2, 0, stOK, 0, 0⟩], wants := [(261, true)] }

theorem wit_completions : ∀ x ∈ [(0, true), (63, true), (64, false)], let s := entryDue x.1
    ∃ c, s.cq 5 = some c ∧ s.serving = true ∧ s.due.find? (fun e => e.cq == 5) = some ⟨1, 5, some 0, 2, 0, stOK, 0, 0⟩ ∧
      ringFits c.index c.head c.log2 = x.2 ∧ c.irq = true ∧ c.n ≠ 0 ∧ 1 ≤ c.unsig ∧ (5 : Nat) < 256 ∧ s.lineWanted (256 + 5) = true := by
  intro x hx
  exact ⟨⟨5, 4096, 6, 192, true, 9, 4, x.1, 0, 1⟩, by revert x; decide +kernel⟩

/-- A latched event. -/
def anEvent (code sev seq : Nat) : Latched := ⟨code, sev, seq, 0, 0, List.replicate 32 0, 0, false⟩

/-- The event ring running, a record waiting, its TAIL given. -/
def eventful (tail : Nat) : State :=
  { State.reset.up with evr := ⟨true, 4096, 6, 64, 128, tail, 0, true, none⟩, evq := [anEvent evCORE_HALT 1 0], cqs := [⟨5, 4096, 6, 192, true, 9, 4, 0, 0, 1⟩] }

theorem wit_eventRing : ∀ x ∈ [(0, true), (62, true), (63, false)], let s := eventful x.1
    s.evr.unsig = true ∧ s.evRunning = true ∧ s.evq = anEvent evCORE_HALT 1 0 :: [] ∧ s.evr.lost = none ∧ (2 ≤ evFree s.evr ↔ x.2 = true) ∧ (s.cq 5).isSome = true ∧
      s.lineHeld 512 = false ∧ { s with lines := [(512, true)] }.lineHeld 512 = true := by
  decide +kernel

theorem wit_hostLink : let s := State.reset.setMg fun m => { m with pins := { m.pins with hostClk := true, modRst := false } }
    s.perst = false ∧ s.partLost 48 = false ∧ s.mg.pins.hostClk = true ∧ s.mg.pins.modRst = false ∧ State.reset.rbit Reg.hifCtrl 0 = false ∧
      (State.reset.rsetBit Reg.hifCtrl 0 true).rbit Reg.hifCtrl 0 = true := by decide +kernel

/-- The module LOCKED under an UNLOCK_POLICY. -/
def lockedBy (policy : Nat) : State := (State.reset.rsetBit Reg.hifSetupLock 1 true).rsetFld Reg.fuseSec 13 12 policy

theorem wit_lock : (∀ p ∈ [0, 1, 2, 3], (lockedBy p).rbit Reg.hifSetupLock 1 = true ∧ (lockedBy p).rfld Reg.hifSetupUnlock 2 1 ≠ 1 ∧
      (lockedBy p).rfld Reg.fuseSec 13 12 = p) ∧ State.reset.rbit Reg.hifSetupLock 1 = false ∧
    ((lockedBy 1).rsetFld Reg.hifSetupUnlock 2 1 1).rfld Reg.hifSetupUnlock 2 1 = 1 := by decide +kernel

/-! Witnesses: twins, repairs, cross-checks and events. -/

/-- Module 7 READY with its twin link's peer, one region of one page at near7 0, and a hold area of two pages. -/
def twinned : State :=
  let s := ((switchOf 1 3 5 []).rsetFld Reg.hifStatus 9 8 1).rsetFld Reg.twnCfg 16 0 0x102
  let s := (s.rput (Reg.twnRgnBase 0) (BitVec.ofNat 64 (near7 0))).rput (Reg.twnRgnSize 0) 1#64
  s.rsetFld Reg.twnHoldPages 28 0 2

/-- In the middle of a commit of step 0. -/
def mirroring (x : MirrorTx) : State := mirrorAt (twinned.rsetFld Reg.twnStatus 2 0 1) (some x)

theorem wit_commit : twinned.snoops = [] ∧ twinned.rfld Reg.twnStatus 2 0 ≠ 1 ∧ (twinned.rsetFld Reg.twnStatus 2 0 1).rfld Reg.twnStatus 2 0 = 1 ∧
    twinned.commitReason 0 = 0 ∧ twinned.rbit Reg.twnCfg 2 = false ∧ twinned.regions ≠ [] ∧
    (twinned.rsetBit Reg.twnCfg 2 true).commitReason 0 = 0 ∧ (twinned.rsetBit Reg.twnCfg 2 true).rbit Reg.twnCfg 2 = true ∧
    State.reset.commitReason 0 ≠ 0 ∧ State.reset.rfld Reg.twnStatus 2 0 ≠ 1 := by decide +kernel

theorem wit_mirror : ∀ x ∈ [(⟨0, 0, 0, 0, [], false⟩, true), ((⟨0, 1, 0, 0, [(0, 4096)], false⟩ : MirrorTx), false)], let s := mirroring x.1
    (s.mg.mirror = some x.1 ∧ x.1.done = false ∧ s.rfld Reg.twnStatus 2 0 = 1) ∧ (x.1.region < s.regions.length ↔ x.2 = true) ∧ s.memBad = [] ∧
      s.localKey (s.rgnBase 0 + x.1.step.toNat % 2 * s.rgnBytes 0 + x.1.off) 4096 = some (2 ^ 46) := by decide +kernel

/-- The step's SEAL is sent, and module 9 answers. -/
theorem wit_mirrorack : let x : MirrorTx := ⟨0, 1, 0, 0, [], true⟩
    let f := mkFrame { dst := 7, src := 9, tc := 0, vc := vcGUAR, ty := tyMIRRORACK, flow := 0, tag := 0, addr := 0 }
    let s := withArrived (mirroring x) f 143
    ∃ y ∈ s.takeDeliv (fun d => fType d.frame == tyMIRRORACK), y.2.mg.mirror = some x ∧ x.done = true ∧ y.2.rfld Reg.twnStatus 2 0 = 1 ∧
      fArg y.1.frame 0 = x.step ∧ (bit (hw y.1.frame 3) 40).toNat = x.step.toNat % 2 ∧ s.mg.mirror = some x := by decide +kernel

/-- A MIRROR frame of step 0 for an offset, or a SEAL. -/
def mirrorOf (o : Nat) (isSeal : Bool) : Frame :=
  mkFrame { dst := 7, src := 9, tc := 6, vc := vcREQ, ty := tyMIRROR, flow := 0, tag := 0, addr := BitVec.ofNat 64 (2 <<< 46 + o)
            aux := isSeal.toNat <<< 9, payload := [1, 2, 3, 4] }

theorem wit_twin : (∀ x ∈ [(8188, true), (8189, false)], let s := withArrived twinned (mirrorOf x.1 false) 128
      s.snoops = [] ∧ ∃ y ∈ s.mirrorIn false, y.2.twinReady = true ∧
        (bitsN (fAddr y.1.frame).toNat 45 0 + y.1.frame.payload.length ≤ y.2.holdBytes ↔ x.2 = true) ∧ (y.2.localKey (y.2.flatId <<< 48 + 2 <<< 46 + y.2.rfld Reg.twnHoldBase 39 12 * 4096)
          (y.2.rfld Reg.twnHoldPages 28 0 * 4096)).isSome = true ∧
        y.2.localKey (y.2.flatId <<< 48 + 2 <<< 46 + y.2.rfld Reg.twnHoldBase 39 12 * 4096 + x.1) y.1.frame.payload.length = some (2 ^ 47 + x.1)) ∧
    (∃ y ∈ (withArrived State.reset (mirrorOf 0 false) 128).mirrorIn false, y.2.twinReady = false) ∧
    mirrorFirst (mirrorOf 0 false) = true ∧ ((withArrived twinned (mirrorOf 0 true) 128).mirrorIn true).isSome = true ∧
    (let t := twinAt twinned (some ⟨0, 0, [], false, some [1], 9⟩);
     t.mg.twinIn = some ⟨0, 0, [], false, some [1], 9⟩ ∧ ∀ d ∈ t.deliv, fType d.frame ≠ tyMIRROR) := by decide +kernel

theorem wit_boundary : let s := State.reset
    let busy := running 0 []
    (∀ n ∈ upFrom 0 192, (s.core n).mode = .idle) ∧ s.colls = [] ∧ s.collWaits = [] ∧ s.boundaryOk = true ∧ busy.boundaryOk = false ∧
      s.rget Reg.twnCommitted = BitVec.allOnes 64 ∧
      ¬((5 : Word) = BitVec.allOnes 64 ∨ (s.rput Reg.twnCommitted 7).rget Reg.twnCommitted = BitVec.allOnes 64 ∨
        5 = (s.rput Reg.twnCommitted 7).rget Reg.twnCommitted ∨ 5 = (s.rput Reg.twnCommitted 7).rget Reg.twnCommitted - 1) ∧
      179 < (descState 0 []).coresEnabled ∧ (descState 0 []).physOf 179 < 192 := by decide +kernel

/-- A cross-check in slot 0. -/
def aCapture (check2 : Nat) (kept : Bool) : Capture := ⟨3, 3, 190, check2, 0, 0, 0, [], [], [(64, 1)], [(64, 2)], 0, kept⟩
def captured (c : Capture) : State := (twinned.rput Reg.twnXchkCfg (BitVec.ofNat 64 (near7 0))).setCapture 0 (some c)

/-- As captured, every spare core being in service. -/
def spareless (c : Capture) : State := (upFrom 180 12).foldl (fun (s : State) n => s.rsetBit (Reg.twnHpCore n) 34 false) (captured c)

theorem wit_crossChecks : (∀ c ∈ [aCapture 0xFF false, aCapture 191 false, aCapture 0xFF true], (captured c).capture 0 = some c) ∧
    (∀ n ∈ upFrom 0 192, n ≠ 190 → (spareless (aCapture 0xFF false)).spareFree n = false) ∧ (spareless (aCapture 0xFF false)).capture 0 = some (aCapture 0xFF false) ∧ ([1] : List Byte) = (aCapture 0xFF false).expect.map (·.2) ∧
    ([2] : List Byte) ≠ (aCapture 0xFF false).expect.map (·.2) ∧ ([2] : List Byte) = (aCapture 0xFF false).result.map (·.2) ∧
    ((upFrom 0 192).find? fun n => n != 190 && (captured (aCapture 0xFF false)).spareFree n).isSome = true ∧
    (let u := ((captured (aCapture 0xFF true)).rsetFld Reg.twnReplay 3 0 0).rsetFld Reg.twnReplay 19 4 2
     u.captureKey 0 = some (2 ^ 46) ∧ u.boundaryOk = true ∧ u.rfld Reg.twnReplay 23 22 = 0) ∧
    (∀ k ∈ [1, 2], ((captured (aCapture 0xFF true)).rsetFld Reg.twnReplay 23 22 k).rfld Reg.twnReplay 23 22 = k) := by decide +kernel

theorem wit_events : let l := anEvent evCORE_HALT 1 0
    let f := anEvent evFRAME_ERROR 3 1
    let s := { State.reset with ev := ⟨[l, f], 2, [l]⟩ }
    nextLatch s.ev.latches = some f ∧ s.ev.handling = [l] ∧ l.sev < f.sev ∧ s.mg.logWait = [] ∧ sevFATAL = 3 ∧
      (∀ x ∈ ([] : List Latched), l.seq < x.seq) ∧ ¬(s.mg.strobeAt + 16000000 ≤ s.clock) ∧ s.mg.strobeAt + 16000000 ≤ { s with clock := 16000000 }.clock := by
  decide +kernel


/-! Witnesses: management, security, supplies and start-up. -/

/-- The module once it has booted, with an owner session 1 on SMBUS and a session 2 on HOST. -/
def managed : State :=
  State.reset.setMg fun m => { m with bootStep := 7, sessions := [⟨1, 0, true, true, true, 0⟩, ⟨2, 1, false, true, false, 0⟩, ⟨3, 1, false, false, false, 0⟩] }

/-- A management message of an operation with a body of words. -/
def message (op : Nat) (body : List Word) : List Word := [BitVec.ofNat 64 (op + (8 * body.length) <<< 16), 0] ++ body

/-- The message of operation op on SMBUS finds its row, and is handled. -/
def handled (s : State) (op : Nat) (sess : Option Nat) (body : List Word) : Prop :=
  ∃ y ∈ s.mgTake op 0 sess (message op body), (∀ id ∈ sess, (s.session 0 id).isSome = true) ∧ mgOp y.1.bytes = op ∧
    y.2.mgAllowed 0 op y.1.owner = true ∧ mgFormed y.1.bytes = true ∧ mgBody y.1.bytes = wordsBytes body ∧ (mgBody y.1.bytes).length = 8 * body.length

theorem handles_of {s : State} {op : Nat} {sess : Option Nat} {body : List Word} {fits : List Byte → Bool} (h : handled s op sess body)
    (hf : fits (wordsBytes body) = true) : ∃ u r, Handles s u op 0 sess (message op body) r fits := by
  obtain ⟨⟨r, u⟩, hy, hs, ho, ha, hm, hb, -⟩ := h
  exact ⟨u, r, hy, fun id hi => hs id (by rw [hi]; rfl), ho, ha, hm, by show fits (mgBody r.bytes) = true; rw [hb]; exact hf⟩

theorem wit_messages : ∀ x ∈ [(0x01, none, [0#64]), (0x02, none, [0x300008#64, 5#64]), (0x04, none, [7#64, 0x300008#64, 5#64]), (0x0F, none, [0x10000#64, 0#64]),
      (0x06, none, [0#64]), (0x08, none, []), (0x07, none, [0#64, 1#64]), (0x09, none, [0#64, 1#64]), (0x05, none, [0#64]), (0x0A, some 1, []), (0x0C, none, []),
      (0x0D, some 1, [0#64]), (0x0E, none, [1#64, 2#64, 3#64, 4#64, 5#64, 6#64]), (0x03, none, [5#64, 0#64, 0#64, 0#64, 0#64, 0#64, 0#64, 0#64])],
    handled managed x.1 x.2.1 x.2.2 := by unfold handled; decide +kernel

theorem wit_messageBodies : let b (l : List Word) := wordsBytes l
    mgWord (b [0#64]) 0 % 8 = 0 ∧ mgWritable (mgWord (b [0x300008#64, 5#64]) 0) = true ∧ pwCount (b [7#64, 0x300008#64, 5#64]) = 1 ∧
      bit (bodyWord (b [7#64]) 0) 0 = true ∧ bit (bodyWord (b [7#64]) 0) 1 = true ∧ prCount (b [0x10000#64, 0#64]) = 1 ∧
      bitsN (mgWord (b [0x10000#64, 0#64]) 0) 15 0 + 1 ≤ 65536 ∧ bitsN (mgWord (b [0#64]) 0) 14 8 = 0 ∧ mgWord (b [0#64, 1#64]) 1 = 1 ∧
      (managed.setMg fun m => { m with building := some ⟨[], []⟩ }).mg.building = some ⟨[], []⟩ ∧ State.reset.rbit Reg.mgtMbxCtrl 1 = false := by
  decide +kernel

/-- What decides a message's outcome in the state: the kernel store busy or not, an unlock waiting or not, fuses blown or not, a newer release running. -/
theorem wit_messageStates : managed.rfld Reg.stuKctrl 19 17 ≠ 1 ∧ (managed.rsetFld Reg.stuKctrl 19 17 1).rfld Reg.stuKctrl 19 17 = 1 ∧
    handled (managed.rsetFld Reg.stuKctrl 19 17 1) 0x05 none [0] ∧ managed.rfld Reg.hifSetupUnlock 2 1 ≠ 1 ∧
    handled (managed.rsetFld Reg.hifSetupUnlock 2 1 1) 0x0A (some 1) [] ∧ managed.rbit Reg.fuseSec 18 = false ∧ managed.rbit Reg.fuseSec 19 = false ∧
    handled (managed.rsetBit Reg.fuseSec 18 true) 0x0D (some 1) [0] ∧ handled (managed.rsetBit Reg.fuseSec 18 true) 0x0E none [1, 2, 3, 4, 5, 6] ∧
    (let t := managed.setMg fun m => { m with fw0 := .image (some (leBytes 8 0 ++ leBytes 8 3)) [] }
     handled t 0x0C none [] ∧ t.rfld Reg.fuseSec 6 0 < slotSvn (t.mg.slot t.mg.running) ∧ t.mg.dirNow.2.trial = 0) := by unfold handled; decide +kernel

theorem wit_moduleReset : let s := managed.setMg fun m => { m with mbx := some (message 0x0B []) }
    ∃ y ∈ s.mgTake 0x0B 3 none [], mgOp y.1.bytes = 0x0B ∧ y.2.mgAllowed (viaIface 3) 0x0B y.1.owner = true ∧ mgFormed y.1.bytes = true ∧
      (mgBody y.1.bytes).isEmpty = true ∧ y.1.via = 3 := by decide +kernel

/-- A module reset asked for on SMBUS, and by a MGMT frame. -/
theorem wit_moduleResets : (handled managed 0x0B none [] ∧ ∃ y ∈ managed.mgTake 0x0B 0 none (message 0x0B []), y.1.via ≠ 3 ∧ y.1.deliv = none) ∧
    (let s := withArrived managed (frameOf tyMGMT 0 0 (0x7F :: wordsBytes (message 0x0B []))) 122
     ∃ y ∈ s.mgTake 0x0B 2 none [], mgOp y.1.bytes = 0x0B ∧ y.2.mgAllowed (viaIface 2) 0x0B y.1.owner = true ∧ mgFormed y.1.bytes = true ∧
      (mgBody y.1.bytes).isEmpty = true ∧ y.1.via ≠ 3 ∧ y.1.deliv.isSome = true) := by unfold handled; decide +kernel

theorem wit_fence : let b (op epoch : Nat) := wordsBytes [BitVec.ofNat 64 (op + epoch <<< 32), 0, 0, 0, 0, 0, 0, 0]
    (∀ op ∈ [1, 2, 3, 4, 5, 6, 7], fcOp (b op 0) = op ∧ fcRejected (b op 0) = false ∧ fcAck (b op 0) = 0) ∧ managed.rfld Reg.twnFence 31 0 ≤ fcEpoch (b 5 0) ∧
      fcRejected (wordsBytes [0x15#64, 0, 0, 0, 0, 0, 0, 0]) = true ∧ fcEpoch (b 5 3) < (managed.rsetFld Reg.twnFence 31 0 4).rfld Reg.twnFence 31 0 := by decide +kernel

theorem wit_refusals : (∃ y ∈ managed.mgTake 0x0D 0 none (message 0x0D [0]), managed.mgAllowed 0 0x0D y.1.owner = false ∧ mgOp y.1.bytes = 0x0D) ∧
    ((managed.mgTake 0x01 0 (some 9) (message 0x01 [0])).isSome = true ∧ managed.session 0 9 = none) ∧
    (∃ y ∈ managed.mgTake 0x01 0 none (message 0x55 []), mgOp y.1.bytes ≠ 0x01) ∧
    (∃ y ∈ managed.mgTake 0x01 0 none [0x80001#64, 1, 0], mgOp y.1.bytes = 0x01 ∧ managed.mgAllowed 0 0x01 y.1.owner = true ∧ mgFormed y.1.bytes = false) := by
  decide +kernel

theorem wit_classes : mgClass 0x01 = some 0 ∧ mgClass 0x05 = some 1 ∧ mgClass 0x02 = some 2 ∧ mgClass 0x0E = some 3 := by decide

theorem wit_mctp : managed.mctpRuns 0 = true ∧ managed.mctpRuns 1 = true ∧ State.reset.mctpRuns 0 = false ∧
    (managed.setMg fun m => { m with recovery := true }).mg.recovery = true ∧ BitVec.ofNat 8 0x05 ∈ managed.mctpTypes 1 ∧ BitVec.ofNat 8 0x01 ∉ managed.mctpTypes 1 := by
  decide +kernel

/-- An SPDM request on HOST of a connection that has come to a point. -/
theorem wit_spdm : ∀ x ∈ [(0x84, none, 0), (0xE1, none, 1), (0xE3, none, 2), (0x81, some 2, 3), (0x82, none, 3), (0x83, none, 3), (0xE0, some 2, 3), (0xE4, none, 3),
      (0xE8, some 2, 0), (0xE9, some 2, 0), (0xEC, some 2, 0), (0xFE, some 2, 0), (0xFE, none, 0)], let s := managed.setSpdm 1 x.2.2
    s.spdmTake 1 x.1 x.2.1 = some (none, s) ∧ (∀ id ∈ x.2.1, (s.session 1 id).isSome = true) ∧ x.2.2 ≤ s.spdmAt 1 := by decide +kernel

theorem wit_sessions : managed.spdmTake 1 0xE4 none = some (none, managed) ∧ managed.spdmAt 1 < 3 ∧ managed.mg.sessions.length < 4 ∧
    4 ≤ (managed.setSessions fun l => l ++ l).mg.sessions.length ∧ managed.spdmTake 1 0xE5 (some 3) = some (none, managed) ∧
    (managed.openSession 1 3).isSome = true := by decide +kernel

/-- In the middle of an update. -/
def updating (st : Nat) (len : Nat) : State := managed.setPldm fun p => { p with st := st, len := len, data := [1] }

theorem wit_update : (∀ st ∈ [0, 1, 2, 3, 4, 5, 6], (updating st 2).mctpRuns 0 = true ∧ (updating st 2).mg.pldm.st = st) ∧
    (updating 0 2).mg.pldm.activated = false ∧ ((updating 0 2).setPldm fun p => { p with activated := true }).mg.pldm.activated = true ∧
    (updating 3 2).mg.pldm.data.length < (updating 3 2).mg.pldm.len ∧ (updating 3 1).mg.pldm.data.length = (updating 3 1).mg.pldm.len ∧
    512 ≤ (flashRegion (1 + (1 - managed.mg.dirNow.2.active))).2 := by decide +kernel

/-- The state in which a sample decides about VIN. -/
def sampled (w h0 h1 : Word) : State :=
  let s := State.reset
  let u := ((s.rput Reg.mgtSensIn (w &&& 0x0000FFFFFFFFFFFF#64)).rput (Reg.mgtSensH 0) (h0 &&& 0x00FFFFFFFFFFFFFF#64)).rput (Reg.mgtSensH 1) (h1 &&& 0x00FFFFFFFFFFFFFF#64)
  let v := (u.throttleHalf 0).throttleHalf 1
  let p := v.setThr fun t => { t with peakOn := decide (2800 < v.rfld Reg.mgtSensIn 31 16) }
  (p.trip 0 (s.rfld (Reg.mgtSensH 0) 55 48)).trip 1 (s.rfld (Reg.mgtSensH 1) 55 48)

theorem wit_sensors : (∀ vin ∈ [37800, 46200], (sampled (BitVec.ofNat 64 vin) 0 0).rfld Reg.mgtSensIn 15 0 = vin) ∧
    (∀ vin ∈ [37799, 46201], let q := sampled (BitVec.ofNat 64 vin) 0 0
      q.rfld Reg.mgtSensIn 15 0 = vin ∧ q.mg.thr.out = false ∧ q.mg.thr.served = false) := by decide +kernel

theorem wit_supplies : (State.reset.setPins fun p => { p with optOn := 1 }).mg.pins.optOn.testBit 0 = true ∧
    (State.reset.setPins fun p => { p with optHold := 1 }).mg.pins.optHold.testBit 0 = true ∧ State.reset.mg.pins.fitted.testBit 0 = false := by decide +kernel

theorem wit_power : (State.reset.setPins fun p => { p with good := false }).mg.pins.good = false ∧ State.reset.mg.pins.rising = true ∧
    State.reset.mg.bootStep < 5 ∧ State.reset.mg.pins.modRst = false ∧ State.reset.mg.pins.good = true ∧
    (State.reset.setPins fun p => { p with modRst := true }).mg.pins.modRst = true ∧ managed.mg.bootStep = 7 ∧ RegsWf State.reset := by
  unfold RegsWf; decide +kernel


/-! The check of commands. -/

/-- For each check of a command, one that it alone refuses: the operand one past its range, or a structure of a wrong length. -/
theorem test_illFormed0 : ∀ i ∈
    ([.regWrite (2 ^ 24) 0 0 0, .flushClear 192 0, .srGo (2 ^ 32), .launchStart 192, .undefinedOpcode 192, .matMm 192, .matMmp 192,
   .matMms 192, .matPadd 192 0, .vecAdd 192, .vecMul 192, .vecFma 192, .vecMax 192, .vecMin 192, .vecNeg 192, .vecAbs 192, .vecCvt 192,
   .vecExp2 192, .vecLog2 192, .vecRcp 192, .vecRsqrt 192, .vecRowsum 192, .vecRowmax 192, .vecUpd 192, .movCopy 192 0 [], .movCvt 192 0,
   .movMxin 192 0, .movMxout 192 0, .movAtom 192 0, .movStash 192, .stashPoolReply 192 0 0, .movRelease 192 0, .movImload 192 0,
   .synNop 192, .synWait 192, .waitSatisfied 192 0, .waitTimeout 192 0, .synSignal 192, .synRsignal 192 0, .synSetp 192, .synSkip 192,
   .synRepeat 192, .synSwap 192, .synEnd 192, .synSalu 192, .synSld 192, .synSst 192, .synFlags 192, .synColl 192 0, .fixedWriteback 192,
   .varCommandComplete 192 0 0, .haltLimit 192, .endDrainDone 192, .haltDrainDone 192, .haltDrainTimeout 192 0, .haltHost 192 0,
   .clearHalt 192, .coreReset 192, .requestTimeout 208 0, .requestTimeout 0 65536] : List Instr), wellFormed i = false := by
  decide +kernel

theorem test_illFormed1 : ∀ i ∈
    ([.farEccPoll 16 false [], .stackTempChange 32 0, .stackTempChange 0 256, .hdmRead 2 0 false, .hdmRead 0 (2 ^ 47) false,
   .hdmWrite 2 0 (List.replicate 64 0) 0 false, .hdmWrite 0 (2 ^ 47) (List.replicate 64 0) 0 false,
   .hdmWrite 0 0 (List.replicate 63 0) 0 false, .enable 32 0 false, .retrain 32, .lnkClearCnt 32 [], .spareNow 32 0 0, .spareNow 0 4 0,
   .spareNow 0 0 4, .trainingMarker 32 0 false 0 false 0, .trainingMarker 0 5 false 0 false 0, .trainingMarker 0 0 false 256 false 0,
   .bringupRetry 32, .equaliserTimeout 32, .codewordSend 121, .codewordReceive 32 0 (zl 544) (zl 544) (zl 544) (zl 544) (zl 544),
   .codewordReceive 0 5 (zl 544) (zl 544) (zl 544) (zl 544) (zl 544), .codewordReceive 0 0 (zl 544) (zl 544) (zl 544) (zl 544) (zl 543),
   .codewordReceive 0 0 (zl 544) (zl 544) (zl 544) (zl 544) (4 :: zl 543), .lcsIdle 121, .lcsCtrl 121, .lcsInit 121, .lcsSpare 121, .ackTimer 121,
   .nakRepeat 121, .keepaliveSend 121, .kaTimeout 121, .fastRetrainTimeout 121, .laneLossStart 32 0 false, .laneLossStart 0 5 false,
   .laneLossEnd 32 0 false, .laneLossEnd 0 5 false, .laneLossPersist 32 0, .laneLossPersist 0 5, .quadPllUnlock 32, .quadPllLock 32,
   .clockMismatch 32 0, .clockMismatch 0 5, .spareTrainDone 121 false, .opticsPoll 8 false 0 [] [], .optPresentChange 8 false,
   .vccOptOvercurrent 8, .vccOptRetry 8 false, .frameArrive 208, .frameTail 121, .outputSelect 208, .creditGrant 208 0, .creditGrant 0 6,
   .fence 121 false false, .gminWrite 208 0 false, .rsvWrite 64 0 false, .policerAccept 64, .chunk 64, .stuSum 7168 0 none false,
   .stuGatherFixed 7168 0 none false] : List Instr), wellFormed i = false := by
  decide +kernel

theorem test_illFormed2 : ∀ i ∈
    ([.stuGatherLanes 7168 0 none false, .stuSortLocal 7168 0 none false, .stuSortMerge 7168 0 none false, .stuFilter 7168 0 none false,
   .stuClearCnt 64 [], .gsetCommit 64, .resultVisible 0 64 0, .resultVisible 0 0 65536, .retxRepeat 0 64 0, .retxRepeat 0 0 65536,
   .doorbellSnoop 513, .snoopData 513, .doorbellLineFill 256 0 false, .doorbellLineFill 0 (2 ^ 32) false,
   .descriptorFetch 256 (List.replicate 8 0) false, .descriptorFetch 0 (List.replicate 7 0) false, .cqEntryWrite 256 false false,
   .cqIrqDelay 256 false, .hostLinkTrain 32 0 false, .hostLinkTrain 0 256 false, .twnSwap 256 false, .fencePorts 4 none [],
   .unfencePorts 4 none [], .markFenced 4 none [], .markValid 4 none [], .soloOn 4 none [], .soloOff 4 none [], .enterTungsten 4 none [],
   .xchkSpareDone 16 [], .go 16 0, .go 0 65536, .free 16, .replayHeatTimeout 65536 0, .replayHeatTimeout 0 65536,
   .replayRunDone 65536 0 0, .replayRunDone 0 65536 0, .replayRunDone 0 0 65536, .sensorSample 0 0 0 256 false, .readReg 4 none [],
   .writeReg 4 none [], .profileWrite 4 none [], .profileRoute 4 none [], .kernelCommit 4 none [], .throttleCap 4 none [],
   .logRead 4 none [], .sensorRead 4 none [], .repairRead 4 none [], .unlockAuth 4 none [], .moduleReset 4 none [] [] [],
   .fwCommitSvn 4 none [], .fuseBlowMap 4 none [], .fuseBlowOwner 4 none [], .setEndpointId 2 0, .setEndpointId 0 256, .getEndpointId 2,
   .getMctpVersionSupport 2 0, .getMctpVersionSupport 0 256, .getMessageTypeSupport 2, .getVendorDefinedMessageSupport 2 0,
   .getVendorDefinedMessageSupport 0 256] : List Instr), wellFormed i = false := by
  decide +kernel

theorem test_illFormed3 : ∀ i ∈
    ([.getVersion 3, .getCapabilities 3, .negotiateAlgorithms 3 false, .getDigests 3 none, .getCertificate 3 none 0 0 0,
   .getCertificate 0 none 256 0 0, .getCertificate 0 none 0 65536 0, .getCertificate 0 none 0 0 65536, .challenge 3 0 [],
   .challenge 0 256 [], .getMeasurements 3 none 0 false [] 0, .getMeasurements 0 none 256 false [] 0, .keyExchange 3 false false,
   .finish 3 0 [] false, .heartbeat 3 0 false, .keyUpdate 3 0 false, .endSession 3 0 false, .vendorDefinedRequest 3 none 0 [],
   .vendorDefinedRequest 0 none 256 [], .kSetGo 3 none, .passComponentTable 65536, .updateComponent 65536 0, .updateComponent 0 (2 ^ 32),
   .vinRise 65536, .powerOff 65536, .aux12vChange 65536, .headLineFill 257 0 false false, .headLineFill 0 (2 ^ 32) false false] : List Instr), wellFormed i = false := by
  decide +kernel

/-- The same commands with that operand in range. -/
theorem test_inRange0 : ∀ i ∈
    ([.regWrite 0 0 0 0, .flushClear 0 0, .srGo 0, .launchStart 0, .undefinedOpcode 0, .matMm 0, .matMmp 0, .matMms 0, .matPadd 0 0,
   .vecAdd 0, .vecMul 0, .vecFma 0, .vecMax 0, .vecMin 0, .vecNeg 0, .vecAbs 0, .vecCvt 0, .vecExp2 0, .vecLog2 0, .vecRcp 0,
   .vecRsqrt 0, .vecRowsum 0, .vecRowmax 0, .vecUpd 0, .movCopy 0 0 [], .movCvt 0 0, .movMxin 0 0, .movMxout 0 0, .movAtom 0 0,
   .movStash 0, .stashPoolReply 0 0 0, .movRelease 0 0, .movImload 0 0, .synNop 0, .synWait 0, .waitSatisfied 0 0, .waitTimeout 0 0,
   .synSignal 0, .synRsignal 0 0, .synSetp 0, .synSkip 0, .synRepeat 0, .synSwap 0, .synEnd 0, .synSalu 0, .synSld 0, .synSst 0,
   .synFlags 0, .synColl 0 0, .fixedWriteback 0, .varCommandComplete 0 0 0, .haltLimit 0, .endDrainDone 0, .haltDrainDone 0,
   .haltDrainTimeout 0 0, .haltHost 0 0, .clearHalt 0, .coreReset 0, .requestTimeout 0 0, .farEccPoll 0 false []] : List Instr), wellFormed i = true := by
  decide +kernel

theorem test_inRange1 : ∀ i ∈
    ([.stackTempChange 0 0, .hdmRead 0 0 false, .hdmWrite 0 0 (List.replicate 64 0) 0 false, .enable 0 0 false, .retrain 0,
   .lnkClearCnt 0 [], .spareNow 0 0 0, .trainingMarker 0 0 false 0 false 0, .bringupRetry 0, .equaliserTimeout 0, .codewordSend 0,
   .codewordReceive 0 0 (zl 544) (zl 544) (zl 544) (zl 544) (zl 544), .lcsIdle 0, .lcsCtrl 0, .lcsInit 0, .lcsSpare 0, .ackTimer 0, .nakRepeat 0,
   .keepaliveSend 0, .kaTimeout 0, .fastRetrainTimeout 0, .laneLossStart 0 0 false, .laneLossEnd 0 0 false, .laneLossPersist 0 0,
   .quadPllUnlock 0, .quadPllLock 0, .clockMismatch 0 0, .spareTrainDone 0 false, .opticsPoll 0 false 0 [] [], .optPresentChange 0 false,
   .vccOptOvercurrent 0, .vccOptRetry 0 false, .frameArrive 0, .frameTail 0, .outputSelect 0, .creditGrant 0 0, .fence 0 false false,
   .gminWrite 0 0 false, .rsvWrite 0 0 false, .policerAccept 0, .chunk 0, .stuSum 0 0 none false, .stuGatherFixed 0 0 none false,
   .stuGatherLanes 0 0 none false, .stuSortLocal 0 0 none false, .stuSortMerge 0 0 none false, .stuFilter 0 0 none false,
   .stuClearCnt 0 [], .gsetCommit 0, .resultVisible 0 0 0, .retxRepeat 0 0 0, .doorbellSnoop 0, .snoopData 0,
   .doorbellLineFill 0 0 false, .descriptorFetch 0 (List.replicate 8 0) false, .cqEntryWrite 0 false false, .cqIrqDelay 0 false,
   .hostLinkTrain 0 0 false, .twnSwap 0 false, .fencePorts 0 none []] : List Instr), wellFormed i = true := by
  decide +kernel

theorem test_inRange2 : ∀ i ∈
    ([.unfencePorts 0 none [], .markFenced 0 none [], .markValid 0 none [], .soloOn 0 none [], .soloOff 0 none [],
   .enterTungsten 0 none [], .xchkSpareDone 0 [], .go 0 0, .free 0, .replayHeatTimeout 0 0, .replayRunDone 0 0 0,
   .sensorSample 0 0 0 0 false, .readReg 0 none [], .writeReg 0 none [], .profileWrite 0 none [], .profileRoute 0 none [],
   .kernelCommit 0 none [], .throttleCap 0 none [], .logRead 0 none [], .sensorRead 0 none [], .repairRead 0 none [],
   .unlockAuth 0 none [], .moduleReset 0 none [] [] [], .fwCommitSvn 0 none [], .fuseBlowMap 0 none [], .fuseBlowOwner 0 none [],
   .setEndpointId 0 0, .getEndpointId 0, .getMctpVersionSupport 0 0, .getMessageTypeSupport 0, .getVendorDefinedMessageSupport 0 0,
   .getVersion 0, .getCapabilities 0, .negotiateAlgorithms 0 false, .getDigests 0 none, .getCertificate 0 none 0 0 0, .challenge 0 0 [],
   .getMeasurements 0 none 0 false [] 0, .keyExchange 0 false false, .finish 0 0 [] false, .heartbeat 0 0 false, .keyUpdate 0 0 false,
   .endSession 0 0 false, .vendorDefinedRequest 0 none 0 [], .kSetGo 0 none, .passComponentTable 0, .updateComponent 0 0, .vinRise 0,
   .powerOff 0, .aux12vChange 0, .headLineFill 0 0 false false] : List Instr), wellFormed i = true := by
  decide +kernel

/-! Worked examples of the spec. -/

/-- The Q4 square whose largest magnitude is 2.75 (R49 and the example after R60): its scale byte and five codes. -/
theorem test_q4Square : squareScale .q4 (.fin false 11 (-2)) = 126 ∧
    (convElem .q4 (.fin false 11 (-2)) (-1) .rne false).1 = 0x7 ∧ (convElem .q4 (.fin true 5033165 (-24)) (-1) .rne false).1 = 0x9 ∧
    (convElem .q4 (.fin false 3355443 (-24)) (-1) .rne false).1 = 0x1 ∧
    convElem .q4 (.fin false 1677722 (-24)) (-1) .rne false = (0, ⟨false, false, 1⟩) ∧
    (convElem .q4 (.fin false 5 (-2)) (-1) .rne false).1 = 0x4 := by decide +kernel

/-- The stochastic rounding example: 1 + 2^-9 + 2^-10 in BF16. -/
theorem test_srRounds : (convElem .bf16 (.fin false 1027 (-10)) 0 (.sr 0x9FFFFFFF) false).1 = 0x3F80 ∧
    (convElem .bf16 (.fin false 1027 (-10)) 0 (.sr 0xA0000000) false).1 = 0x3F81 := by decide +kernel

/-- The sums in BF16 depend on their order; the Electrum sum at E = -10 does not. -/
theorem test_sumOrder : (convElem .bf16 (xAdd (.fin false 1 0) (.fin false 1 (-8))) 0 .rne false).1 = 0x3F80 ∧
    (convElem .bf16 (xAdd (.fin false 1 0) (xAdd (.fin false 1 (-8)) (.fin false 1 (-8)))) 0 .rne false).1 = 0x3F81 ∧
    (convElem .bf16 (xOfInt 1032 (-10)) 0 .rne false).1 = 0x3F81 := by decide +kernel

/-- An Electrum contribution at E = -20, and the sum of two of them converted once. -/
theorem test_electrum : convElem .e24 (decodeElem .bf16 0x4049 0) (-20) .rne false = (3293184, noFlags) ∧
    leBytes 3 3293184 = [0x00, 0x40, 0x32] ∧ convElem .bf16 (xOfInt 6586368 (-20)) 0 .rne false = (0x40C9, noFlags) ∧
    (convElem .e24 (.fin false 9 0) (-20) .rne false).1 = 0x7FFFFF ∧ (convElem .e24 (.fin false 9 0) (-20) .rne false).2.sat = true := by
  decide +kernel

/-- The three-member sum at E = -12: the bytes of -1024, the sum, its check and the BF16 result. -/
theorem test_threeMembers : leBytes 3 (toCode 24 (-1024)) = [0x00, 0xFC, 0xFF] ∧ (6144 - 1024 + 32 : Int) = 5152 ∧
    leBytes 5 (toCode 40 5152) = [0x20, 0x14, 0, 0, 0] ∧ checkOf [5152] = 5152 * chkA % chkP ∧
    convElem .bf16 (xOfInt 5152 (-12)) 0 .rne false = (0x3FA1, noFlags) := by decide +kernel

/-- Checks add with the chunks they check, and concatenate by a power of A (R441, R443). -/
theorem test_checks : (checkOf [5, -3] + checkOf [-5, 10]) % chkP = checkOf [0, 7] ∧
    checkOf [1, 2, 3, 4, 5, 6, 7, 8] = (checkOf [1, 2, 3, 4] + powMod 4 * checkOf [5, 6, 7, 8]) % chkP := by decide +kernel

/-- Occupancies of the MAT.MM example: 512 x 128 x 256 in Q8E and in Q4. -/
theorem test_matOccupancy : matOcc .q8e .q8e 512 128 256 = 1040 ∧ matOcc .q4 .q4 512 128 256 = 272 := by decide +kernel

/-- The pair example: 1 + 2^-9 + 2^-20. -/
theorem test_pair : (pairOf .bf16 (.fin false (2 ^ 20 + 2 ^ 11 + 1) (-20))).1 = 0x3F80 ∧
    (pairOf .bf16 (.fin false (2 ^ 20 + 2 ^ 11 + 1) (-20))).2.1 = 0x3B00 := by decide +kernel

/-- The global norm example: limbs 16, 8 and 768 at XQ = -46. -/
theorem test_globalNorm : limbSum (fun i => [16#64, 8#64, 768#64].getD i 0) 0 = 3 * 2 ^ 50 + 2 ^ 24 + 16 ∧
    xAdd (roundAcc (xOfInt (3 * 2 ^ 50 + 2 ^ 24 + 16) (-46))) (.fin true 48 0) = .zero false := by decide +kernel

/-- The HIST example: an activation tensor in Q8E with DELAY 2 and HEAD 2 at step 100. -/
def histRecord : List Word :=
  (((List.replicate 32 (0 : Word)).set 0 (BitVec.ofNat 64 (2 <<< 32 + 2 <<< 37 + 2 <<< 40))).set 1 100#64 |>.set 3 0x104020000#64).set 7 0x103960000#64

theorem test_hist : let h : List Word := (histStep histRecord 100 false).1
    h.getD 8 0 = 0x104020000#64 ∧ h.getD 3 0 = 0 ∧ h.getD 1 0 = 101 ∧ fld (h.getD 2 0) 7 0 = 130 ∧
      sextN 16 (fld (h.getD 2 0) 31 16) = -11 ∧ sextN 16 (fld (h.getD 2 0) 47 32) = -8 := by decide +kernel

/-- The two address examples. -/
theorem test_addresses : addrId 0x0A3F000012900040 = 0x0A3F ∧ addrTier 0x0A3F000012900040 = 0 ∧
    addrOff 0x0A3F000012900040 = 37 * 2 ^ 23 + 0x100040 ∧ addrTier 0x0A3F402400003000 = 1 ∧
    keyStack (2 ^ 46 + addrOff 0x0A3F402400003000) = 19 := by decide +kernel

/-- The pool example: the regions' ends and the size that serves 12,288 B. -/
theorem test_pools : 0x500000 + regionLen 2 128 = 0x580400 ∧ regionLen 3 8 = 8 * 0x4000 + 64 ∧ sizeCode 12288 = some 3 := by decide +kernel

/-- Frame lengths, cells and slots (R355). -/
theorem test_frameLengths : frameLen 4096 = 4352 ∧ frameCells 4096 = 17 ∧ frameLen 4096 / 64 = 68 ∧ frameLen 64 = 256 ∧
    frameLen 0 = 64 ∧ ceilDiv 5000 64 = 79 := by decide +kernel

/-- The check value of CRC-32C. -/
theorem test_crc32c : crc32c [0x31, 0x32, 0x33, 0x34, 0x35, 0x36, 0x37, 0x38, 0x39] = 0xE3069283#32 := by decide +kernel

/-- The dispatch kernel: well formed, and the mask of an expert of the second owner. -/
def ownerKernel : List Nat := [0x80C00000, 0x44CCFFFF, 0x550C0003, 0x41400001, 0x1D950000, 0xFC180000]

theorem test_kernel : kFault ownerKernel = none ∧ kernelOn ownerKernel [] 0 0 (leBytes 64 9) = 2 ∧
    kernelOn ownerKernel [] 0 0 (leBytes 64 7) = 1 ∧ kFault [0xFC180000, 0x80C00000] = some 1 := by decide +kernel

/-- The BOX example: 4 x 3 x 1 with rank 5 absent, stripe 1 of two, seen from rank 6. -/
def boxGroup : Group := ⟨1, true, 4, 3, 1, [], [], [], 0xFDF, []⟩

theorem test_boxTrees : gFirst boxGroup 1 = 1 ∧ rowIns boxGroup 1 0 = [4, 6, 7] ∧ colIns boxGroup 6 0 = [2, 6, 10] ∧
    planeIns boxGroup 6 = [6] ∧ rowAgg boxGroup 6 2 0 = some 10 := by decide +kernel

/-! One step of a command. -/

/-- What a command on core 0 will write: its first flight. -/
def toWrite (s : State) (i : Instr) : Option Writes :=
  match exec i s with | .next t => (t.core 0).flights.head?.map (·.writes) | _ => none

/-- 1.5 at 64 and 2.25 at 128. -/
def vecData (op : Nat) (b : Bool) : State := ((vecState op b).mputBytes 64 [0xC0, 0x3F]).mputBytes 128 [0x10, 0x40]

theorem test_vecSum : toWrite (vecData 0x40 true) (.vecAdd 0) = some [(0, 0x70), (1, 0x40)] := by decide +kernel
theorem test_vecProduct : toWrite (vecData 0x41 true) (.vecMul 0) = some [(0, 0x58), (1, 0x40)] := by decide +kernel
theorem test_vecFma : toWrite ((vecData 0x42 true).setCore 0 { (vecData 0x42 true).core 0 with bank0 := [(0, vecWord 0x42 true ||| 0x80000000000)] })
    (.vecFma 0) = some [(0, 0x58), (1, 0x40)] := by decide +kernel
theorem test_vecMax : toWrite (vecData 0x43 true) (.vecMax 0) = some [(0, 0x10), (1, 0x40)] := by decide +kernel
theorem test_vecMin : toWrite (vecData 0x44 true) (.vecMin 0) = some [(0, 0xC0), (1, 0x3F)] := by decide +kernel
theorem test_vecNeg : toWrite (vecData 0x45 false) (.vecNeg 0) = some [(0, 0xC0), (1, 0xBF)] := by decide +kernel
theorem test_vecAbs : toWrite ((vecData 0x46 false).mputBytes 64 [0xC0, 0xBF]) (.vecAbs 0) = some [(0, 0xC0), (1, 0x3F)] := by decide +kernel
theorem test_vecExp2 : toWrite (vecData 0x48 false) (.vecExp2 0) = some [(0, 0x35), (1, 0x40)] := by decide +kernel
theorem test_vecLog2 : toWrite (vecData 0x49 false) (.vecLog2 0) = some [(0, 0x16), (1, 0x3F)] := by decide +kernel
theorem test_vecRcp : toWrite (vecData 0x4A false) (.vecRcp 0) = some [(0, 0x2B), (1, 0x3F)] := by decide +kernel
theorem test_vecRsqrt : toWrite (vecData 0x4B false) (.vecRsqrt 0) = some [(0, 0x51), (1, 0x3F)] := by decide +kernel

/-- The scalars and predicates a command on core 0 will write. -/
def toScalars (s : State) (i : Instr) : Option (List (Nat × Word) × List (Nat × Bool)) :=
  match exec i s with | .next t => (t.core 0).flights.head?.map fun f => (f.scalars, f.preds) | _ => none

/-- The eight operations of SALU on x = -8 and y = 3 (R126). -/
theorem test_salu : (upFrom 0 8).map (fun k => toScalars (running (synWord 0xC9 3 1 2 0 ||| BitVec.ofNat 256 (k <<< 61)) [2 ^ 64 - 8, 3]) (.synSalu 0)) =
    ([2 ^ 64 - 5, 2 ^ 64 - 11, 0, 2 ^ 64 - 5, 2 ^ 64 - 5, 2 ^ 64 - 64, 2 ^ 61 - 1, 2 ^ 64 - 1] : List Nat).map
      fun v => some ([(3, BitVec.ofNat 64 v)], []) := by decide +kernel

/-- The eight operations of SETP on S1 = -8 and S2 = 3, P1 and P2 being 0 (R126). -/
theorem test_setp : (upFrom 0 8).map (fun k => toScalars (running (synWord 0xC4 3 1 2 0 ||| BitVec.ofNat 256 (k <<< 61)) [2 ^ 64 - 8, 3]) (.synSetp 0)) =
    [false, true, false, true, true, false, false, false].map fun v => some ([], [(3, v)]) := by decide +kernel

/-- SLD reads, and SST writes, least significant byte first. -/
theorem test_sld : toScalars ((running (synWord 0xCA 3 1 0 8) [64]).mputBytes 72 [1, 2]) (.synSld 0) = some ([(3, 0x201#64)], []) := by decide +kernel
theorem test_sst : toWrite (running (synWord 0xCB 0 1 2 8) [64, 0x0807060504030201]) (.synSst 0) =
    some [(72, 1), (73, 2), (74, 3), (75, 4), (76, 5), (77, 6), (78, 7), (79, 8)] := by decide +kernel

/-- sr_word, worked out from R84. -/
theorem test_srWord : srWord 1 2 3 4 = 0x5D7BCD4B#32 ∧ srWord 0x123456789ABCDEF0 41000 7 12318017 = 0xEDEE4895#32 := by decide +kernel

/-- The ring example: CQ 2 of 64 entries, PHASE of indices 127 and 128, and their places. -/
theorem test_phase : (entryWords State.reset ⟨2, 0x200000900000, 6, 0, true, 0, 0, 127, 0, 0⟩ ⟨5, 2, some 257, 0x102, 7, stOK, 0, 0⟩).map (fld · 63 63) = [0, 0, 0, 0] ∧
    (entryWords State.reset ⟨2, 0x200000900000, 6, 0, true, 0, 0, 128, 0, 0⟩ ⟨5, 2, some 257, 0x101, 7, stOK, 0, 0⟩).map (fld · 63 63) = [0, 0, 0, 1] ∧
    127 % 64 * 32 = 0x7E0 := by decide +kernel

/-- The trees of the BOX example: 14 chunks over two stripes, and rank 6's way down. -/
def boxOf (me : Nat) : Coll :=
  { aColl kALLREDUCE boxGroup me with
    desc := [BitVec.ofNat 64 (kALLREDUCE + 1 <<< 48), BitVec.ofNat 64 (10000 + 768 <<< 32 + 0xA <<< 42 + 0xB <<< 46)] ++ List.replicate 22 (0 : Word) }

theorem test_boxStripe : collRoot (boxOf 6) 1 = 6 ∧ stripeChunks (boxOf 6) 1 = 7 ∧ stripeChunks (boxOf 6) 0 = 7 ∧
    fanSteps (boxOf 6) 1 = [(2, []), (1, [2, 10]), (0, [4, 7])] ∧ fanKids (boxOf 2) 1 = [0, 1, 3] ∧ fanKids (boxOf 10) 1 = [8, 9, 11] ∧
    hostsLevel (boxOf 6) 1 2 = false ∧ hostsLevel (boxOf 6) 1 1 = true := by decide +kernel

end Sys2Proof.Machine
end

section
/-! How a BF16 code with exponent field 0 is read (R37). -/

namespace Sys2Proof.Machine

/-- The top bit of an `(n + 1)`-bit number: the sign of a code of a sign-and-magnitude format. -/
theorem testBit_top_eq_decide {b n : Nat} (hb : b < 2 ^ (n + 1)) : b.testBit n = decide (2 ^ n ≤ b) := by
  by_cases hn : 2 ^ n ≤ b
  · rw [Nat.testBit_of_two_pow_le_and_two_pow_add_one_gt hn hb, decide_eq_true hn]
  · rw [Nat.testBit_lt_two_pow (Nat.lt_of_not_le hn), decide_eq_false hn]

/-- Exponent field 0 is not the all-ones field of infinity and NaN, so a BF16 code with mantissa not 0 is read by the
branch for subnormals, which keeps the sign bit and nothing else (R37). -/
theorem decodeFloat_bf16_subnormal {F : FloatFmt} {b : Nat} (X : Int) (hbits : F.expBits ≠ 0)
    (hexp : (b >>> F.M) % 2 ^ F.expBits = 0) (hmant : b % 2 ^ F.M ≠ 0) :
    decodeFloat .bf16 F b X = .zero (b.testBit (F.M + F.expBits)) := by
  have hones : 0 ≠ 2 ^ F.expBits - 1 := Nat.ne_of_lt (Nat.sub_pos_of_lt (Nat.one_lt_two_pow hbits))
  simp [decodeFloat, hexp, hmant, hones]

/-- Settles O8: with BF16's 7 mantissa and 8 exponent bits, the sign kept is bit 15 of the code. -/
theorem bf16SubnormalsReadZero : Obligations.Bf16SubnormalsReadZero := by
  intro b X hb hexp hmant
  have hfield : (b >>> 7) % 2 ^ 8 = 0 := by rwa [Nat.shiftRight_eq_div_pow]
  calc decodeElem .bf16 b X
      = decodeFloat .bf16 ⟨7, -126, 127, 255, 127, false, 8⟩ b X := rfl
    _ = .zero (b.testBit 15) := decodeFloat_bf16_subnormal X (by decide) hfield hmant
    _ = .zero (decide (32768 ≤ b)) := congrArg XVal.zero (testBit_top_eq_decide hb)

end Sys2Proof.Machine
end

section
/-! Semaphore increments that reach a core that is neither RUNNING nor DRAINING (R105). -/

namespace Sys2Proof.Machine

variable {s : State} {n : Nat}

/-- An increment by a command of the core itself or by its SIG_SEM. -/
theorem semAdd_eq_self (sem k : Nat) (bank : Bool) (idx cyc : Nat)
    (hlive : ¬((s.core n).mode = .running ∨ (s.core n).mode = .draining)) :
    semAdd s n sem k bank idx cyc = s :=
  if_neg hlive

/-- An increment brought by a SIG. -/
theorem semAddOutside_eq_self (sem k : Nat)
    (hlive : ¬((s.core n).mode = .running ∨ (s.core n).mode = .draining)) :
    semAddOutside s n sem k = s :=
  if_neg hlive

/-- Settles O7: both ways to a semaphore begin with the test of the core's mode, before the limit of 65,535 is looked
at, so a discarded increment cannot halt the core either. -/
theorem lateIncrementsDiscarded : Obligations.LateIncrementsDiscarded := by
  intro s n sem k hrun hdrain
  have hlive : ¬((s.core n).mode = .running ∨ (s.core n).mode = .draining) := not_or.mpr ⟨hrun, hdrain⟩
  exact ⟨semAddOutside_eq_self sem k hlive, fun bank idx cyc => semAdd_eq_self sem k bank idx cyc hlive⟩

end Sys2Proof.Machine
end

section
/-! The linear check as a number in base A, and its offset rule (R439, R442). -/

namespace Sys2Proof.Machine

/-- One bit of an exponent in `powGo`: the factor that goes into the result. -/
theorem powBit_mul_mod (k b r x : Nat) :
    (if k % 2 = 1 then mulMod r b else r) * x % chkP = r * b ^ (k % 2) * x % chkP := by
  obtain hbit | hbit := Nat.mod_two_eq_zero_or_one k
  · rw [if_neg (by omega), hbit, Nat.pow_zero, Nat.mul_one]
  · rw [if_pos hbit, hbit, Nat.pow_one, mulMod, Nat.mod_mul_mod]

/-- One bit of an exponent in `powGo`: the base is squared. -/
theorem mul_mulMod_pow_mod (x b e : Nat) : x * mulMod b b ^ e % chkP = x * b ^ (2 * e) % chkP := by
  rw [mulMod, Nat.mul_mod, ← Nat.pow_mod, ← Nat.mul_mod, ← Nat.pow_two, ← Nat.pow_mul]

/-- Squaring and multiplying over the bits of an exponent that the fuel covers. -/
theorem powGo_mod (n k b r : Nat) (hk : k < 2 ^ n) : powGo n k b r % chkP = r * b ^ k % chkP := by
  induction n generalizing k b r with
  | zero =>
    obtain rfl : k = 0 := Nat.lt_one_iff.mp hk
    rw [powGo, Nat.pow_zero, Nat.mul_one]
  | succ n ih =>
    have hhalf : k / 2 < 2 ^ n := by omega
    calc powGo (n + 1) k b r % chkP
        = (if k % 2 = 1 then mulMod r b else r) * mulMod b b ^ (k / 2) % chkP := ih _ _ _ hhalf
      _ = r * b ^ (k % 2) * mulMod b b ^ (k / 2) % chkP := powBit_mul_mod _ _ _ _
      _ = r * b ^ (k % 2) * b ^ (2 * (k / 2)) % chkP := mul_mulMod_pow_mod _ _ _
      _ = r * b ^ k % chkP := by rw [Nat.mul_assoc, ← Nat.pow_add, Nat.mod_add_div]

theorem powMod_mod (k : Nat) : powMod k % chkP = chkA ^ k % chkP := by
  rw [powMod, powGo_mod _ _ _ _ Nat.lt_log2_self, Nat.one_mul]

/-- The residues modulo P of a sequence, read as the digits of a number in base A, the first number lowest. -/
def baseA : List Int → Nat
  | [] => 0
  | n :: t => (n % (chkP : Int)).toNat + chkA * baseA t

theorem baseA_append (l m : List Int) : baseA (l ++ m) = baseA l + chkA ^ l.length * baseA m := by
  induction l with
  | nil => rw [List.nil_append, baseA, List.length_nil, Nat.pow_zero, Nat.one_mul, Nat.zero_add]
  | cons n t ih =>
    rw [List.cons_append, baseA, baseA, ih, List.length_cons, Nat.pow_succ', Nat.mul_add, Nat.mul_assoc, Nat.add_assoc]

/-- The running check and weight of R439: each number is added at the weight reached, and the weight goes up by A. -/
theorem checkGo_eq_mod (l : List Int) (w c : Nat) : checkGo l w (c % chkP) = (c + w * baseA l) % chkP := by
  induction l generalizing w c with
  | nil => rw [checkGo, baseA, Nat.mul_zero, Nat.add_zero]
  | cons n t ih =>
    have hsum : (c % chkP + mulMod (n % (chkP : Int)).toNat w) % chkP = (c + (n % (chkP : Int)).toNat * w) % chkP :=
      (Nat.add_mod _ _ _).symm
    have hweight : mulMod w chkA * baseA t % chkP = w * chkA * baseA t % chkP := Nat.mod_mul_mod _ _ _
    calc checkGo (n :: t) w (c % chkP)
        = (c % chkP + mulMod (n % (chkP : Int)).toNat w + mulMod w chkA * baseA t) % chkP := ih _ _
      _ = (c + (n % (chkP : Int)).toNat * w + w * chkA * baseA t) % chkP := by
          rw [Nat.add_mod, hsum, hweight, ← Nat.add_mod]
      _ = (c + w * baseA (n :: t)) % chkP := by
          rw [baseA, Nat.mul_add, Nat.add_assoc, Nat.mul_assoc, Nat.mul_comm _ w]

theorem checkOf_eq_mod (l : List Int) : checkOf l = chkA * baseA l % chkP := by
  have hrun : checkGo l chkA (0 % chkP) = (0 + chkA * baseA l) % chkP := checkGo_eq_mod l chkA 0
  rwa [Nat.zero_mod, Nat.zero_add] at hrun

/-- The factor `powMod k` moves a check from position 0 to position `k`. -/
theorem mulMod_powMod_checkOf (k : Nat) (m : List Int) :
    mulMod (powMod k) (checkOf m) = chkA ^ k * (chkA * baseA m) % chkP := by
  rw [mulMod, checkOf_eq_mod, Nat.mul_mod, powMod_mod, Nat.mod_mod, ← Nat.mul_mod]

/-- The rule for one cut of a sequence. -/
theorem checkOf_append (l m : List Int) :
    checkOf (l ++ m) = (checkOf l + mulMod (powMod l.length) (checkOf m)) % chkP :=
  calc checkOf (l ++ m)
      = chkA * (baseA l + chkA ^ l.length * baseA m) % chkP := by rw [checkOf_eq_mod, baseA_append]
    _ = (chkA * baseA l + chkA ^ l.length * (chkA * baseA m)) % chkP := by
        rw [Nat.mul_add, Nat.mul_left_comm chkA]
    _ = (checkOf l + mulMod (powMod l.length) (checkOf m)) % chkP := by
        rw [checkOf_eq_mod l, mulMod_powMod_checkOf, ← Nat.add_mod]

/-- Settles O37: the rule for one cut, at the end of `pre ++ e` and then at the end of `pre`. -/
theorem checkOffsetRule : Obligations.CheckOffsetRule := by
  intro pre e post
  rw [checkOf_append, checkOf_append, Nat.mod_add_mod, List.length_append]

end Sys2Proof.Machine
end

section
/-! A step: what it runs, and that it keeps the invariant and takes just the front command. -/

namespace Sys2Proof.Machine

theorem step_nil {s : State} (hq : s.pending = []) : step s = .next s.tick := by
  unfold step
  rw [hq]

theorem step_cons {s : State} {c : Instr} {rest : List Instr} (hq : s.pending = c :: rest) :
    step s = exec c { s with pending := rest } := by
  unfold step
  rw [hq]

/-- Settles O1: the two branches of `step`. -/
theorem stepRunsFrontCommand : Obligations.StepRunsFrontCommand :=
  fun _ => ⟨fun _ _ => step_cons rfl, step_nil⟩

/-- The invariant says nothing of the queue, nor of the clock. -/
theorem Inv.withQueue {s : State} (h : Inv s) (q : List Instr) : Inv { s with pending := q } :=
  ⟨h.mem, h.regs, h.cores, h.core, h.pools, h.lanes, h.rsv⟩

theorem Inv.tick {s : State} (h : Inv s) : Inv s.tick :=
  ⟨h.mem, h.regs, h.cores, h.core, h.pools, h.lanes, h.rsv⟩

/-- Every command keeps the invariant and the queue, by the lemma about its row. -/
theorem keeps_exec {q : List Instr} {s : State} (c : Instr) (h : Keeps q s) : KeepsO q (exec c s) := by
  cases c with
  | regWrite => exact keeps_execRegWrite h
  | configRequest => exact keeps_execConfigRequest h
  | flushClear => exact keeps_execFlushClear h
  | srGo => exact keeps_execSrGo h
  | srEvalDone => exact keeps_execSrEvalDone h
  | launchStart => exact keeps_execLaunchStart h
  | undefinedOpcode => exact keeps_execUndefinedOpcode h
  | matMm => exact keeps_execMatMm h
  | matMmp => exact keeps_execMatMmp h
  | matMms => exact keeps_execMatMms h
  | matPadd => exact keeps_execMatPadd h
  | vecAdd => exact keeps_execVecAdd h
  | vecMul => exact keeps_execVecMul h
  | vecFma => exact keeps_execVecFma h
  | vecMax => exact keeps_execVecMax h
  | vecMin => exact keeps_execVecMin h
  | vecNeg => exact keeps_execVecNeg h
  | vecAbs => exact keeps_execVecAbs h
  | vecCvt => exact keeps_execVecCvt h
  | vecExp2 => exact keeps_execVecExp2 h
  | vecLog2 => exact keeps_execVecLog2 h
  | vecRcp => exact keeps_execVecRcp h
  | vecRsqrt => exact keeps_execVecRsqrt h
  | vecRowsum => exact keeps_execVecRowsum h
  | vecRowmax => exact keeps_execVecRowmax h
  | vecUpd => exact keeps_execVecUpd h
  | movCopy => exact keeps_execMovCopy h
  | movCvt => exact keeps_execMovCvt h
  | movMxin => exact keeps_execMovMxin h
  | movMxout => exact keeps_execMovMxout h
  | movAtom => exact keeps_execMovAtom h
  | movStash => exact keeps_execMovStash h
  | stashPoolReply => exact keeps_execStashPoolReply h
  | movRelease => exact keeps_execMovRelease h
  | movImload => exact keeps_execMovImload h
  | synNop => exact keeps_execSynNop h
  | synWait => exact keeps_execSynWait h
  | waitSatisfied => exact keeps_execWaitSatisfied h
  | waitTimeout => exact keeps_execWaitTimeout h
  | synSignal => exact keeps_execSynSignal h
  | synRsignal => exact keeps_execSynRsignal h
  | synSetp => exact keeps_execSynSetp h
  | synSkip => exact keeps_execSynSkip h
  | synRepeat => exact keeps_execSynRepeat h
  | synSwap => exact keeps_execSynSwap h
  | synEnd => exact keeps_execSynEnd h
  | synSalu => exact keeps_execSynSalu h
  | synSld => exact keeps_execSynSld h
  | synSst => exact keeps_execSynSst h
  | synFlags => exact keeps_execSynFlags h
  | synColl => exact keeps_execSynColl h
  | fixedWriteback => exact keeps_execFixedWriteback h
  | varCommandComplete => exact keeps_execVarCommandComplete h
  | haltLimit => exact keeps_execHaltLimit h
  | endDrainDone => exact keeps_execEndDrainDone h
  | haltDrainDone => exact keeps_execHaltDrainDone h
  | haltDrainTimeout => exact keeps_execHaltDrainTimeout h
  | haltHost => exact keeps_execHaltHost h
  | clearHalt => exact keeps_execClearHalt h
  | coreReset => exact keeps_execCoreReset h
  | poolInit => exact keeps_execPoolInit h
  | poolInitDone => exact keeps_execPoolInitDone h
  | memErrClear => exact keeps_execMemErrClear h
  | requestTimeout => exact keeps_execRequestTimeout h
  | patrolScrub => exact keeps_execPatrolScrub h
  | farEccPoll => exact keeps_execFarEccPoll h
  | stackTempChange => exact keeps_execStackTempChange h
  | hdmRead => exact keeps_execHdmRead h
  | hdmWrite => exact keeps_execHdmWrite h
  | bisnpResponse => exact keeps_execBisnpResponse h
  | enable => exact keeps_execEnable h
  | retrain => exact keeps_execRetrain h
  | lnkClearCnt => exact keeps_execLnkClearCnt h
  | spareNow => exact keeps_execSpareNow h
  | trainingMarker => exact keeps_execTrainingMarker h
  | bringupRetry => exact keeps_execBringupRetry h
  | equaliserTimeout => exact keeps_execEqualiserTimeout h
  | codewordSend => exact keeps_execCodewordSend h
  | codewordReceive => rw [exec_codewordReceive]; exact keeps_execCodewordReceive h
  | lcsIdle => exact keeps_execLcsIdle h
  | lcsCtrl => exact keeps_execLcsCtrl h
  | lcsInit => exact keeps_execLcsInit h
  | lcsSpare => exact keeps_execLcsSpare h
  | ackTimer => exact keeps_execAckTimer h
  | nakRepeat => exact keeps_execNakRepeat h
  | keepaliveSend => exact keeps_execKeepaliveSend h
  | kaTimeout => exact keeps_execKaTimeout h
  | fastRetrainTimeout => exact keeps_execFastRetrainTimeout h
  | laneLossStart => exact keeps_execLaneLossStart h
  | laneLossEnd => exact keeps_execLaneLossEnd h
  | laneLossPersist => exact keeps_execLaneLossPersist h
  | quadPllUnlock => exact keeps_execQuadPllUnlock h
  | quadPllLock => exact keeps_execQuadPllLock h
  | clockMismatch => exact keeps_execClockMismatch h
  | spareTrainDone => exact keeps_execSpareTrainDone h
  | opticsPoll => exact keeps_execOpticsPoll h
  | optPresentChange => exact keeps_execOptPresentChange h
  | vccOptOvercurrent => exact keeps_execVccOptOvercurrent h
  | vccOptRetry => exact keeps_execVccOptRetry h
  | frameArrive => exact keeps_execFrameArrive h
  | frameTail => exact keeps_execFrameTail h
  | adaptiveChoice => exact keeps_execAdaptiveChoice h
  | outputSelect => exact keeps_execOutputSelect h
  | creditGrant => exact keeps_execCreditGrant h
  | ageCheck => exact keeps_execAgeCheck h
  | fence => exact keeps_execFence h
  | gminWrite => exact keeps_execGminWrite h
  | swcClearCnt => exact keeps_execSwcClearCnt h
  | rsvWrite => exact keeps_execRsvWrite h
  | refill => exact keeps_execRefill h
  | policerAccept => exact keeps_execPolicerAccept h
  | wr => exact keeps_execWr h
  | rd => exact keeps_execRd h
  | rddata => exact keeps_execRddata h
  | wrack => exact keeps_execWrack h
  | atom => exact keeps_execAtom h
  | atomrsp => exact keeps_execAtomrsp h
  | sig => exact keeps_execSig h
  | sigack => exact keeps_execSigack h
  | err => exact keeps_execErr h
  | msg => exact keeps_execMsg h
  | msgDeliverRetry => exact keeps_execMsgDeliverRetry h
  | deliverDrop => exact keeps_execDeliverDrop h
  | msgack => exact keeps_execMsgack h
  | flow => exact keeps_execFlow h
  | chunk => exact keeps_execChunk h
  | stuSum => exact keeps_execStuSum h
  | stuGatherFixed => exact keeps_execStuGatherFixed h
  | stuGatherLanes => exact keeps_execStuGatherLanes h
  | stuSortLocal => exact keeps_execStuSortLocal h
  | stuSortMerge => exact keeps_execStuSortMerge h
  | stuFilter => exact keeps_execStuFilter h
  | stuClearCnt => exact keeps_execStuClearCnt h
  | kctrlCommit => exact keeps_execKctrlCommit h
  | kernelInstallDone => exact keeps_execKernelInstallDone h
  | gsetCommit => exact keeps_execGsetCommit h
  | groupCommitDone => exact keeps_execGroupCommitDone h
  | reserveRetry => exact keeps_execReserveRetry h
  | ready => exact keeps_execReady h
  | result => exact keeps_execResult h
  | resultVisible => exact keeps_execResultVisible h
  | ack => exact keeps_execAck h
  | pace => exact keeps_execPace h
  | retx => exact keeps_execRetx h
  | retxRepeat => exact keeps_execRetxRepeat h
  | report => exact keeps_execReport h
  | collEnd => exact keeps_execCollEnd h
  | endRepeat => exact keeps_execEndRepeat h
  | collProgressTimeout => exact keeps_execCollProgressTimeout h
  | collSelfEnd => exact keeps_execCollSelfEnd h
  | memberPoll => exact keeps_execMemberPoll h
  | raceCasReply => exact keeps_execRaceCasReply h
  | raceCopyDone => exact keeps_execRaceCopyDone h
  | doorbellSnoop => exact keeps_execDoorbellSnoop h
  | snoopData => exact keeps_execSnoopData h
  | doorbellLineFill => exact keeps_execDoorbellLineFill h
  | descriptorFetch => exact keeps_execDescriptorFetch h
  | stagingRetry => exact keeps_execStagingRetry h
  | nop => exact keeps_execNop h
  | launch => exact keeps_execLaunch h
  | pload => exact keeps_execPload h
  | copy => exact keeps_execCopy h
  | coll => exact keeps_execColl h
  | flowsend => exact keeps_execFlowsend h
  | createSq => exact keeps_execCreateSq h
  | createCq => exact keeps_execCreateCq h
  | deleteSq => exact keeps_execDeleteSq h
  | deleteCq => exact keeps_execDeleteCq h
  | openFlow => exact keeps_execOpenFlow h
  | closeFlow => exact keeps_execCloseFlow h
  | resetFlow => exact keeps_execResetFlow h
  | descriptorWorkDone => exact keeps_execDescriptorWorkDone h
  | cqEntryWrite => exact keeps_execCqEntryWrite h
  | eventRecordWrite => exact keeps_execEventRecordWrite h
  | cqIrqDelay => exact keeps_execCqIrqDelay h
  | eventIrqDelay => exact keeps_execEventIrqDelay h
  | hostLinkTrain => exact keeps_execHostLinkTrain h
  | hostFullOperationLoss => exact keeps_execHostFullOperationLoss h
  | perstN => exact keeps_execPerstN h
  | perstNDeassert => exact keeps_execPerstNDeassert h
  | hotReset => exact keeps_execHotReset h
  | linkDisable => exact keeps_execLinkDisable h
  | functionLevelReset => exact keeps_execFunctionLevelReset h
  | hifReset => exact keeps_execHifReset h
  | hifEnable => exact keeps_execHifEnable h
  | lock => exact keeps_execLock h
  | request => exact keeps_execRequest h
  | unlockAuthTimeout => exact keeps_execUnlockAuthTimeout h
  | twnCommit => exact keeps_execTwnCommit h
  | mirrorInject => exact keeps_execMirrorInject h
  | mirror => exact keeps_execMirror h
  | twnSeal => exact keeps_execSeal h
  | sealVerify => exact keeps_execSealVerify h
  | mirrorack => exact keeps_execMirrorack h
  | mirrorAckTimeout => exact keeps_execMirrorAckTimeout h
  | twnRestart => exact keeps_execTwnRestart h
  | boundary => exact keeps_execBoundary h
  | twnSwap => exact keeps_execTwnSwap h
  | fencePorts => exact keeps_execFencePorts h
  | unfencePorts => exact keeps_execUnfencePorts h
  | markFenced => exact keeps_execMarkFenced h
  | markValid => exact keeps_execMarkValid h
  | soloOn => exact keeps_execSoloOn h
  | soloOff => exact keeps_execSoloOff h
  | enterTungsten => exact keeps_execEnterTungsten h
  | healthDecay => exact keeps_execHealthDecay h
  | xchkSpareDone => exact keeps_execXchkSpareDone h
  | go => exact keeps_execGo h
  | free => exact keeps_execFree h
  | replayHeatDone => exact keeps_execReplayHeatDone h
  | replayHeatTimeout => exact keeps_execReplayHeatTimeout h
  | replayRunDone => exact keeps_execReplayRunDone h
  | fatalClear => exact keeps_execFatalClear h
  | eventHandle => exact keeps_execEventHandle h
  | logWrite => exact keeps_execLogWrite h
  | watchdogStrobe => exact keeps_execWatchdogStrobe h
  | watchdogExpire => exact keeps_execWatchdogExpire h
  | sensorSample => exact keeps_execSensorSample h
  | pinsUpdate => exact keeps_execPinsUpdate h
  | alertResponse => exact keeps_execAlertResponse h
  | mailboxGo => exact keeps_execMailboxGo h
  | readReg => exact keeps_execReadReg h
  | writeReg => exact keeps_execWriteReg h
  | profileWrite => exact keeps_execProfileWrite h
  | profileRoute => exact keeps_execProfileRoute h
  | kernelCommit => exact keeps_execKernelCommit h
  | throttleCap => exact keeps_execThrottleCap h
  | logRead => exact keeps_execLogRead h
  | sensorRead => exact keeps_execSensorRead h
  | repairRead => exact keeps_execRepairRead h
  | unlockAuth => exact keeps_execUnlockAuth h
  | moduleReset => exact keeps_execModuleReset h
  | fwCommitSvn => exact keeps_execFwCommitSvn h
  | fuseBlowMap => exact keeps_execFuseBlowMap h
  | fuseBlowOwner => exact keeps_execFuseBlowOwner h
  | setEndpointId => exact keeps_execSetEndpointId h
  | getEndpointId => exact keeps_execGetEndpointId h
  | getMctpVersionSupport => exact keeps_execGetMctpVersionSupport h
  | getMessageTypeSupport => exact keeps_execGetMessageTypeSupport h
  | getVendorDefinedMessageSupport => exact keeps_execGetVendorDefinedMessageSupport h
  | getVersion => exact keeps_execGetVersion h
  | getCapabilities => exact keeps_execGetCapabilities h
  | negotiateAlgorithms => exact keeps_execNegotiateAlgorithms h
  | getDigests => exact keeps_execGetDigests h
  | getCertificate => exact keeps_execGetCertificate h
  | challenge => exact keeps_execChallenge h
  | getMeasurements => exact keeps_execGetMeasurements h
  | keyExchange => exact keeps_execKeyExchange h
  | finish => exact keeps_execFinish h
  | heartbeat => exact keeps_execHeartbeat h
  | keyUpdate => exact keeps_execKeyUpdate h
  | endSession => exact keeps_execEndSession h
  | vendorDefinedRequest => exact keeps_execVendorDefinedRequest h
  | kSetGo => exact keeps_execKSetGo h
  | queryDeviceIdentifiers => exact keeps_execQueryDeviceIdentifiers h
  | getFirmwareParameters => exact keeps_execGetFirmwareParameters h
  | requestUpdate => exact keeps_execRequestUpdate h
  | passComponentTable => exact keeps_execPassComponentTable h
  | updateComponent => exact keeps_execUpdateComponent h
  | requestFirmwareData => exact keeps_execRequestFirmwareData h
  | transferComplete => exact keeps_execTransferComplete h
  | verifyComplete => exact keeps_execVerifyComplete h
  | applyComplete => exact keeps_execApplyComplete h
  | activateFirmware => exact keeps_execActivateFirmware h
  | getStatus => exact keeps_execGetStatus h
  | cancelUpdateComponent => exact keeps_execCancelUpdateComponent h
  | cancelUpdate => exact keeps_execCancelUpdate h
  | vinRise => exact keeps_execVinRise h
  | powerGood => exact keeps_execPowerGood h
  | powerOff => exact keeps_execPowerOff h
  | aux12vChange => exact keeps_execAux12vChange h
  | modResetNAssert => exact keeps_execModResetNAssert h
  | modResetNDeassert => exact keeps_execModResetNDeassert h
  | bootComplete => exact keeps_execBootComplete h
  | trstN => exact keeps_execTrstN h
  | idcode => exact keeps_execIdcode h
  | bypass => exact keeps_execBypass h
  | sample => exact keeps_execSample h
  | preload => exact keeps_execPreload h
  | extest => exact keeps_execExtest h
  | headLineFill => exact keeps_execHeadLineFill h
  | hostInterfaceIslandFails => exact keeps_execHostInterfaceIslandFails h

/-- Settles O3: on an empty queue the clock alone moves; otherwise the front command keeps the invariant and the queue
that it finds, which is the rest. -/
theorem stepKeepsMemoryAndQueue : Obligations.StepKeepsMemoryAndQueue := by
  intro s t hinv hstep
  cases hq : s.pending with
  | nil =>
    obtain rfl : s.tick = t := Host.Outcome.next.inj ((step_nil hq).symm.trans hstep)
    exact ⟨hinv.tick, hq⟩
  | cons c rest => exact keeps_exec c ⟨hinv.withQueue rest, rfl⟩ t ((step_cons hq).symm.trans hstep)

end Sys2Proof.Machine
end

section
/-! Every command answers a next state. -/

namespace Sys2Proof.Machine

/-- An answer that is a next state: no fault and no refusal. -/
def Answers (o : Host.Outcome State Fault Refusal) : Prop := ∃ t, o = .next t

@[simp] theorem answers_next (s : State) : Answers (.next s) := ⟨s, rfl⟩

theorem Answers.ite {c : Prop} [Decidable c] {a b : Host.Outcome State Fault Refusal} (ha : Answers a) (hb : Answers b) :
    Answers (if c then a else b) := by
  split <;> assumption

theorem answers_gated {s : State} {rd wr : List (Nat × Nat)} {go : Host.Outcome State Fault Refusal} (h : Answers go) :
    Answers (gated s rd wr go) := by
  unfold gated
  repeat' split
  · exact h
  · exact answers_next _
  · exact h

theorem answers_gatedColl {s : State} {go : Host.Outcome State Fault Refusal} (h : Answers go) : Answers (gatedColl s go) := by
  unfold gatedColl
  exact .ite h (answers_gated h)

theorem answers_matIssue (s : State) (n op : Nat) (pair : Bool) : Answers (matIssue s n op pair) := by
  unfold matIssue
  repeat' first | with_reducible exact answers_next _ | dsimp only | split

theorem answers_synIssue (s : State) (n op : Nat) (plan : Core → Cmd → Plan) : Answers (synIssue s n op plan) := by
  unfold synIssue
  repeat' first | with_reducible exact answers_next _ | dsimp only | split

theorem answers_controlIssue (s : State) (n op : Nat) (faults effect before) : Answers (controlIssue s n op faults effect before) := by
  unfold controlIssue
  repeat' first | with_reducible exact answers_next _ | dsimp only | split

theorem answers_vecIssue (s : State) (n op : Nat) (kind srcs dOk dCols val) : Answers (vecIssue s n op kind srcs dOk dCols val) := by
  unfold vecIssue
  repeat' first | with_reducible exact answers_next _ | dsimp only | split

theorem answers_movIssue (s : State) (n op occ : Nat) (errs : List (Nat × Bool)) : Answers (movIssue s n op occ errs) := by
  unfold movIssue
  split
  · exact answers_next _
  · exact answers_next _
  · apply answers_gated
    repeat' first | with_reducible exact answers_next _ | dsimp only | split

theorem answers_runDesc (s : State) (op : Nat) (act : Nat → List Word → State → State) : Answers (runDesc s op act) := by
  unfold runDesc
  repeat' first | with_reducible exact answers_next _ | dsimp only | split

theorem answers_plainReply (s : State) (ty : Nat) (kind : ReqKind) : Answers (plainReply s ty kind) := by
  unfold plainReply
  repeat' first | with_reducible exact answers_next _ | dsimp only | split

theorem answers_mgHandle (s : State) (op via : Nat) (sess : Option Nat) (msg : List Word) (fits : List Byte → Bool)
    (act : State → MgReq → List Byte → State) : Answers (mgHandle s op via sess msg fits act) := by
  unfold mgHandle
  repeat' first | with_reducible exact answers_next _ | dsimp only | split

theorem answers_fenceRow (fop via : Nat) (sess : Option Nat) (msg : List Word) (s : State) :
    Answers (fenceRow fop via sess msg s) := by
  unfold fenceRow
  exact .ite (answers_mgHandle ..) (answers_next _)

theorem answers_spdmHandle (s : State) (iface code : Nat) (sess : Option Nat) (need : Nat)
    (act : State → Option Delivered → State) : Answers (spdmHandle s iface code sess need act) := by
  unfold spdmHandle
  repeat' first | with_reducible exact answers_next _ | dsimp only | split

theorem answers_pldmRow (s : State) (cmd : Nat) (st : List Nat) (act : State → State) : Answers (pldmRow s cmd st act) := by
  unfold pldmRow
  repeat' first | with_reducible exact answers_next _ | dsimp only | split

theorem answers_execSrEvalDone (s : State) : Answers (execSrEvalDone s) := by
  unfold execSrEvalDone
  repeat' first | with_reducible exact answers_next _ | dsimp only | split

theorem answers_execLaunchStart (n : Nat) (s : State) : Answers (execLaunchStart n s) := by
  unfold execLaunchStart
  repeat' first | with_reducible exact answers_next _ | dsimp only | split

theorem answers_execUndefinedOpcode (n : Nat) (s : State) : Answers (execUndefinedOpcode n s) := by
  unfold execUndefinedOpcode
  repeat' first | with_reducible exact answers_next _ | dsimp only | split

theorem answers_execMatMms (n : Nat) (s : State) : Answers (execMatMms n s) := by
  unfold execMatMms
  repeat' first | with_reducible exact answers_next _ | dsimp only | split

theorem answers_execVecUpd (n : Nat) (s : State) : Answers (execVecUpd n s) := by
  unfold execVecUpd
  repeat' first | with_reducible exact answers_next _ | dsimp only | split

theorem answers_execMovAtom (n occ : Nat) (s : State) : Answers (execMovAtom n occ s) := by
  unfold execMovAtom
  repeat' first | with_reducible exact answers_next _ | dsimp only | split

theorem answers_execMovStash (n : Nat) (s : State) : Answers (execMovStash n s) := by
  unfold execMovStash
  repeat' first | with_reducible exact answers_next _ | dsimp only | split

theorem answers_execStashPoolReply (n cyc occ : Nat) (s : State) : Answers (execStashPoolReply n cyc occ s) := by
  unfold execStashPoolReply
  repeat' first | with_reducible exact answers_next _ | with_reducible apply answers_gated | dsimp only | split

theorem answers_execMovRelease (n occ : Nat) (s : State) : Answers (execMovRelease n occ s) := by
  unfold execMovRelease
  repeat' first | with_reducible exact answers_next _ | with_reducible apply answers_gated | dsimp only | split

theorem answers_execMovImload (n occ : Nat) (s : State) : Answers (execMovImload n occ s) := by
  unfold execMovImload
  repeat' first | with_reducible exact answers_next _ | dsimp only | split

theorem answers_execWaitSatisfied (n cyc : Nat) (s : State) : Answers (execWaitSatisfied n cyc s) := by
  unfold execWaitSatisfied
  repeat' first | with_reducible exact answers_next _ | dsimp only | split

theorem answers_execWaitTimeout (n cyc : Nat) (s : State) : Answers (execWaitTimeout n cyc s) := by
  unfold execWaitTimeout
  repeat' first | with_reducible exact answers_next _ | dsimp only | split

theorem answers_execSynRsignal (n occ : Nat) (s : State) : Answers (execSynRsignal n occ s) := by
  unfold execSynRsignal
  repeat' first | with_reducible exact answers_next _ | dsimp only | split

theorem answers_execSynSld (n : Nat) (s : State) : Answers (execSynSld n s) := by
  unfold execSynSld
  repeat' first | with_reducible exact answers_next _ | dsimp only | split

theorem answers_execSynFlags (n : Nat) (s : State) : Answers (execSynFlags n s) := by
  unfold execSynFlags
  repeat' first | with_reducible exact answers_next _ | dsimp only | split

theorem answers_execSynColl (n occ : Nat) (s : State) : Answers (execSynColl n occ s) := by
  unfold execSynColl
  repeat' first | with_reducible exact answers_next _ | with_reducible apply answers_gated | dsimp only | split

theorem answers_execFixedWriteback (n : Nat) (s : State) : Answers (execFixedWriteback n s) := by
  unfold execFixedWriteback
  repeat' first | with_reducible exact answers_next _ | dsimp only | split

theorem answers_execVarCommandComplete (n f cyc : Nat) (s : State) : Answers (execVarCommandComplete n f cyc s) := by
  unfold execVarCommandComplete
  repeat' first | with_reducible exact answers_next _ | with_reducible apply answers_gated | dsimp only | split

theorem answers_execEndDrainDone (n : Nat) (s : State) : Answers (execEndDrainDone n s) := by
  unfold execEndDrainDone
  repeat' first | with_reducible exact answers_next _ | dsimp only | split

theorem answers_execRequestTimeout (port tag : Nat) (s : State) : Answers (execRequestTimeout port tag s) := by
  unfold execRequestTimeout
  repeat' first | with_reducible exact answers_next _ | dsimp only | split

theorem answers_execHdmRead (range off : Nat) (caches : Bool) (s : State) : Answers (execHdmRead range off caches s)
    := by
  unfold execHdmRead
  repeat' first | with_reducible exact answers_next _ | dsimp only | split

theorem answers_execHdmWrite (range off : Nat) (data : List Byte) (be : Word) (caches : Bool) (s : State) : Answers
    (execHdmWrite range off data be caches s) := by
  unfold execHdmWrite
  repeat' first | with_reducible exact answers_next _ | dsimp only | split

theorem answers_execSpareNow (q lane sub : Nat) (s : State) : Answers (execSpareNow q lane sub s) := by
  unfold execSpareNow
  repeat' first | with_reducible exact answers_next _ | dsimp only | split

theorem answers_execCodewordSend (p : Nat) (s : State) : Answers (execCodewordSend p s) := by
  unfold execCodewordSend
  repeat' first | with_reducible exact answers_next _ | dsimp only | split

theorem answers_execCodewordReceive (q j : Nat) (r0 r1 r2 r3 r4 : List Nat) (s : State) : Answers (execCodewordReceive
    q j r0 r1 r2 r3 r4 s) := by
  unfold execCodewordReceive
  repeat' first | with_reducible exact answers_next _ | dsimp only | split

theorem answers_execLcsIdle (p : Nat) (s : State) : Answers (execLcsIdle p s) := by
  unfold execLcsIdle
  repeat' first | with_reducible exact answers_next _ | dsimp only | split

theorem answers_execLcsCtrl (p : Nat) (s : State) : Answers (execLcsCtrl p s) := by
  unfold execLcsCtrl
  repeat' first | with_reducible exact answers_next _ | dsimp only | split

theorem answers_execLcsInit (p : Nat) (s : State) : Answers (execLcsInit p s) := by
  unfold execLcsInit
  repeat' first | with_reducible exact answers_next _ | dsimp only | split

theorem answers_execLcsSpare (p : Nat) (s : State) : Answers (execLcsSpare p s) := by
  unfold execLcsSpare
  repeat' first | with_reducible exact answers_next _ | dsimp only | split

theorem answers_execFastRetrainTimeout (p : Nat) (s : State) : Answers (execFastRetrainTimeout p s) := by
  unfold execFastRetrainTimeout
  repeat' first | with_reducible exact answers_next _ | dsimp only | split

theorem answers_execLaneLossPersist (q j : Nat) (s : State) : Answers (execLaneLossPersist q j s) := by
  unfold execLaneLossPersist
  repeat' first | with_reducible exact answers_next _ | dsimp only | split

theorem answers_execClockMismatch (q j : Nat) (s : State) : Answers (execClockMismatch q j s) := by
  unfold execClockMismatch
  repeat' first | with_reducible exact answers_next _ | dsimp only | split

theorem answers_execSpareTrainDone (p : Nat) (ok : Bool) (s : State) : Answers (execSpareTrainDone p ok s) := by
  unfold execSpareTrainDone
  repeat' first | with_reducible exact answers_next _ | dsimp only | split

theorem answers_execFrameArrive (p : Nat) (s : State) : Answers (execFrameArrive p s) := by
  unfold execFrameArrive
  repeat' first | with_reducible exact answers_next _ | dsimp only | split

theorem answers_execFrameTail (p : Nat) (s : State) : Answers (execFrameTail p s) := by
  unfold execFrameTail
  repeat' first | with_reducible exact answers_next _ | dsimp only | split

theorem answers_execAdaptiveChoice (id : Nat) (s : State) : Answers (execAdaptiveChoice id s) := by
  unfold execAdaptiveChoice
  repeat' first | with_reducible exact answers_next _ | dsimp only | split

theorem answers_execPolicerAccept (r : Nat) (s : State) : Answers (execPolicerAccept r s) := by
  unfold execPolicerAccept
  repeat' first | with_reducible exact answers_next _ | dsimp only | split

theorem answers_execWr (s : State) : Answers (execWr s) := by
  unfold execWr
  repeat' first | with_reducible exact answers_next _ | with_reducible apply answers_gated | dsimp only | split

theorem answers_execRd (errs : List (Nat × Bool)) (s : State) : Answers (execRd errs s) := by
  unfold execRd
  repeat' first | with_reducible exact answers_next _ | with_reducible apply answers_gated | dsimp only | split

theorem answers_execRddata (s : State) : Answers (execRddata s) := by
  unfold execRddata
  repeat' first | with_reducible exact answers_next _ | dsimp only | split

theorem answers_execAtom (s : State) : Answers (execAtom s) := by
  unfold execAtom
  repeat' first | with_reducible exact answers_next _ | with_reducible apply answers_gated | dsimp only | split

theorem answers_execAtomrsp (s : State) : Answers (execAtomrsp s) := by
  unfold execAtomrsp
  repeat' first | with_reducible exact answers_next _ | dsimp only | split

theorem answers_execSig (s : State) : Answers (execSig s) := by
  unfold execSig
  repeat' first | with_reducible exact answers_next _ | dsimp only | split

theorem answers_execErr (s : State) : Answers (execErr s) := by
  unfold execErr
  repeat' first | with_reducible exact answers_next _ | dsimp only | split

theorem answers_execMsg (s : State) : Answers (execMsg s) := by
  unfold execMsg
  repeat' first | with_reducible exact answers_next _ | with_reducible apply answers_gated | dsimp only | split

theorem answers_execMsgDeliverRetry (i : Nat) (s : State) : Answers (execMsgDeliverRetry i s) := by
  unfold execMsgDeliverRetry
  repeat' first | with_reducible exact answers_next _ | with_reducible apply answers_gated | dsimp only | split

theorem answers_execDeliverDrop (i : Nat) (s : State) : Answers (execDeliverDrop i s) := by
  unfold execDeliverDrop
  repeat' first | with_reducible exact answers_next _ | dsimp only | split

theorem answers_execFlow (s : State) : Answers (execFlow s) := by
  unfold execFlow
  repeat' first | with_reducible exact answers_next _ | with_reducible apply answers_gated | dsimp only | split

theorem answers_execChunk (u : Nat) (s : State) : Answers (execChunk u s) := by
  unfold execChunk
  repeat' first | with_reducible exact answers_next _ | with_reducible apply answers_gatedColl | dsimp only | split

theorem answers_execStuSum (n ce : Nat) (ue : Option Nat) (wrong : Bool) (s : State) : Answers (execStuSum n ce ue
    wrong s) := by
  unfold execStuSum
  repeat' first | with_reducible exact answers_next _ | with_reducible apply answers_gatedColl | dsimp only | split

theorem answers_execStuGatherFixed (n ce : Nat) (ue : Option Nat) (wrong : Bool) (s : State) : Answers
    (execStuGatherFixed n ce ue wrong s) := by
  unfold execStuGatherFixed
  repeat' first | with_reducible exact answers_next _ | with_reducible apply answers_gatedColl | dsimp only | split

theorem answers_execStuGatherLanes (n ce : Nat) (ue : Option Nat) (wrong : Bool) (s : State) : Answers
    (execStuGatherLanes n ce ue wrong s) := by
  unfold execStuGatherLanes
  repeat' first | with_reducible exact answers_next _ | with_reducible apply answers_gatedColl | dsimp only | split

theorem answers_execStuSortLocal (n ce : Nat) (ue : Option Nat) (wrong : Bool) (s : State) : Answers (execStuSortLocal
    n ce ue wrong s) := by
  unfold execStuSortLocal
  repeat' first | with_reducible exact answers_next _ | with_reducible apply answers_gatedColl | dsimp only | split

theorem answers_execStuSortMerge (n ce : Nat) (ue : Option Nat) (wrong : Bool) (s : State) : Answers (execStuSortMerge
    n ce ue wrong s) := by
  unfold execStuSortMerge
  repeat' first | with_reducible exact answers_next _ | with_reducible apply answers_gatedColl | dsimp only | split

theorem answers_execStuFilter (n ce : Nat) (ue : Option Nat) (wrong : Bool) (s : State) : Answers (execStuFilter n ce
    ue wrong s) := by
  unfold execStuFilter
  repeat' first | with_reducible exact answers_next _ | with_reducible apply answers_gatedColl | dsimp only | split

theorem answers_execKernelInstallDone (s : State) : Answers (execKernelInstallDone s) := by
  unfold execKernelInstallDone
  repeat' first | with_reducible exact answers_next _ | dsimp only | split

theorem answers_execGsetCommit (g : Nat) (s : State) : Answers (execGsetCommit g s) := by
  unfold execGsetCommit
  repeat' first | with_reducible exact answers_next _ | with_reducible apply answers_gated

theorem answers_execGroupCommitDone (s : State) : Answers (execGroupCommitDone s) := by
  unfold execGroupCommitDone
  repeat' first | with_reducible exact answers_next _ | with_reducible apply answers_gatedColl | dsimp only | split

theorem answers_execReserveRetry (h : Nat) (s : State) : Answers (execReserveRetry h s) := by
  unfold execReserveRetry
  with_reducible exact answers_gatedColl (answers_next _)

theorem answers_execReady (s : State) : Answers (execReady s) := by
  unfold execReady
  with_reducible exact answers_gatedColl (answers_next _)

theorem answers_execResult (s : State) : Answers (execResult s) := by
  unfold execResult
  with_reducible exact answers_gatedColl (answers_next _)

theorem answers_execResultVisible (h stripe j : Nat) (s : State) : Answers (execResultVisible h stripe j s) := by
  unfold execResultVisible
  repeat' first | with_reducible exact answers_next _ | with_reducible apply answers_gatedColl | dsimp only | split

theorem answers_execAck (s : State) : Answers (execAck s) := by
  unfold execAck
  with_reducible exact answers_gatedColl (answers_next _)

theorem answers_execPace (s : State) : Answers (execPace s) := by
  unfold execPace
  with_reducible exact answers_gatedColl (answers_next _)

theorem answers_execRetx (s : State) : Answers (execRetx s) := by
  unfold execRetx
  with_reducible exact answers_gatedColl (answers_next _)

theorem answers_execRetxRepeat (h stripe j : Nat) (s : State) : Answers (execRetxRepeat h stripe j s) := by
  unfold execRetxRepeat
  repeat' first | with_reducible exact answers_next _ | with_reducible apply answers_gatedColl | dsimp only | split

theorem answers_execReport (s : State) : Answers (execReport s) := by
  unfold execReport
  with_reducible exact answers_gatedColl (answers_next _)

theorem answers_execCollEnd (s : State) : Answers (execCollEnd s) := by
  unfold execCollEnd
  with_reducible exact answers_gatedColl (answers_next _)

theorem answers_execEndRepeat (i : Nat) (s : State) : Answers (execEndRepeat i s) := by
  unfold execEndRepeat
  repeat' first | with_reducible exact answers_next _ | with_reducible apply answers_gatedColl | dsimp only | split

theorem answers_execCollProgressTimeout (h : Nat) (s : State) : Answers (execCollProgressTimeout h s) := by
  unfold execCollProgressTimeout
  repeat' first | with_reducible exact answers_next _ | with_reducible apply answers_gatedColl | dsimp only | split

theorem answers_execCollSelfEnd (h : Nat) (s : State) : Answers (execCollSelfEnd h s) := by
  unfold execCollSelfEnd
  repeat' first | with_reducible exact answers_next _ | with_reducible apply answers_gatedColl | dsimp only | split

theorem answers_execMemberPoll (h : Nat) (s : State) : Answers (execMemberPoll h s) := by
  unfold execMemberPoll
  repeat' first | with_reducible exact answers_next _ | with_reducible apply answers_gatedColl | dsimp only | split

theorem answers_execRaceCasReply (h : Nat) (s : State) : Answers (execRaceCasReply h s) := by
  unfold execRaceCasReply
  repeat' first | with_reducible exact answers_next _ | with_reducible apply answers_gatedColl | dsimp only | split

theorem answers_execRaceCopyDone (h : Nat) (s : State) : Answers (execRaceCopyDone h s) := by
  unfold execRaceCopyDone
  repeat' first | with_reducible exact answers_next _ | with_reducible apply answers_gatedColl | dsimp only | split

theorem answers_execDoorbellLineFill (n tail : Nat) (ok : Bool) (s : State) : Answers (execDoorbellLineFill n tail ok
    s) := by
  unfold execDoorbellLineFill
  repeat' first | with_reducible exact answers_next _ | dsimp only | split

theorem answers_execDescriptorFetch (n : Nat) (words : List Word) (ok : Bool) (s : State) : Answers
    (execDescriptorFetch n words ok s) := by
  unfold execDescriptorFetch
  repeat' first | with_reducible exact answers_next _ | dsimp only | split

theorem answers_execColl (s : State) : Answers (execColl s) := by
  unfold execColl
  dsimp only
  exact answers_gated (answers_runDesc ..)

theorem answers_execDescriptorWorkDone (id : Nat) (s : State) : Answers (execDescriptorWorkDone id s) := by
  unfold execDescriptorWorkDone
  repeat' first | with_reducible exact answers_next _ | dsimp only | split

theorem answers_execCqIrqDelay (n : Nat) (masked : Bool) (s : State) : Answers (execCqIrqDelay n masked s) := by
  unfold execCqIrqDelay
  repeat' first | with_reducible exact answers_next _ | dsimp only | split

theorem answers_execMirrorInject (s : State) : Answers (execMirrorInject s) := by
  unfold execMirrorInject
  repeat' first | with_reducible exact answers_next _ | with_reducible apply answers_gated | dsimp only | split

theorem answers_execMirror (s : State) : Answers (execMirror s) := by
  unfold execMirror
  repeat' first | with_reducible exact answers_next _ | with_reducible apply answers_gated | dsimp only | split

theorem answers_execSeal (s : State) : Answers (execSeal s) := by
  unfold execSeal
  repeat' first | with_reducible exact answers_next _ | dsimp only | split

theorem answers_execSealVerify (s : State) : Answers (execSealVerify s) := by
  unfold execSealVerify
  repeat' first | with_reducible exact answers_next _ | dsimp only | split

theorem answers_execMirrorack (s : State) : Answers (execMirrorack s) := by
  unfold execMirrorack
  repeat' first | with_reducible exact answers_next _ | dsimp only | split

theorem answers_execMirrorAckTimeout (s : State) : Answers (execMirrorAckTimeout s) := by
  unfold execMirrorAckTimeout
  repeat' first | with_reducible exact answers_next _ | dsimp only | split

theorem answers_execXchkSpareDone (k : Nat) (bytes : List Byte) (s : State) : Answers (execXchkSpareDone k bytes s) :=
    by
  unfold execXchkSpareDone
  repeat' first | with_reducible exact answers_next _ | dsimp only | split

theorem answers_execGo (slot count : Nat) (s : State) : Answers (execGo slot count s) := by
  unfold execGo
  repeat' first | with_reducible exact answers_next _ | dsimp only | split

theorem answers_execFree (slot : Nat) (s : State) : Answers (execFree slot s) := by
  unfold execFree
  repeat' first | with_reducible exact answers_next _ | dsimp only | split

theorem answers_execEventHandle (s : State) : Answers (execEventHandle s) := by
  unfold execEventHandle
  repeat' first | with_reducible exact answers_next _ | dsimp only | split

theorem answers_execLogWrite (s : State) : Answers (execLogWrite s) := by
  unfold execLogWrite
  repeat' first | with_reducible exact answers_next _ | dsimp only | split

theorem answers_execSensorSample (inw h0 h1 : Word) (s : State) (slices : Nat) (rom : Bool) : Answers
    (execSensorSample inw h0 h1 s slices rom) := by
  unfold execSensorSample
  with_reducible exact answers_next _

theorem answers_execFinish (i id : Nat) (root : List Byte) (ok : Bool) (s : State) : Answers (execFinish i id root ok
    s) := by
  unfold execFinish
  repeat' first | with_reducible exact answers_next _ | dsimp only | split

theorem answers_execHeadLineFill (k head : Nat) (ok masked : Bool) (s : State) : Answers (execHeadLineFill k head ok
    masked s) := by
  unfold execHeadLineFill
  repeat' first | with_reducible exact answers_next _ | dsimp only | split

/-- Every row of the table, by the shape of its meaning: a next state at once, one of two or more by a test, an
operation shared by several rows, or its own lemma above. -/
theorem exec_answers (c : Instr) (s : State) : Answers (exec c s) := by
  cases c with
  | regWrite | srGo | trainingMarker | equaliserTimeout | hostLinkTrain | setEndpointId | getMctpVersionSupport |
    getVendorDefinedMessageSupport | verifyComplete | activateFirmware => exact .ite (answers_next _) (.ite (answers_next _) (answers_next _))
  | configRequest | haltLimit | haltDrainDone | haltDrainTimeout | haltHost | clearHalt | poolInit | poolInitDone |
    patrolScrub | farEccPoll | stackTempChange | bisnpResponse | bringupRetry | kaTimeout | quadPllLock | opticsPoll |
    vccOptOvercurrent | vccOptRetry | doorbellSnoop | request | twnRestart | twnSwap | mailboxGo | getEndpointId |
    getMessageTypeSupport | queryDeviceIdentifiers | getFirmwareParameters | requestFirmwareData | transferComplete |
    applyComplete | getStatus | vinRise | powerGood | powerOff | modResetNAssert | modResetNDeassert | extest => exact .ite (answers_next _) (answers_next _)
  | flushClear | coreReset | memErrClear | enable | retrain | lnkClearCnt | ackTimer | nakRepeat | keepaliveSend |
    laneLossStart | laneLossEnd | quadPllUnlock | optPresentChange | outputSelect | ageCheck | fence | gminWrite |
    swcClearCnt | rsvWrite | refill | stuClearCnt | kctrlCommit | snoopData | stagingRetry | cqEntryWrite |
    eventRecordWrite | eventIrqDelay | hostFullOperationLoss | perstN | perstNDeassert | hotReset | linkDisable |
    functionLevelReset | hifReset | hifEnable | lock | unlockAuthTimeout | boundary | healthDecay | replayHeatDone |
    replayHeatTimeout | replayRunDone | fatalClear | watchdogStrobe | watchdogExpire | pinsUpdate | alertResponse |
    aux12vChange | bootComplete | trstN | idcode | bypass | sample | preload | hostInterfaceIslandFails => exact answers_next _
  | srEvalDone => exact answers_execSrEvalDone ..
  | launchStart => exact answers_execLaunchStart ..
  | undefinedOpcode => exact answers_execUndefinedOpcode ..
  | matMm => exact answers_matIssue s _ 0x01 false
  | matMmp => exact answers_matIssue s _ 0x02 true
  | matMms => exact answers_execMatMms ..
  | matPadd | movCopy | movCvt | movMxin | movMxout => exact answers_movIssue ..
  | vecAdd | vecMul | vecFma | vecMax | vecMin | vecNeg | vecAbs | vecCvt | vecExp2 | vecLog2 | vecRcp | vecRsqrt |
    vecRowsum | vecRowmax =>
    simp only [exec_vecAdd, exec_vecMul, exec_vecFma, exec_vecMax, exec_vecMin, exec_vecNeg, exec_vecAbs, exec_vecCvt,
      exec_vecExp2, exec_vecLog2, exec_vecRcp, exec_vecRsqrt, exec_vecRowsum, exec_vecRowmax, execVecAdd, execVecMul,
      execVecFma, execVecMax, execVecMin, execVecNeg, execVecAbs, execVecCvt, execVecExp2, execVecLog2, execVecRcp,
      execVecRsqrt, execVecRowsum, execVecRowmax, vecBinary, vecUnary, answers_vecIssue]
  | vecUpd => exact answers_execVecUpd ..
  | movAtom => exact answers_execMovAtom ..
  | movStash => exact answers_execMovStash ..
  | stashPoolReply => exact answers_execStashPoolReply ..
  | movRelease => exact answers_execMovRelease ..
  | movImload => exact answers_execMovImload ..
  | synNop | synSignal | synSetp | synSalu | synSst =>
    simp only [exec_synNop, exec_synSignal, exec_synSetp, exec_synSalu, exec_synSst, execSynNop, execSynSignal,
      execSynSetp, execSynSalu, execSynSst, answers_synIssue]
  | synWait | synSkip | synRepeat | synSwap | synEnd =>
    simp only [exec_synWait, exec_synSkip, exec_synRepeat, exec_synSwap, exec_synEnd, execSynWait, execSynSkip,
      execSynRepeat, execSynSwap, execSynEnd, answers_controlIssue]
  | waitSatisfied => exact answers_execWaitSatisfied ..
  | waitTimeout => exact answers_execWaitTimeout ..
  | synRsignal => exact answers_execSynRsignal ..
  | synSld => exact answers_execSynSld ..
  | synFlags => exact answers_execSynFlags ..
  | synColl => exact answers_execSynColl ..
  | fixedWriteback => exact answers_execFixedWriteback ..
  | varCommandComplete => exact answers_execVarCommandComplete ..
  | endDrainDone => exact answers_execEndDrainDone ..
  | requestTimeout => exact answers_execRequestTimeout ..
  | hdmRead => exact answers_execHdmRead ..
  | hdmWrite => exact answers_execHdmWrite ..
  | spareNow => exact answers_execSpareNow ..
  | codewordSend => exact answers_execCodewordSend ..
  | codewordReceive => rw [exec_codewordReceive]; exact answers_execCodewordReceive ..
  | lcsIdle => exact answers_execLcsIdle ..
  | lcsCtrl => exact answers_execLcsCtrl ..
  | lcsInit => exact answers_execLcsInit ..
  | lcsSpare => exact answers_execLcsSpare ..
  | fastRetrainTimeout => exact answers_execFastRetrainTimeout ..
  | laneLossPersist => exact answers_execLaneLossPersist ..
  | clockMismatch => exact answers_execClockMismatch ..
  | spareTrainDone => exact answers_execSpareTrainDone ..
  | frameArrive => exact answers_execFrameArrive ..
  | frameTail => exact answers_execFrameTail ..
  | adaptiveChoice => exact answers_execAdaptiveChoice ..
  | creditGrant | twnCommit | requestUpdate => exact .ite (answers_next _) (.ite (answers_next _) (.ite (answers_next _) (answers_next _)))
  | policerAccept => exact answers_execPolicerAccept ..
  | wr => exact answers_execWr ..
  | rd => exact answers_execRd ..
  | rddata => exact answers_execRddata ..
  | wrack | sigack | msgack =>
    simp only [exec_wrack, exec_sigack, exec_msgack, execWrack, execSigack, execMsgack, answers_plainReply]
  | atom => exact answers_execAtom ..
  | atomrsp => exact answers_execAtomrsp ..
  | sig => exact answers_execSig ..
  | err => exact answers_execErr ..
  | msg => exact answers_execMsg ..
  | msgDeliverRetry => exact answers_execMsgDeliverRetry ..
  | deliverDrop => exact answers_execDeliverDrop ..
  | flow => exact answers_execFlow ..
  | chunk => exact answers_execChunk ..
  | stuSum => exact answers_execStuSum ..
  | stuGatherFixed => exact answers_execStuGatherFixed ..
  | stuGatherLanes => exact answers_execStuGatherLanes ..
  | stuSortLocal => exact answers_execStuSortLocal ..
  | stuSortMerge => exact answers_execStuSortMerge ..
  | stuFilter => exact answers_execStuFilter ..
  | kernelInstallDone => exact answers_execKernelInstallDone ..
  | gsetCommit => exact answers_execGsetCommit ..
  | groupCommitDone => exact answers_execGroupCommitDone ..
  | reserveRetry => exact answers_execReserveRetry ..
  | ready => exact answers_execReady ..
  | result => exact answers_execResult ..
  | resultVisible => exact answers_execResultVisible ..
  | ack => exact answers_execAck ..
  | pace => exact answers_execPace ..
  | retx => exact answers_execRetx ..
  | retxRepeat => exact answers_execRetxRepeat ..
  | report => exact answers_execReport ..
  | collEnd => exact answers_execCollEnd ..
  | endRepeat => exact answers_execEndRepeat ..
  | collProgressTimeout => exact answers_execCollProgressTimeout ..
  | collSelfEnd => exact answers_execCollSelfEnd ..
  | memberPoll => exact answers_execMemberPoll ..
  | raceCasReply => exact answers_execRaceCasReply ..
  | raceCopyDone => exact answers_execRaceCopyDone ..
  | doorbellLineFill => exact answers_execDoorbellLineFill ..
  | descriptorFetch => exact answers_execDescriptorFetch ..
  | nop | launch | pload | copy | flowsend | createSq | createCq | deleteSq | deleteCq | openFlow | closeFlow |
    resetFlow =>
    simp only [exec_nop, exec_launch, exec_pload, exec_copy, exec_flowsend, exec_createSq, exec_createCq,
      exec_deleteSq, exec_deleteCq, exec_openFlow, exec_closeFlow, exec_resetFlow, execNop, execLaunch, execPload,
      execCopy, execFlowsend, execCreateSq, execCreateCq, execDeleteSq, execDeleteCq, execOpenFlow, execCloseFlow,
      execResetFlow, runData, answers_runDesc]
  | coll => exact answers_execColl ..
  | descriptorWorkDone => exact answers_execDescriptorWorkDone ..
  | cqIrqDelay => exact answers_execCqIrqDelay ..
  | mirrorInject => exact answers_execMirrorInject ..
  | mirror => exact answers_execMirror ..
  | twnSeal => exact answers_execSeal ..
  | sealVerify => exact answers_execSealVerify ..
  | mirrorack => exact answers_execMirrorack ..
  | mirrorAckTimeout => exact answers_execMirrorAckTimeout ..
  | fencePorts | unfencePorts | markFenced | markValid | soloOn | soloOff | enterTungsten =>
    simp only [exec_fencePorts, exec_unfencePorts, exec_markFenced, exec_markValid, exec_soloOn, exec_soloOff,
      exec_enterTungsten, execFencePorts, execUnfencePorts, execMarkFenced, execMarkValid, execSoloOn, execSoloOff,
      execEnterTungsten, answers_fenceRow]
  | xchkSpareDone => exact answers_execXchkSpareDone ..
  | go => exact answers_execGo ..
  | free => exact answers_execFree ..
  | eventHandle => exact answers_execEventHandle ..
  | logWrite => exact answers_execLogWrite ..
  | sensorSample => exact answers_execSensorSample ..
  | readReg | writeReg | profileWrite | profileRoute | kernelCommit | throttleCap | logRead | sensorRead | repairRead
    | unlockAuth | moduleReset | fwCommitSvn | fuseBlowMap | fuseBlowOwner =>
    simp only [exec_readReg, exec_writeReg, exec_profileWrite, exec_profileRoute, exec_kernelCommit, exec_throttleCap,
      exec_logRead, exec_sensorRead, exec_repairRead, exec_unlockAuth, exec_moduleReset, exec_fwCommitSvn,
      exec_fuseBlowMap, exec_fuseBlowOwner, execReadReg, execWriteReg, execProfileWrite, execProfileRoute,
      execKernelCommit, execThrottleCap, execLogRead, execSensorRead, execRepairRead, execUnlockAuth, execModuleReset,
      execFwCommitSvn, execFuseBlowMap, execFuseBlowOwner, answers_mgHandle]
  | getVersion | getCapabilities | negotiateAlgorithms | getDigests | getCertificate | challenge | getMeasurements |
    keyExchange | heartbeat | keyUpdate | endSession | vendorDefinedRequest | kSetGo =>
    simp only [exec_getVersion, exec_getCapabilities, exec_negotiateAlgorithms, exec_getDigests, exec_getCertificate,
      exec_challenge, exec_getMeasurements, exec_keyExchange, exec_heartbeat, exec_keyUpdate, exec_endSession,
      exec_vendorDefinedRequest, exec_kSetGo, execGetVersion, execGetCapabilities, execNegotiateAlgorithms,
      execGetDigests, execGetCertificate, execChallenge, execGetMeasurements, execKeyExchange, execHeartbeat,
      execKeyUpdate, execEndSession, execVendorDefinedRequest, execKSetGo, sessionRow, answers_spdmHandle]
  | finish => exact answers_execFinish ..
  | passComponentTable | updateComponent | cancelUpdateComponent | cancelUpdate =>
    simp only [exec_passComponentTable, exec_updateComponent, exec_cancelUpdateComponent, exec_cancelUpdate,
      execPassComponentTable, execUpdateComponent, execCancelUpdateComponent, execCancelUpdate, answers_pldmRow]
  | headLineFill => exact answers_execHeadLineFill ..

/-- Settles O2. -/
theorem everyCommandAnswers : Obligations.EveryCommandAnswers :=
  exec_answers

end Sys2Proof.Machine
end

section
/-! A codeword on its lane: numbers and bits, symbols of 10 bits, PAM4 levels and the precoder (R293, R298, R299). -/

namespace Sys2Proof.Machine

/-! Numbers and their bits. -/

theorem upFrom_succ_eq_map (n : Nat) : ∀ k, upFrom (k + 1) n = (upFrom k n).map (· + 1) := by
  induction n with
  | zero => intro k; rfl
  | succ n ih => intro k; rw [upFrom, upFrom, ih, List.map_cons]

@[simp] theorem bitsOf_zero (v : Nat) : bitsOf 0 v = [] := rfl

theorem bitsOf_succ (n v : Nat) : bitsOf (n + 1) v = v.testBit 0 :: bitsOf n (v >>> 1) := by
  simp only [bitsOf, upFrom, upFrom_succ_eq_map n 0, List.map_cons, List.map_map]
  congr 1
  exact List.map_congr_left fun i _ => by simp [Nat.testBit_shiftRight, Nat.add_comm]

@[simp] theorem bitsOf_length (n v : Nat) : (bitsOf n v).length = n := by
  rw [bitsOf, List.length_map, upFrom_length]

theorem bitsOf_add (a b : Nat) : ∀ v, bitsOf (a + b) v = bitsOf a v ++ bitsOf b (v >>> a) := by
  induction a with
  | zero => intro v; simp
  | succ a ih => intro v; rw [Nat.succ_add, bitsOf_succ, bitsOf_succ, ih, ← Nat.shiftRight_add, Nat.add_comm 1 a, List.cons_append]

/-- Bits above the n-th do not show. -/
theorem bitsOf_mod (n v : Nat) : bitsOf n (v % 2 ^ n) = bitsOf n v := by
  unfold bitsOf
  refine List.map_congr_left fun i hi => ?_
  obtain ⟨-, hlt⟩ := (mem_upFrom n 0 i).mp hi
  simp [Nat.testBit_mod_two_pow, show i < n by omega]

theorem ofBits_cons (b : Bool) (l : List Bool) : ofBits (b :: l) = b.toNat + 2 * ofBits l := rfl

theorem ofBits_lt (l : List Bool) : ofBits l < 2 ^ l.length := by
  induction l with
  | nil => decide
  | cons b l ih =>
    have hb : b.toNat ≤ 1 := Bool.toNat_le b
    rw [ofBits_cons, List.length_cons, Nat.pow_succ]
    omega

theorem ofBits_bitsOf (n : Nat) : ∀ v, ofBits (bitsOf n v) = v % 2 ^ n := by
  induction n with
  | zero => intro v; rw [Nat.pow_zero, Nat.mod_one]; rfl
  | succ n ih =>
    intro v
    have hbit : (v.testBit 0).toNat = v % 2 := by
      rw [Nat.testBit_zero]
      obtain h | h := Nat.mod_two_eq_zero_or_one v <;> simp [h]
    calc ofBits (bitsOf (n + 1) v)
        = v % 2 + 2 * (v / 2 % 2 ^ n) := by rw [bitsOf_succ, ofBits_cons, ih, hbit, Nat.shiftRight_eq_div_pow, Nat.pow_one]
      _ = v % 2 ^ (n + 1) := by rw [Nat.pow_succ', Nat.mod_mul]

theorem bitsOf_ofBits (l : List Bool) : bitsOf l.length (ofBits l) = l := by
  induction l with
  | nil => rfl
  | cons b l ih =>
    have hlow : (ofBits (b :: l)).testBit 0 = b := by
      rw [Nat.testBit_zero, ofBits_cons]
      cases b <;> simp
    have hrest : ofBits (b :: l) >>> 1 = ofBits l := by
      have hb : b.toNat ≤ 1 := Bool.toNat_le b
      rw [Nat.shiftRight_eq_div_pow, ofBits_cons]
      omega
    rw [List.length_cons, bitsOf_succ, hlow, hrest, ih]

/-! Pieces of a list. -/

section
variable {α : Type} {k : Nat}

@[simp] theorem piecesL_length (n : Nat) : ∀ l : List α, (piecesL k n l).length = n := by
  induction n with
  | zero => intro l; rfl
  | succ n ih => intro l; rw [piecesL, List.length_cons, ih]

/-- Pieces put end to end come apart again. -/
theorem piecesL_flatten (xs : List (List α)) (hk : ∀ x ∈ xs, x.length = k) : piecesL k xs.length xs.flatten = xs := by
  induction xs with
  | nil => rfl
  | cons x xs ih =>
    have hx : x.length = k := hk x (List.mem_cons_self ..)
    rw [List.length_cons, piecesL, List.flatten_cons, List.take_left' hx, List.drop_left' hx,
      ih fun y hy => hk y (List.mem_cons_of_mem _ hy)]

theorem flatten_piecesL (n : Nat) : ∀ l : List α, l.length = k * n → (piecesL k n l).flatten = l := by
  induction n with
  | zero => intro l hl; rw [List.eq_nil_of_length_eq_zero hl]; rfl
  | succ n ih =>
    intro l hl
    have hrest : (l.drop k).length = k * n := by rw [List.length_drop, hl, Nat.mul_succ]; omega
    rw [piecesL, List.flatten_cons, ih _ hrest, List.take_append_drop]

theorem length_of_mem_piecesL (n : Nat) : ∀ l : List α, l.length = k * n → ∀ x ∈ piecesL k n l, x.length = k := by
  induction n with
  | zero => intro l _ x hx; cases hx
  | succ n ih =>
    intro l hl x hx
    rw [Nat.mul_succ] at hl
    rcases List.mem_cons.mp hx with rfl | hx
    · rw [List.length_take, hl]; omega
    · exact ih _ (by rw [List.length_drop, hl]; omega) x hx

end

theorem length_flatMap_bitsOf (k : Nat) (vs : List Nat) : (vs.flatMap (bitsOf k)).length = k * vs.length := by
  induction vs with
  | nil => rfl
  | cons v vs ih => rw [List.flatMap_cons, List.length_append, bitsOf_length, ih, List.length_cons, Nat.mul_succ, Nat.add_comm]

/-- Numbers as wide as a piece are spelled by their bits. -/
theorem piecesL_flatMap_bitsOf (k : Nat) (vs : List Nat) : piecesL k vs.length (vs.flatMap (bitsOf k)) = vs.map (bitsOf k) := by
  rw [List.flatMap_def, ← List.length_map (bitsOf k)]
  exact piecesL_flatten _ (by simp)

/-- A function that fixes every element of a list fixes the list. -/
theorem map_eq_self {α : Type} {f : α → α} {l : List α} (h : ∀ x ∈ l, f x = x) : l.map f = l :=
  (List.map_congr_left h).trans (List.map_id' l)

theorem map_ofBits_map_bitsOf (k : Nat) (vs : List Nat) (hv : ∀ v ∈ vs, v < 2 ^ k) : (vs.map (bitsOf k)).map ofBits = vs := by
  rw [List.map_map]
  exact map_eq_self fun v h => by rw [Function.comp_apply, ofBits_bitsOf, Nat.mod_eq_of_lt (hv v h)]

/-! The message (R298, R299). -/

theorem leBytes_bits (n : Nat) : ∀ v, ((leBytes n v).flatMap fun b => bitsOf 8 b.toNat) = bitsOf (8 * n) v := by
  induction n with
  | zero => intro v; rfl
  | succ n ih =>
    intro v
    rw [leBytes, List.flatMap_cons, ih, BitVec.toNat_ofNat, bitsOf_mod, Nat.mul_succ, Nat.add_comm, bitsOf_add]

theorem wordsBytes_bits (ws : List Word) :
    ((wordsBytes ws).flatMap fun b => bitsOf 8 b.toNat) = (ws.map BitVec.toNat).flatMap (bitsOf 64) := by
  induction ws with
  | nil => rfl
  | cons w ws ih => rw [wordsBytes, List.flatMap_append, leBytes_bits, ih, List.map_cons, List.flatMap_cons]

theorem message_eq (c : Codeword) :
    c.message = bitsOf 20 c.control ++ (c.slots.flatten.map BitVec.toNat).flatMap (bitsOf 64) := by
  rw [Codeword.message]
  congr 1
  induction c.slots with
  | nil => rfl
  | cons w ws ih => rw [List.flatMap_cons, wordsBytes_bits, ih, List.flatten_cons, List.map_append, List.flatMap_append]

theorem map_ofBits_map_bitsOf_words (ws : List Word) :
    ((ws.map BitVec.toNat).map (bitsOf 64)).map (fun w => BitVec.ofNat 64 (ofBits w)) = ws := by
  simp only [List.map_map]
  refine map_eq_self fun w _ => ?_
  simp only [Function.comp_apply]
  rw [ofBits_bitsOf, Nat.mod_eq_of_lt w.isLt, BitVec.ofNat_toNat, BitVec.setWidth_eq]

/-- A control field and 80 words are spelled by their bits. -/
theorem ofMessage_append {v : Nat} {ws : List Word} (hv : v < 2 ^ 20) (hws : ws.length = 80) :
    ofMessage (bitsOf 20 v ++ (ws.map BitVec.toNat).flatMap (bitsOf 64)) = ⟨bitsN v 19 10, bitsN v 9 0, piecesL 8 10 ws⟩ := by
  have hpieces := piecesL_flatMap_bitsOf 64 (ws.map BitVec.toNat)
  rw [List.length_map, hws] at hpieces
  rw [ofMessage, List.take_left' (bitsOf_length ..), List.drop_left' (bitsOf_length ..), hpieces, map_ofBits_map_bitsOf_words,
    ofBits_bitsOf, Nat.mod_eq_of_lt hv]

section
variable {c : Codeword} (hslots : c.slots.length = 10) (hwords : ∀ w ∈ c.slots, w.length = 8)
include hslots hwords

theorem slots_flatten_length : c.slots.flatten.length = 80 := by
  rw [List.length_flatten, List.map_congr_left (g := fun _ => 8) hwords, List.map_const', hslots]
  rfl

theorem message_length : c.message.length = 5140 := by
  rw [message_eq, List.length_append, bitsOf_length, length_flatMap_bitsOf, List.length_map, slots_flatten_length hslots hwords]

theorem ofMessage_message (hseq : c.seq < 1024) (hmap : c.map < 1024) : ofMessage c.message = c := by
  have hcontrol : c.control = c.map + 1024 * c.seq := by
    rw [Codeword.control, Nat.mod_eq_of_lt hseq, Nat.mod_eq_of_lt hmap, Nat.shiftLeft_eq, Nat.mul_comm]
  have hslot : piecesL 8 10 c.slots.flatten = c.slots := by
    rw [← hslots]
    exact piecesL_flatten _ hwords
  have hfields : bitsN (c.map + 1024 * c.seq) 19 10 = c.seq ∧ bitsN (c.map + 1024 * c.seq) 9 0 = c.map := by
    simp only [bitsN, Nat.shiftRight_eq_div_pow]
    omega
  rw [message_eq, hcontrol, ofMessage_append (by omega) (slots_flatten_length hslots hwords), hslot, hfields.1, hfields.2]

end

/-! The symbols: 514 of the message, 30 of parity, each of 10 bits. -/

theorem gfShift_lt {a : Nat} (h : a < 1024) : gfShift a < 1024 := by
  unfold gfShift
  split
  · refine Nat.lt_pow_two_of_testBit (n := 10) _ fun i hi => ?_
    by_cases h10 : i = 10
    · subst h10
      have htop : (2 * a).testBit 10 = true := Nat.testBit_of_two_pow_le_and_two_pow_add_one_gt (by omega) (by omega)
      rw [Nat.testBit_xor, htop]
      decide
    · have hpow : 2 ^ 11 ≤ 2 ^ i := Nat.pow_le_pow_right (by decide) (by omega)
      rw [Nat.testBit_xor, Nat.testBit_lt_two_pow (by omega), Nat.testBit_lt_two_pow (by omega)]
      rfl
  · omega

theorem xor_lt_1024 {a b : Nat} (ha : a < 1024) (hb : b < 1024) : a ^^^ b < 1024 := Nat.xor_lt_two_pow (n := 10) ha hb

theorem gfMulGo_lt (n : Nat) : ∀ {a : Nat} (b : Nat), a < 1024 → gfMulGo n a b < 1024 := by
  induction n with
  | zero => intro a b _; exact Nat.zero_lt_succ _
  | succ n ih =>
    intro a b h
    refine xor_lt_1024 ?_ (ih _ (gfShift_lt h))
    split <;> omega

theorem gfMul_lt {a : Nat} (b : Nat) (h : a < 1024) : gfMul a b < 1024 := by
  unfold gfMul
  split
  · decide
  · exact gfMulGo_lt _ _ h

theorem polyAdd_length : ∀ p q : List Nat, (polyAdd p q).length = max p.length q.length
  | [], q => by simp [polyAdd]
  | _ :: _, [] => by simp [polyAdd]
  | a :: p, b :: q => by rw [polyAdd, List.length_cons, polyAdd_length p q, List.length_cons, List.length_cons]; omega

/-- Coefficients that are symbols. -/
def SymbolsIn (l : List Nat) : Prop := ∀ x ∈ l, x < 1024

theorem SymbolsIn.cons {a : Nat} {l : List Nat} (ha : a < 1024) (hl : SymbolsIn l) : SymbolsIn (a :: l) := by
  intro x hx
  rcases List.mem_cons.mp hx with rfl | hx
  · exact ha
  · exact hl x hx

theorem symbolsIn_polyAdd : ∀ {p q : List Nat}, SymbolsIn p → SymbolsIn q → SymbolsIn (polyAdd p q)
  | [], _, _, hq => hq
  | _ :: _, [], hp, _ => hp
  | _ :: _, _ :: _, hp, hq =>
    .cons (xor_lt_1024 (hp _ (List.mem_cons_self ..)) (hq _ (List.mem_cons_self ..)))
      (symbolsIn_polyAdd (fun x hx => hp x (List.mem_cons_of_mem _ hx)) fun x hx => hq x (List.mem_cons_of_mem _ hx))

/-- What the division keeps of its remainder: 30 symbols. -/
def ParityOk (rem : List Nat) : Prop := rem.length = 30 ∧ SymbolsIn rem

theorem parityOk_rsStep {rem : List Nat} {m : Nat} (h : ParityOk rem) (hm : m < 1024) : ParityOk (rsStep rem m) := by
  obtain ⟨hlen, hsym⟩ := h
  have hlast : rem.getLastD 0 < 1024 := by
    cases hr : rem.getLast? with
    | none => rw [List.getLastD_eq_getLast?, hr]; decide
    | some x => rw [List.getLastD_eq_getLast?, hr]; exact hsym x (List.mem_of_getLast? hr)
  have hfb : m ^^^ rem.getLastD 0 < 1024 := xor_lt_1024 hm hlast
  constructor
  · rw [rsStep, polyAdd_length, List.length_cons, List.length_dropLast, hlen, polyScale, List.length_map]
    rfl
  · refine symbolsIn_polyAdd (.cons (by decide) fun x hx => hsym x (List.dropLast_subset _ hx)) fun x hx => ?_
    obtain ⟨g, -, rfl⟩ := List.mem_map.mp hx
    exact gfMul_lt g hfb

theorem parityOk_foldl (ms : List Nat) : ∀ {rem : List Nat}, ParityOk rem → SymbolsIn ms → ParityOk (ms.foldl rsStep rem) := by
  induction ms with
  | nil => intro rem h _; exact h
  | cons m ms ih =>
    intro rem h hms
    exact ih (parityOk_rsStep h (hms m (List.mem_cons_self ..))) fun x hx => hms x (List.mem_cons_of_mem _ hx)

theorem parityOk_parity {ms : List Nat} (hms : SymbolsIn ms) : ParityOk (ms.foldl rsStep (List.replicate 30 0)) :=
  parityOk_foldl ms ⟨List.length_replicate, fun x hx => by rw [List.eq_of_mem_replicate hx]; decide⟩ hms

theorem rsEncode_length {ms : List Nat} (hms : SymbolsIn ms) : (rsEncode ms).length = ms.length + 30 := by
  rw [rsEncode, List.length_append, List.length_reverse, (parityOk_parity hms).1]

theorem symbolsIn_rsEncode {ms : List Nat} (hms : SymbolsIn ms) : SymbolsIn (rsEncode ms) := by
  intro x hx
  rcases List.mem_append.mp hx with hx | hx
  · exact hms x hx
  · exact (parityOk_parity hms).2 x (List.mem_reverse.mp hx)

/-- The 514 symbols that a message of 5,140 bits spells. -/
def messageSymbols (bs : List Bool) : List Nat := (piecesL 10 514 bs).map ofBits

theorem symbols_eq (c : Codeword) : c.symbols = rsEncode (messageSymbols c.message) := rfl

theorem messageSymbols_length (bs : List Bool) : (messageSymbols bs).length = 514 := by
  rw [messageSymbols, List.length_map, piecesL_length]

theorem symbolsIn_messageSymbols {bs : List Bool} (h : bs.length = 5140) : SymbolsIn (messageSymbols bs) := by
  intro x hx
  obtain ⟨y, hy, rfl⟩ := List.mem_map.mp hx
  have hlen : y.length = 10 := length_of_mem_piecesL 514 bs h y hy
  have hlt := ofBits_lt y
  rwa [hlen] at hlt

/-- The message symbols spell the message. -/
theorem messageSymbols_bits {bs : List Bool} (h : bs.length = 5140) : (messageSymbols bs).flatMap (bitsOf 10) = bs := by
  have hpiece : (messageSymbols bs).map (bitsOf 10) = piecesL 10 514 bs := by
    rw [messageSymbols, List.map_map]
    refine map_eq_self fun y hy => ?_
    rw [Function.comp_apply, ← length_of_mem_piecesL 514 bs h y hy, bitsOf_ofBits]
  rw [List.flatMap_def, hpiece]
  exact flatten_piecesL 514 bs h

/-! The lane: Gray mapping, precoder and polarity (R293). -/

theorem grayBits_grayLevel (a b : Bool) : grayBits (grayLevel a b) = [a, b] := by
  cases a <;> cases b <;> rfl

theorem grayLevel_lt (a b : Bool) : grayLevel a b < 4 := by
  cases a <;> cases b <;> decide

theorem pairLevels_spec (n : Nat) : ∀ l : List Bool, l.length = 2 * n →
    (pairLevels l).length = n ∧ (∀ x ∈ pairLevels l, x < 4) ∧ (pairLevels l).flatMap grayBits = l := by
  induction n with
  | zero => intro l hl; rw [List.eq_nil_of_length_eq_zero hl]; exact ⟨rfl, List.forall_mem_nil _, rfl⟩
  | succ n ih =>
    intro l hl
    match l with
    | [] => simp at hl
    | [_] => simp at hl; omega
    | a :: b :: t =>
      obtain ⟨hlen, hlt, hbits⟩ := ih t (by simp only [List.length_cons] at hl; omega)
      refine ⟨by rw [pairLevels, List.length_cons, hlen], fun x hx => ?_, ?_⟩
      · rcases List.mem_cons.mp hx with rfl | hx
        · exact grayLevel_lt a b
        · exact hlt x hx
      · rw [pairLevels, List.flatMap_cons, grayBits_grayLevel, hbits, List.cons_append, List.cons_append, List.nil_append]

theorem precodeGo_length (g : List Nat) : ∀ p, (precodeGo p g).length = g.length := by
  induction g with
  | nil => intro p; rfl
  | cons x t ih => intro p; rw [precodeGo, List.length_cons, ih, List.length_cons]

theorem precodeGo_lt (g : List Nat) : ∀ p, ∀ x ∈ precodeGo p g, x < 4 := by
  induction g with
  | nil => intro p x hx; cases hx
  | cons y t ih =>
    intro p x hx
    rcases List.mem_cons.mp hx with rfl | hx
    · exact Nat.mod_lt _ (by decide)
    · exact ih _ x hx

theorem unprecodeGo_precodeGo (g : List Nat) : ∀ p, (∀ x ∈ g, x < 4) → unprecodeGo p (precodeGo p g) = g := by
  induction g with
  | nil => intro p _; rfl
  | cons y t ih =>
    intro p h
    have hy : y < 4 := h y (List.mem_cons_self ..)
    rw [precodeGo, unprecodeGo, ih _ fun x hx => h x (List.mem_cons_of_mem _ hx)]
    congr 1
    omega

/-- Inverting levels twice gives them back. -/
theorem map_invert_invert {ls : List Nat} (h : ∀ x ∈ ls, x < 4) : (ls.map (3 - ·)).map (3 - ·) = ls := by
  rw [List.map_map]
  refine map_eq_self fun x hx => ?_
  have := h x hx
  simp only [Function.comp_apply]
  omega

section
variable {c : Codeword} (hlen : c.symbols.length = 544)
include hlen

theorem symbolBits_length : (c.symbols.flatMap (bitsOf 10)).length = 2 * 2720 := by
  rw [length_flatMap_bitsOf, hlen]

theorem levels_length (pre : Bool) (p : Nat) : (c.levels pre p).length = 2720 := by
  have h := (pairLevels_spec 2720 _ (symbolBits_length hlen)).1
  cases pre
  · exact h
  · exact (precodeGo_length _ p).trans h

theorem levels_lt (pre : Bool) (p : Nat) : ∀ x ∈ c.levels pre p, x < 4 := by
  cases pre
  · exact (pairLevels_spec 2720 _ (symbolBits_length hlen)).2.1
  · exact precodeGo_lt _ p

/-- The levels of a codeword, its precoder undone, are its symbols' bits in pairs. -/
theorem unprecode_levels (pre : Bool) (p : Nat) :
    (if pre then unprecodeGo p (c.levels pre p) else c.levels pre p) = pairLevels (c.symbols.flatMap (bitsOf 10)) := by
  cases pre
  · rfl
  · exact unprecodeGo_precodeGo _ p (pairLevels_spec 2720 _ (symbolBits_length hlen)).2.1

theorem levelSymbols_levels (hsym : SymbolsIn c.symbols) (pre inv : Bool) (p : Nat) :
    levelSymbols pre inv p (if inv then (c.levels pre p).map (3 - ·) else c.levels pre p) = c.symbols := by
  have hinv : (if inv then (if inv then (c.levels pre p).map (3 - ·) else c.levels pre p).map (3 - ·)
      else (if inv then (c.levels pre p).map (3 - ·) else c.levels pre p)) = c.levels pre p := by
    cases inv
    · rfl
    · exact map_invert_invert (levels_lt hlen pre p)
  unfold levelSymbols
  dsimp only
  rw [hinv, unprecode_levels hlen, (pairLevels_spec 2720 _ (symbolBits_length hlen)).2.2, ← hlen, piecesL_flatMap_bitsOf]
  exact map_ofBits_map_bitsOf 10 _ hsym

end

/-- Settles O60: each layer of the wire has its inverse, and parity symbols have 10 bits as message symbols do. -/
theorem codewordWireRoundTrip : Obligations.CodewordWireRoundTrip := by
  intro c pre inv p hseq hmap hslots hwords
  have hmsg : c.message.length = 5140 := message_length hslots hwords
  have hback : ofMessage c.message = c := ofMessage_message hslots hwords hseq hmap
  have hms : SymbolsIn (messageSymbols c.message) := symbolsIn_messageSymbols hmsg
  have hlen : c.symbols.length = 544 := by rw [symbols_eq, rsEncode_length hms, messageSymbols_length]
  have hsym : SymbolsIn c.symbols := symbolsIn_rsEncode hms
  refine ⟨hmsg, hback, hlen, levels_length hlen pre p, levels_lt hlen pre p, levelSymbols_levels hlen hsym pre inv p, ?_⟩
  rw [symbols_eq, rsEncode, List.take_left' (messageSymbols_length _), messageSymbols_bits hmsg, hback]

end Sys2Proof.Machine
end

section
/-! Memory reads what was written last (R7), and a register write acts by access type (R15, R16, R19). -/

namespace Sys2Proof.Machine

/-! Memory. -/

/-- Reading a byte after a run of bytes is written. -/
theorem mget_mputBytes (bs : List Byte) : ∀ {s : State} (k a : Nat), s.memWf = true →
    (s.mputBytes k bs).mget a = if k ≤ a ∧ a < k + bs.length then bs.getD (a - k) 0 else s.mget a := by
  induction bs with
  | nil =>
    intro s k a _
    rw [if_neg (by simp)]
    rfl
  | cons b t ih =>
    intro s k a h
    have htail : (s.mputBytes k (b :: t)).mget a = ((s.mput k b).mputBytes (k + 1) t).mget a := rfl
    rw [htail, ih _ _ (mput_memWf h k b), mget_mput h, List.length_cons]
    by_cases hk : a = k
    · subst hk
      rw [if_neg (by omega), if_pos rfl, if_pos (by omega), Nat.sub_self, List.getD_cons_zero]
    · rw [if_neg hk]
      by_cases hin : k + 1 ≤ a ∧ a < k + 1 + t.length
      · rw [if_pos hin, if_pos (by omega), show a - k = (a - (k + 1)) + 1 by omega, List.getD_cons_succ]
      · rw [if_neg hin, if_neg (by omega)]

theorem mget_mputWord {s : State} (h : s.memWf = true) (k : Nat) (w : Word) {i : Nat} (hi : i < 8) :
    (s.mputWord k w).mget (k + i) = BitVec.ofNat 8 (w.toNat >>> (8 * i)) := by
  rw [State.mputWord, mget_mputBytes _ _ _ h, leBytes_length, if_pos (by omega), Nat.add_sub_cancel_left, leBytes_getD 8 _ i hi]

/-- A byte outside the word that was written. -/
theorem mget_mputWord_other {s : State} (h : s.memWf = true) (k : Nat) (w : Word) {a : Nat} (ha : a < k ∨ k + 8 ≤ a) :
    (s.mputWord k w).mget a = s.mget a := by
  rw [State.mputWord, mget_mputBytes _ _ _ h, leBytes_length, if_neg (by omega)]

theorem mword_mputWord {s : State} (h : s.memWf = true) (k : Nat) (w : Word) : (s.mputWord k w).mword k = w := by
  rw [State.mword, State.mnat, leNat_leBytes _ 8 w.toNat fun i hi => mget_mputWord h k w hi, Nat.mod_eq_of_lt w.isLt,
    BitVec.ofNat_toNat, BitVec.setWidth_eq]

/-- A word that shares no byte with the one that was written. -/
theorem mword_mputWord_other {s : State} (h : s.memWf = true) (k j : Nat) (w : Word) (hd : j + 8 ≤ k ∨ k + 8 ≤ j) :
    (s.mputWord k w).mword j = s.mword j := by
  have hbytes : ∀ i < 8, (s.mputWord k w).mget (j + i) = s.mget (j + i) := fun i hi => mget_mputWord_other h k w (by omega)
  simp only [State.mword, State.mnat, leNat, hbytes 0 (by decide), hbytes 1 (by decide), hbytes 2 (by decide),
    hbytes 3 (by decide), hbytes 4 (by decide), hbytes 5 (by decide), hbytes 6 (by decide), hbytes 7 (by decide)]

/-- Settles O5. -/
theorem memoryReadsLastWrite : Obligations.MemoryReadsLastWrite := by
  intro s k bs w hinv
  exact ⟨fun a => mget_mputBytes bs k a hinv.mem, (keeps_mputBytes (q := s.pending) ⟨hinv, rfl⟩).1,
    mword_mputWord hinv.mem k w, fun i hi => mget_mputWord hinv.mem k w hi⟩

/-! A register write (R15, R16). -/

/-- None of the rules that make a write act is that of a plain register. -/
theorem regPut_plain {off : Nat} {r : RegRow} (h : plainReg off r = true) (s : State) (new : Word) :
    s.regPut off r.base new = s.rput off new := by
  simp only [plainReg, List.all_cons, List.all_nil, Bool.and_true, Bool.and_eq_true, bne_iff_ne, ne_eq, Bool.not_eq_true',
    Bool.and_eq_false_iff, decide_eq_false_iff_not] at h
  obtain ⟨⟨⟨hQcfg, hPortCfg, hGmin, hRsv, hRoute, hId, hKctrl, hKstage, hCtrl, -, hCfg, hInj⟩, hRing⟩, -⟩ := h
  unfold State.regPut
  rw [if_neg (Ne.symm hQcfg), if_neg (Ne.symm hPortCfg), if_neg (Ne.symm hGmin), if_neg (Ne.symm hRsv),
    if_neg (Ne.symm hRoute), if_neg (Ne.symm hId), if_neg (Ne.symm hCfg), if_neg (Ne.symm hInj), if_neg (Ne.symm hKctrl),
    if_neg (Ne.symm hKstage), if_neg (Ne.symm hCtrl), if_neg (by omega)]

/-- The bits of half that a write from CXL.io reaches (R15, R16, R566), and those that it clears. -/
def writeMask (s : State) (r : RegRow) (half : Word) : Word :=
  (BitVec.ofNat 64 r.rw ||| (if s.rbit Reg.hifSetupLock 1 then 0 else BitVec.ofNat 64 r.rwl)) &&& half

def clearMask (r : RegRow) (v half : Word) : Word := BitVec.ofNat 64 r.w1c &&& v &&& half

/-- A write of a plain register: the RW1C bits first, then the fields. -/
theorem regWrite_plain {s : State} {o : Nat} {r : RegRow} (hole : portHole o = false) (hrow : regRow o = some r)
    (hplain : plainReg o r = true) (v half : Word) (sets : Nat) :
    s.regWrite o v half false sets =
      let u := if clearMask r v half = 0 then s else s.rput o (s.rget o &&& ~~~clearMask r v half)
      if writeMask s r half = 0 then u
      else u.rput o ((u.rget o &&& ~~~writeMask s r half) ||| (v &&& writeMask s r half)) := by
  have hSr : o ≠ Reg.coreSrCtrl := by
    simp only [plainReg, Bool.and_eq_true, bne_iff_ne, ne_eq] at hplain
    exact hplain.2
  have hNum : r.base ≠ Reg.coreNumStatus 0 := by
    simp only [plainReg, List.all_cons, Bool.and_eq_true, bne_iff_ne, ne_eq] at hplain
    obtain ⟨⟨⟨-, -, -, -, -, -, -, -, -, hNum, -⟩, -⟩, -⟩ := hplain
    exact Ne.symm hNum
  have hopen : (if s.rwlOpen false = true then BitVec.ofNat 64 r.rwl else 0) =
      if s.rbit Reg.hifSetupLock 1 then 0 else BitVec.ofNat 64 r.rwl := by
    cases hl : s.rbit Reg.hifSetupLock 1 <;> simp [State.rwlOpen, hl]
  unfold State.regWrite
  simp only [hole, hrow, hSr, hNum, hopen, Bool.false_eq_true, if_false, regPut_plain hplain]
  rfl

theorem and_not_zero (x : Word) : x &&& ~~~(0 : Word) = x :=
  BitVec.and_allOnes

theorem or_and_zero (x y : Word) : x ||| y &&& (0 : Word) = x :=
  (congrArg (x ||| ·) BitVec.and_zero).trans BitVec.or_zero

/-- What such a write leaves. -/
theorem regWrite_effect {s : State} {o : Nat} {r : RegRow} (hw : RegsWf s) (hole : portHole o = false)
    (hrow : regRow o = some r) (hplain : plainReg o r = true) (v half : Word) (sets : Nat) :
    let t := s.regWrite o v half false sets
    t = { s with regs := t.regs } ∧
      t.rget o = ((s.rget o &&& ~~~clearMask r v half) &&& ~~~writeMask s r half) ||| (v &&& writeMask s r half) ∧
      ∀ p, p ≠ o → t.rget p = s.rget p := by
  intro t
  have ht : t = _ := regWrite_plain hole hrow hplain v half sets
  clear_value t
  generalize clearMask r v half = clr at ht ⊢
  generalize writeMask s r half = m at ht ⊢
  by_cases hc : clr = 0 <;> by_cases hm : m = 0
  all_goals simp only [hc, hm, if_true, if_false] at ht
  · subst t hc hm
    exact ⟨rfl, by simp only [and_not_zero, or_and_zero], fun p _ => rfl⟩
  · subst t hc
    exact ⟨rfl, by rw [rget_rput hw, if_pos rfl, and_not_zero], fun p hp => rget_rput_other hw _ hp⟩
  · subst t hm
    exact ⟨rfl, by rw [rget_rput hw, if_pos rfl, and_not_zero, or_and_zero], fun p hp => rget_rput_other hw _ hp⟩
  · subst t
    refine ⟨rfl, by rw [rget_rput (rput_wf hw ..), if_pos rfl, rget_rput hw, if_pos rfl], fun p hp => ?_⟩
    rw [rget_rput_other (rput_wf hw ..) _ hp, rget_rput_other hw _ hp]

/-- Settles O9: 8 bytes write the whole register, 4 bytes the half that bit 2 of the offset names. -/
theorem regWriteByAccessType : Obligations.RegWriteByAccessType := by
  intro s off size v sets r hw hsize o half val m clr hole hrow hplain
  have hexec : exec (.regWrite off size v sets) s = .next (s.regWrite o val half false sets) := by
    rw [exec_regWrite]
    unfold execRegWrite
    rcases hsize with ⟨hs, ha⟩ | ⟨hs, ha⟩
    · simp only [o, half, val, hs, ha, and_self, if_true, Nat.sub_zero]
    · by_cases h8 : off % 8 = 0
      · simp only [o, half, val, hs, ha, h8, and_self, if_true, Nat.sub_zero, show ¬(4 = 8) by decide, false_and, if_false]
      · have h4 : off % 8 = 4 := by omega
        simp only [o, half, val, hs, ha, h4, and_self, if_true, show ¬(4 = 8) by decide, show ¬(4 = 0) by decide, if_false]
  obtain ⟨hframe, hreg, hother⟩ := regWrite_effect hw hole hrow hplain val half sets
  exact ⟨_, hexec, hframe, hreg, hother⟩

end Sys2Proof.Machine
end

section
/-! What raising an event does (R611, R613, R614). -/

namespace Sys2Proof.Machine

/-- The module once an event of a severity has been counted: in TWN_EVT_COUNT, and among those lost while the event ring
does not run (R557, R613). -/
def State.counted (s : State) (sev : Nat) : State :=
  let u := s.rcount Reg.twnEvtCount (16 * sev + 15) (16 * sev) 1
  if u.evRunning then u else u.rcount Reg.hifStatus 47 32 1

/-- The latch that an event fills. -/
def State.latchOf (s : State) (code sev : Nat) (items : List (Nat × Nat)) : Latched :=
  { code := code, sev := sev, seq := s.ev.nextSeq, uptime := s.uptime, step := (s.counted sev).rget Reg.twnCommitted
    payload := payloadOf items, suppressed := 0, off := !(s.rcount Reg.twnEvtCount (16 * sev + 15) (16 * sev) 1).evRunning }

/-- The first FATAL event is kept in TWN_FATAL0 and TWN_FATAL1. -/
def State.keptFatal (s : State) (code sev seq : Nat) (payload : List Byte) : State :=
  if sev = sevFATAL ∧ s.rfld Reg.twnFatal0 15 0 = 0 then
    (s.rput Reg.twnFatal0 (BitVec.ofNat 64 (code + seq <<< 32))).rput Reg.twnFatal1 (BitVec.ofNat 64 (ofBytes (payload.take 8)))
  else s

section
variable (s : State) (code sev : Nat) (items : List (Nat × Nat))

@[simp] theorem counted_ev : (s.counted sev).ev = s.ev := by
  unfold State.counted
  dsimp only
  split <;> rfl

/-- An event whose latch is full counts there. -/
theorem raise_full (h : ∃ l ∈ s.ev.latches, l.code = code) :
    s.raise code sev items = { s.counted sev with
      ev := { s.ev with
        latches := s.ev.latches.map fun l => if l.code = code then { l with suppressed := min 0xFFFF (l.suppressed + 1) } else l } } := by
  have hany : s.ev.latches.any (fun l => l.code == code) = true := by simpa using h
  have hall : (s.counted sev).ev.latches.any (fun l => l.code == code) = true := by rw [counted_ev]; exact hany
  unfold State.raise
  unfold State.counted at hall ⊢
  cases hrun : (s.rcount Reg.twnEvtCount (16 * sev + 15) (16 * sev) 1).evRunning
  all_goals
    simp only [hrun, Bool.not_true, Bool.not_false, Bool.false_eq_true, if_true, if_false] at hall ⊢
    rw [if_pos hall]
    rfl

/-- An event whose latch is empty fills it. -/
theorem raise_empty (h : ∀ l ∈ s.ev.latches, l.code ≠ code) :
    s.raise code sev items = { (s.counted sev).keptFatal code sev s.ev.nextSeq (payloadOf items) with
      ev := { s.ev with latches := s.ev.latches ++ [s.latchOf code sev items], nextSeq := (s.ev.nextSeq + 1) % 2 ^ 32 } } := by
  have hany : ¬ s.ev.latches.any (fun l => l.code == code) = true := by simpa using h
  have hall : ¬ (s.counted sev).ev.latches.any (fun l => l.code == code) = true := by rw [counted_ev]; exact hany
  unfold State.raise State.keptFatal State.latchOf
  unfold State.counted at hall ⊢
  cases hrun : (s.rcount Reg.twnEvtCount (16 * sev + 15) (16 * sev) 1).evRunning
  all_goals
    simp only [hrun, Bool.not_true, Bool.not_false, Bool.false_eq_true, if_true, if_false] at hall ⊢
    rw [if_neg hall]
    split <;> rfl

end

section
variable {s : State} (hw : RegsWf s) (sev : Nat)
include hw

theorem counted_wf : RegsWf (s.counted sev) := by
  unfold State.counted
  dsimp only
  split
  · exact rcount_wf hw ..
  · exact rcount_wf (rcount_wf hw ..) ..

/-- Counting touches the two counting registers alone. -/
theorem rget_counted {off : Nat} (hc : off ≠ Reg.twnEvtCount) (hs : off ≠ Reg.hifStatus) :
    (s.counted sev).rget off = s.rget off := by
  unfold State.counted
  dsimp only
  split
  · exact rget_rcount hw _ _ _ _ _ hc
  · rw [rget_rcount (rcount_wf hw ..) _ _ _ _ _ hs, rget_rcount hw _ _ _ _ _ hc]

/-- Of HIF_STATUS it touches the upper half alone. -/
theorem rfld_counted_hifStatus {hi : Nat} (lo : Nat) (hhi : hi < 32) :
    (s.counted sev).rfld Reg.hifStatus hi lo = s.rfld Reg.hifStatus hi lo := by
  have hcount : (s.rcount Reg.twnEvtCount (16 * sev + 15) (16 * sev) 1).rfld Reg.hifStatus hi lo = s.rfld Reg.hifStatus hi lo :=
    congrArg (fld · hi lo) (rget_rcount hw _ _ _ _ _ (by decide))
  unfold State.counted
  dsimp only
  split
  · exact hcount
  · rw [State.rcount, rfld_rsetFld_other (rcount_wf hw ..) _ _ _ _ _ _ _ (by decide) (.inr (.inl (by omega))), hcount]

theorem rget_keptFatal (code seq : Nat) (payload : List Byte) {off : Nat} (h0 : off ≠ Reg.twnFatal0) (h1 : off ≠ Reg.twnFatal1) :
    (s.keptFatal code sev seq payload).rget off = s.rget off := by
  unfold State.keptFatal
  split
  · rw [rget_rput_other (rput_wf hw ..) _ h1, rget_rput_other hw _ h0]
  · rfl

end

/-- A register that an event does not concern. -/
theorem rget_raise {s : State} (hw : RegsWf s) (code sev : Nat) (items : List (Nat × Nat)) {off : Nat}
    (hc : off ≠ Reg.twnEvtCount) (hs : off ≠ Reg.hifStatus) (h0 : off ≠ Reg.twnFatal0) (h1 : off ≠ Reg.twnFatal1) :
    (s.raise code sev items).rget off = s.rget off := by
  by_cases h : ∃ l ∈ s.ev.latches, l.code = code
  · rw [raise_full s code sev items h]
    exact rget_counted hw sev hc hs
  · rw [raise_empty s code sev items fun l hl he => h ⟨l, hl, he⟩]
    exact (rget_keptFatal (counted_wf hw sev) sev _ _ _ h0 h1).trans (rget_counted hw sev hc hs)

theorem rfld_raise_hifStatus {s : State} (hw : RegsWf s) (code sev : Nat) (items : List (Nat × Nat)) {hi : Nat} (lo : Nat)
    (hhi : hi < 32) : (s.raise code sev items).rfld Reg.hifStatus hi lo = s.rfld Reg.hifStatus hi lo := by
  by_cases h : ∃ l ∈ s.ev.latches, l.code = code
  · rw [raise_full s code sev items h]
    exact rfld_counted_hifStatus hw sev lo hhi
  · rw [raise_empty s code sev items fun l hl he => h ⟨l, hl, he⟩]
    have hkept := rget_keptFatal (counted_wf hw sev) sev code s.ev.nextSeq (payloadOf items) (off := Reg.hifStatus)
      (by decide) (by decide)
    exact (congrArg (fld · hi lo) hkept).trans (rfld_counted_hifStatus hw sev lo hhi)

/-- The code and the SEQ of TWN_FATAL0's image (R613). -/
theorem fatalImage_fields {code seq : Nat} (hc : code < 65536) (hs : seq < 2 ^ 32) :
    fld (BitVec.ofNat 64 (code + seq <<< 32)) 15 0 = code ∧ fld (BitVec.ofNat 64 (code + seq <<< 32)) 63 32 = seq := by
  simp only [fld, bitsN, BitVec.toNat_ofNat, Nat.shiftLeft_eq, Nat.shiftRight_eq_div_pow]
  omega

/-- A FATAL event with an empty latch, before any other and after one. -/
theorem rget_raise_fatal {s : State} (hw : RegsWf s) {code : Nat} (items : List (Nat × Nat)) (hfresh : ∀ l ∈ s.ev.latches, l.code ≠ code) :
    (s.rfld Reg.twnFatal0 15 0 = 0 →
      (s.raise code sevFATAL items).rget Reg.twnFatal0 = BitVec.ofNat 64 (code + s.ev.nextSeq <<< 32)) ∧
    (s.rfld Reg.twnFatal0 15 0 ≠ 0 → (s.raise code sevFATAL items).rget Reg.twnFatal0 = s.rget Reg.twnFatal0 ∧
      (s.raise code sevFATAL items).rget Reg.twnFatal1 = s.rget Reg.twnFatal1) := by
  have hcw := counted_wf hw sevFATAL
  have h0 : (s.counted sevFATAL).rget Reg.twnFatal0 = s.rget Reg.twnFatal0 := rget_counted hw _ (by decide) (by decide)
  have h1 : (s.counted sevFATAL).rget Reg.twnFatal1 = s.rget Reg.twnFatal1 := rget_counted hw _ (by decide) (by decide)
  have hfld : (s.counted sevFATAL).rfld Reg.twnFatal0 15 0 = s.rfld Reg.twnFatal0 15 0 := congrArg (fld · 15 0) h0
  rw [raise_empty s code sevFATAL items hfresh, State.keptFatal, hfld]
  constructor
  · intro hz
    rw [if_pos ⟨rfl, hz⟩]
    show State.rget (State.rput _ _ _) _ = _
    rw [rget_rput_other (rput_wf hcw ..) _ (by decide), rget_rput hcw, if_pos rfl]
  · intro hz
    rw [if_neg fun h => hz h.2]
    exact ⟨h0, h1⟩

/-- Settles O6. -/
theorem raisingFillsLatch : Obligations.RaisingFillsLatch := by
  intro s code sev items hw _ t
  refine ⟨raise_frame s code sev items, fun off hc hs h0 h1 => rget_raise hw code sev items hc hs h0 h1,
    fun hi lo hhi => rfld_raise_hifStatus hw code sev items lo hhi, fun hfresh => ?_, fun hfull => ?_,
    fun hsev hfresh hcode hseq => ?_⟩
  · have ht : t = _ := raise_empty s code sev items hfresh
    refine ⟨⟨s.latchOf code sev items, by rw [ht], rfl, rfl, rfl, rfl, ?_, rfl⟩, by rw [ht]⟩
    exact rget_counted hw sev (by decide) (by decide)
  · have ht : t = _ := raise_full s code sev items hfull
    exact ⟨by rw [ht], by rw [ht]⟩
  · subst hsev
    obtain ⟨hfirst, hlater⟩ := rget_raise_fatal hw items hfresh
    obtain ⟨hlow, hhigh⟩ := fatalImage_fields hcode hseq
    refine ⟨fun hz => ?_, hlater⟩
    have hreg : t.rget Reg.twnFatal0 = _ := hfirst hz
    exact ⟨by rw [State.rfld, hreg, hlow], by rw [State.rfld, hreg, hhigh]⟩

end Sys2Proof.Machine
end

section
/-! What a completion lands (R61, R125, R129, R132). -/

namespace Sys2Proof.Machine

theorem cSetS_frame (c : Core) (k : Nat) (v : Word) : cSetS c k v = { c with scalars := (cSetS c k v).scalars } := by
  unfold cSetS
  split <;> rfl

theorem cSetP_frame (c : Core) (k : Nat) (b : Bool) : cSetP c k b = { c with preds := (cSetP c k b).preds } := by
  unfold cSetP
  split <;> rfl

/-- A core with the scalars, and with the predicates, that a command writes, in their order. -/
def setScalars (c : Core) (l : List (Nat × Word)) : Core := l.foldl (fun c x => cSetS c x.1 x.2) c
def setPreds (c : Core) (l : List (Nat × Bool)) : Core := l.foldl (fun c x => cSetP c x.1 x.2) c

theorem setScalars_frame (l : List (Nat × Word)) : ∀ c : Core, setScalars c l = { c with scalars := (setScalars c l).scalars } := by
  induction l with
  | nil => intro c; rfl
  | cons x l ih =>
    intro c
    have h := ih (cSetS c x.1 x.2)
    rw [cSetS_frame] at h
    rw [setScalars, List.foldl_cons, ← setScalars, cSetS_frame]
    exact h

theorem setPreds_frame (l : List (Nat × Bool)) : ∀ c : Core, setPreds c l = { c with preds := (setPreds c l).preds } := by
  induction l with
  | nil => intro c; rfl
  | cons x l ih =>
    intro c
    have h := ih (cSetP c x.1 x.2)
    rw [cSetP_frame] at h
    rw [setPreds, List.foldl_cons, ← setPreds, cSetP_frame]
    exact h

/-- The scalars of a core are in canonical form. -/
def ScalarsWf (c : Core) : Prop := tabWf (fun _ => (0 : Word)) c.scalars = true

theorem cSetS_scalarsWf {c : Core} (h : ScalarsWf c) (k : Nat) (v : Word) : ScalarsWf (cSetS c k v) := by
  unfold cSetS
  split
  · exact h
  · exact tabSet_wf h

/-- Reading a scalar after writing one: S0 reads 0. -/
theorem cS_cSetS {c : Core} (h : ScalarsWf c) (j k : Nat) (v : Word) :
    cS (cSetS c j v) k = if j = k ∧ k ≠ 0 then v else cS c k := by
  by_cases hk : k = 0
  · subst hk
    rw [if_neg (by simp)]
    rfl
  · by_cases hj : j = 0
    · subst hj
      rw [if_neg (by omega)]
      rfl
    · rw [cSetS, if_neg hj, cS, cS, if_neg hk, if_neg hk]
      exact (tabGet_tabSet h k).trans (by simp [hk, eq_comm])

theorem setScalars_wf (l : List (Nat × Word)) : ∀ {c : Core}, ScalarsWf c → ScalarsWf (setScalars c l) := by
  induction l with
  | nil => intro c h; exact h
  | cons x l ih => intro c h; exact ih (cSetS_scalarsWf h x.1 x.2)

theorem cS_setScalars {k : Nat} (hk : k ≠ 0) (l : List (Nat × Word)) : ∀ {c : Core}, ScalarsWf c →
    cS (setScalars c l) k = l.foldl (fun v x => if x.1 = k then x.2 else v) (cS c k) := by
  induction l with
  | nil => intro c _; rfl
  | cons x l ih =>
    intro c h
    have hx : cS (cSetS c x.1 x.2) k = if x.1 = k then x.2 else cS c k := by
      rw [cS_cSetS h]
      simp [hk]
    rw [List.foldl_cons, ← hx]
    exact ih (cSetS_scalarsWf h x.1 x.2)

theorem cS_setScalars_other {k : Nat} (l : List (Nat × Word)) : ∀ {c : Core}, ScalarsWf c →
    (l.all fun x => x.1 != k) = true → cS (setScalars c l) k = cS c k := by
  induction l with
  | nil => intro c _ _; rfl
  | cons x l ih =>
    intro c h hl
    rw [List.all_cons, Bool.and_eq_true, bne_iff_ne] at hl
    obtain ⟨hx, hl⟩ := hl
    refine (ih (cSetS_scalarsWf h x.1 x.2) hl).trans ?_
    rw [cS_cSetS h, if_neg fun e => hx e.1]

/-- The larger of an amax and the value already in its scalar (R125, log 109). -/
def setAmax (c : Core) (f : Flight) : Core :=
  match f.amax with
  | some (k, m) => cSetS c k (BitVec.ofNat 64 (max m (cS c k).toNat))
  | none => c

theorem setAmax_frame (c : Core) (f : Flight) : setAmax c f = { c with scalars := (setAmax c f).scalars } := by
  unfold setAmax
  split
  · exact cSetS_frame ..
  · rfl

theorem cS_setAmax_other {c : Core} (h : ScalarsWf c) {f : Flight} {k : Nat} (hk : (f.amax.all fun x => x.1 != k) = true) :
    cS (setAmax c f) k = cS c k := by
  unfold setAmax
  split
  · rename_i j m he
    rw [he, Option.all_some, bne_iff_ne] at hk
    rw [cS_cSetS h, if_neg fun e => hk e.1]
  · rfl

theorem cS_setAmax {c : Core} (h : ScalarsWf c) {f : Flight} {k m : Nat} (hf : f.amax = some (k, m)) (hk : k ≠ 0) :
    cS (setAmax c f) k = BitVec.ofNat 64 (max m (cS c k).toNat) := by
  unfold setAmax
  rw [hf]
  exact (cS_cSetS h ..).trans (if_pos ⟨rfl, hk⟩)

/-- A core once what a command writes of it is visible. -/
def landedCore (c : Core) (f : Flight) : Core :=
  let d := setAmax (setPreds (setScalars c f.scalars) f.preds) f
  { d with num := raiseNum d.num f.flags }

/-- Scalars, predicates and number flags are all that a command's results change of its core. -/
theorem landedCore_frame (c : Core) (f : Flight) : landedCore c f =
    { c with scalars := (landedCore c f).scalars, preds := (landedCore c f).preds, num := raiseNum c.num f.flags } := by
  have hs := setScalars_frame f.scalars c
  have hp := setPreds_frame f.preds (setScalars c f.scalars)
  have ha := setAmax_frame (setPreds (setScalars c f.scalars) f.preds) f
  unfold landedCore
  dsimp only
  generalize setAmax (setPreds (setScalars c f.scalars) f.preds) f = d at ha ⊢
  generalize setPreds (setScalars c f.scalars) f.preds = e at hp ha
  generalize setScalars c f.scalars = g at hs hp
  rw [ha, hp, hs]

theorem cS_landedCore (c : Core) (f : Flight) (k : Nat) :
    cS (landedCore c f) k = cS (setAmax (setPreds (setScalars c f.scalars) f.preds) f) k := rfl

/-- Predicates are no scalars. -/
theorem cS_setPreds (c : Core) (l : List (Nat × Bool)) (k : Nat) : cS (setPreds c l) k = cS c k := by
  rw [setPreds_frame]
  rfl

theorem setPreds_scalarsWf {c : Core} (h : ScalarsWf c) (l : List (Nat × Bool)) : ScalarsWf (setPreds c l) := by
  rw [setPreds_frame]
  exact h

section
variable {c : Core} (h : ScalarsWf c) {f : Flight} {k : Nat}
include h

theorem landingScalarsWf : ScalarsWf (setPreds (setScalars c f.scalars) f.preds) :=
  setPreds_scalarsWf (setScalars_wf _ h) _

theorem cS_landedCore_written (hk : k ≠ 0) (ha : (f.amax.all fun x => x.1 != k) = true) :
    cS (landedCore c f) k = f.scalars.foldl (fun v x => if x.1 = k then x.2 else v) (cS c k) := by
  rw [cS_landedCore, cS_setAmax_other (landingScalarsWf h) ha, cS_setPreds, cS_setScalars hk _ h]

theorem cS_landedCore_other (ha : (f.amax.all fun x => x.1 != k) = true) (hs : (f.scalars.all fun x => x.1 != k) = true) :
    cS (landedCore c f) k = cS c k := by
  rw [cS_landedCore, cS_setAmax_other (landingScalarsWf h) ha, cS_setPreds, cS_setScalars_other _ h hs]

theorem cS_landedCore_amax {m : Nat} (hf : f.amax = some (k, m)) (hk : k ≠ 0) (hs : (f.scalars.all fun x => x.1 != k) = true) :
    cS (landedCore c f) k = BitVec.ofNat 64 (max m (cS c k).toNat) := by
  rw [cS_landedCore, cS_setAmax (landingScalarsWf h) hf hk, cS_setPreds, cS_setScalars_other _ h hs]

end

/-- The core that a command has left. -/
def completedCore (c : Core) (f : Flight) : Core :=
  let d := landedCore c f
  { d with
    flights := d.flights.filter (fun x => x.id != f.id)
    pends := d.pends.map fun p => if p.flight = f.id then { p with done := true } else p }

theorem core_mputs (s : State) (ws : Writes) (n : Nat) : (s.mputs ws).core n = s.core n := by
  rw [State.core, mputs_cores]
  rfl

theorem landWrites_eq (s : State) (n : Nat) (f : Flight) :
    landWrites s n f = (s.mputs f.writes).setCore n (landedCore (s.core n) f) := by
  rw [← core_mputs s f.writes n]
  rfl

/-- A command without an increment of its own completes by its writes and its core alone. -/
theorem completeFlight_eq {s : State} (hw : CoresWf s) (n cyc : Nat) {f : Flight} (hadd : f.semAdd = []) (hsig : f.sig = none) :
    completeFlight s n f cyc = (s.mputs f.writes).setCore n (completedCore (s.core n) f) := by
  have hw' : CoresWf (s.mputs f.writes) := by rw [CoresWf, mputs_cores]; exact hw
  unfold completeFlight
  rw [hadd, hsig, landWrites_eq]
  dsimp only [List.foldl_nil]
  rw [core_setCore hw', if_pos rfl, setCore_setCore hw']
  rfl

/-- Settles O21: the writes go to memory, and of its core the command changes what `landedCore` changes and its own
place among the commands in flight. -/
theorem completionLandsWholeCommand : Obligations.CompletionLandsWholeCommand := by
  intro s n cyc f hw hs hadd hsig t
  have ht : t = (s.mputs f.writes).setCore n (completedCore (s.core n) f) := completeFlight_eq hw n cyc hadd hsig
  have hw' : CoresWf (s.mputs f.writes) := by rw [CoresWf, mputs_cores]; exact hw
  have hcore : ∀ m, t.core m = if m = n then completedCore (s.core n) f else s.core m := by
    intro m
    rw [ht, core_setCore hw', core_mputs]
  have hn : t.core n = completedCore (s.core n) f := by rw [hcore, if_pos rfl]
  have hframe := landedCore_frame (s.core n) f
  refine ⟨fun k => by rw [ht]; rfl, by rw [ht]; rfl, fun k hk ha => ?_, fun k ha hns => ?_, fun k m hf hk hns => ?_, ?_, ?_, ?_,
    ?_, ?_, ?_, ?_, fun m hm => by rw [hcore, if_neg hm], ?_, ?_, ?_, ?_⟩
  · rw [hn]; exact cS_landedCore_written hs (by omega) ha
  · rw [hn]; exact cS_landedCore_other hs ha hns
  · rw [hn]; exact cS_landedCore_amax hs hf hk hns
  · rw [hn, completedCore, hframe]
  · rw [hn, completedCore, hframe]
  · rw [hn, completedCore, hframe]
  · rw [hn, completedCore, hframe]
  · rw [hn, completedCore, hframe]
  · rw [hn, completedCore, hframe]
  · rw [hn, completedCore, hframe]
  all_goals rw [ht, mputs_frame]; rfl

end Sys2Proof.Machine
end

section
/-! The output chunk of a SUM (R445), and the check of element-wise sums (R442, R443). -/

namespace Sys2Proof.Machine

/-! The check is linear. -/

/-- The number in base A that a sequence spells, its elements as they are. -/
def spellA : List Int → Int
  | [] => 0
  | n :: t => n + (chkA : Int) * spellA t

/-- Modulo P it is the number that the residues spell. -/
theorem baseA_emod (e : List Int) : (baseA e : Int) % (chkP : Int) = spellA e % (chkP : Int) := by
  induction e with
  | nil => rfl
  | cons a t ih =>
    have hres : ((a % (chkP : Int)).toNat : Int) = a % (chkP : Int) := Int.toNat_of_nonneg (Int.emod_nonneg _ (by decide))
    rw [baseA, spellA, Int.natCast_add, Int.natCast_mul, hres, Int.emod_add_emod, Int.add_emod, Int.mul_emod, ih, ← Int.mul_emod,
      ← Int.add_emod]

theorem checkOf_emod (e : List Int) : (checkOf e : Int) = (chkA : Int) * spellA e % (chkP : Int) := by
  rw [checkOf_eq_mod, Int.natCast_emod, Int.natCast_mul, Int.mul_emod, baseA_emod, ← Int.mul_emod]

/-- What the place-by-place sum of two sequences spells. -/
theorem spellA_map_add (is : List Nat) (f g : Nat → Int) :
    spellA (is.map fun i => f i + g i) = spellA (is.map f) + spellA (is.map g) := by
  induction is with
  | nil => rfl
  | cons i t ih =>
    simp only [List.map_cons, spellA, ih, Int.mul_add]
    omega

theorem spellA_map_zero (is : List Nat) : spellA (is.map fun _ => 0) = 0 := by
  induction is with
  | nil => rfl
  | cons i t ih => rw [List.map_cons, spellA, ih, Int.mul_zero, Int.add_zero]

/-- What the place-by-place sum of any number of sequences spells. -/
theorem spellA_map_sum (is : List Nat) (es : List (List Int)) :
    spellA (is.map fun i => (es.map fun e => e.getD i 0).sum) = (es.map fun e => spellA (is.map fun i => e.getD i 0)).sum := by
  induction es with
  | nil => exact spellA_map_zero is
  | cons e t ih => simp only [List.map_cons, List.sum_cons, spellA_map_add, ih]

theorem upFrom_getElem? (n k i : Nat) : (upFrom k n)[i]? = if i < n then some (k + i) else none := by
  induction n generalizing k i with
  | zero => rfl
  | succ n ih =>
    cases i with
    | zero => rfl
    | succ i =>
      rw [upFrom, List.getElem?_cons_succ, ih]
      simp [Nat.add_comm, Nat.add_left_comm]

/-- A list formed from the numbers 0, …, n − 1, read at a place. -/
theorem getD_map_upFrom {α : Type} (f : Nat → α) (d : α) {n i : Nat} (h : i < n) :
    ((upFrom 0 n).map f).getD i d = f i := by
  rw [List.getD_eq_getElem?_getD, List.getElem?_map, upFrom_getElem?, if_pos h, Nat.zero_add]
  rfl

/-- The sums, place by place, of sequences of n numbers. -/
def placeSums (es : List (List Int)) (n : Nat) : List Int :=
  (upFrom 0 n).map fun i => (es.map fun e => e.getD i 0).sum

@[simp] theorem placeSums_length (es : List (List Int)) (n : Nat) : (placeSums es n).length = n := by
  simp [placeSums]

theorem placeSums_getD (es : List (List Int)) {n i : Nat} (h : i < n) :
    (placeSums es n).getD i 0 = (es.map fun e => e.getD i 0).sum := getD_map_upFrom _ _ h

/-- A sequence is its elements, place by place. -/
theorem map_getD_upFrom {e : List Int} {n : Nat} (h : e.length = n) : ((upFrom 0 n).map fun i => e.getD i 0) = e := by
  subst h
  refine List.ext_getElem? fun i => ?_
  rw [List.getElem?_map, upFrom_getElem?]
  by_cases hi : i < e.length
  · rw [if_pos hi, Nat.zero_add, Option.map_some, List.getD_eq_getElem?_getD, List.getElem?_eq_getElem hi, Option.getD_some]
  · rw [if_neg hi, Option.map_none, List.getElem?_eq_none (Nat.le_of_not_lt hi)]

/-- The place sums spell the sum of what the sequences spell. -/
theorem spellA_placeSums (es : List (List Int)) (n : Nat) (h : ∀ e ∈ es, e.length = n) :
    spellA (placeSums es n) = (es.map spellA).sum := by
  rw [placeSums, spellA_map_sum]
  exact congrArg List.sum (List.map_congr_left fun e he => congrArg spellA (map_getD_upFrom (h e he)))

/-- The sum of the checks, modulo P, is A times the sum of what the sequences spell. -/
theorem sum_checkOf_emod (es : List (List Int)) :
    ((es.map checkOf).sum : Int) % (chkP : Int) = (chkA : Int) * (es.map spellA).sum % (chkP : Int) := by
  induction es with
  | nil => rfl
  | cons e t ih =>
    rw [List.map_cons, List.map_cons, List.sum_cons, List.sum_cons, Int.natCast_add, checkOf_emod, Int.emod_add_emod,
      Int.add_emod, ih, ← Int.add_emod, Int.mul_add]

theorem checkOf_placeSums (es : List (List Int)) (n : Nat) (h : ∀ e ∈ es, e.length = n) :
    checkOf (placeSums es n) = (es.map checkOf).sum % chkP := by
  have hcast : (checkOf (placeSums es n) : Int) = ((es.map checkOf).sum % chkP : Nat) := by
    rw [checkOf_emod, spellA_placeSums es n h, Int.natCast_emod, sum_checkOf_emod]
  exact Int.ofNat_inj.mp hcast

/-! Elements as sent: five bytes each. -/

/-- A number of 40 bits in two's complement reads back. -/
theorem sextN_toCode {v : Int} (hlo : -(2 : Int) ^ 39 ≤ v) (hhi : v < (2 : Int) ^ 39) : sextN 40 (toCode 40 v) = v := by
  have hlo' : -549755813888 ≤ v := hlo
  have hhi' : v < 549755813888 := hhi
  show (if (v % 1099511627776).toNat < 549755813888 then ((v % 1099511627776).toNat : Int)
    else ((v % 1099511627776).toNat : Int) - 1099511627776) = v
  split <;> omega

theorem ofBytes_toCode (v : Int) : ofBytes (leBytes 5 (toCode 40 v)) = toCode 40 v := by
  have hlt : toCode 40 v < 2 ^ (8 * 5) := by
    show (v % 1099511627776).toNat < 1099511627776
    omega
  rw [ofBytes_leBytes, Nat.mod_eq_of_lt hlt]

/-- Piece i of bytes formed five to an element. -/
theorem take_drop_flatMap (f : Int → List Byte) (hf : ∀ v, (f v).length = 5) (l : List Int) (i : Nat) (h : i < l.length) :
    ((l.flatMap f).drop (5 * i)).take 5 = f (l.getD i 0) := by
  induction l generalizing i with
  | nil => exact absurd h (Nat.not_lt_zero i)
  | cons a t ih =>
    rw [List.flatMap_cons]
    cases i with
    | zero => rw [Nat.mul_zero, List.drop_zero, List.take_left' (hf a), List.getD_cons_zero]
    | succ i =>
      rw [show 5 * (i + 1) = (f a).length + 5 * i from by rw [hf]; omega, List.drop_length_add_append,
        ih i (Nat.lt_of_succ_lt_succ h), List.getD_cons_succ]

theorem length_flatMap_leBytes (l : List Int) : (l.flatMap fun v => leBytes 5 (toCode 40 v)).length = 5 * l.length := by
  induction l with
  | nil => rfl
  | cons a t ih => rw [List.flatMap_cons, List.length_append, leBytes_length, ih, List.length_cons]; omega

/-- An element of 40 bits sent among others reads back. -/
theorem sumElems_getD (l : List Int) {i : Nat} (h : i < l.length) (hlo : -(2 : Int) ^ 39 ≤ l.getD i 0)
    (hhi : l.getD i 0 < (2 : Int) ^ 39) :
    (sumElems (l.flatMap fun v => leBytes 5 (toCode 40 v)) l.length).getD i 0 = l.getD i 0 := by
  rw [sumElems, getD_map_upFrom _ _ h, take_drop_flatMap _ (fun v => leBytes_length 5 _) _ _ h, ofBytes_toCode,
    sextN_toCode hlo hhi]

/-! The output chunk. -/

/-- sum_chunk of good inputs that agree, in stream memory that is sound. -/
theorem sumChunk_agreeing {xs : List SumIn} {r : SumIn} (hr : xs.head? = some r)
    (hgood : ∀ x ∈ xs, x.good = true ∧ ckBad x.frame = false)
    (hagree : ∀ x ∈ xs, ckE x.frame = ckE r.frame ∧ ckNelem x.frame = ckNelem r.frame ∧ ckOffset x.frame = ckOffset r.frame)
    (hcontrib : (xs.map fun x => ckContrib x.frame).sum ≤ 65536) :
    sumChunk xs false =
      { fmt := 0xB
        bad := false
        nelem := ckNelem r.frame
        e := ckE r.frame
        contrib := (xs.map fun x => ckContrib x.frame).sum
        offset := ckOffset r.frame
        check := (xs.map fun x => ckCheck x.frame).sum % chkP
        payload := (placeSums (xs.map fun x => ckElems x.frame) (ckNelem r.frame)).flatMap fun v => leBytes 5 (toCode 40 v) } := by
  have hall : xs.filter (·.good) = xs := List.filter_eq_self.mpr fun x hx => (hgood x hx).1
  have hbad : xs.any (fun x => ckBad x.frame || !x.good) = false := by
    simpa [List.any_eq_false] using fun x hx => (hgood x hx).symm
  have hodd : xs.any (fun x => decide (ckE x.frame ≠ ckE r.frame) || decide (ckNelem x.frame ≠ ckNelem r.frame) ||
      decide (ckOffset x.frame ≠ ckOffset r.frame)) = false := by
    simpa [List.any_eq_false, and_assoc] using hagree
  obtain ⟨t, rfl⟩ : ∃ t, xs = r :: t := List.head?_eq_some_iff.mp hr
  rw [sumChunk, hall]
  simp only [hbad, hodd, Bool.false_or, Nat.min_eq_right hcontrib, decide_eq_false (Nat.not_lt.mpr hcontrib)]
  rfl

/-- Settles O36: the output of agreeing inputs carries their place sums, each five bytes that read back, and the check
is linear in the elements modulo P. -/
theorem sumsAndTheirChecks : Obligations.SumsAndTheirChecks := by
  refine ⟨fun xs r hr hgood hagree hcontrib => ?_, checkOf_placeSums⟩
  intro c
  have hc : c = _ := sumChunk_agreeing hr hgood hagree hcontrib
  clear_value c
  subst hc
  refine ⟨rfl, rfl, rfl, rfl, rfl, rfl, rfl, ?_, fun i hi hlo hhi => ?_⟩
  · rw [length_flatMap_leBytes, placeSums_length]
  · have hat : (placeSums (xs.map fun x => ckElems x.frame) (ckNelem r.frame)).getD i 0 =
        (xs.map fun x => (ckElems x.frame).getD i 0).sum := by
      rw [placeSums_getD _ hi, List.map_map]
      rfl
    rw [← hat] at hlo hhi ⊢
    have hback := sumElems_getD _ (by rwa [placeSums_length]) hlo hhi
    rwa [placeSums_length] at hback

end Sys2Proof.Machine
end

section
/-! The order of a sort (R463). -/

namespace Sys2Proof.Machine

variable {desc : Bool}

/-- Two records in the order of R463: the second does not order before the first. -/
def InOrder (desc : Bool) (a b : Int × List Byte) : Prop := before desc b.1 a.1 = false

theorem inOrder_iff (a b : Int × List Byte) :
    InOrder desc a b ↔ if desc then b.1 ≤ a.1 else a.1 ≤ b.1 := by
  cases desc <;> simp [InOrder, before]

theorem InOrder.trans {a b c : Int × List Byte} (hab : InOrder desc a b) (hbc : InOrder desc b c) :
    InOrder desc a c := by
  rw [inOrder_iff] at *
  cases desc <;> simp at * <;> omega

/-- What orders before a record is not ordered after it. -/
theorem inOrder_of_before {a b : Int × List Byte} (h : before desc a.1 b.1 = true) : InOrder desc a b := by
  rw [inOrder_iff]
  cases desc <;> simp [before] at h ⊢ <;> omega

/-- Records of one key are not ordered before each other. -/
theorem before_self (k : Int) : before desc k k = false := by cases desc <;> simp [before]

theorem insertRec_perm (r : Int × List Byte) (l : List (Int × List Byte)) : (insertRec desc r l).Perm (r :: l) := by
  induction l with
  | nil => exact .refl _
  | cons x t ih =>
    rw [insertRec]
    split
    · exact .refl _
    · exact (ih.cons x).trans (.swap r x t)

theorem insertRec_pairwise (r : Int × List Byte) {l : List (Int × List Byte)} (hl : l.Pairwise (InOrder desc)) :
    (insertRec desc r l).Pairwise (InOrder desc) := by
  induction l with
  | nil => exact List.pairwise_singleton _ _
  | cons x t ih =>
    obtain ⟨hx, ht⟩ := List.pairwise_cons.mp hl
    rw [insertRec]
    split
    next hr =>
      have hrx : InOrder desc r x := inOrder_of_before hr
      refine List.pairwise_cons.mpr ⟨fun y hy => ?_, hl⟩
      rcases List.mem_cons.mp hy with rfl | hy
      · exact hrx
      · exact hrx.trans (hx y hy)
    next hr =>
      refine List.pairwise_cons.mpr ⟨fun y hy => ?_, ih ht⟩
      rcases List.mem_cons.mp ((insertRec_perm r t).mem_iff.mp hy) with rfl | hy
      · exact Bool.eq_false_iff.mpr hr
      · exact hx y hy

/-- Among the records of one key, an inserted record comes last: it goes past all that it is not ordered before, and
in an ordered list every record of its key is one of them. -/
theorem filter_insertRec (k : Int) (r : Int × List Byte) {l : List (Int × List Byte)} (hl : l.Pairwise (InOrder desc)) :
    (insertRec desc r l).filter (fun x => x.1 == k) = (l ++ [r]).filter (fun x => x.1 == k) := by
  induction l with
  | nil => rfl
  | cons x t ih =>
    obtain ⟨hx, ht⟩ := List.pairwise_cons.mp hl
    rw [insertRec]
    split
    next hr =>
      by_cases hk : r.1 = k
      · have hnone : (x :: t).filter (fun x => x.1 == k) = [] := by
          refine List.filter_eq_nil_iff.mpr fun y hy hyk => ?_
          have hry : before desc y.1 r.1 = false := by rw [eq_of_beq hyk, hk, before_self]
          have hxr : InOrder desc x r := by
            rcases List.mem_cons.mp hy with rfl | hy
            · rw [InOrder, hk, eq_of_beq hyk, before_self]
            · have hxy : InOrder desc x y := hx y hy
              rwa [InOrder, eq_of_beq hyk, ← hk] at hxy
          rw [InOrder, hr] at hxr
          exact absurd hxr (by decide)
        rw [List.filter_append, hnone, List.filter_cons_of_pos (by simpa using hk), hnone, List.nil_append,
          List.filter_cons_of_pos (by simpa using hk), List.filter_nil]
      · have hrk : ¬(r.1 == k) = true := by simpa using hk
        rw [List.filter_append, List.filter_cons, if_neg hrk, List.filter_cons (x := r), if_neg hrk, List.filter_nil, List.append_nil]
    next => rw [List.filter_cons, ih ht, List.cons_append, List.filter_cons]

/-- Records taken one by one into an ordered list. -/
theorem foldl_insertRec (l acc : List (Int × List Byte)) (hacc : acc.Pairwise (InOrder desc)) :
    let out := l.foldl (fun a r => insertRec desc r a) acc
    out.Perm (acc ++ l) ∧ out.Pairwise (InOrder desc) ∧
      ∀ k, out.filter (fun r => r.1 == k) = (acc ++ l).filter (fun r => r.1 == k) := by
  induction l generalizing acc with
  | nil => simpa using hacc
  | cons r t ih =>
    obtain ⟨hperm, hpair, hstable⟩ := ih (insertRec desc r acc) (insertRec_pairwise r hacc)
    refine ⟨hperm.trans ?_, hpair, fun k => ?_⟩
    · exact ((insertRec_perm r acc).append_right t).trans List.perm_middle.symm
    · rw [List.foldl_cons, hstable, List.filter_append, filter_insertRec k r hacc, ← List.filter_append,
        List.append_assoc, List.singleton_append]

/-- Settles O38, by insertion of one record after another: each goes behind all of its key. -/
theorem sortIsStable : Obligations.SortIsStable := by
  intro desc l
  obtain ⟨hperm, hpair, hstable⟩ := foldl_insertRec (desc := desc) l [] .nil
  exact ⟨hperm, hpair.imp fun {a b} h => (inOrder_iff a b).mp h, hstable⟩

end Sys2Proof.Machine
end

section
/-! The pools: INIT, and the build of a free list (R262, R264, R265, R270). -/

namespace Sys2Proof.Machine

variable {s : State} {set k base count : Nat}

theorem pool_setPool (h : tabWf (fun _ => poolReset) s.pools = true) (i j : Nat) (p : Pool) :
    (s.setPool i p).pool j = if j = i then p else s.pool j := tabGet_tabSet h j

/-! Addresses and keys of a set. -/

/-- Keys of a set follow its bytes. -/
theorem setKey_add (s : State) (set b n : Nat) : setKey s set (b + n) = setKey s set b + n := by
  unfold setKey pewKey
  split <;> omega

theorem setKey_of_regs {s t : State} (h : t.regs = s.regs) (set b : Nat) : setKey t set b = setKey s set b := by
  simp only [setKey, State.physOf, State.rfld, State.rget, h]

theorem setAddr_of_regs {s t : State} (h : t.regs = s.regs) (set b : Nat) : setAddr t set b = setAddr s set b := by
  simp only [setAddr, State.flatId, State.rfld, State.rget, h]

theorem bufSize_ge (k : Nat) : 256 ≤ bufSize k := Nat.le_mul_of_pos_right _ (Nat.pow_pos (by decide))

theorem upFrom_concat (n : Nat) : ∀ k, upFrom k (n + 1) = upFrom k n ++ [k + n] := by
  induction n with
  | zero => intro k; rfl
  | succ n ih =>
    intro k
    rw [upFrom, ih, show k + (n + 1) = k + 1 + n from by omega]
    rfl

/-! The build. -/

/-- The link that buffer i of a pool is built with. -/
def linkOf (s : State) (set k base count i : Nat) : Word :=
  BitVec.ofNat 64 (if i + 1 < count then setAddr s set (base + (i + 1) * bufSize k) else 0)

/-- Links buffer i of a pool and zeroes its count word. -/
def linkBuffer (set k base count : Nat) (s : State) (i : Nat) : State :=
  (s.mputWord (setKey s set (base + i * bufSize k)) (linkOf s set k base count i)).mputWord
    (setKey s set (base + count * bufSize k + 8 * i)) 0

/-- The first m buffers linked. -/
def linkFirst (s : State) (set k base count m : Nat) : State := (upFrom 0 m).foldl (linkBuffer set k base count) s

theorem linkFirst_succ (m : Nat) :
    linkFirst s set k base count (m + 1) = linkBuffer set k base count (linkFirst s set k base count m) m := by
  rw [linkFirst, upFrom_concat, List.foldl_append, Nat.zero_add]
  rfl

/-- What a pool is once built. -/
def builtPool (s : State) (set base count : Nat) : Pool :=
  { base := base
    count := count
    head := setAddr s set base
    free := count
    broken := false
    fails := 0 }

theorem buildPool_eq : buildPool s set k base count =
    (linkFirst s set k base count count).setPool (8 * set + k) (builtPool s set base count) := by
  have hstep : (fun (t : State) i =>
      (t.mputWord (setKey t set (base + i * bufSize k))
        (BitVec.ofNat 64 (if i + 1 < count then setAddr t set (base + (i + 1) * bufSize k) else 0))).mputWord
        (countKey t set k (builtPool s set base count) i) 0) = linkBuffer set k base count := rfl
  rw [linkFirst, ← hstep]
  rfl

theorem mputWord_frame (s : State) (k : Nat) (w : Word) :
    s.mputWord k w = { s with
      mem := (s.mputWord k w).mem
      memBad := (s.mputWord k w).memBad
      kept := (s.mputWord k w).kept } := mputs_frame _ s

@[simp] theorem mputWord_regs (s : State) (k : Nat) (w : Word) : (s.mputWord k w).regs = s.regs := mputs_regs _ _

/-- Linking touches memory alone. -/
theorem linkFirst_frame (m : Nat) : linkFirst s set k base count m = { s with
    mem := (linkFirst s set k base count m).mem
    memBad := (linkFirst s set k base count m).memBad
    kept := (linkFirst s set k base count m).kept } := by
  induction m with
  | zero => rfl
  | succ m ih =>
    rw [linkFirst_succ, linkBuffer, mputWord_frame, mputWord_frame (linkFirst s set k base count m), ih]

theorem linkFirst_regs (m : Nat) : (linkFirst s set k base count m).regs = s.regs := by rw [linkFirst_frame]
theorem linkFirst_cores (m : Nat) : (linkFirst s set k base count m).cores = s.cores := by rw [linkFirst_frame]
theorem linkFirst_pools (m : Nat) : (linkFirst s set k base count m).pools = s.pools := by rw [linkFirst_frame]

theorem linkBuffer_linkFirst (m i : Nat) :
    linkBuffer set k base count (linkFirst s set k base count m) i =
      ((linkFirst s set k base count m).mputWord (setKey s set base + i * bufSize k) (linkOf s set k base count i)).mputWord
        (setKey s set base + count * bufSize k + 8 * i) 0 := by
  rw [linkBuffer, linkOf, linkOf, setKey_of_regs (linkFirst_regs m), setKey_of_regs (linkFirst_regs m),
    setAddr_of_regs (linkFirst_regs m), setKey_add, setKey_add, setKey_add]

theorem linkFirst_memWf (h : s.memWf = true) (m : Nat) : (linkFirst s set k base count m).memWf = true := by
  induction m with
  | zero => exact h
  | succ m ih =>
    rw [linkFirst_succ]
    exact mputWord_memWf (mputWord_memWf ih _ _) _ _

/-- Buffers lie before the count words and apart from one another. -/
theorem buffer_end_le {i n : Nat} (k : Nat) (h : i < n) : i * bufSize k + 256 ≤ n * bufSize k := by
  have hmul : (i + 1) * bufSize k ≤ n * bufSize k := Nat.mul_le_mul_right _ h
  have hsize := bufSize_ge k
  rw [Nat.add_mul] at hmul
  omega

/-- The first m links and count words once the first m buffers are linked. -/
theorem linkFirst_words (h : s.memWf = true) {m : Nat} (hm : m ≤ count) {i : Nat} (hi : i < m) :
    (linkFirst s set k base count m).mword (setKey s set base + i * bufSize k) = linkOf s set k base count i ∧
      (linkFirst s set k base count m).mword (setKey s set base + count * bufSize k + 8 * i) = 0 := by
  induction m with
  | zero => exact absurd hi (Nat.not_lt_zero i)
  | succ m ih =>
    have hwf := linkFirst_memWf (set := set) (k := k) (base := base) (count := count) h m
    have hlast : m * bufSize k + 256 ≤ count * bufSize k := buffer_end_le k hm
    rw [linkFirst_succ, linkBuffer_linkFirst]
    rcases Nat.lt_succ_iff_lt_or_eq.mp hi with hlt | rfl
    · obtain ⟨hlink, hcount⟩ := ih (Nat.le_of_succ_le hm) hlt
      have hprev : i * bufSize k + 256 ≤ m * bufSize k := buffer_end_le k hlt
      constructor
      · rw [mword_mputWord_other (mputWord_memWf hwf _ _) _ _ _ (by omega), mword_mputWord_other hwf _ _ _ (by omega), hlink]
      · rw [mword_mputWord_other (mputWord_memWf hwf _ _) _ _ _ (by omega), mword_mputWord_other hwf _ _ _ (by omega), hcount]
    · constructor
      · rw [mword_mputWord_other (mputWord_memWf hwf _ _) _ _ _ (by omega), mword_mputWord hwf]
      · exact mword_mputWord (mputWord_memWf hwf _ _) _ _

/-- Linking writes nothing outside the pool's region. -/
theorem linkFirst_outside (h : s.memWf = true) {m : Nat} (hm : m ≤ count) {a : Nat}
    (ha : a < setKey s set base ∨ setKey s set base + regionLen k count ≤ a) :
    (linkFirst s set k base count m).mget a = s.mget a := by
  induction m with
  | zero => rfl
  | succ m ih =>
    have hwf := linkFirst_memWf (set := set) (k := k) (base := base) (count := count) h m
    have hlast : m * bufSize k + 256 ≤ count * bufSize k := buffer_end_le k hm
    have hlen : count * bufSize k + 8 * count ≤ regionLen k count := by
      unfold regionLen ceilDiv
      omega
    rw [linkFirst_succ, linkBuffer_linkFirst, mget_mputWord_other (mputWord_memWf hwf _ _) _ _ (by omega),
      mget_mputWord_other hwf _ _ (by omega), ih (Nat.le_of_succ_le hm)]

theorem buildPool_mword (a : Nat) : (buildPool s set k base count).mword a = (linkFirst s set k base count count).mword a := by
  rw [buildPool_eq]
  rfl

theorem coresQuiet_iff : coresQuiet s = true ↔ ∀ n, n < 192 → (s.core n).mode = .idle ∨ (s.core n).mode = .halted := by
  simp [coresQuiet, mem_upFrom]

theorem poolInit_accepted (hquiet : ∀ n, n < 192 → (s.core n).mode = .idle ∨ (s.core n).mode = .halted)
    (hbusy : s.rbit Reg.memPoolCtrl 3 = false) :
    exec .poolInit s = .next (s.rput Reg.memPoolCtrl (setFld (setFld (s.rget Reg.memPoolCtrl) 3 1 0) 3 3 1)) := by
  rw [exec_poolInit, execPoolInit, coresQuiet_iff.mpr hquiet, hbusy]
  rfl

/-- Every set built in turn, with the first pool that fails its check (R264). -/
def buildSets (s : State) : State × Option (Nat × Nat) :=
  poolSets.foldl (fun acc set => ((buildSet acc.1 set).1, acc.2.orElse fun _ => (buildSet acc.1 set).2.map fun k => (set, k))) (s, none)

/-- The model builds the sets with the same step, its pair taken apart. -/
theorem foldl_buildSet_eq : (poolSets.foldl (fun (acc : State × Option (Nat × Nat)) set =>
    let (s, b) := buildSet acc.1 set
    (s, acc.2.orElse fun _ => b.map fun k => (set, k))) (s, none)) = buildSets s := rfl

/-- The end of a build reports the first failing pool (R264, R265). -/
theorem poolInitDone_reports (hbusy : s.rbit Reg.memPoolCtrl 3 = true) :
    exec .poolInitDone s = .next ((buildSets s).1.rput Reg.memPoolCtrl
      (match (buildSets s).2 with
      | some (set, k) => setFld (setFld (setFld (setFld (setFld ((buildSets s).1.rget Reg.memPoolCtrl) 3 3 0) 1 1 1) 2 2 1) 24 16 set) 27 25 k
      | none => setFld (setFld ((buildSets s).1.rget Reg.memPoolCtrl) 3 3 0) 1 1 1)) := by
  rw [exec_poolInitDone, execPoolInitDone, hbusy, foldl_buildSet_eq]
  generalize buildSets s = build
  rfl

theorem poolInitDone_ok (hbusy : s.rbit Reg.memPoolCtrl 3 = true) (hok : (buildSets s).2 = none) :
    exec .poolInitDone s = .next ((buildSets s).1.rput Reg.memPoolCtrl
      (setFld (setFld ((buildSets s).1.rget Reg.memPoolCtrl) 3 3 0) 1 1 1)) := by
  rw [poolInitDone_reports hbusy, hok]

theorem poolInitDone_failed (hbusy : s.rbit Reg.memPoolCtrl 3 = true) (hbad : (buildSets s).2 = some (set, k)) :
    exec .poolInitDone s = .next ((buildSets s).1.rput Reg.memPoolCtrl
      (setFld (setFld (setFld (setFld (setFld ((buildSets s).1.rget Reg.memPoolCtrl) 3 3 0) 1 1 1) 2 2 1) 24 16 set) 27 25 k)) := by
  rw [poolInitDone_reports hbusy, hbad]

/-- Settles O22, by linking the buffers one after another. -/
theorem poolsBuilt : Obligations.PoolsBuilt := by
  refine ⟨fun s inc => ⟨poolInit_accepted, fun hbusy => ⟨fun hok => ?_, fun set k hbad => ?_⟩, exec_memErrClear inc s⟩,
    fun s set k base count hmem hpools _ hcount => ?_⟩
  · exact poolInitDone_ok hbusy hok
  · exact poolInitDone_failed hbusy hbad
  intro t key
  have hlink : ∀ i, i < count → t.mword (key base + i * bufSize k) = linkOf s set k base count i := fun i hi =>
    (buildPool_mword _).trans (linkFirst_words hmem (Nat.le_refl count) hi).1
  have hpool : ∀ i, t.pool i = if i = 8 * set + k then builtPool s set base count else s.pool i := fun i => by
    show (buildPool s set k base count).pool i = _
    rw [buildPool_eq, pool_setPool (by rw [linkFirst_pools]; exact hpools), State.pool, State.pool, linkFirst_pools]
  refine ⟨fun i hi => ?_, ?_, fun i hi => ?_, fun a ha => ?_, ?_, fun i hi => ?_, ?_, ?_⟩
  · rw [hlink i (Nat.lt_of_succ_lt hi), linkOf, if_pos hi]
  · rw [hlink _ (Nat.sub_one_lt_of_lt hcount), linkOf, if_neg (by omega)]
    rfl
  · exact (buildPool_mword _).trans (linkFirst_words hmem (Nat.le_refl count) hi).2
  · show (buildPool s set k base count).mget a = _
    rw [buildPool_eq]
    exact linkFirst_outside hmem (Nat.le_refl count) ha
  · rw [hpool, if_pos rfl]
    rfl
  · rw [hpool, if_neg hi]
  · show (buildPool s set k base count).regs = _
    rw [buildPool_eq]
    exact linkFirst_regs count
  · show (buildPool s set k base count).cores = _
    rw [buildPool_eq]
    exact linkFirst_cores count

end Sys2Proof.Machine
end

section
/-! The pools: a grant and a release (R268 to R276). -/

namespace Sys2Proof.Machine

variable {s : State} {set bytes k j : Nat}

/-! The size of a request (R268). -/

theorem find?_upFrom_least (p : Nat → Bool) {n lo k : Nat} (h : (upFrom lo n).find? p = some k) :
    p k = true ∧ ∀ i, lo ≤ i → i < k → p i = false := by
  induction n generalizing lo with
  | zero => exact absurd h (by simp [upFrom])
  | succ n ih =>
    rw [upFrom, List.find?_cons] at h
    cases hp : p lo with
    | true =>
      rw [hp] at h
      obtain rfl : lo = k := Option.some.inj h
      exact ⟨hp, fun i hlo hk => absurd hk (Nat.not_lt.mpr hlo)⟩
    | false =>
      rw [hp] at h
      obtain ⟨hk, hleast⟩ := ih h
      refine ⟨hk, fun i hlo hi => ?_⟩
      rcases Nat.eq_or_lt_of_le hlo with rfl | hlt
      · exact hp
      · exact hleast i hlt hi

theorem sizeCode_least (h : sizeCode bytes = some k) : bytes ≤ bufSize k ∧ ∀ i, i < k → bufSize i < bytes := by
  obtain ⟨hk, hleast⟩ := find?_upFrom_least _ h
  exact ⟨of_decide_eq_true hk, fun i hi => Nat.lt_of_not_le (of_decide_eq_false (hleast i (Nat.zero_le i) hi))⟩

/-! A grant (R270, R276). -/

/-- A pool whose head starts a buffer, that links to 0 or to a buffer, grants that buffer. -/
theorem poolRequest_granted (hsize : sizeCode bytes = some k) (hready : s.rbit Reg.memPoolCtrl 1 = true)
    (hbroken : (s.pool (8 * set + k)).broken = false) (hcount : (s.pool (8 * set + k)).count ≠ 0)
    (hfree : (s.pool (8 * set + k)).free ≠ 0) (henabled : 256 ≤ set ∨ set < s.coresEnabled)
    (hhead : isBuffer s set k (s.pool (8 * set + k)) (s.pool (8 * set + k)).head = some j)
    (hread : s.badIn (setKey s set ((s.pool (8 * set + k)).base + j * bufSize k)) 8 = [])
    (hlink : s.mnat (setKey s set ((s.pool (8 * set + k)).base + j * bufSize k)) 8 = 0 ∨
      (isBuffer s set k (s.pool (8 * set + k)) (s.mnat (setKey s set ((s.pool (8 * set + k)).base + j * bufSize k)) 8)).isSome = true) :
    poolRequest s set bytes = (some (s.pool (8 * set + k)).head,
      (s.setPool (8 * set + k) { s.pool (8 * set + k) with
        head := s.mnat (setKey s set ((s.pool (8 * set + k)).base + j * bufSize k)) 8
        free := (s.pool (8 * set + k)).free - 1 }).mputWord (countKey s set k (s.pool (8 * set + k)) j) 1) := by
  have hserved : (!s.rbit Reg.memPoolCtrl 1 || (s.pool (8 * set + k)).broken || (s.pool (8 * set + k)).count == 0 ||
      (s.pool (8 * set + k)).free == 0 || (set < 256 && decide (s.coresEnabled ≤ set))) = false := by
    simp [hready, hbroken, hcount, hfree]
    omega
  have hsound : (!(s.badIn (setKey s set ((s.pool (8 * set + k)).base + j * bufSize k)) 8).isEmpty ||
      !(s.mnat (setKey s set ((s.pool (8 * set + k)).base + j * bufSize k)) 8 == 0 ||
        (isBuffer s set k (s.pool (8 * set + k)) (s.mnat (setKey s set ((s.pool (8 * set + k)).base + j * bufSize k)) 8)).isSome)) = false := by
    rw [hread]
    rcases hlink with h | h <;> simp [h]
  rw [poolRequest, hsize]
  simp only [hserved, hhead, hsound]
  rfl

/-! A release (R270, R273, R274). -/

/-- A release of a buffer whose count word reads well. -/
theorem poolRelease_of_bufferOf {a : Nat} (phys : Nat) (h : bufferOf s a = some (set, k, j))
    (hread : s.badIn (countKey s set k (s.pool (8 * set + k)) j) 8 = []) :
    poolRelease s a phys =
      let ck := countKey s set k (s.pool (8 * set + k)) j
      let c := s.mnat ck 8
      if c = 0 then some (s.raise evPOOL_DOUBLE_FREE sevCONTAINED [(64, a), (8, phys)])
      else
        let s1 := s.mputWord ck (BitVec.ofNat 64 (c - 1))
        some (if c = 1 then freeBuffer s1 set k j else s1) := by
  rw [poolRelease, h]
  dsimp only
  rw [hread, meet_nil]

theorem mputWord_pool (s : State) (a : Nat) (w : Word) (i : Nat) : (s.mputWord a w).pool i = s.pool i := by
  rw [State.pool, State.pool, mputWord_frame]

/-- The buffer freed becomes the head, and links to the head before. -/
theorem freeBuffer_mputWord (ck : Nat) (w : Word) :
    freeBuffer (s.mputWord ck w) set k j =
      ((s.mputWord ck w).mputWord (setKey s set ((s.pool (8 * set + k)).base + j * bufSize k))
        (BitVec.ofNat 64 (s.pool (8 * set + k)).head)).setPool (8 * set + k) { s.pool (8 * set + k) with
          head := setAddr s set ((s.pool (8 * set + k)).base + j * bufSize k)
          free := (s.pool (8 * set + k)).free + 1 } := by
  rw [freeBuffer, mputWord_pool, setKey_of_regs (mputWord_regs s ck w)]
  dsimp only
  rw [setAddr_of_regs (mputWord_regs s ck w)]

/-- Settles O23, a grant and the three releases: of a count of 0, above 1, and of 1. -/
theorem poolsGrantAndFree : Obligations.PoolsGrantAndFree := by
  constructor
  · intro s set bytes k j p key hsize hready hbroken hcount hfree henabled hhead hread hlink
    obtain ⟨hle, hleast⟩ := sizeCode_least hsize
    exact ⟨hle, hleast, poolRequest_granted hsize hready hbroken hcount hfree henabled hhead hread hlink⟩
  · intro s a phys set k j hbuf p ck c s1 hread
    have hrel : poolRelease s a phys = if c = 0 then some (s.raise evPOOL_DOUBLE_FREE sevCONTAINED [(64, a), (8, phys)])
        else some (if c = 1 then freeBuffer s1 set k j else s1) := poolRelease_of_bufferOf phys hbuf hread
    refine ⟨fun hc => ?_, fun hc => ?_, fun hc => ?_⟩
    · rw [hrel, if_pos hc]
      refine ⟨_, rfl, raise_frame _ _ _ _, fun hfresh => ?_⟩
      rw [raise_empty s _ _ _ (by simpa using hfresh)]
      exact ⟨_, rfl, rfl, rfl⟩
    · rw [hrel, if_neg (show ¬ c = 0 by omega), if_neg (show ¬ c = 1 by omega)]
    · rw [hrel, if_neg (show ¬ c = 0 by omega), if_pos hc, freeBuffer_mputWord]

end Sys2Proof.Machine
end

section
/-! Boundary scan (R694, R695). -/

namespace Sys2Proof.Machine

theorem exec_extest_inReset {s : State} (h : s.mg.pins.modRst = true) (tdi : List Bool) :
    exec (.extest tdi) s = .next ((s.setJtag fun j => { j with ir := jEXTEST }).emit (.drive s.mg.jtag.boundary)) := by
  rw [exec_extest, execExtest, if_pos h]

/-- Outside the reset EXTEST is BYPASS. -/
theorem exec_extest_outOfReset {s : State} (h : s.mg.pins.modRst = false) (tdi : List Bool) :
    exec (.extest tdi) s = exec (.bypass tdi) s := by
  rw [exec_extest, execExtest, if_neg (by simp [h]), exec_bypass, execBypass]

/-- The identification code of a manufacturer, a part number and a version. It keeps them variables: the kernel would
count up to the version's place, were it to compare `idcode` with the sum itself. -/
def idcodeOf (manufacturer part version : Nat) : Nat := 1 + manufacturer <<< 1 + part <<< 12 + version <<< 28

theorem idcodeOf_eq (m p v : Nat) : idcodeOf m p v = 1 + m * 2 + p * 4096 + v * 268435456 := by
  unfold idcodeOf
  omega

theorem idcode_eq : idcode = idcodeOf Config.jtagManufacturer.toNat 0x5A09 1 := rfl

/-- The code ends in the 1 of IEEE 1149.1. -/
theorem idcodeOf_testBit_zero (m p v : Nat) : (idcodeOf m p v).testBit 0 = true := by
  rw [Nat.testBit_zero, idcodeOf_eq]
  exact decide_eq_true (by omega)

/-- The part number stands above the 11 bits of the manufacturer. -/
theorem idcodeOf_part {m p : Nat} (v : Nat) (hm : m < 2 ^ 11) (hp : p < 2 ^ 16) {i : Nat} (hi : i < 16) :
    (idcodeOf m p v).testBit (12 + i) = p.testBit i := by
  have hpart : idcodeOf m p v / 2 ^ 12 % 2 ^ 16 = p := by
    rw [idcodeOf_eq]
    omega
  have hbit : (idcodeOf m p v / 2 ^ 12 % 2 ^ 16).testBit i = (idcodeOf m p v).testBit (12 + i) := by
    rw [Nat.testBit_mod_two_pow, Nat.testBit_div_two_pow, Nat.add_comm, decide_eq_true hi, Bool.true_and]
  rw [← hbit, hpart]

/-- The module's code, whatever its manufacturer. -/
theorem idcode_bits : idcode.testBit 0 = true ∧ ∀ i < 16, idcode.testBit (12 + i) = (0x5A09 : Nat).testBit i := by
  rw [idcode_eq]
  exact ⟨idcodeOf_testBit_zero _ _ _, fun _ => idcodeOf_part 1 Config.jtagManufacturer.isLt (by decide)⟩

/-- Settles O59. -/
theorem boundaryScanActs : Obligations.BoundaryScanActs := by
  intro s tdi img
  exact ⟨exec_trstN s, exec_idcode s, ⟨_, exec_bypass tdi s, rfl, rfl, rfl, rfl, rfl⟩, exec_sample img s, exec_preload img s,
    fun h => exec_extest_inReset h tdi, fun h => exec_extest_outOfReset h tdi, idcode_bits⟩

end Sys2Proof.Machine
end

section
/-! Sensor samples, supplies and optics (R336 to R340, R595, R650 to R654, R675, R687). -/

namespace Sys2Proof.Machine

variable {s : State} {c : Nat}

/-! A sensor sample. -/

/-- The module with the three images of a sample in their registers. -/
def sampledAt (s : State) (w h0 h1 : Word) : State :=
  ((s.rput Reg.mgtSensIn (w &&& 0x0000FFFFFFFFFFFF#64)).rput (Reg.mgtSensH 0) (h0 &&& 0x00FFFFFFFFFFFFFF#64)).rput
    (Reg.mgtSensH 1) (h1 &&& 0x00FFFFFFFFFFFFFF#64)

/-- Both halves' clocks moved and trips taken, t0 and t1 being the TSW of the sample before. -/
def clockedAndTripped (u : State) (t0 t1 : Nat) : State :=
  let v := (u.throttleHalf 0).throttleHalf 1
  ((v.setThr fun t => { t with peakOn := decide (2800 < v.rfld Reg.mgtSensIn 31 16) }).trip 0 t0).trip 1 t1

/-- VIN outside its range is told when the sample before was inside. -/
def vinTold (q : State) : State :=
  if (q.rfld Reg.mgtSensIn 15 0 < 37800 ∨ 46200 < q.rfld Reg.mgtSensIn 15 0) ∧ q.mg.thr.out = false then
    q.raise 0x0109 sevCONTAINED [(16, q.rfld Reg.mgtSensIn 15 0)]
  else q

/-- What the sample remembers for the next one. -/
def sampleKept (e : State) (out : Bool) (slices : Nat) (rom : Bool) : State :=
  e.setThr fun t => { t with
    out := out
    served := decide (2 ≤ e.quadsUp)
    slices := slices
    rom := rom }

theorem execSensorSample_eq (w h0 h1 : Word) (s : State) (slices : Nat) (rom : Bool) :
    execSensorSample w h0 h1 s slices rom =
      let q := clockedAndTripped (sampledAt s w h0 h1) (s.rfld (Reg.mgtSensH 0) 55 48) (s.rfld (Reg.mgtSensH 1) 55 48)
      let e := vinTold q
      let z := sampleKept e (decide (q.rfld Reg.mgtSensIn 15 0 < 37800 ∨ 46200 < q.rfld Reg.mgtSensIn 15 0)) slices rom
      .next (if (e.mg.thr.served = true ∧ e.quadsUp < 2) ∨ slices = 0 ∨ rom = false then z.quadsOff else z) := by
  unfold execSensorSample
  extract_lets t0 t1 u v p q vin out e up lost z
  have hout : out = decide (q.rfld Reg.mgtSensIn 15 0 < 37800 ∨ 46200 < q.rfld Reg.mgtSensIn 15 0) := (Bool.decide_or _ _).symm
  have he : e = vinTold q := by
    simp only [e, vinTold, hout, Bool.and_eq_true, decide_eq_true_eq, Bool.not_eq_true', vin]
  have hlost : lost = true ↔ (e.mg.thr.served = true ∧ e.quadsUp < 2) ∨ slices = 0 ∨ rom = false := by
    simp only [lost, up, Bool.or_eq_true, Bool.and_eq_true, Bool.not_eq_true', decide_eq_false_iff_not, Nat.not_le, beq_iff_eq, or_assoc]
  have hz : z = sampleKept e (decide (q.rfld Reg.mgtSensIn 15 0 < 37800 ∨ 46200 < q.rfld Reg.mgtSensIn 15 0)) slices rom := by
    rw [← hout]
    rfl
  rw [ite_congr (propext hlost) (fun _ => rfl) fun _ => rfl, hz, he]
  rfl

/-! Pins and supplies. -/

theorem exec_pinsUpdate_eq (b x y : Bool) :
    exec (.pinsUpdate b x y) s =
      let u := s.setPins fun p => { p with
        twin := b
        fabClk := x
        hostClk := y }
      let p := u.mg.pins
      let img := b.toNat + 2 * s.perst.toNat + 4 * (auxOk p).toNat + 8 * x.toNat + 16 * y.toNat + (p.optHold % 256) <<< 8 +
        (p.auxMv % 65536) <<< 16
      let v := u.rput Reg.mgtPins (BitVec.ofNat 64 img)
      .next (if s.mg.pins.fabClk = true ∧ x = false then v.quadsOff else v) := by
  rw [exec_pinsUpdate, execPinsUpdate]
  simp only [Bool.and_eq_true, Bool.not_eq_true']
  rfl

theorem exec_vccOptOvercurrent_on (h : s.mg.pins.optOn.testBit c = true) :
    exec (.vccOptOvercurrent c) s =
      .next ((s.setPins fun p => { p with optHold := setPart p.optHold c true }).vccUpdate.rsetBit Reg.mgtPins (8 + c) true) := by
  rw [exec_vccOptOvercurrent, execVccOptOvercurrent, if_pos h]

theorem exec_vccOptRetry_held (h : s.mg.pins.optHold.testBit c = true) (ok : Bool) :
    exec (.vccOptRetry c ok) s = .next (if ok then
      (s.setPins fun p => { p with optHold := setPart p.optHold c false }).vccUpdate.rsetBit Reg.mgtPins (8 + c) false else s) := by
  rw [exec_vccOptRetry, execVccOptRetry, h, Bool.true_and]
  cases ok <;> rfl

/-! Optics. -/

theorem exec_opticsPoll_absent (h : s.mg.pins.fitted.testBit c = false) (cmis : Bool) (modw : Word) (lanes : List Word) (thr : List Nat) :
    exec (.opticsPoll c cmis modw lanes thr) s =
      .next ((upFrom 0 20).foldl (fun (s : State) n => s.rsetBit (Reg.lnkOptLane c n) 49 false)
        ((s.rsetBit (Reg.lnkOptMod c) 0 false).rsetBit (Reg.lnkOptMod c) 1 false)) := by
  rw [exec_opticsPoll, execOpticsPoll, h]
  rfl

/-- Settles O57. -/
theorem sensorsAndSupplies : Obligations.SensorsAndSupplies := by
  intro s w h0 h1 c mv b x y
  refine ⟨?_, exec_pinsUpdate_eq b x y, exec_alertResponse s, exec_aux12vChange mv s, ?_, exec_vccOptOvercurrent_on,
    fun h => ⟨exec_vccOptRetry_held h true, exec_vccOptRetry_held h false⟩, ?_, exec_opticsPoll_absent⟩
  · intro m48 m56 u v p q vin out e slices rom z
    exact (exec_sensorSample ..).trans (execSensorSample_eq w h0 h1 s slices rom)
  · exact exec_optPresentChange c true s
  · intro h modw lanes thr
    rw [exec_opticsPoll, execOpticsPoll, h]
    rfl

end Sys2Proof.Machine
end

section
/-! Right after reset (R103, R263, R554, R571, R591). -/

namespace Sys2Proof.Machine

theorem reset_rbit_locked : State.reset.rbit Reg.hifSetupLock 1 = false := by decide +kernel
theorem reset_modState : State.reset.modState = mBOOT := by decide +kernel
theorem reset_committed : State.reset.rget Reg.twnCommitted = BitVec.allOnes 64 := by decide +kernel

/-- Every table of the module is empty at reset, hence in canonical form. -/
theorem reset_inv : Inv State.reset :=
  ⟨rfl, rfl, rfl, fun _ => ⟨rfl, fun _ h => absurd h List.not_mem_nil⟩, rfl, rfl, rfl⟩

/-- Flow 0 alone is open after reset. -/
theorem reset_flow (f : Nat) : (State.reset.flow f).st = if f = 0 then 1 else 0 := by
  show (flowReset f).st = _
  unfold flowReset
  split <;> rfl

/-- Settles O4. -/
theorem resetHolds : Obligations.ResetHolds := by
  refine ⟨reset_inv, rfl, rfl, reset_modState, reset_rbit_locked, reset_committed, fun _ => rfl, fun n k => ⟨rfl, ?_, rfl⟩,
    reset_flow 0, fun f hf => (reset_flow f).trans (if_neg hf), rfl, rfl, fun _ => rfl⟩
  show (if k = 0 then 0 else 0 : Word) = 0
  exact ite_self 0

end Sys2Proof.Machine
end

section
/-! The sr_word probe, and configuration requests (R90 to R92, R562, R644). -/

namespace Sys2Proof.Machine

variable {s : State}

/-- A GO before the set-up lock. -/
theorem exec_srGo_unlocked (hopen : s.rbit Reg.hifSetupLock 1 = false) (tensor : Nat) :
    exec (.srGo tensor) s =
      let s1 := s.rsetFld Reg.coreSrCtrl 31 0 tensor
      let word := (srWord (s1.rget Reg.coreSrSeed) (s1.rget Reg.coreSrStep) tensor (s1.rget Reg.coreSrIndex)).setWidth 64
      if s1.rbit Reg.coreSrCtrl 33 then .next { s1.rsetBit Reg.coreSrCtrl 33 false with mg := { s.mg with srJob := some word } }
      else .next s1 := by
  rw [exec_srGo, execSrGo, State.rwlOpen, hopen]
  rfl

theorem exec_srEvalDone_of {w : Word} (hjob : s.mg.srJob = some w) :
    exec .srEvalDone s = .next { (s.rput Reg.coreSrOut w).rsetBit Reg.coreSrCtrl 33 true with mg := { s.mg with srJob := none } } := by
  rw [exec_srEvalDone, execSrEvalDone, hjob]

theorem exec_configRequest_answered (hisland : s.partLost 48 = false) (hperst : s.perst = false) (hboot : s.mg.bootStep ≠ 0)
    (early : Bool) :
    exec (.configRequest early) s =
      .next { s with out := s.out ++ [.cfgCpl (decide (s.mg.bootStep < 5) || (decide (s.mg.bootStep = 7) && early))] } := by
  have hruns : (s.partLost 48 || s.perst || s.mg.bootStep == 0) = false := by simp [hisland, hperst, hboot]
  rw [exec_configRequest, execConfigRequest, hruns]
  rfl

/-- Settles O10. -/
theorem srProbeAndConfig : Obligations.SrProbeAndConfig := by
  intro s tensor w s1 word
  refine ⟨fun hopen hdone => ?_, fun hopen hbusy => ?_, exec_srEvalDone_of, exec_configRequest_answered⟩
  · exact (exec_srGo_unlocked hopen tensor).trans (if_pos hdone)
  · exact (exec_srGo_unlocked hopen tensor).trans (if_neg (Bool.eq_false_iff.mp hbusy))

end Sys2Proof.Machine
end

section
/-! Firmware update (R640 to R642). -/

namespace Sys2Proof.Machine

variable {s : State} {cmd : Nat} {states : List Nat} {act : State → State}

theorem raise_mg (s : State) (code sev : Nat) (items : List (Nat × Nat)) : (s.raise code sev items).mg = s.mg := by
  rw [raise_frame]

/-- A command of the update in a state that it is for. -/
theorem pldmRow_taken (hruns : s.mctpRuns 0 = true) (hst : states.contains s.mg.pldm.st = true) :
    pldmRow s cmd states act = .next (act s) := by
  rw [pldmRow, hruns, hst]
  rfl

/-- The slot that an update writes, as it stands before the write. -/
theorem setMg_updSlot (x : FwSlot) :
    (s.setMg fun m => m.setSlot (1 - m.dirNow.2.active) x) = s.setMg fun m => m.setSlot s.updSlot x := rfl

/-- An erased header leaves the directory as it is. -/
theorem updSlot_setSlot (k : Nat) (x : FwSlot) : (s.setMg fun m => m.setSlot k x).updSlot = s.updSlot := by
  show 1 - (s.mg.setSlot k x).dirNow.2.active = 1 - s.mg.dirNow.2.active
  rw [Mgmt.setSlot]
  split <;> rfl

section
variable (hruns : s.mctpRuns 0 = true)
include hruns

theorem exec_requestUpdate_idle (hst : s.mg.pldm.st = 0) :
    exec .requestUpdate s = .next (if s.mg.pldm.activated then s.emit (.pldmMsg 0x10 0x8A [])
      else (s.setPldm fun p => { p with
        st := 1
        len := 0
        data := [] }).emit (.pldmMsg 0x10 0 [])) := by
  rw [exec_requestUpdate, execRequestUpdate, hruns, if_neg (by decide), if_neg (not_not_intro hst)]
  exact (apply_ite _ _ _ _).symm

theorem exec_updateComponent_fits (hst : s.mg.pldm.st = 2) {size : Nat} (hlo : 512 ≤ size)
    (hhi : size ≤ (flashRegion (1 + s.updSlot)).2) :
    exec (.updateComponent 1 size) s =
      .next ((((s.setMg fun m => m.setSlot s.updSlot (.image none [])).raise 0x0105 sevINFO [(8, 0), (8, s.updSlot)]).setPldm
        fun p => { p with
          st := 3
          len := size
          data := [] }).emit (.pldmMsg 0x14 0 [0])) := by
  rw [exec_updateComponent, execUpdateComponent, pldmRow_taken hruns (by rw [hst]; decide), if_pos ⟨rfl, hlo, hhi⟩, State.raiseUpdate,
    setMg_updSlot, updSlot_setSlot]

theorem exec_requestFirmwareData_running (hst : s.mg.pldm.st = 3) (hlen : s.mg.pldm.data.length < s.mg.pldm.len) (data : List Byte) :
    exec (.requestFirmwareData data) s =
      let p := s.mg.pldm
      let got := p.data ++ data.take (p.len - p.data.length)
      let u := s.emit (.pldmMsg 0x15 0 (leBytes 4 p.data.length ++ leBytes 4 data.length))
      .next ((u.setPldm fun p => { p with data := got }).setMg fun m => m.setSlot s.updSlot (.image none (got.drop 512))) := by
  have hgo : (!s.mctpRuns 0 || s.mg.pldm.st != 3 || s.mg.pldm.data.length == s.mg.pldm.len) = false := by
    simp [hruns, hst, Nat.ne_of_lt hlen]
  rw [exec_requestFirmwareData, execRequestFirmwareData, hgo]
  rfl

theorem exec_transferComplete_whole (hst : s.mg.pldm.st = 3) (hlen : s.mg.pldm.data.length = s.mg.pldm.len) :
    exec .transferComplete s = .next ((s.setPldm fun p => { p with st := 4 }).emit (.pldmMsg 0x16 0 [0])) := by
  have hgo : (!s.mctpRuns 0 || s.mg.pldm.st != 3 || s.mg.pldm.data.length != s.mg.pldm.len) = false := by
    simp [hruns, hst, hlen]
  rw [exec_transferComplete, execTransferComplete, hgo]
  rfl

theorem exec_verifyComplete_judged (hst : s.mg.pldm.st = 4) :
    exec .verifyComplete s =
      .next (if (s.slotFault (.image (some s.mg.pldm.hdr) s.mg.pldm.body)).isNone then
          ((s.setPldm fun p => { p with st := 5 }).raiseUpdate 1).emit (.pldmMsg 0x17 0 [0])
        else (s.setPldm fun p => { p with st := 2 }).emit (.pldmMsg 0x17 0 [1])) := by
  have hgo : (!s.mctpRuns 0 || s.mg.pldm.st != 4) = false := by simp [hruns, hst]
  rw [exec_verifyComplete, execVerifyComplete, hgo, if_neg (by decide)]
  exact (apply_ite _ _ _ _).symm

theorem exec_applyComplete_written (hst : s.mg.pldm.st = 5) :
    exec .applyComplete s =
      .next (((s.setMg fun m => m.setSlot s.updSlot (.image (some s.mg.pldm.hdr) s.mg.pldm.body)).setPldm
        fun p => { p with st := 6 }).emit (.pldmMsg 0x18 0 [0])) := by
  have hgo : (!s.mctpRuns 0 || s.mg.pldm.st != 5) = false := by simp [hruns, hst]
  rw [exec_applyComplete, execApplyComplete, hgo]
  rfl

/-- The activation's event leaves the directory, which then names the slot written. -/
theorem exec_activateFirmware_applied (hst : s.mg.pldm.st = 6) :
    exec .activateFirmware s =
      .next ((((s.raiseUpdate 2).setMg fun m => m.putDir s.updSlot 1 0).setPldm fun _ => ⟨0, 0, [], true⟩).emit (.pldmMsg 0x1A 0 [])) := by
  have hmg : (s.raiseUpdate 2).mg = s.mg := raise_mg _ _ _ _
  have hput : ((s.raiseUpdate 2).setMg fun m => m.putDir (1 - m.dirNow.2.active) 1 0) =
      (s.raiseUpdate 2).setMg fun m => m.putDir s.updSlot 1 0 := by
    rw [State.setMg, State.setMg, hmg]
    rfl
  rw [exec_activateFirmware, execActivateFirmware, hruns, if_neg (by decide), if_pos hst, ← hput]

theorem exec_getStatus_of (hst : s.mg.pldm.st < 6) :
    exec .getStatus s = .next (s.emit (.pldmMsg 0x1B 0 [BitVec.ofNat 8 s.mg.pldm.st])) := by
  rw [exec_getStatus, execGetStatus, hruns, if_neg (by decide), if_neg (Nat.ne_of_lt hst)]

end

/-- Settles O56, one lemma for each command of the order. -/
theorem firmwareUpdateActs : Obligations.FirmwareUpdateActs := by
  intro s data hruns st k put say
  have hidle : (!s.mctpRuns 0) = false := by rw [hruns]; rfl
  refine ⟨?_, ?_, fun hst hact => ?_, fun hst hact => ?_, fun hst => ?_, fun hst size hlo hhi => ?_,
    fun hst hlen => exec_requestFirmwareData_running hruns hst hlen data, exec_transferComplete_whole hruns,
    exec_verifyComplete_judged hruns, exec_applyComplete_written hruns, exec_activateFirmware_applied hruns,
    exec_getStatus_of hruns, fun hst => ?_, fun hlo hhi => ?_⟩
  · rw [exec_queryDeviceIdentifiers, execQueryDeviceIdentifiers, hidle]
    rfl
  · rw [exec_getFirmwareParameters, execGetFirmwareParameters, hidle]
    rfl
  · rw [exec_requestUpdate_idle hruns hst, hact]
    rfl
  · rw [exec_requestUpdate_idle hruns hst, hact]
    rfl
  · rw [exec_passComponentTable, execPassComponentTable, pldmRow_taken hruns (by rw [show s.mg.pldm.st = 1 from hst]; decide)]
    rfl
  · exact exec_updateComponent_fits hruns hst hlo hhi
  · rw [exec_cancelUpdateComponent, execCancelUpdateComponent, pldmRow_taken hruns (by simpa using hst)]
  · rw [exec_cancelUpdate, execCancelUpdate, pldmRow_taken hruns]
    have hmem : st ∈ [1, 2, 3, 4, 5, 6] := by
      simp only [List.mem_cons, List.not_mem_nil]
      omega
    simpa using hmem

end Sys2Proof.Machine
end

section
/-! The VEC commands but UPD (R57 to R61, R118 to R128). -/

namespace Sys2Proof.Machine

variable {s : State} {n op : Nat}

/-- A two-source command issues, and holds the value of each pair of elements. -/
theorem vecBinary_issues (fn : XVal → XVal → XVal) (h : Ready s n op) (hc : Clean (landed s n))
    (hf : vecHalts s n [2, 3] isTyped (cDim1 (nextCmd s n)) = []) :
    ∃ t f, vecBinary s n op fn = .next t ∧
      Issues s n (8 + ceilDiv (cDim0 (nextCmd s n) * cDim1 (nextCmd s n)) 256) f t ∧
      VecFlight s n (cDim1 (nextCmd s n)) (8 + ceilDiv (cDim0 (nextCmd s n) * cDim1 (nextCmd s n)) 256 + 12) (vecTwo s n fn) f :=
  vec_gen h hc hf

/-- A one-source command that forms its elements at the usual rate. -/
theorem vecUnary_simple_issues (fn : XVal → XVal × NFlags) (h : Ready s n op) (hc : Clean (landed s n))
    (hf : vecHalts s n [2] isTyped (cDim1 (nextCmd s n)) = []) :
    ∃ t f, vecUnary s n op .simple fn = .next t ∧
      Issues s n (8 + ceilDiv (cDim0 (nextCmd s n) * cDim1 (nextCmd s n)) 256) f t ∧
      VecFlight s n (cDim1 (nextCmd s n)) (8 + ceilDiv (cDim0 (nextCmd s n) * cDim1 (nextCmd s n)) 256 + 12) (vecOne s n fn) f :=
  vec_gen h hc hf

/-- A transcendental. -/
theorem vecUnary_trans_issues (fn : XVal → XVal × NFlags) (h : Ready s n op) (hc : Clean (landed s n))
    (hf : vecHalts s n [2] isTyped (cDim1 (nextCmd s n)) = []) :
    ∃ t f, vecUnary s n op .trans fn = .next t ∧
      Issues s n (8 + 4 * ceilDiv (cDim0 (nextCmd s n) * cDim1 (nextCmd s n)) 256) f t ∧
      VecFlight s n (cDim1 (nextCmd s n)) (8 + 4 * ceilDiv (cDim0 (nextCmd s n) * cDim1 (nextCmd s n)) 256 + 20) (vecOne s n fn) f :=
  vec_gen h hc hf

theorem vecFma_issues (h : Ready s n 0x42) (hc : Clean (landed s n))
    (hf : vecHalts s n (if cAccum (nextCmd s n) then [2, 3, 1] else [2, 3]) isTyped (cDim1 (nextCmd s n)) = []) :
    ∃ t f, execVecFma n s = .next t ∧
      Issues s n (8 + ceilDiv (cDim0 (nextCmd s n) * cDim1 (nextCmd s n)) 256) f t ∧
      VecFlight s n (cDim1 (nextCmd s n)) (8 + ceilDiv (cDim0 (nextCmd s n) * cDim1 (nextCmd s n)) 256 + 12) (fun r q =>
        let p := xMul (elemAt s n 2 r q) (elemAt s n 3 r q)
        (plusZero (if cAccum (nextCmd s n) then xAdd p (elemAt s n 1 r q) else p), noFlags)) f :=
  vec_gen h hc hf

/-- A row command forms one element of each row. -/
theorem vecRow_issues {val : Cmd → View → Opd → Opd → Opd → Nat → Nat → XVal × NFlags} (h : Ready s n op) (hc : Clean (landed s n))
    (hf : vecHalts s n [2] isRowDest 1 = []) :
    ∃ t f, vecIssue s n op .row (fun _ => [2]) isRowDest (fun _ => 1) val = .next t ∧
      Issues s n (8 + ceilDiv (cDim0 (nextCmd s n)) 256 * cDim1 (nextCmd s n)) f t ∧
      VecFlight s n 1 (8 + ceilDiv (cDim0 (nextCmd s n)) 256 * cDim1 (nextCmd s n) + 16)
        (fun r q => val (nextCmd s n) (landed s n).view (opdAt s n 1 (cDim0 (nextCmd s n)) 1).opd
          (opdAt s n 2 (cDim0 (nextCmd s n)) (cDim1 (nextCmd s n))).opd
          (opdAt s n 3 (cDim0 (nextCmd s n)) (cDim1 (nextCmd s n))).opd r q) f :=
  vec_gen h hc hf

/-- Settles O11: two sources, one source, and the three commands of their own shape. -/
theorem vecCommandsIssue : Obligations.VecCommandsIssue := by
  refine ⟨fun s n hc => ?_, fun s n hc => ?_, fun s n hc => ?_⟩
  · simp only [exec_vecAdd, exec_vecMul, exec_vecMax, exec_vecMin, execVecAdd, execVecMul, execVecMax, execVecMin]
    exact ⟨fun h hf => vecBinary_issues _ h hc hf, fun h hf => vecBinary_issues _ h hc hf,
      fun h hf => vecBinary_issues _ h hc hf, fun h hf => vecBinary_issues _ h hc hf⟩
  · simp only [exec_vecNeg, exec_vecAbs, exec_vecCvt, exec_vecExp2, exec_vecLog2, exec_vecRcp, exec_vecRsqrt, execVecNeg,
      execVecAbs, execVecCvt, execVecExp2, execVecLog2, execVecRcp, execVecRsqrt]
    exact ⟨fun h hf => vecUnary_simple_issues _ h hc hf, fun h hf => vecUnary_simple_issues _ h hc hf,
      fun h hf => vecUnary_simple_issues _ h hc hf, fun h hf => vecUnary_trans_issues _ h hc hf,
      fun h hf => vecUnary_trans_issues _ h hc hf, fun h hf => vecUnary_trans_issues _ h hc hf,
      fun h hf => vecUnary_trans_issues _ h hc hf⟩
  · simp only [exec_vecFma, exec_vecRowsum, exec_vecRowmax, execVecRowsum, execVecRowmax]
    exact ⟨fun h hf => vecFma_issues h hc hf, fun h hf => vecRow_issues h hc hf, fun h hf => vecRow_issues h hc hf⟩

end Sys2Proof.Machine
end

section
/-! VEC.UPD and the products (R128, R174, R182, R195 to R206, R243). -/

namespace Sys2Proof.Machine

variable {s : State} {n : Nat}

theorem Ready.opcode {op : Nat} (h : Ready s n op) : cOpcode (nextCmd s n) = op := by
  obtain ⟨-, -, -, -, hop, -⟩ := h
  exact hop

theorem Ready.unchecked {op : Nat} (h : Ready s n op) : ((landed s n).core n).check = false := by
  obtain ⟨-, -, -, -, -, -, -, -, hcheck⟩ := h
  exact hcheck

/-- The flight in which core n's next command leaves by a plan. -/
def flightAt (s : State) (n : Nat) (p : Plan) : Flight :=
  flightOf ((landed s n).core n) p (issueAt s n) (nextCmd s n) (offsAt s n)

/-- The module once core n's next command has left by a plan. -/
def issuedAt (s : State) (n : Nat) (p : Plan) : State :=
  (landed s n).setCore n (gone ((landed s n).core n) (nextCmd s n) (issueAt s n) p.occ (flightAt s n p))

theorem issues_plan (s : State) (n : Nat) (p : Plan) : Issues s n p.occ (flightAt s n p) (issuedAt s n p) :=
  ⟨rfl, rfl, rfl, rfl, rfl, rfl, rfl⟩

theorem flightAt_fields (s : State) (n : Nat) (p : Plan) :
    (flightAt s n p).vlat = p.vlat ∧ (flightAt s n p).wv = issueAt s n + p.wv ∧ (flightAt s n p).writes = p.writes ∧
      (flightAt s n p).amax = p.amax := ⟨rfl, rfl, rfl, rfl⟩

/-! VEC.UPD. -/

theorem execVecUpd_issues (h : Ready s n 0x50) (hc : Clean (landed s n))
    (hf : (updOf (landed s n) ((landed s n).core n) n (nextCmd s n) (offsAt s n)).2.2.2 = []) :
    execVecUpd n s = .next (issuedAt s n (updPlan (landed s n) n (nextCmd s n) (offsAt s n))) := by
  rw [execVecUpd, issueCmd_go h]
  dsimp only
  rw [issuePlan_gone h.unchecked ((updPlan_faults ..).trans hf), meetGot_clean hc]
  rfl

/-- Settles O12. -/
theorem vecUpdIssues : Obligations.VecUpdIssues := by
  intro s n h hc x hf
  rw [exec_vecUpd, execVecUpd_issues h hc hf]
  exact ⟨_, _, rfl, issues_plan s n _, rfl, rfl, rfl⟩

/-! MAT.MM and MAT.MMP. -/

/-- A product issues by its plan, and is counted. -/
theorem matIssue_issues {op : Nat} {pair : Bool} (h : Ready s n op) (hc : Clean (landed s n))
    (hf : matFaults (landed s n) n (nextCmd s n) (offsAt s n) pair = []) :
    ∃ u, matIssue s n op pair = .next u ∧ Counted (issuedAt s n (matPlan (landed s n) n (nextCmd s n) (offsAt s n) pair)) u :=
  mat_gen h hc hf

theorem flatMap_fst_map {α β γ : Type} (l : List α) (f : α → List β) (g : α → γ) :
    (l.map fun x => (f x, g x)).flatMap (·.1) = l.flatMap f := by
  rw [List.flatMap_map]

/-- MAT.MMP writes hi and lo of every element. -/
theorem mmpWrites_writes (rd : View) (w : Cmd) (d l a b : Opd) :
    let v := fun i j => matElement (elemVal rd a i) (fun k => elemVal rd b k j) (upFrom 0 (cDim2 w))
      (if cAccum w then roundAcc (xAdd (elemVal rd d i j) (elemVal rd l i j)) else .zero false)
    (mmpWrites rd w d l a b).1 = (rowMajor (16 * cDim0 w) (16 * cDim1 w)).flatMap (fun x =>
      placeAt (d.eKey + (x.1 * d.pitch + x.2) * 2) (leBytes 2 (pairOf d.fmt (v x.1 x.2)).1) ++
      placeAt (l.eKey + (x.1 * d.pitch + x.2) * 2) (leBytes 2 (pairOf d.fmt (v x.1 x.2)).2.1)) := by
  intro v
  rw [mmpWrites]
  exact flatMap_fst_map _ _ _

/-- What core n's MAT.MMP holds when nothing halts it. -/
theorem mmp_flight (hf : matFaults (landed s n) n (nextCmd s n) (offsAt s n) true = []) :
    let w := nextCmd s n
    let d := (prodD s n).opd
    let l := (resolveLo (landed s n) ((landed s n).core n) n w (offsAt s n) (prodD s n)).opd
    let v := fun i j => prodAt s n i j
      (if cAccum w then roundAcc (xAdd (elemVal (landed s n).view d i j) (elemVal (landed s n).view l i j)) else .zero false)
    let p := matPlan (landed s n) n w (offsAt s n) true
    p.writes = (rowMajor (16 * cDim0 w) (16 * cDim1 w)).flatMap (fun x =>
      placeAt (d.eKey + (x.1 * d.pitch + x.2) * 2) (leBytes 2 (pairOf d.fmt (v x.1 x.2)).1) ++
      placeAt (l.eKey + (x.1 * d.pitch + x.2) * 2) (leBytes 2 (pairOf d.fmt (v x.1 x.2)).2.1)) ∧
    p.amax = amaxAt s n (16 * cDim0 w) (16 * cDim1 w) v := by
  obtain ⟨-, -, -, hwrites, hamax⟩ := matPlan_ok hf
  exact ⟨hwrites.trans (mmpWrites_writes ..), hamax⟩

/-! MAT.MMS. -/

/-- What the plan of a block-sparse product holds when nothing halts it. -/
theorem mmsPlan_ok {w : Cmd} {g : MmsOpds} (hf : mmsFaults s w g = []) (hi : mmsInner s n w g = []) :
    (mmsPlan s n w g).occ = mmsOcc (opdField (cOpd w 2)).fmt (opdField (cOpd w 3)).fmt g.k g.img.kb (16 * cDim1 w)
      ((mmsRows s n w g).map (·.length)) ∧
    (mmsPlan s n w g).writes = (mmsWrites s.view w n g.img g.k g.d.opd g.b.opd (mmsRows s n w g)).1 ∧
    (mmsPlan s n w g).amax = (if cAmaxS w = 0 then none
      else some (cAmaxS w, amaxImage (mmsWrites s.view w n g.img g.k g.d.opd g.b.opd (mmsRows s n w g)).2.2)) := by
  have hok : (decide (mmsFaults s w g = []) && decide (mmsInner s n w g = [])) = true := by
    rw [hf, hi]
    rfl
  rw [mmsPlan, hok]
  exact ⟨rfl, rfl, rfl⟩

/-- Without PARTIAL every element of the rows is written. -/
theorem mmsWrites_whole {rd : View} {w : Cmd} {m : Image} {k : MmsCtl} {d b : Opd} {rows : List (List (Nat × Nat))} (hk : k.part = false) :
    let v := fun r j => (mmsElement rd n m b (rows.getD (r / 16) []) k.e (r % 16) j).1
    (mmsWrites rd w n m k d b rows).1 = (writeTensor d (cWriteMode w) (16 * cDim0 w) (16 * cDim1 w) v).1 ∧
      (mmsWrites rd w n m k d b rows).2.2 = amaxOf ((rowMajor (16 * cDim0 w) (16 * cDim1 w)).map fun x => v x.1 x.2) := by
  rw [mmsWrites, hk]
  exact ⟨rfl, rfl⟩

/-- With PARTIAL the sums of the segments are written. -/
theorem mmsWrites_partial {rd : View} {w : Cmd} {m : Image} {k : MmsCtl} {d b : Opd} {rows : List (List (Nat × Nat))} (hk : k.part = true) :
    (mmsWrites rd w n m k d b rows).1 = (writeTensor { d with chunkE := k.e } (cWriteMode w) 16 (16 * cDim1 w) fun i j =>
      xOfInt (segmentSum rd n m b (rows.headD []) k.e (mmsSegs k (rows.headD []).length).1 (mmsSegs k (rows.headD []).length).2 i j).1
        k.e).1 := by
  rw [mmsWrites, hk]
  rfl

theorem execMatMms_issues (h : Ready s n 0x03) (hc : Clean (landed s n)) (hf : mmsFaults (landed s n) (nextCmd s n) (mmsAt s n) = [])
    (hi : mmsInner (landed s n) n (nextCmd s n) (mmsAt s n) = []) :
    execMatMms n s = .next (issuedAt s n (mmsPlan (landed s n) n (nextCmd s n) (mmsAt s n))) :=
  mms_gen h hc hf hi

/-- Settles O13: the plan of each product, and what its flight holds. -/
theorem matCommandsIssue : Obligations.MatCommandsIssue := by
  refine ⟨?_, ?_, ?_⟩
  · intro s n h hc hf w o v
    obtain ⟨hocc, hvlat, hwv, hwrites, hamax⟩ := matPlan_ok hf
    obtain ⟨u, hu, hcount⟩ := matIssue_issues h hc hf
    obtain ⟨hfv, hfwv, hfw, hfa⟩ := flightAt_fields s n (matPlan (landed s n) n w (offsAt s n) false)
    have hissues := issues_plan s n (matPlan (landed s n) n w (offsAt s n) false)
    rw [hocc] at hissues
    exact ⟨_, _, u, by rw [exec_matMm, execMatMm, hu], hissues, hcount, hfv.trans hvlat,
      hfwv.trans (congrArg (issueAt s n + ·) hwv), hfw.trans hwrites, hfa.trans hamax⟩
  · intro s n h hc hf w o d l v
    obtain ⟨hocc, hvlat, hwv, -, -⟩ := matPlan_ok hf
    obtain ⟨hwrites, hamax⟩ := mmp_flight hf
    obtain ⟨u, hu, hcount⟩ := matIssue_issues h hc hf
    obtain ⟨hfv, hfwv, hfw, hfa⟩ := flightAt_fields s n (matPlan (landed s n) n w (offsAt s n) true)
    have hissues := issues_plan s n (matPlan (landed s n) n w (offsAt s n) true)
    rw [hocc] at hissues
    exact ⟨_, _, u, by rw [exec_matMmp, execMatMmp, hu], hissues, hcount, hfv.trans hvlat,
      hfwv.trans (congrArg (issueAt s n + ·) hwv), hfw.trans hwrites, hfa.trans hamax⟩
  · intro s n g w h hc hf hi rows occ v z
    obtain ⟨hocc, hwrites, hamax⟩ := mmsPlan_ok hf hi
    obtain ⟨-, -, hfw, hfa⟩ := flightAt_fields s n (mmsPlan (landed s n) n w g)
    have hissues := issues_plan s n (mmsPlan (landed s n) n w g)
    rw [hocc] at hissues
    refine ⟨_, _, by rw [exec_matMms, execMatMms_issues h hc hf hi], hissues, rfl, rfl, rfl, fun hpart => ?_, fun hpart => ?_⟩
    · obtain ⟨hall, hmax⟩ := mmsWrites_whole (rd := (landed s n).view) (w := w) (n := n) (m := g.img) (d := g.d.opd) (b := g.b.opd)
        (rows := rows) hpart
      exact ⟨(hfw.trans hwrites).trans hall, (hfa.trans hamax).trans (by rw [hmax]; rfl)⟩
    · exact (hfw.trans hwrites).trans (mmsWrites_partial hpart)

end Sys2Proof.Machine
end

section
/-! The copying commands (R48, R57, R67, R68, R118, R128, R129, R181, R251). -/

namespace Sys2Proof.Machine

variable {s : State} {n op occ : Nat}

/-! Operands, read again by a command in flight. -/

theorem planeKey_setCore (s : State) (m : Nat) (c : Core) : planeKey (s.setCore m c) = planeKey s := rfl

theorem cS_congr {c c' : Core} (h : c'.scalars = c.scalars) : cS c' = cS c := by
  funext i
  rw [cS, cS, h]

theorem resolve_congr {c c' : Core} (h : c'.scalars = c.scalars) (m : Nat) (k : Core) :
    resolve (s.setCore m k) c' = resolve s c := by
  funext n w offs i rows cols
  unfold resolve
  rw [cS_congr h, planeKey_setCore]

theorem resolveMx_congr {c c' : Core} (h : c'.scalars = c.scalars) (m : Nat) (k : Core) :
    resolveMx (s.setCore m k) c' = resolveMx s c := by
  funext n w offs i rows cols t
  unfold resolveMx
  rw [cS_congr h, planeKey_setCore]

/-- A command in flight names the operands that it named at its issue. -/
theorem movOperands_congr {c c' : Core} (h : c'.scalars = c.scalars) (m : Nat) (k : Core) :
    movOperands (s.setCore m k) c' = movOperands s c := by
  funext n w offs
  unfold movOperands
  simp only [resolve_congr h m k, resolveMx_congr h m k]

/-! What a copying command forms. -/

theorem movFaults_nil {w : Cmd} {g : MovOpds} (h : movFaults s w g = []) (hr : g.a.remote = false) :
    movNow s w g = movEffect w s.view g.d g.a ∧ (movEffect w s.view g.d g.a).faults = [] := by
  rw [movFaults, List.append_eq_nil_iff] at h
  obtain ⟨hopds, hnow⟩ := h
  have heq : movNow s w g = movEffect w s.view g.d g.a := by
    rw [movNow, if_neg (by simp [hopds, hr])]
  exact ⟨heq, heq ▸ hnow⟩

theorem movForm_faults (w : Cmd) (rd : View) (d a : Opd) : (movForm w rd d a).faults = [] := by
  unfold movForm
  split <;> rfl

/-- A copying command that nothing halts forms what its operands give it. -/
theorem movEffect_eq_movForm {w : Cmd} {rd : View} {d a : Got} (h : (movEffect w rd d a).faults = []) :
    movEffect w rd d a = movForm w rd d.opd a.opd := by
  rw [movEffect] at h ⊢
  split at h
  · exact absurd h (by simp)
  · next hbad => rw [if_neg hbad]

/-- The amax that a copying command leaves to S[AMAX_S]. -/
def movAmax (w : Cmd) (e : Effect) : Option (Nat × Nat) :=
  match e.amax with
  | some v => if cAmaxS w = 0 then none else some (cAmaxS w, amaxImage v)
  | none => none

/-! Of fixed latency. -/

/-- The plan of a copying command within own Pewter. -/
theorem movPlan_fixed {w : Cmd} {g : MovOpds} (hx : movFixed op g = true) (h : movFaults s w g = []) (hr : g.a.remote = false) :
    let p := movPlan s n op occ w g
    let e := movForm w s.view g.d.opd g.a.opd
    p.occ = (movTimes w g.a).1 ∧ p.wv = (movTimes w g.a).2.2 ∧ p.vlat = false ∧ p.scalars = [] ∧ p.preds = [] ∧ p.semAdd = [] ∧
      p.writes = e.writes ∧ p.flags = e.flags ∧ p.amax = movAmax w e := by
  obtain ⟨hnow, hgood⟩ := movFaults_nil h hr
  rw [movEffect_eq_movForm hgood] at hnow
  intro p e
  have hp : p = _ := if_pos hx
  rw [hp, show e = movNow s w g from hnow.symm]
  exact ⟨rfl, rfl, rfl, rfl, rfl, rfl, rfl, rfl, rfl⟩

/-- A copying command within own Pewter issues with the times of R128, and holds what it forms. -/
theorem movIssue_fixed (errs : List (Nat × Bool)) (h : Ready s n op) (hc : Clean (landed s n)) (hs : (landed s n).snoops = [])
    (hx : movFixed op (movAt s n) = true) (hr : (movAt s n).a.remote = false) (hf : movFaults (landed s n) (nextCmd s n) (movAt s n) = []) :
    let g := movAt s n
    let w := nextCmd s n
    let e := movForm w (landed s n).view g.d.opd g.a.opd
    ∃ t f, movIssue s n op occ errs = .next (t.meet errs) ∧ Issues s n (movTimes w g.a).1 f t ∧
      (f.vlat = false ∧ f.scalars = [] ∧ f.preds = [] ∧ f.semAdd = []) ∧ f.wv = issueAt s n + (movTimes w g.a).2.2 ∧
      f.writes = e.writes ∧ f.flags = e.flags ∧ f.amax = movAmax w e := by
  intro g w e
  obtain ⟨hocc, hwv, hvlat, hsc, hpr, hsem, hwrites, hflags, hamax⟩ := movPlan_fixed (n := n) (occ := occ) hx hf hr
  have hissues := issues_plan s n (movPlan (landed s n) n op occ w g)
  rw [hocc] at hissues
  exact ⟨_, _, mov_fixed h hc hs hr hx hf, hissues, ⟨hvlat, hsc, hpr, hsem⟩, congrArg (issueAt s n + ·) hwv, hwrites, hflags, hamax⟩

/-! Of variable latency, with its source here. -/

/-- A copying command with a fabric operand leaves its flight, and forms it at once. -/
theorem movIssue_here (h : Ready s n op) (hc : Clean (landed s n)) (hs : (landed s n).snoops = []) (hw : CoresWf (landed s n))
    (hi : FreshIds ((landed s n).core n)) (hx : movFixed op (movAt s n) = false) (hr : (movAt s n).a.remote = false)
    (hf : movFaults (landed s n) (nextCmd s n) (movAt s n) = []) :
    let p := movPlan (landed s n) n op occ (nextCmd s n) (movAt s n)
    movIssue s n op occ [] = .next (formMov (issuedAt s n p) n (flightAt s n p)) := by
  intro p
  have hplan : p.faults = [] := (movPlan_faults ..).trans hf
  have hfind : findFlight ((issuedAt s n p).core n) ((landed s n).core n).nextFlight = some (flightAt s n p) := by
    rw [issuedAt, core_setCore hw, if_pos rfl]
    exact findFlight_last hi rfl rfl
  rw [movIssue, issueCmd_go h]
  dsimp only
  rw [gated_free hs, show movOperands (landed s n) ((landed s n).core n) n (nextCmd s n) (offsAt s n) = movAt s n from rfl,
    issuePlan_gone h.unchecked hplan]
  dsimp only
  rw [if_neg (by decide), meetGot_clean hc, List.append_nil, meet_nil, if_neg (by simp [hx])]
  show (match findFlight ((issuedAt s n p).core n) ((landed s n).core n).nextFlight with
    | none => _
    | some f => _) = _
  rw [hfind]
  dsimp only
  rw [if_neg (by simp [hr])]
  rfl

/-- A flight of the plan once it has been formed. -/
def formedFlight (f : Flight) (w : Cmd) (e : Effect) : Flight :=
  { f with
    writes := e.writes
    flags := e.flags
    formed := true
    waiting := 0
    amax := movAmax w e }

/-- Forming what lies here fills the flight and changes nothing else. -/
theorem formMov_issuedAt (hw : CoresWf (landed s n)) (hi : FreshIds ((landed s n).core n))
    (hr : (movAt s n).a.remote = false) (hf : movFaults (landed s n) (nextCmd s n) (movAt s n) = [])
    (hl : ∀ x ∈ (movForm (nextCmd s n) (landed s n).view (movAt s n).d.opd (movAt s n).a.opd).writes, x.1 < 2 ^ 64) (p : Plan) :
    formMov (issuedAt s n p) n (flightAt s n p) =
      (landed s n).setCore n (gone ((landed s n).core n) (nextCmd s n) (issueAt s n) p.occ
        (formedFlight (flightAt s n p) (nextCmd s n) (movForm (nextCmd s n) (landed s n).view (movAt s n).d.opd (movAt s n).a.opd))) := by
  obtain ⟨-, hgood⟩ := movFaults_nil hf hr
  have hopds : movOperands (issuedAt s n p) (coreAtIssue (gone ((landed s n).core n) (nextCmd s n) (issueAt s n) p.occ (flightAt s n p))
      (flightAt s n p)) n (nextCmd s n) (offsAt s n) = movAt s n := by
    have hnamed : (coreAtIssue (gone ((landed s n).core n) (nextCmd s n) (issueAt s n) p.occ (flightAt s n p)) (flightAt s n p)).scalars =
        ((landed s n).core n).scalars := rfl
    rw [issuedAt, movOperands_congr hnamed]
    rfl
  exact formMov_here (f := flightAt s n p) hw hi rfl (movAt s n) hopds rfl (movEffect_eq_movForm hgood) (movForm_faults _ _ _ _) hl

/-- What a copying command with a fabric operand of this module leaves. -/
theorem movIssue_forms (h : Ready s n op) (hc : Clean (landed s n)) (hs : (landed s n).snoops = []) (hw : CoresWf (landed s n))
    (hi : FreshIds ((landed s n).core n)) (hx : movFixed op (movAt s n) = false) (hr : (movAt s n).a.remote = false)
    (hf : movFaults (landed s n) (nextCmd s n) (movAt s n) = [])
    (hl : ∀ x ∈ (movForm (nextCmd s n) (landed s n).view (movAt s n).d.opd (movAt s n).a.opd).writes, x.1 < 2 ^ 64) :
    let e := movForm (nextCmd s n) (landed s n).view (movAt s n).d.opd (movAt s n).a.opd
    ∃ t f, movIssue s n op occ [] = .next t ∧ (Issues s n occ f t ∧ f.vlat = true ∧ f.formed = true ∧ f.waiting = 0 ∧
      f.writes = e.writes ∧ f.flags = e.flags ∧ f.amax = movAmax (nextCmd s n) e) := by
  intro e
  have hplan : movPlan (landed s n) n op occ (nextCmd s n) (movAt s n) = _ := if_neg (Bool.eq_false_iff.mp hx)
  have hocc : (movPlan (landed s n) n op occ (nextCmd s n) (movAt s n)).occ = occ := by rw [hplan]
  have hvlat : (movPlan (landed s n) n op occ (nextCmd s n) (movAt s n)).vlat = true := by rw [hplan]
  rw [movIssue_here h hc hs hw hi hx hr hf, formMov_issuedAt hw hi hr hf hl, hocc]
  exact ⟨_, _, rfl, ⟨rfl, rfl, rfl, rfl, rfl, rfl, rfl⟩, hvlat, rfl, rfl, rfl, rfl, rfl⟩

theorem movFixed_of_pewter {g : MovOpds} (hd : g.d.fabric = false) (ha : g.a.fabric = false) (hop : op ≠ 0x04) :
    movFixed op g = true := by
  simp [movFixed, hd, ha, hop]

theorem movTimes_copy {w : Cmd} {g : Got} (h : cOpcode w = 0x80) :
    movTimes w g = (4 + ceilDiv (g.planes.map fun p => p.rows * p.len).sum 256, 8,
      4 + ceilDiv (g.planes.map fun p => p.rows * p.len).sum 256 + 8) := if_pos h

theorem movTimes_other {w : Cmd} {g : Got} (h : cOpcode w ≠ 0x80) :
    movTimes w g = (4 + ceilDiv (cDim0 w * cDim1 w) 128, 10, 4 + ceilDiv (cDim0 w * cDim1 w) 128 + 12) := if_neg h

/-! What each of them forms. -/

section
variable {w : Cmd} (rd : View) (d a : Opd)

theorem movForm_copy (h : cOpcode w = 0x80) : movForm w rd d a = { writes := copyWrites rd (cDim0 w) (cDim1 w) d a } := by
  rw [movForm, h]
  rfl

theorem movForm_cvt (h : cOpcode w = 0x81) :
    movForm w rd d a =
      { writes := (writeTensor d (cWriteMode w) (cDim0 w) (cDim1 w) (elemVal rd a)).1
        flags := (writeTensor d (cWriteMode w) (cDim0 w) (cDim1 w) (elemVal rd a)).2
        amax := some (amaxOf ((rowMajor (cDim0 w) (cDim1 w)).map fun x => elemVal rd a x.1 x.2)) } := by
  rw [movForm, h]
  rfl

theorem movForm_mxin (h : cOpcode w = 0x82) :
    movForm w rd d a =
      { writes := (writeTensor d ⟨false, 0, false⟩ (cDim0 w) (cDim1 w) (mxElem (mxType (cSubop w)) rd a (cDim1 w))).1
        flags := (writeTensor d ⟨false, 0, false⟩ (cDim0 w) (cDim1 w) (mxElem (mxType (cSubop w)) rd a (cDim1 w))).2 } := by
  rw [movForm, h]
  rfl

theorem movForm_mxout (h : cOpcode w = 0x83) :
    movForm w rd d a =
      { writes := (mxoutWrites (mxType (cSubop w)) rd (cDim0 w) (cDim1 w) d a).1
        flags := (mxoutWrites (mxType (cSubop w)) rd (cDim0 w) (cDim1 w) d a).2 } := by
  rw [movForm, h]
  rfl

theorem movForm_padd (h : cOpcode w = 0x04) :
    ((movForm w rd d a).writes, (movForm w rd d a).flags) =
      writeTensor d ⟨false, 0, false⟩ (16 * cDim0 w) (16 * cDim1 w) fun r q => roundAcc (xAdd (elemVal rd d r q) (elemVal rd a r q)) := by
  rw [movForm, h]
  rfl

end

/-- Settles O14, first within own Pewter and then with a fabric operand. -/
theorem movCommandsIssue : Obligations.MovCommandsIssue := by
  constructor
  · intro s n op occ errs h hc hs w g rd o quiet hd ha hr hf
    have hword : cOpcode w = op := h.opcode
    refine ⟨?_, ?_, ?_, ?_⟩ <;> rintro rfl
    · obtain ⟨t, f, hrun, hissues, hquiet, hwv, hwrites, hflags, hamax⟩ :=
        movIssue_fixed (occ := occ) errs h hc hs (movFixed_of_pewter hd ha (by decide)) hr hf
      rw [movTimes_copy hword] at hissues hwv
      rw [movForm_copy _ _ _ hword] at hwrites hflags hamax
      exact ⟨t, f, by rw [exec_movCopy, execMovCopy, hrun], hissues, hquiet, hwv, hwrites, hamax, hflags⟩
    · obtain ⟨t, f, hrun, hissues, hquiet, hwv, hwrites, hflags, hamax⟩ :=
        movIssue_fixed (occ := occ) [] h hc hs (movFixed_of_pewter hd ha (by decide)) hr hf
      rw [movTimes_other (by rw [hword]; decide)] at hissues hwv
      rw [movForm_cvt _ _ _ hword] at hwrites hflags hamax
      exact ⟨t, f, by rw [exec_movCvt, execMovCvt, hrun, meet_nil], hissues, hquiet, hwv, Prod.ext hwrites hflags, hamax⟩
    · obtain ⟨t, f, hrun, hissues, hquiet, hwv, hwrites, hflags, hamax⟩ :=
        movIssue_fixed (occ := occ) [] h hc hs (movFixed_of_pewter hd ha (by decide)) hr hf
      rw [movTimes_other (by rw [hword]; decide)] at hissues hwv
      rw [movForm_mxin _ _ _ hword] at hwrites hflags hamax
      exact ⟨t, f, by rw [exec_movMxin, execMovMxin, hrun, meet_nil], hissues, hquiet, hwv, Prod.ext hwrites hflags, hamax⟩
    · obtain ⟨t, f, hrun, hissues, hquiet, hwv, hwrites, hflags, hamax⟩ :=
        movIssue_fixed (occ := occ) [] h hc hs (movFixed_of_pewter hd ha (by decide)) hr hf
      rw [movTimes_other (by rw [hword]; decide)] at hissues hwv
      rw [movForm_mxout _ _ _ hword] at hwrites hflags hamax
      exact ⟨t, f, by rw [exec_movMxout, execMovMxout, hrun, meet_nil], hissues, hquiet, hwv, Prod.ext hwrites hflags, hamax⟩
  · intro s n op occ errs w g e forms h hc hs hw hi hx hr hf hl
    have hword : cOpcode w = op := h.opcode
    obtain ⟨t, f, hrun, hforms⟩ := movIssue_forms (occ := occ) h hc hs hw hi hx hr hf hl
    refine ⟨?_, ?_, ?_, ?_, ?_⟩ <;> rintro rfl
    · obtain ⟨-, -, -, -, hwrites, hflags, -⟩ := id hforms
      refine ⟨t, f, by rw [exec_matPadd, execMatPadd, hrun], hforms, ?_⟩
      rw [hwrites, hflags]
      exact movForm_padd _ _ _ hword
    · rintro rfl
      exact ⟨t, f, by rw [exec_movCopy, execMovCopy, hrun], hforms⟩
    · exact ⟨t, f, by rw [exec_movCvt, execMovCvt, hrun], hforms⟩
    · exact ⟨t, f, by rw [exec_movMxin, execMovMxin, hrun], hforms⟩
    · exact ⟨t, f, by rw [exec_movMxout, execMovMxout, hrun], hforms⟩

end Sys2Proof.Machine
end

section
/-! MOV.ATOM, IMLOAD, STASH and RELEASE (R127, R145, R146, R253, R273, R274). -/

namespace Sys2Proof.Machine

variable {s : State} {n occ : Nat}

theorem fmtBad_of {ok : Fmt → Bool} {w : Cmd} {k : Nat} (h : ok (opdField (cOpd w k)).fmt = true) : fmtBad ok w k = [] := if_pos h

/-! ATOM. -/

theorem execMovAtom_issues (h : Ready s n 0x84) {k : Nat}
    (halign : (((cS ((landed s n).core n) (opdField (cOpd (nextCmd s n) 1)).ebase).toNat : Int) + (offsAt s n).getD 0 0) % 2 ^ 64 % 8 = 0)
    (hE : (opdField (cOpd (nextCmd s n) 1)).fmt ≠ .rsvE) (hF : (opdField (cOpd (nextCmd s n) 1)).fmt ≠ .rsvF)
    (hkey : planeKey (landed s n) n (opdField (cOpd (nextCmd s n) 1)).fabric
      (cS ((landed s n).core n) (opdField (cOpd (nextCmd s n) 1)).ebase).toNat ((offsAt s n).getD 0 0) 8 = some k)
    (hk : k < 2 ^ 64) :
    ∃ p, execMovAtom n occ s = .next (issuedAt s n p) ∧ p.occ = occ ∧ p.vlat = true ∧ p.formed = true ∧ p.waiting = 0 := by
  have hfmt : fmtBad isCopyFmt (nextCmd s n) 1 = [] := fmtBad_of (by simp [isCopyFmt, hE, hF])
  have hword : ¬ ((((cS ((landed s n).core n) (opdField (cOpd (nextCmd s n) 1)).ebase).toNat : Int) + (offsAt s n).getD 0 0) %
      (2 : Int) ^ 64).toNat % 8 ≠ 0 := by omega
  have hhere : decide (2 ^ 64 ≤ k) = false := decide_eq_false (Nat.not_le.mpr hk)
  rw [execMovAtom, issueCmd_go h]
  simp only [hkey, Option.getD_some, hhere]
  rw [issuePlan_gone h.unchecked]
  · exact ⟨_, rfl, rfl, rfl, rfl, rfl⟩
  · dsimp only
    rw [hfmt, if_neg hword]
    rfl

/-! IMLOAD. -/

theorem execMovImload_issues (h : Ready s n 0x87) (hc : Clean (landed s n)) (h0 : 1 ≤ cDim0 (nextCmd s n)) (h1 : cDim1 (nextCmd s n) ≤ 2047)
    (hsum : cDim0 (nextCmd s n) + cDim1 (nextCmd s n) ≤ 2048) (hraw : (opdField (cOpd (nextCmd s n) 2)).fmt = .raw)
    (hg : (imloadSource (landed s n) ((landed s n).core n) n (nextCmd s n) (offsAt s n)).faults = [])
    (hr : (imloadSource (landed s n) ((landed s n).core n) n (nextCmd s n) (offsAt s n)).remote = false) :
    ∃ p, execMovImload n occ s = .next (issuedAt s n p) ∧ p.occ = occ ∧ p.vlat = true ∧ p.formed = true ∧ p.waiting = 0 ∧
      p.load = some { bank := (!((landed s n).core n).active).toNat, first := cDim1 (nextCmd s n), count := cDim0 (nextCmd s n) } := by
  have hdims : ¬(cDim0 (nextCmd s n) = 0 ∨ cDim0 (nextCmd s n) > 2048 ∨ cDim1 (nextCmd s n) > 2047 ∨
      cDim0 (nextCmd s n) + cDim1 (nextCmd s n) > 2048) := by omega
  rw [execMovImload, issueCmd_go h]
  simp only [hr]
  rw [issuePlan_gone h.unchecked, meetGot_clean hc]
  · exact ⟨_, rfl, rfl, rfl, rfl, rfl, rfl⟩
  · dsimp only
    rw [if_neg hdims, hg, fmtBad_of (by rw [hraw]; rfl)]
    rfl

/-! STASH. -/

theorem execMovStash_issues (hw : CoresWf (landed s n)) (h : Ready s n 0x85) (hraw : (opdField (cOpd (nextCmd s n) 2)).fmt = .raw) (h0 : 1 ≤ cDim0 (nextCmd s n))
    (h1 : 1 ≤ cDim1 (nextCmd s n)) (hsize : cDim0 (nextCmd s n) * cDim1 (nextCmd s n) ≤ 65536)
    (hg : (stashSource (landed s n) ((landed s n).core n) n (nextCmd s n) (offsAt s n)).faults = []) :
    execMovStash n s = .next ((landed s n).setCore n
      { gone ((landed s n).core n) (nextCmd s n) (issueAt s n) 1 (flightAt s n (stashPlan (landed s n) n (nextCmd s n) (offsAt s n))) with
        block := .stash ((landed s n).core n).nextFlight }) := by
  have hplan : (stashPlan (landed s n) n (nextCmd s n) (offsAt s n)).faults = [] := by
    unfold stashPlan
    dsimp only
    rw [hg, fmtBad_of (by rw [hraw]; rfl), if_neg (by omega), if_neg (by omega)]
    rfl
  rw [execMovStash, issueCmd_go h]
  dsimp only
  rw [issuePlan_gone h.unchecked hplan]
  dsimp only
  rw [if_pos rfl, core_setCore hw, if_pos rfl, setCore_setCore hw]
  rfl

/-! RELEASE. -/

theorem match_getD (o : Option State) (u : State) :
    (match o with
    | some t => (Host.Outcome.next t : Host.Outcome State Fault Refusal)
    | none => .next u) = .next (o.getD u) := by
  cases o <;> rfl

/-- The plan of MOV.RELEASE: it reads the scalar that holds the buffer's address. -/
def releasePlan (occ : Nat) (w : Cmd) : Plan :=
  { faults := []
    accs := [⟨.scalar (bitsN (cOpd w 2) 4 0), false, false⟩, ⟨.flags, true, false⟩]
    occ := occ
    rd := 0
    ws := 0
    wv := 0
    vlat := true }

theorem execMovRelease_issues (h : Ready s n 0x86) (hs : (landed s n).snoops = []) :
    execMovRelease n occ s = .next ((poolRelease (issuedAt s n (releasePlan occ (nextCmd s n)))
      (cS ((landed s n).core n) (bitsN (cOpd (nextCmd s n) 2) 4 0)).toNat n).getD
        (failFlight (issuedAt s n (releasePlan occ (nextCmd s n))) n ((landed s n).core n).nextFlight 0x02 0x02)) := by
  rw [execMovRelease, issueCmd_go h]
  dsimp only
  rw [gated_free hs, issuePlan_gone h.unchecked rfl]
  dsimp only
  rw [if_neg (by decide)]
  exact match_getD _ _

/-- Settles O15. -/
theorem movMemoryCommandsIssue : Obligations.MovMemoryCommandsIssue := by
  constructor
  · intro s n occ hc w c d off
    refine ⟨fun h halign hE hF k hkey hk => ?_, fun h h0 h1 hsum hraw hg hr => ?_⟩
    · obtain ⟨p, hrun, hocc, hvlat, hformed, hwait⟩ := execMovAtom_issues (occ := occ) h halign hE hF hkey hk
      exact ⟨_, _, by rw [exec_movAtom, hrun], hocc ▸ issues_plan s n p, hvlat, hformed, hwait⟩
    · obtain ⟨p, hrun, hocc, hvlat, hformed, hwait, hload⟩ := execMovImload_issues (occ := occ) h hc h0 h1 hsum hraw hg hr
      exact ⟨_, _, by rw [exec_movImload, hrun], hocc ▸ issues_plan s n p, hvlat, hformed, hwait, hload⟩
  · intro s n occ hw w c
    refine ⟨fun h hraw h0 h1 hsize hg => ?_, fun h hs => ?_⟩
    · rw [exec_movStash, execMovStash_issues hw h hraw h0 h1 hsize hg]
      refine ⟨_, flightAt s n (stashPlan (landed s n) n w (offsAt s n)), rfl, ?_, ?_, ?_, rfl, rfl, rfl, fun m hm => ?_, rfl, rfl⟩
      all_goals rw [core_setCore hw]
      · rw [if_pos rfl]
      · rw [if_pos rfl]
        simp only [gone, engineSet_issued, advance_issued]
        rfl
      · rw [if_pos rfl]
        rfl
      · rw [if_neg hm]
    · exact ⟨_, _, issues_plan s n (releasePlan occ w), rfl, rfl, rfl, by rw [exec_movRelease, execMovRelease_issues h hs]⟩

end Sys2Proof.Machine
end

section
/-! The SYN commands of the core itself (R126, R128, R132 to R152, R705). -/

namespace Sys2Proof.Machine

variable {s u : State} {n op : Nat}

/-! Commands that leave a flight. -/

theorem synIssue_issues {plan : Core → Cmd → Plan} (h : Ready s n op) (hf : (plan ((landed s n).core n) (nextCmd s n)).faults = []) :
    synIssue s n op plan = .next (issuedAt s n (plan ((landed s n).core n) (nextCmd s n))) :=
  synIssue_go h hf

theorem synAddrBad_of {a : Nat} (ha : a % 8 = 0) (hp : a + 8 ≤ pewterBytes) : synAddrBad a = [] := by
  rw [synAddrBad, if_neg (by omega), if_pos hp]
  rfl

theorem setpFault_nil {d : Nat} (h0 : d ≠ 0) (h15 : d ≠ 15) : (if d = 0 ∨ d = 15 then [((0x07 : Nat), d)] else []) = [] :=
  if_neg (by omega)

/-- The plan of SYN.SLD from offset a of own Pewter. -/
def sldPlan (s : State) (n : Nat) (w : Cmd) (a : Nat) : Plan :=
  { synPlan (synAddrBad a) (readsS [cSA w] ++ synPlane n a false ++ [⟨.scalar (cSD w), true, false⟩]) 12 14 14 with
    scalars := [(cSD w, s.mword (pewKey n a))] }

theorem execSynSld_issues (h : Ready s n 0xCA) (hc : Clean (landed s n))
    (ha : synAddr ((landed s n).core n) (nextCmd s n) % 8 = 0) (hp : synAddr ((landed s n).core n) (nextCmd s n) + 8 ≤ pewterBytes) :
    execSynSld n s = .next (issuedAt s n (sldPlan (landed s n) n (nextCmd s n) (synAddr ((landed s n).core n) (nextCmd s n)))) := by
  rw [execSynSld, issueCmd_go h]
  dsimp only
  rw [issuePlan_gone h.unchecked (synAddrBad_of ha hp), badIn_clean hc]
  rfl

/-- The plan of SYN.FLAGS. -/
def flagsPlan (c : Core) (w : Cmd) : Plan :=
  { synPlan [] ([⟨.flags, false, true⟩, ⟨.scalar (cSD w), true, false⟩] ++ (if (cImm w).testBit 0 then [⟨.flags, true, true⟩] else [])) 0 4 4 with
    scalars := [(cSD w, numImage c.num)] }

/-- A core with other number flags. -/
def Core.withNum (c : Core) (v : NumFlags) : Core := { c with num := v }

theorem Core.withNum_self {c : Core} {v : NumFlags} (h : c.num = v) : c.withNum v = c := by
  subst h
  rfl

theorem execSynFlags_issues (h : Ready s n 0xCC) (hw : CoresWf (landed s n)) :
    execSynFlags n s = .next ((landed s n).setCore n
      ((gone ((landed s n).core n) (nextCmd s n) (issueAt s n) 1 (flightAt s n (flagsPlan ((landed s n).core n) (nextCmd s n)))).withNum
        (if (cImm (nextCmd s n)).testBit 0 then numFlagsReset else ((landed s n).core n).num))) := by
  rw [execSynFlags, issueCmd_go h]
  dsimp only
  rw [issuePlan_gone h.unchecked rfl]
  dsimp only
  cases hclear : (cImm (nextCmd s n)).testBit 0 with
  | true =>
    rw [if_pos rfl, if_pos rfl, core_setCore hw, if_pos rfl, setCore_setCore hw, flagsPlan, hclear]
    rfl
  | false =>
    rw [if_neg (by decide), flagsPlan, hclear]
    exact congrArg (fun k => Host.Outcome.next ((landed s n).setCore n k)) (Core.withNum_self (gone_num ..)).symm

/-! Control commands: they leave nothing in flight. -/

/-- Core c past a control command w that it issues at cycle i. -/
def passed (c : Core) (w : Cmd) (i : Nat) (offs : List Int) : Core :=
  { gone c w i 1 (flightOf c (synPlan [] [] 0 0 0) i w offs) with flights := c.flights }

section
variable (c : Core) (w : Cmd) (i : Nat) (offs : List Int)

@[simp] theorem passed_issued : (passed c w i offs).issued = c.issued + 1 := by simp [passed]
@[simp] theorem passed_flights : (passed c w i offs).flights = c.flights := rfl
@[simp] theorem passed_tp : (passed c w i offs).tp = i := by simp [passed]
@[simp] theorem passed_sems : (passed c w i offs).sems = c.sems := by simp [passed]
@[simp] theorem passed_active : (passed c w i offs).active = c.active := by simp [passed]

/-- A core that repeats nothing is past its command. -/
theorem passed_index (h : c.rep = none) : (passed c w i offs).index = c.index + 1 := by
  simp [passed, gone_index h]

end

theorem controlIssue_passed {faults : Core → Cmd → List (Nat × Nat)} {effect : Core → Nat → Cmd → Core → Core} (h : Ready s n op)
    (hw : CoresWf (landed s n)) (hi : FreshIds ((landed s n).core n)) (hf : faults ((landed s n).core n) (nextCmd s n) = []) :
    controlIssue s n op faults effect = .next ((landed s n).setCore n (effect ((landed s n).core n) (issueAt s n) (nextCmd s n)
      (passed ((landed s n).core n) (nextCmd s n) (issueAt s n) (offsAt s n)))) :=
  controlIssue_go h hw hi hf

/-- The core of a module that has set it, and that nothing else of the module has changed. -/
theorem core_of_setCore (hw : CoresWf u) (c : Core) : (u.setCore n c).core n = c := by
  rw [core_setCore hw, if_pos rfl]

theorem cSem_passed (c : Core) (w : Cmd) (i : Nat) (offs : List Int) (k : Nat) : cSem (passed c w i offs) k = cSem c k := by
  rw [cSem, cSem, passed_sems]

/-- A WAIT whose semaphore holds its count takes it and is over. -/
theorem endWait_fields (c : Core) (sem count cyc : Nat) :
    (endWait c sem count cyc).block = .none ∧ (endWait c sem count cyc).tp = max c.tp cyc ∧
      (endWait c sem count cyc).sems = (cSetSem c sem (cSem c sem - count)).sems ∧ (endWait c sem count cyc).issued = c.issued ∧
      (endWait c sem count cyc).flights = c.flights ∧ (endWait c sem count cyc).index = c.index := ⟨rfl, rfl, rfl, rfl, rfl, rfl⟩

theorem cSetSem_sems {c c' : Core} (h : c'.sems = c.sems) (k v : Nat) : (cSetSem c' k v).sems = (cSetSem c k v).sems := by
  rw [cSetSem, cSetSem, h]

/-- Core c once it has issued a WAIT at cycle i. -/
def waited (c : Core) (w : Cmd) (i : Nat) (offs : List Int) : Core :=
  if cCount w ≤ cSem c (bitsN (cImm w) 5 0) then endWait (passed c w i offs) (bitsN (cImm w) 5 0) (cCount w) i
  else { passed c w i offs with block := .wait (bitsN (cImm w) 5 0) (cCount w) c.index i }

theorem waited_fields {c : Core} (hrep : c.rep = none) (w : Cmd) (i : Nat) (offs : List Int) :
    (waited c w i offs).issued = c.issued + 1 ∧ (waited c w i offs).flights = c.flights ∧ (waited c w i offs).index = c.index + 1 := by
  obtain ⟨-, -, -, hissued, hflights, hindex⟩ := endWait_fields (passed c w i offs) (bitsN (cImm w) 5 0) (cCount w) i
  unfold waited
  split
  · exact ⟨hissued.trans (passed_issued c w i offs), hflights, hindex.trans (passed_index c w i offs hrep)⟩
  · exact ⟨passed_issued c w i offs, rfl, passed_index c w i offs hrep⟩

theorem waited_held {c : Core} {w : Cmd} (h : cCount w ≤ cSem c (bitsN (cImm w) 5 0)) (i : Nat) (offs : List Int) :
    (waited c w i offs).block = .none ∧ (waited c w i offs).tp = i ∧
      (waited c w i offs).sems = (cSetSem c (bitsN (cImm w) 5 0) (cSem c (bitsN (cImm w) 5 0) - cCount w)).sems := by
  obtain ⟨hblock, htp, hsems, -⟩ := endWait_fields (passed c w i offs) (bitsN (cImm w) 5 0) (cCount w) i
  rw [waited, if_pos h, hblock, htp, hsems, passed_tp, Nat.max_self, cSem_passed]
  exact ⟨rfl, rfl, cSetSem_sems (passed_sems ..) _ _⟩

theorem waited_short {c : Core} {w : Cmd} (h : cSem c (bitsN (cImm w) 5 0) < cCount w) (i : Nat) (offs : List Int) :
    (waited c w i offs).block = .wait (bitsN (cImm w) 5 0) (cCount w) c.index i ∧ (waited c w i offs).sems = c.sems := by
  rw [waited, if_neg (Nat.not_le.mpr h)]
  exact ⟨rfl, passed_sems c w i offs⟩

theorem execSynWait_passed (h : Ready s n 0xC1) (hw : CoresWf (landed s n)) (hi : FreshIds ((landed s n).core n)) :
    execSynWait n s = .next ((landed s n).setCore n (waited ((landed s n).core n) (nextCmd s n) (issueAt s n) (offsAt s n))) := by
  rw [execSynWait, controlIssue_passed h hw hi rfl, waited]
  simp only [ge_iff_le, cSem_passed]

/-- SWAP acts once the loads in progress have got as far as they have. -/
theorem execSynSwap_passed (h : Ready s n 0xC7) (hw : CoresWf (loadsPass (landed s n) n)) (hi : FreshIds ((loadsPass (landed s n) n).core n))
    (hcheck : ((loadsPass (landed s n) n).core n).check = false) :
    let u := loadsPass (landed s n) n
    let k := passed (u.core n) (nextCmd s n) (issueAt s n) (offsAt s n)
    execSynSwap n s = .next (u.setCore n { k with
      active := !k.active
      index := bitsN (cImm (nextCmd s n)) 10 0
      swapGate := issueAt s n + 8 }) :=
  controlIssue_pre h rfl hcheck hw hi rfl

/-- Settles O16, the commands that leave a flight before those that leave none. -/
theorem synCommandsIssue : Obligations.SynCommandsIssue := by
  refine ⟨?_, ?_, ?_⟩
  · intro s n hc w c i x y a pq
    refine ⟨fun h => ?_, fun h => ?_, fun h => ?_, fun h h0 h15 => ?_, fun h ha hp => ?_, fun h ha hp => ?_⟩
    · rw [exec_synNop, execSynNop, synIssue_issues h rfl]
      exact ⟨_, _, rfl, issues_plan s n _, rfl, rfl, rfl, rfl, rfl, rfl⟩
    · rw [exec_synSignal, execSynSignal, synIssue_issues h rfl]
      exact ⟨_, _, rfl, issues_plan s n _, rfl, rfl, rfl, rfl, rfl, rfl⟩
    · rw [exec_synSalu, execSynSalu, synIssue_issues h rfl]
      exact ⟨_, _, rfl, issues_plan s n _, rfl, rfl, rfl, rfl, rfl, rfl⟩
    · rw [exec_synSetp, execSynSetp, synIssue_issues h (setpFault_nil h0 h15)]
      exact ⟨_, _, rfl, issues_plan s n _, rfl, rfl, rfl, rfl, rfl, rfl⟩
    · rw [exec_synSst, execSynSst, synIssue_issues h (synAddrBad_of ha hp)]
      exact ⟨_, _, rfl, issues_plan s n _, rfl, rfl, rfl, rfl, rfl, rfl⟩
    · rw [exec_synSld, execSynSld_issues h hc ha hp]
      exact ⟨_, _, rfl, issues_plan s n _, rfl, rfl, rfl, rfl, rfl, rfl⟩
  · intro s n h hw w c
    rw [exec_synFlags, execSynFlags_issues h hw]
    exact ⟨_, flightAt s n (flagsPlan c w), rfl, rfl, rfl, rfl, rfl⟩
  · intro s n hw hi hrep w c i sem went
    refine ⟨fun h => ?_, fun h hskip => ?_, fun h => ?_, fun h hu hui hcheck => ?_, fun h => ?_⟩
    · rw [exec_synWait, execSynWait_passed h hw hi]
      obtain ⟨hissued, hflights, hindex⟩ := waited_fields hrep w i (offsAt s n)
      refine ⟨_, rfl, ?_⟩
      dsimp only [went]
      rw [core_of_setCore hw]
      exact ⟨⟨hissued, hflights, rfl⟩, hindex, fun hheld => waited_held hheld _ _, fun hshort => waited_short hshort _ _⟩
    · rw [exec_synSkip, execSynSkip, controlIssue_passed h hw hi (if_neg (Nat.not_lt.mpr hskip))]
      refine ⟨_, rfl, ?_⟩
      dsimp only [went]
      rw [core_of_setCore hw]
      exact ⟨⟨passed_issued c w i (offsAt s n), rfl, rfl⟩, rfl⟩
    · rw [exec_synRepeat, execSynRepeat, controlIssue_passed h hw hi rfl]
      refine ⟨_, rfl, ?_⟩
      dsimp only [went]
      rw [core_of_setCore hw]
      exact ⟨⟨passed_issued c w i (offsAt s n), rfl, rfl⟩, passed_index c w i (offsAt s n) hrep, rfl⟩
    · rw [exec_synSwap, execSynSwap_passed h hu hui hcheck]
      refine ⟨_, rfl, ?_⟩
      rw [core_of_setCore hu]
      exact ⟨rfl, passed_issued _ w i (offsAt s n), rfl, congrArg (!·) (passed_active _ w i (offsAt s n)), rfl, rfl⟩
    · rw [exec_synEnd, execSynEnd, controlIssue_passed h hw hi rfl]
      refine ⟨_, rfl, ?_⟩
      dsimp only [went]
      rw [core_of_setCore hw]
      exact ⟨⟨passed_issued c w i (offsAt s n), rfl, rfl⟩, rfl, rfl⟩

end Sys2Proof.Machine
end

section
/-! RSIGNAL, COLL and the answer to a STASH (R127, R137, R479). -/

namespace Sys2Proof.Machine

variable {s : State} {n occ : Nat}

/-- The plan of SYN.RSIGNAL: it waits for one reply. -/
def rsignalPlan (occ : Nat) (w : Cmd) : Plan :=
  { faults := []
    accs := readsS [cSA w]
    occ := occ
    rd := 0
    ws := 0
    wv := 0
    vlat := true
    waiting := 1 }

theorem execSynRsignal_issues (h : Ready s n 0xC3) (hsem : (semOfAddr (cS ((landed s n).core n) (cSA (nextCmd s n))).toNat).isSome = true) :
    let t := issuedAt s n (rsignalPlan occ (nextCmd s n))
    let fid := ((landed s n).core n).nextFlight
    execSynRsignal n occ s = .next (sendAll t n fid
      [coreReq t n fid 0x00 .sig tySIG 2 (cS ((landed s n).core n) (cSA (nextCmd s n))).toNat 0 0 [] (cCount (nextCmd s n)) 0 0]) := by
  have hnone : (semOfAddr (cS ((landed s n).core n) (cSA (nextCmd s n))).toNat).isNone = false := by
    rw [← Option.not_isSome, hsem]
    rfl
  rw [execSynRsignal, issueCmd_go h]
  dsimp only
  rw [hnone, issuePlan_gone h.unchecked rfl]
  rfl

/-- The plan of SYN.COLL: its work is done where its collective ends. -/
def collPlan (s : State) (n occ : Nat) (w : Cmd) (k : Nat) : Plan :=
  { faults := []
    accs := readsS [cSA w] ++ [⟨.plane false k 1 192 0, false, false⟩, ⟨.scalar (cSD w), true, false⟩,
      ⟨.plane false (pewKey n (dRecord (s.descAt k))) 1 64 0, true, false⟩]
    occ := occ
    rd := 0
    ws := 0
    wv := 0
    vlat := true
    waiting := 1
    formed := false }

theorem execSynColl_issues (h : Ready s n 0xCD) (hc : Clean (landed s n)) (hs : (landed s n).snoops = [])
    (halign : synAddr ((landed s n).core n) (nextCmd s n) % 64 = 0)
    (hinside : synAddr ((landed s n).core n) (nextCmd s n) + 192 ≤ pewterBytes)
    (hgood : (landed s n).launchGood ((landed s n).descAt (pewKey n (synAddr ((landed s n).core n) (nextCmd s n)))) = true)
    (hroom : (landed s n).colls.length < 1024) :
    let k := pewKey n (synAddr ((landed s n).core n) (nextCmd s n))
    execSynColl n occ s = .next ((issuedAt s n (collPlan (landed s n) n occ (nextCmd s n) k)).askColl
      (.core n ((landed s n).core n).nextFlight 0) (coreFlow ((landed s n).core n)) k n) := by
  intro k
  have hclean : ∀ c a, ((landed s n).setCore n c).badIn a 192 = [] := fun c a => badIn_clean (s := (landed s n).setCore n c) hc a 192
  have hplace : (if synAddr ((landed s n).core n) (nextCmd s n) % 64 = 0 ∧
      ((true : Bool) = false ∨ (landed s n).launchGood ((landed s n).descAt k) = true) then [] else [((0x02 : Nat), (0x02 : Nat))]) = [] :=
    if_pos ⟨halign, .inr hgood⟩
  rw [execSynColl, issueCmd_go h]
  dsimp only
  rw [gated_free hs, decide_eq_true hinside, hplace, if_pos rfl, List.nil_append, issuePlan_gone h.unchecked rfl]
  dsimp only
  rw [if_neg (by decide)]
  rw [hclean, meet_nil, setCore_colls, if_pos hroom]
  rfl

/-- The core that the pool manager's answer to a STASH leaves: S[D.EBASE] holds the buffer, P15 whether there was none. -/
def stashAnswered (c : Core) (e cyc occ a : Nat) (p : Bool) : Core :=
  { cSetP (cSetS c e (BitVec.ofNat 64 a)) 15 p with
    block := .none
    tp := max c.tp cyc
    movEnd := max c.tp cyc + occ }

theorem stashAnswered_eq (c : Core) (e cyc occ a : Nat) (p : Bool) :
    stashAnswered c e cyc occ a p =
      let d := cSetP (cSetS c e (BitVec.ofNat 64 a)) 15 p
      { d with
        block := .none
        tp := max d.tp cyc
        movEnd := max d.tp cyc + occ } := by
  simp only [stashAnswered, cSetP_tp, cSetS_tp]

/-- The stash that waits is answered on the cycle on which its request is served. -/
theorem execStashPoolReply_of {fid cyc : Nat} {f : Flight} (hblock : (s.core n).block = .stash fid) (hf : findFlight (s.core n) fid = some f)
    (hs : s.snoops = []) :
    execStashPoolReply n cyc occ s =
      let g := stashSource s (coreAtIssue (s.core n) f) n f.cmd f.offs
      let r := stashRequest (landUpTo s n cyc) n (cSubop f.cmd) (cDim0 f.cmd * cDim1 f.cmd)
      let c := stashAnswered (r.2.core n) (bitsN (cOpd f.cmd 1) 4 0) cyc occ (r.1.getD 0) r.1.isNone
      let v := r.2.setCore n c
      match r.1 with
      | none => .next (completeFlight v n { f with formed := true } cyc)
      | some _ =>
        let f := { f with buffer := BitVec.ofNat 64 (r.1.getD 0) }
        if g.remote then
          let us := rdReqs v n fid 0x02 false g
          .next (sendAll (v.setFlight n { f with waiting := us.length }) n fid us)
        else
          let f := { f with
            writes := stashWrites v v.view (coreAtIssue c f) n f
            formed := true }
          .next ((v.meet (meetGot v [g])).setFlight n f) := by
  unfold execStashPoolReply
  rw [hblock]
  dsimp only
  rw [hf]
  dsimp only
  rw [gated_free hs]
  simp only [stashAnswered_eq] <;> rfl

section
variable {fid cyc : Nat} {f : Flight} (hblock : (s.core n).block = .stash fid) (hf : findFlight (s.core n) fid = some f) (hs : s.snoops = [])
include hblock hf hs

/-- No buffer: the stash completes at once, with P15 set. -/
theorem execStashPoolReply_none (hnone : (stashRequest (landUpTo s n cyc) n (cSubop f.cmd) (cDim0 f.cmd * cDim1 f.cmd)).1 = none) :
    let r := stashRequest (landUpTo s n cyc) n (cSubop f.cmd) (cDim0 f.cmd * cDim1 f.cmd)
    execStashPoolReply n cyc occ s =
      .next (completeFlight (r.2.setCore n (stashAnswered (r.2.core n) (bitsN (cOpd f.cmd 1) 4 0) cyc occ 0 true)) n
        { f with formed := true } cyc) := by
  rw [execStashPoolReply_of hblock hf hs]
  dsimp only
  rw [hnone]
  rfl

/-- A buffer, and a source here: the copy is formed from what the source holds now. -/
theorem execStashPoolReply_some {a : Nat}
    (hsome : (stashRequest (landUpTo s n cyc) n (cSubop f.cmd) (cDim0 f.cmd * cDim1 f.cmd)).1 = some a)
    (hclean : Clean ((stashRequest (landUpTo s n cyc) n (cSubop f.cmd) (cDim0 f.cmd * cDim1 f.cmd)).2.setCore n
      (stashAnswered ((stashRequest (landUpTo s n cyc) n (cSubop f.cmd) (cDim0 f.cmd * cDim1 f.cmd)).2.core n)
        (bitsN (cOpd f.cmd 1) 4 0) cyc occ a false)))
    (hhere : (stashSource s (coreAtIssue (s.core n) f) n f.cmd f.offs).remote = false) :
    let r := stashRequest (landUpTo s n cyc) n (cSubop f.cmd) (cDim0 f.cmd * cDim1 f.cmd)
    let c := stashAnswered (r.2.core n) (bitsN (cOpd f.cmd 1) 4 0) cyc occ a false
    let v := r.2.setCore n c
    let g := { f with buffer := BitVec.ofNat 64 a }
    execStashPoolReply n cyc occ s = .next (v.setFlight n { g with
      writes := stashWrites v v.view (coreAtIssue c g) n g
      formed := true }) := by
  rw [execStashPoolReply_of hblock hf hs]
  dsimp only
  rw [hsome, hhere]
  dsimp only [Option.getD_some, Option.isNone_some]
  rw [if_neg (by decide), meetGot_clean hclean, meet_nil]

end

/-- Settles O17. -/
theorem synActsOutside : Obligations.SynActsOutside := by
  intro s n occ w c
  refine ⟨fun h hsem => ?_, ?_, ?_⟩
  · exact ⟨_, _, issues_plan s n (rsignalPlan occ w), rfl, rfl, by rw [exec_synRsignal, execSynRsignal_issues h hsem]⟩
  · intro a d h hc hs halign hinside hgood hroom
    exact ⟨_, _, issues_plan s n (collPlan (landed s n) n occ w (pewKey n (synAddr c w))), rfl, rfl,
      (exec_synColl n occ s).trans (execSynColl_issues h hc hs halign hinside hgood hroom)⟩
  · intro fid f cyc hblock hf hs u r e k
    refine ⟨fun hnone => ?_, ?_⟩
    · exact (exec_stashPoolReply n cyc occ s).trans (execStashPoolReply_none hblock hf hs hnone)
    · intro a hsome hclean v g hhere
      exact (exec_stashPoolReply n cyc occ s).trans (execStashPoolReply_some hblock hf hs hsome hclean hhere)

end Sys2Proof.Machine
end

section
/-! LAUNCH_START (R103). -/

namespace Sys2Proof.Machine

/-- A table after a run of entries is written, each from its number. -/
theorem tabGet_foldl_tabSet {α : Type} [DecidableEq α] {d g : Nat → α} (l : List Nat) {t : Tab α} (ht : tabWf d t = true) (j : Nat) :
    tabGet d (l.foldl (fun t k => tabSet d t k (g k)) t) j = if j ∈ l then g j else tabGet d t j := by
  induction l generalizing t with
  | nil => rw [if_neg List.not_mem_nil]; rfl
  | cons k l ih =>
    rw [List.foldl_cons, ih (tabSet_wf ht), tabGet_tabSet ht]
    by_cases hj : j ∈ l
    · rw [if_pos hj, if_pos (List.mem_cons_of_mem k hj)]
    · by_cases hk : j = k
      · rw [if_neg hj, if_pos hk, if_pos (List.mem_cons.mpr (.inl hk)), hk]
      · rw [if_neg hj, if_neg hk, if_neg (by simp [hj, hk])]

theorem foldl_tabSet_wf {α : Type} [DecidableEq α] {d g : Nat → α} (l : List Nat) {t : Tab α} (ht : tabWf d t = true) :
    tabWf d (l.foldl (fun t k => tabSet d t k (g k)) t) = true := by
  induction l generalizing t with
  | nil => exact ht
  | cons k l ih => exact ih (tabSet_wf ht)

/-- A launched program's scalars: its arguments, the module's identity and the logical core's number. -/
theorem cS_launched (s : State) (n : Nat) (c : Core) (l : Launch) {k : Nat} (hk : 1 ≤ k) :
    cS (launched s n c l) k =
      if k = 31 then BitVec.ofNat 64 (s.logicalOf n) else if k = 30 then BitVec.ofNat 64 s.flatId
      else if k ≤ 7 then l.args.getD (k - 1) 0 else 0 := by
  have hwf : tabWf (fun _ => (0 : Word)) ((upFrom 1 7).foldl (fun t k => tabSet (fun _ => 0) t k (l.args.getD (k - 1) 0)) []) = true :=
    foldl_tabSet_wf _ rfl
  have hargs : k ∈ upFrom 1 7 ↔ k ≤ 7 := by
    rw [mem_upFrom]
    omega
  rw [cS, if_neg (by omega)]
  show tabGet _ (tabSet _ (tabSet _ ((upFrom 1 7).foldl _ []) 30 _) 31 _) k = _
  rw [tabGet_tabSet (tabSet_wf hwf), tabGet_tabSet hwf, tabGet_foldl_tabSet _ rfl, ite_congr (propext hargs) (fun _ => rfl) fun _ => rfl]
  rfl

theorem cP_launched (s : State) (n : Nat) (c : Core) (l : Launch) {k : Nat} (hk : 1 ≤ k) : cP (launched s n c l) k = false := by
  rw [cP, if_neg (by omega)]
  rfl

/-- An IDLE core of a module that starts work takes the oldest launch. -/
theorem exec_launchStart_takes {s : State} {n : Nat} {x : Launch} {q : List Launch} (hidle : (s.core n).mode = .idle)
    (hlogical : s.logicalOf n ≠ 0xFF) (h2 : s.modState ≠ 2) (h3 : s.modState ≠ 3) (hq : s.launches (s.logicalOf n) = x :: q) :
    exec (.launchStart n) s = .next (((loadsPass s n).setLaunches (s.logicalOf n) q).setCore n
      (launched (loadsPass s n) n ((loadsPass s n).core n) x)) := by
  rw [exec_launchStart, execLaunchStart]
  dsimp only
  rw [hq]
  dsimp only
  rw [if_pos ⟨hidle, hlogical, h2, h3⟩]

/-- Settles O18. -/
theorem launchStartsProgram : Obligations.LaunchStartsProgram := by
  intro s n x q hidle hlogical h2 h3 hq u
  refine ⟨_, exec_launchStart_takes hidle hlogical h2 h3 hq, rfl, rfl, rfl, fun k h1 h7 => ?_, fun k h8 h29 => ?_, ?_, ?_,
    fun k hk => cP_launched _ _ _ _ hk, fun _ => rfl, rfl, rfl, rfl, rfl, rfl, rfl, rfl, rfl, rfl, rfl⟩
  · rw [cS_launched _ _ _ _ h1, if_neg (by omega), if_neg (by omega), if_pos h7]
  · rw [cS_launched _ _ _ _ (by omega), if_neg (by omega), if_neg (by omega), if_neg (by omega)]
  · rw [cS_launched _ _ _ _ (by decide), if_neg (by decide), if_pos rfl]
  · rw [cS_launched _ _ _ _ (by decide), if_pos rfl]

end Sys2Proof.Machine
end

section
/-! Halts from outside a program, and what leaves DRAINING and HALTED (R118, R136, R140, R151 to R155, R163). -/

namespace Sys2Proof.Machine

variable {s : State} {n cyc : Nat}

/-! Halts. -/

/-- A condition of cycle t on a core that still runs when all that lands by then has. -/
theorem haltAt_running {t : Nat} (h : ((landUpTo s n t).core n).mode = .running) (code : Nat) :
    haltAt s n code t = (landUpTo s n t).setCore n
      (haltingAs ((landUpTo s n t).core n) code 0 ((landUpTo s n t).core n).index t) := by
  rw [haltAt, if_pos h, haltCore_running h rfl]

theorem wordIllegal_of_unlisted {w : Cmd} (h : opcodeListed (cOpcode w) = false) (free : Bool) : wordIllegal w free = true := by
  rw [wordIllegal, h]
  rfl

/-- A command that is not in the table halts whatever its predicate. -/
theorem issueCmd_unlisted (hrun : (s.core n).mode = .running) (hfree : blocked (s.core n) = false) (hin : (s.core n).index < 2048)
    (hlimit : (s.core n).limit = 0 ∨ (s.core n).issued < (s.core n).limit) (hop : opcodeListed (cOpcode (nextCmd s n)) = false)
    (hlanded : ((landed s n).core n).mode = .running) :
    issueCmd s n (fun op => !opcodeListed op) =
      .ended ((landed s n).setCore n (haltingAs ((landed s n).core n) 0x01 0 ((landed s n).core n).index (issueAt s n))) := by
  have hillegal : illegalHere ((landed s n).core n) (nextCmd s n) = true := by
    rw [illegalHere, wordIllegal_of_unlisted hop]
    rfl
  rw [← haltCore_running hlanded rfl]
  have hlim : ¬((s.core n).limit ≠ 0 ∧ (s.core n).limit ≤ (s.core n).issued) := by omega
  simp only [nextCmd, issueAt, landed] at *
  rw [issueCmd]
  simp [hrun, hfree, Nat.not_le.mpr hin, hlim, hop, hlanded, hillegal]

theorem exec_haltLimit_reached (hrun : (s.core n).mode = .running) (hfree : blocked (s.core n) = false) (hin : (s.core n).index < 2048)
    (hlimit : (s.core n).limit ≠ 0) (hreached : (s.core n).limit ≤ (s.core n).issued) (hlanded : ((landed s n).core n).mode = .running) :
    exec (.haltLimit n) s =
      .next ((landed s n).setCore n (haltingAs ((landed s n).core n) 0x04 0 ((landed s n).core n).index (issueAt s n))) := by
  rw [exec_haltLimit, execHaltLimit]
  rw [if_pos ⟨hrun, hfree, hin, hlimit, hreached⟩]
  exact congrArg Host.Outcome.next (haltAt_running hlanded 0x04)

theorem exec_haltHost_running (hrun : (s.core n).mode = .running)
    (hlanded : ((landUpTo s n (max cyc (s.core n).tp)).core n).mode = .running) :
    let t := max cyc (s.core n).tp
    exec (.haltHost n cyc) s =
      .next ((landUpTo s n t).setCore n (haltingAs ((landUpTo s n t).core n) 0x08 0 ((landUpTo s n t).core n).index t)) := by
  rw [exec_haltHost, execHaltHost, if_pos hrun, haltAt_running hlanded]

theorem exec_waitTimeout_short {sem count idx since : Nat} (hblock : (s.core n).block = .wait sem count idx since)
    (hon : s.rfld Reg.coreSemTimeout 31 0 ≠ 0) (hshort : cSem ((landUpTo s n cyc).core n) sem < count)
    (hlanded : ((landUpTo s n cyc).core n).mode = .running) :
    exec (.waitTimeout n cyc) s = .next ((landUpTo s n cyc).setCore n (haltingAs ((landUpTo s n cyc).core n) 0x06 sem idx cyc)) := by
  rw [exec_waitTimeout, execWaitTimeout, hblock]
  dsimp only
  rw [if_neg hon, if_neg (Nat.not_le.mpr hshort), haltCore_running hlanded rfl]

/-! What leaves DRAINING. -/

/-- The dump written, a core that ran a launch enters HALTED. -/
theorem enterHalted_of {lost : Nat} {l : Launch} (hl : ((writeDump (loadsPass s n) n lost).core n).launch = some l) :
    enterHalted s n lost = haltedOf (writeDump (loadsPass s n) n lost) n l := by
  rw [enterHalted]
  rw [hl]
  rfl

theorem exec_endDrainDone_of {code : Nat} {l : Launch} (hmode : (s.core n).mode = .draining) (hend : (s.core n).ending = some code)
    (hfixed : noVariable (s.core n) = true) (hstill : ((drained s n).core n).ending.isSome = true)
    (hl : ((loadsPass (drained s n) n).core n).launch = some l) :
    let v := loadsPass (drained s n) n
    exec (.endDrainDone n) s = .next ((v.setCore n { v.core n with
      mode := .idle
      launch := none
      ending := none
      pends := [] }).finishWork l.work stOK (BitVec.ofNat 64 code) 0) := by
  have hgoes : ((landUpTo s n (lastWv (s.core n))).core n).ending.isNone = false := by
    rw [← Option.not_isSome, show ((landUpTo s n (lastWv (s.core n))).core n).ending.isSome = true from hstill]
    rfl
  rw [exec_endDrainDone, execEndDrainDone]
  dsimp only
  rw [hend]
  dsimp only
  rw [if_pos ⟨hmode, hfixed⟩, hgoes, if_neg (by decide), show ((loadsPass (landUpTo s n (lastWv (s.core n))) n).core n).launch = some l from hl]
  rfl

theorem exec_haltDrainDone_of {l : Launch} (hmode : (s.core n).mode = .draining) (hend : (s.core n).ending = none)
    (hfixed : noVariable (s.core n) = true) (htime : lastWv (s.core n) ≤ (s.core n).haltCycle + drainCycles)
    (hl : ((writeDump (loadsPass (drained s n) n) n 0).core n).launch = some l) :
    exec (.haltDrainDone n) s = .next (haltedOf (writeDump (loadsPass (drained s n) n) n 0) n l) := by
  rw [exec_haltDrainDone, execHaltDrainDone]
  dsimp only
  rw [if_pos ⟨hmode, hend, hfixed, htime⟩]
  exact congrArg Host.Outcome.next (enterHalted_of hl)

theorem exec_haltDrainTimeout_of {l : Launch} (hmode : (s.core n).mode = .draining) (hend : (s.core n).ending = none) :
    let x := landUpTo s n (min (max cyc (s.core n).haltCycle) ((s.core n).haltCycle + drainCycles))
    let v := writeDump (loadsPass (abandonCore x n) n) n (x.core n).flights.length
    (v.core n).launch = some l → exec (.haltDrainTimeout n cyc) s = .next (haltedOf v n l) := by
  intro x v hl
  rw [exec_haltDrainTimeout, execHaltDrainTimeout]
  dsimp only
  rw [if_pos ⟨hmode, hend⟩]
  exact congrArg Host.Outcome.next (enterHalted_of hl)

/-! What leaves HALTED, and a warm reset. -/

theorem exec_clearHalt_halted (h : (s.core n).mode = .halted) :
    exec (.clearHalt n) s = .next (s.setCore n { s.core n with
      mode := .idle
      haltCode := 0
      haltDetail := 0
      haltBank := false
      haltIndex := 0
      second := 0 }) := by
  rw [exec_clearHalt, execClearHalt]
  dsimp only
  rw [if_pos h]

theorem haltImage_zero {c : Core} (hcode : c.haltCode = 0) (hdetail : c.haltDetail = 0) (hbank : c.haltBank = false)
    (hindex : c.haltIndex = 0) (hsecond : c.second = 0) : haltImage c = 0 := by
  rw [haltImage, hcode, hdetail, hbank, hindex, hsecond]
  rfl

/-- What a warm reset leaves of a core. -/
def warmCore (c : Core) : Core :=
  { coreReset with
    bank0 := c.bank0
    bank1 := c.bank1
    active := c.active
    index := c.index
    haltSeq := c.haltSeq
    nextFlight := c.nextFlight
    issued := c.issued }

theorem warmCore_banks (c : Core) : (warmCore c).bank0 = c.bank0 ∧ (warmCore c).bank1 = c.bank1 :=
  ⟨rfl, rfl⟩

theorem exec_coreReset_unlaunched (h : ((abandonCore s n).core n).launch = none) :
    exec (.coreReset n) s = .next ((abandonCore s n).setCore n (warmCore ((abandonCore s n).core n))) := by
  rw [exec_coreReset, execCoreReset, stopCore, warmReset]
  dsimp only
  rw [h]
  rfl

/-- Settles O19. -/
theorem haltsAndLeaves : Obligations.HaltsAndLeaves := by
  constructor
  · intro s n cyc c halt
    refine ⟨fun hrun hfree hin hlimit hop hlanded => ?_, exec_haltLimit_reached, exec_haltHost_running,
      fun sem count idx since => exec_waitTimeout_short⟩
    rw [exec_undefinedOpcode, execUndefinedOpcode, issueCmd_unlisted hrun hfree hin hlimit hop hlanded]
  · intro s n u c
    refine ⟨fun code l => exec_endDrainDone_of, fun l => exec_haltDrainDone_of, fun cyc l => exec_haltDrainTimeout_of, fun hhalted => ?_,
      ?_, fun inc hinc => ?_⟩
    · exact ⟨_, exec_clearHalt_halted hhalted, rfl, haltImage_zero rfl rfl rfl rfl rfl, rfl, rfl, rfl, rfl, rfl, rfl⟩
    · intro v hl
      exact ⟨_, exec_coreReset_unlaunched hl, rfl, rfl, rfl, rfl, rfl, haltImage_zero rfl rfl rfl rfl rfl, rfl, rfl, rfl, warmCore_banks _⟩
    · refine ⟨_, exec_flushClear n inc s, ?_, rfl⟩
      show (BitVec.ofNat 32 (min inc 0xFFFFFFFF)).toNat = inc
      rw [Nat.min_eq_left (by omega), BitVec.toNat_ofNat, Nat.mod_eq_of_lt hinc]

end Sys2Proof.Machine
end

section
/-! Completion of the commands in flight, and of a blocked WAIT (R128, R129, R132 to R134). -/

namespace Sys2Proof.Machine

variable {s : State} {n cyc : Nat}

/-! Fixed latency. -/

/-- The block of a core after a landing: a WAIT that the landing gives its count is marked with the landing's cycle. -/
def markedBlock (c0 c : Core) (wv : Nat) : Block := (markWait c0 c wv).block

theorem markWait_block (c0 c : Core) (wv : Nat) : markWait c0 c wv = { c with block := markedBlock c0 c wv } := by
  unfold markedBlock markWait
  split
  · split <;> rfl
  · rfl

theorem markedBlock_of_wait {c0 c : Core} {wv sem count idx since : Nat} (h : c.block = .wait sem count idx since) :
    ∃ at_, markedBlock c0 c wv = .wait sem count idx at_ := by
  rw [markedBlock, markWait, h]
  dsimp only
  by_cases hgives : cSem c0 sem < count ∧ cSem c sem ≥ count
  · exact ⟨wv, by rw [if_pos hgives]⟩
  · exact ⟨since, by rw [if_neg hgives, h]⟩

theorem markedBlock_of_not_wait {c0 c : Core} {wv : Nat} (h : ∀ sem count idx since, c.block ≠ .wait sem count idx since) :
    markedBlock c0 c wv = c.block := by
  rw [markedBlock, markWait]
  split
  · next sem count idx since hblock => exact absurd hblock (h sem count idx since)
  · rfl

theorem exec_fixedWriteback_of {f : Flight} (hf : nextFixed (s.core n) (lastWv (s.core n)) = some f)
    (hearly : ∀ i, nextIssue (s.core n) = some i → f.wv ≤ i) :
    exec (.fixedWriteback n) s = .next ((completeFlight s n f f.wv).setCore n
      (markWait (s.core n) ((completeFlight s n f f.wv).core n) f.wv)) := by
  rw [exec_fixedWriteback, execFixedWriteback]
  dsimp only
  rw [hf]
  dsimp only
  cases hi : nextIssue (s.core n) with
  | none => rfl
  | some i => exact if_neg fun hlate => Nat.not_lt.mpr (hearly i hi) (of_decide_eq_true hlate)

/-! Variable latency. -/

theorem exec_varCommandComplete_of {fid : Nat} {x : Flight} (hfind : findFlight (s.core n) fid = some x) (hvlat : x.vlat = true)
    (hformed : x.formed = true) (hwaiting : x.waiting = 0) (hop : x.op ≠ 0xCD) (hsnoops : s.snoops = [])
    (hstill : findFlight ((landUpTo s n cyc).core n) fid = some x) :
    exec (.varCommandComplete n fid cyc) s = .next (finishFlight (landUpTo s n cyc) n x cyc) := by
  have hready : (x.vlat && x.formed && x.waiting == 0 && x.op != 0xCD) = true := by simp [hvlat, hformed, hwaiting, hop]
  rw [exec_varCommandComplete, execVarCommandComplete, hfind]
  dsimp only
  rw [if_pos hready, gated_free hsnoops, hstill]

/-- Only an update, an atomic and a load of the bank have work of their own at completion. -/
theorem finishFlight_plain {x : Flight} (h : x.op ∉ [0x50, 0x84, 0x87]) : finishFlight s n x cyc = completeFlight s n x cyc := by
  simp only [List.mem_cons, List.not_mem_nil, or_false, not_or] at h
  obtain ⟨hupd, hatom, hload⟩ := h
  rw [finishFlight]
  split
  · exact absurd ‹_› hatom
  · exact absurd ‹_› hload
  · exact absurd ‹_› hupd
  · rfl

/-! A blocked WAIT. -/

/-- Nothing of the core is due, so nothing lands. -/
theorem landForWait_none {sem count t fuel : Nat} (h : nextFixed (s.core n) t = none) : landForWait s n sem count t t (fuel + 1) = (s, t) := by
  rw [landForWait, ite_self, h]

theorem exec_waitSatisfied_of {sem count idx since : Nat} (hblock : (s.core n).block = .wait sem count idx since)
    (hcount : cSem (s.core n) sem ≥ count) (hsince : since = (s.core n).tp) (hnone : nextFixed (s.core n) cyc = none) :
    exec (.waitSatisfied n cyc) s = .next (s.setCore n (endWait (s.core n) sem count cyc)) := by
  have hgiven : ¬(since ≠ (s.core n).tp ∧ cSem (s.core n) sem ≥ count) := fun h => h.1 hsince
  rw [exec_waitSatisfied, execWaitSatisfied, hblock]
  dsimp only
  rw [if_neg hgiven, landForWait_none hnone]
  dsimp only
  rw [hblock]
  exact if_pos hcount

/-- Settles O20. -/
theorem commandsComplete : Obligations.CommandsComplete := by
  intro s n
  refine ⟨?_, fun fid cyc x hfind hvlat hformed hwaiting hop hsnoops hstill =>
    ⟨exec_varCommandComplete_of hfind hvlat hformed hwaiting hop hsnoops hstill, finishFlight_plain⟩, ?_⟩
  · intro f hf hearly u
    refine ⟨markedBlock (s.core n) (u.core n) f.wv, ?_, fun sem count idx since => markedBlock_of_wait, markedBlock_of_not_wait⟩
    rw [exec_fixedWriteback_of hf hearly, markWait_block]
  · intro sem count idx since cyc hblock hcount hsince hnone
    exact ⟨_, exec_waitSatisfied_of hblock hcount hsince hnone, rfl, rfl, rfl, rfl, rfl, rfl, rfl⟩

end Sys2Proof.Machine
end

section
/-! WR, RD, ATOM, SIG and FLOW at the module that they reach (R137, R250, R253, R351, R364). -/

namespace Sys2Proof.Machine

variable {s s' : State} {d : Delivered} {k c : Nat}

/-! Where an access goes. -/

theorem reach_outside {a len : Nat} (h : s.localKey a len = none) :
    s.reach a len = .error (if s.modState = mTUNGSTEN ∧ s.noCore a len = true then 2 else 1) := by
  rw [State.reach, h]

theorem reach_lost {a len : Nat} (h : s.localKey a len = some k) (htungsten : s.modState = mTUNGSTEN)
    (hlost : s.runLost k len = true) : s.reach a len = .error 2 := by
  rw [State.reach, h]
  exact if_pos ⟨htungsten, hlost⟩

theorem rdMem_clean {len : Nat} (h : s.badIn k len = []) : s.rdMem k len = (s.mbytes k len, s) := by
  rw [State.rdMem, h, meet_nil]

/-! The rows. -/

theorem exec_wr_served (hs : s.snoops = []) (ht : s.takeType tyWR = some (d, s'))
    (hr : s.reach (fAddr d.frame).toNat d.frame.payload.length = .ok k) :
    exec .wr s = .next ((s'.mputBytes k d.frame.payload).answer d tyWRACK 0 0 0 []) := by
  rw [exec_wr, execWr, ht]
  dsimp only
  rw [hr]
  exact gated_free hs

theorem exec_wr_refused (ht : s.takeType tyWR = some (d, s'))
    (hr : s.reach (fAddr d.frame).toNat d.frame.payload.length = .error c) :
    exec .wr s = .next (s'.answer d tyERR c 0 0 []) := by
  rw [exec_wr, execWr, ht]
  dsimp only
  rw [hr]
  rfl

theorem exec_rd_served (hs : s.snoops = []) (ht : s.takeType tyRD = some (d, s'))
    (hr : s.reach (fAddr d.frame).toNat (fAux d.frame % 2 ^ 13) = .ok k)
    (hlow : 1 ≤ fAux d.frame % 2 ^ 13) (hhigh : fAux d.frame % 2 ^ 13 ≤ 4096) (hclean : s'.badIn k (fAux d.frame % 2 ^ 13) = []) :
    exec (.rd []) s =
      .next (s'.draw.2.answer d tyRDDATA 0 s'.draw.1 0 (s'.mbytes k (fAux d.frame % 2 ^ 13))) := by
  have hlength : ¬(fAux d.frame % 2 ^ 13 = 0 ∨ 4096 < fAux d.frame % 2 ^ 13) := by omega
  rw [exec_rd, execRd, ht]
  dsimp only
  rw [hr]
  dsimp only
  rw [if_neg hlength, gated_free hs, rdMem_clean hclean]
  rfl

theorem exec_rd_refused {errs : List (Nat × Bool)} (ht : s.takeType tyRD = some (d, s'))
    (hr : s.reach (fAddr d.frame).toNat (fAux d.frame % 2 ^ 13) = .error c) :
    exec (.rd errs) s = .next (s'.answer d tyERR c 0 0 []) := by
  rw [exec_rd, execRd, ht]
  dsimp only
  rw [hr]
  rfl

theorem exec_atom_served (hs : s.snoops = []) (ht : s.takeType tyATOM = some (d, s'))
    (hr : s.reach (fAddr d.frame).toNat 8 = .ok k) (haligned : (fAddr d.frame).toNat % 8 = 0) (hsub : fAux d.frame % 8 < 5)
    (hclean : s'.badIn k 8 = []) :
    exec .atom s = .next ((s'.mputWord k (atomNew (fAux d.frame % 8) (s'.mword k) (fArg d.frame 0) (fArg d.frame 1))).answer
      d tyATOMRSP 0 0 (s'.mword k) []) := by
  rw [exec_atom, execAtom, ht]
  dsimp only
  rw [hr]
  dsimp only
  rw [if_neg (not_not_intro haligned), gated_free hs, rdMem_clean hclean]
  dsimp only
  rw [if_pos hsub]

theorem exec_atom_refused (ht : s.takeType tyATOM = some (d, s')) (hr : s.reach (fAddr d.frame).toNat 8 = .error c) :
    exec .atom s = .next (s'.answer d tyERR c 0 0 []) := by
  rw [exec_atom, execAtom, ht]
  dsimp only
  rw [hr]
  rfl

theorem exec_sig_served {n sem : Nat} (ht : s.takeType tySIG = some (d, s')) (hsem : semOfAddr (fAddr d.frame).toNat = some (n, sem))
    (hstate : s.modState ≠ mTUNGSTEN) :
    exec .sig s = .next ((semAddOutside s' n sem (fAux d.frame % 65536)).answer d tySIGACK 0 0 0 []) := by
  rw [exec_sig, execSig, ht]
  dsimp only
  rw [hsem]
  exact if_neg fun h => hstate h.1

theorem exec_flow_served (hs : s.snoops = []) (ht : s.takeType tyFLOW = some (d, s'))
    (hr : s.reach (fAddr d.frame).toNat d.frame.payload.length = .ok k) :
    exec .flow s = .next (s'.mputBytes k d.frame.payload) := by
  rw [exec_flow, execFlow, ht]
  dsimp only
  rw [hr]
  exact gated_free hs

/-- Settles O25. -/
theorem requestFramesServed : Obligations.RequestFramesServed := by
  intro s s' d hs a n m
  exact ⟨fun k => exec_wr_served hs, fun k => exec_rd_served hs, fun k => exec_atom_served hs, fun n sem => exec_sig_served,
    fun k => exec_flow_served hs, fun c => ⟨exec_wr_refused, fun ht hr e => exec_rd_refused ht hr, exec_atom_refused⟩,
    fun x len => reach_outside, fun x len k => reach_lost⟩

end Sys2Proof.Machine
end

section
/-! MSG frames: placed in a buffer, tried again, dropped (R364, R366). -/

namespace Sys2Proof.Machine

variable {s u : State} {d : Delivered} {a i : Nat}

/-- The module once a MSG stands in the buffer at address a. -/
def msgPlaced (u : State) (d : Delivered) (a : Nat) : State :=
  ((u.ownPut a d.frame.payload).actedOn d).answer d tyMSGACK 0 0 (BitVec.ofNat 64 a) []

theorem tryMsg_granted (h : poolRequest s (msgSet s d) d.frame.payload.length = (some a, u)) :
    s.tryMsg d = (msgPlaced u d a, true) := by
  rw [msgSet, msgCore] at h
  rw [State.tryMsg, h]
  rfl

theorem tryMsg_refused (h : poolRequest s (msgSet s d) d.frame.payload.length = (none, u)) : s.tryMsg d = (u, false) := by
  rw [msgSet, msgCore] at h
  rw [State.tryMsg, h]

/-! The first try. -/

/-- MSG in a module that works: what the try of the frame, taken from those delivered, gives. -/
theorem exec_msg_tried (hs : s.snoops = []) (hd : s.firstDeliv tyMSG = some d) (hstate : s.modState ≠ mTUNGSTEN) {t : State} {b : Bool}
    (htry : ({ s with deliv := s.deliv.erase d }).tryMsg d = (t, b)) :
    exec .msg s = .next (if b then t else { t with msgWait := t.msgWait ++ [{ d with since := some s.clock }] }) := by
  rw [exec_msg, execMsg, hd]
  dsimp only
  rw [if_neg fun h => hstate h.1, gated_free hs, htry]
  cases b <;> rfl

theorem exec_msg_lost (hd : s.firstDeliv tyMSG = some d) (hstate : s.modState = mTUNGSTEN)
    (hlost : s.partLost (49 + s.physOf (msgCore d) / 96) = true ∨ msgCore d < s.coresEnabled ∧ 192 ≤ s.physOf (msgCore d)) :
    exec .msg s = .next ((({ s with deliv := s.deliv.erase d }).actedOn d).answer d tyERR 2 0 0 []) := by
  rw [exec_msg, execMsg, hd]
  exact if_pos ⟨hstate, hlost⟩

/-! A MSG that waits. -/

theorem exec_msgDeliverRetry_tried (hs : s.snoops = []) (hd : s.msgWait[i]? = some d) {t : State} {b : Bool} (htry : s.tryMsg d = (t, b)) :
    exec (.msgDeliverRetry i) s = .next (if b then { t with msgWait := t.msgWait.eraseIdx i } else t) := by
  rw [exec_msgDeliverRetry, execMsgDeliverRetry, hd]
  dsimp only
  rw [gated_free hs, htry]
  cases b <;> rfl

theorem exec_deliverDrop_waiting (hd : s.msgWait[i]? = some d) :
    exec (.deliverDrop i) s = .next ((({ s with msgWait := s.msgWait.eraseIdx i }.actedOn d).countCause .deliverDrop d.inPort d.port
      d.frame 0).answer d tyMSGACK 0 0 0 []) := by
  rw [exec_deliverDrop, execDeliverDrop, hd]

/-- Settles O27. -/
theorem messagesDelivered : Obligations.MessagesDelivered := by
  intro s d i a u v hs
  refine ⟨fun hd hstate => ⟨fun hgrant => ?_, fun hnone => ?_⟩, exec_msg_lost,
    fun hd => ⟨fun hgrant => ?_, fun hnone => ?_, exec_deliverDrop_waiting hd⟩⟩
  · exact exec_msg_tried hs hd hstate (tryMsg_granted hgrant)
  · exact exec_msg_tried hs hd hstate (tryMsg_refused hnone)
  · exact exec_msgDeliverRetry_tried hs hd (tryMsg_granted hgrant)
  · exact exec_msgDeliverRetry_tried hs hd (tryMsg_refused hnone)

end Sys2Proof.Machine
end

section
/-! Replies to the requests of a core's commands (R256, R351, R366, R393). -/

namespace Sys2Proof.Machine

variable {s s' : State} {d : Delivered} {r : Req} {n fid o : Nat} {f : Flight}

/-! One more reply is in. -/

/-- Flight f with what one more reply changes of it. -/
def repliedFlight (change : Flight → Flight) (f : Flight) : Flight := { change f with waiting := f.waiting - 1 }

/-- The reply of a core's command frees its entry and changes the command in flight. -/
theorem replied_core (hwho : r.who = .core n fid o) (hf : findFlight ((s.dropReq r.tag).core n) fid = some f)
    (change : Flight → Flight) (work : Work → Work) :
    s.replied r change work = (s.dropReq r.tag).setFlight n (repliedFlight change f) := by
  rw [State.replied, hwho]
  dsimp only
  rw [hf]
  rfl

theorem plainReply_counts {ty : Nat} {kind : ReqKind} (ht : s.takeReply ty = some (d, some r, s')) (hkind : r.kind = kind)
    (hwho : r.who = .core n fid o) (hf : findFlight ((s'.dropReq r.tag).core n) fid = some f) :
    plainReply s ty kind = .next ((s'.dropReq r.tag).setFlight n { f with waiting := f.waiting - 1 }) := by
  rw [plainReply, ht]
  dsimp only
  rw [if_pos hkind, replied_core hwho hf]
  rfl

theorem plainReply_late {ty : Nat} {kind : ReqKind} (ht : s.takeReply ty = some (d, none, s')) : plainReply s ty kind = .next s' := by
  rw [plainReply, ht]

/-! The replies that bring something. -/

theorem exec_rddata_of (ht : s.takeReply tyRDDATA = some (d, some r, s')) (hkind : r.kind = .rd)
    (hwho : r.who = .core n fid o) (hf : findFlight ((s'.dropReq r.tag).core n) fid = some f) :
    exec .rddata s = .next (((s'.dropReq r.tag).setFlight n
      { f with got := gotWith r d.frame f.got, waiting := f.waiting - 1 }).sourcesIn r.who) := by
  rw [exec_rddata, execRddata, ht]
  dsimp only
  rw [if_pos hkind, replied_core hwho hf]
  rfl

theorem exec_atomrsp_of (ht : s.takeReply tyATOMRSP = some (d, some r, s')) (hkind : r.kind = .atom)
    (hwho : r.who = .core n fid o) (hf : findFlight ((s'.dropReq r.tag).core n) fid = some f) :
    exec .atomrsp s = .next ((s'.dropReq r.tag).setFlight n
      { f with scalars := [((opdField (cOpd f.cmd 1)).sbase, fArg d.frame 0)], formed := true, waiting := f.waiting - 1 }) := by
  rw [exec_atomrsp, execAtomrsp, ht]
  dsimp only
  rw [if_pos hkind, replied_core hwho hf, hwho]
  rfl

theorem exec_err_of (ht : s.takeReply tyERR = some (d, some r, s')) (hwho : r.who = .core n fid o) :
    exec .err s = .next (failFlight (s'.dropReq r.tag) n fid 0x05 o) := by
  rw [exec_err, execErr, ht]
  dsimp only
  rw [State.failReq, State.failFor, hwho]

/-- A reply that answers no entry changes nothing more. -/
theorem exec_late_reply {row : Instr} {ty : Nat}
    (hrow : (row, ty) ∈ [(Instr.rddata, tyRDDATA), (.wrack, tyWRACK), (.sigack, tySIGACK), (.msgack, tyMSGACK),
      (.atomrsp, tyATOMRSP), (.err, tyERR)])
    (ht : s.takeReply ty = some (d, none, s')) : exec row s = .next s' := by
  simp only [List.mem_cons, Prod.mk.injEq, List.not_mem_nil, or_false] at hrow
  obtain ⟨rfl, rfl⟩ | ⟨rfl, rfl⟩ | ⟨rfl, rfl⟩ | ⟨rfl, rfl⟩ | ⟨rfl, rfl⟩ | ⟨rfl, rfl⟩ := hrow
  · rw [exec_rddata, execRddata, ht]
  · exact (exec_wrack s).trans (plainReply_late ht)
  · exact (exec_sigack s).trans (plainReply_late ht)
  · exact (exec_msgack s).trans (plainReply_late ht)
  · rw [exec_atomrsp, execAtomrsp, ht]
  · rw [exec_err, execErr, ht]

/-- Settles O26. -/
theorem repliesReachRequester : Obligations.RepliesReachRequester := by
  intro s s' d r n fid o f hwho hf
  exact ⟨fun ht hkind => exec_rddata_of ht hkind hwho hf,
    fun ht hkind => (exec_wrack s).trans (plainReply_counts ht hkind hwho hf),
    fun ht hkind => (exec_sigack s).trans (plainReply_counts ht hkind hwho hf),
    fun ht hkind => (exec_msgack s).trans (plainReply_counts ht hkind hwho hf),
    fun ht hkind => exec_atomrsp_of ht hkind hwho hf,
    fun ht => exec_err_of ht hwho,
    fun row ty => exec_late_reply⟩

end Sys2Proof.Machine
end

section
/-! Requests with no reply, memory errors that are found, stack temperatures, and CXL.mem (R256, R278 to R286, R524, R525,
R594, R703). -/

namespace Sys2Proof.Machine

variable {s : State}

/-! Requests with no reply. -/

theorem exec_requestTimeout_of {port tag : Nat} {r : Req} (hon : s.rfld Reg.memReqTimeout 31 0 ≠ 0)
    (hr : s.reqs.find? (fun r => r.port == port && r.tag == tag) = some r) :
    exec (.requestTimeout port tag) s = .next (s.failReq r 3) := by
  rw [exec_requestTimeout, execRequestTimeout, if_neg hon, hr]

theorem failReq_core {r : Req} {n fid detail : Nat} (h : r.who = .core n fid detail) (cause : Nat) :
    s.failReq r cause = failFlight (s.dropReq r.tag) n fid 0x05 detail := by
  rw [State.failReq, State.failFor, h]

/-! Memory errors. -/

/-- A read of a word that is not known to be bad meets what it finds. -/
theorem exec_patrolScrub_of {key : Nat} {reader : Bool} (hreads : reader = true ∨ s.rbit Reg.memScrubCtrl 0 = true)
    (htier : keyTier key ≤ 1) (hclean : s.badIn (granule key) 1 = []) (found : Nat) :
    exec (.patrolScrub key found reader) s =
      .next (if found = 2 then s.meet [(key, true)] else if found = 1 then s.meet [(key, false)] else s) := by
  have hgo : ((reader || s.rbit Reg.memScrubCtrl 0) && decide (keyTier key ≤ 1)) = true := by
    simp [htier, hreads]
  rw [exec_patrolScrub, execPatrolScrub, if_pos hgo, hclean]
  dsimp only
  rw [List.isEmpty_nil, Bool.not_true, Bool.or_false]
  simp only [decide_eq_true_eq]

theorem exec_farEccPoll_answers (p : Nat) (errs : List Nat) :
    exec (.farEccPoll p true errs) s = .next (s.meet (errs.map fun b => (farKey p b, true))) := by
  rw [exec_farEccPoll, execFarEccPoll, if_pos rfl]

theorem exec_farEccPoll_silent (p : Nat) (errs : List Nat) : exec (.farEccPoll p false errs) s =
    .next ({ s with lost := tabSet (fun _ => false) s.lost (32 + p) true }.enterTungsten 2) := by
  rw [exec_farEccPoll, execFarEccPoll, if_neg Bool.false_ne_true]

/-! Refresh steps (R284). -/

theorem stepFloor_mono {j k : Nat} (h : j ≤ k) : stepFloor j ≤ stepFloor k := by
  unfold stepFloor
  (repeat' split) <;> omega

theorem stepDown_le (temp : Nat) : ∀ k, 1 ≤ k → stepDown k temp ≤ k
  | 1, _ => by simp [stepDown]
  | k + 2, _ => by
    have ih := stepDown_le temp (k + 1) (by omega)
    rw [stepDown]
    split <;> omega

theorem one_le_stepDown (temp : Nat) : ∀ k, 1 ≤ stepDown k temp
  | 0 => by simp [stepDown]
  | 1 => by simp [stepDown]
  | k + 2 => by
    have ih := one_le_stepDown temp (k + 1)
    rw [stepDown]
    split <;> omega

/-- A step does not fall below one whose range holds the temperature. -/
theorem le_stepDown {j temp : Nat} (hj : stepFloor j ≤ temp) : ∀ k, j ≤ k → 1 ≤ k → j ≤ stepDown k temp
  | 1, hle, _ => by simpa [stepDown] using hle
  | k + 2, hle, _ => by
    rw [stepDown]
    split
    · next hcold =>
      have hlt : j ≠ k + 2 := fun h => by rw [← h] at hcold; omega
      exact le_stepDown hj (k + 1) (by omega) (by omega)
    · exact hle

/-- A step falls only when the temperature lies 3 below the range above the new one. -/
theorem stepDown_lt {temp : Nat} : ∀ k, stepDown k temp < k → 1 ≤ k → temp + 3 ≤ stepFloor (stepDown k temp + 1)
  | 1, hlt, _ => by simp [stepDown] at hlt
  | k + 2, hlt, _ => by
    rw [stepDown] at hlt ⊢
    split at hlt
    · next hcold =>
      rw [if_pos hcold]
      by_cases hstay : stepDown (k + 1) temp = k + 1
      · rwa [hstay]
      · exact stepDown_lt (k + 1) (Nat.lt_of_le_of_ne (stepDown_le temp (k + 1) (by omega)) hstay) (by omega)
    · omega

/-- The step that a temperature calls for. -/
theorem stepUp_cases (was temp : Nat) :
    105 ≤ temp ∧ stepUp was temp = 4 ∨ 95 ≤ temp ∧ temp < 105 ∧ stepUp was temp = max was 3 ∨
      85 ≤ temp ∧ temp < 95 ∧ stepUp was temp = max was 2 ∨ temp < 85 ∧ stepUp was temp = was := by
  by_cases h105 : 105 ≤ temp
  · exact .inl ⟨h105, if_pos h105⟩
  by_cases h95 : 95 ≤ temp
  · exact .inr (.inl ⟨h95, Nat.lt_of_not_le h105, (if_neg h105).trans (if_pos h95)⟩)
  by_cases h85 : 85 ≤ temp
  · exact .inr (.inr (.inl ⟨h85, Nat.lt_of_not_le h95, (if_neg h105).trans ((if_neg h95).trans (if_pos h85))⟩))
  · exact .inr (.inr (.inr ⟨Nat.lt_of_not_le h85, (if_neg h105).trans ((if_neg h95).trans (if_neg h85))⟩))

theorem le_stepUp (was temp : Nat) (h : was ≤ 4) : was ≤ stepUp was temp ∧ stepUp was temp ≤ 4 := by
  have := stepUp_cases was temp
  omega

/-- A step rises only to one whose range holds the temperature. -/
theorem stepFloor_stepUp {was temp : Nat} (h : was < stepUp was temp) : stepFloor (stepUp was temp) ≤ temp := by
  obtain ⟨htemp, hup⟩ | ⟨htemp, -, hup⟩ | ⟨htemp, -, hup⟩ | ⟨-, hup⟩ := stepUp_cases was temp
  · rwa [hup]
  · rwa [show stepUp was temp = 3 by omega]
  · rwa [show stepUp was temp = 2 by omega]
  · omega

theorem le_stepUp_of_hot {was temp : Nat} :
    (85 ≤ temp → 2 ≤ stepUp was temp) ∧ (95 ≤ temp → 3 ≤ stepUp was temp) ∧ (105 ≤ temp → 4 ≤ stepUp was temp) := by
  have := stepUp_cases was temp
  omega

/-- The step that the temperature asks for lies in 1 to 4, at least as high as the step of that temperature; it rises only to a
step whose range has been entered, and falls only when the temperature lies 3 below the range of the step above. -/
theorem step_after {was temp : Nat} (hlow : 1 ≤ was) (hhigh : was ≤ 4) :
    let new := stepDown (stepUp was temp) temp
    1 ≤ new ∧ new ≤ 4 ∧ (85 ≤ temp → 2 ≤ new) ∧ (95 ≤ temp → 3 ≤ new) ∧ (105 ≤ temp → new = 4) ∧
      (was < new → stepFloor new ≤ temp) ∧ (new < was → temp + 3 ≤ stepFloor (new + 1)) := by
  intro new
  obtain ⟨hup, hup4⟩ := le_stepUp was temp hhigh
  obtain ⟨hup85, hup95, hup105⟩ := @le_stepUp_of_hot was temp
  have hup1 : 1 ≤ stepUp was temp := Nat.le_trans hlow hup
  have hnew : new ≤ stepUp was temp := stepDown_le temp _ hup1
  refine ⟨one_le_stepDown temp _, Nat.le_trans hnew hup4, fun h => le_stepDown h _ (hup85 h) hup1,
    fun h => le_stepDown h _ (hup95 h) hup1, fun h => Nat.le_antisymm (Nat.le_trans hnew hup4) (le_stepDown h _ (hup105 h) hup1),
    fun h => ?_, fun h => stepDown_lt _ (Nat.lt_of_lt_of_le h hup) hup1⟩
  exact Nat.le_trans (stepFloor_mono hnew) (stepFloor_stepUp (Nat.lt_of_lt_of_le h hnew))

theorem step_hottest {was temp : Nat} (h : 110 ≤ temp) : stepDown (stepUp was temp) temp = 4 := by
  rw [stepUp, if_pos (by omega), stepDown]
  exact if_neg (show ¬temp + 3 ≤ 105 by omega)

theorem exec_stackTempChange_cool (st : Nat) {temp : Nat} (h : temp < 110) :
    exec (.stackTempChange st temp) s = .next ((s.rsetFld (Reg.memStackStatus st) 7 0 temp).rsetFld (Reg.memStackStatus st) 10 8
      (stepDown (stepUp (s.rfld (Reg.memStackStatus st) 10 8) temp) temp)) := by
  rw [exec_stackTempChange, execStackTempChange]
  exact if_neg fun hot => absurd hot.1 (by omega)

/-- Stack st once its overtemperature has been told, its points counted and the commit made dirty. -/
def overheated (s : State) (st temp : Nat) : State :=
  (((s.rsetFld (Reg.memStackStatus st) 7 0 temp).rsetFld (Reg.memStackStatus st) 10 8 4).raise evSTACK_OVERTEMP sevFATAL
    [(8, st), (8, temp)]).setDirty.addPoints (.stack st) 1000

theorem exec_stackTempChange_hot (st : Nat) {temp : Nat} (h : 110 ≤ temp) (hwas : s.rfld (Reg.memStackStatus st) 7 0 < 110) :
    exec (.stackTempChange st temp) s = .next ({ (overheated s st temp).loseStack st with
      lost := tabSet (fun _ => false) (overheated s st temp).lost st true }.enterTungsten 2) := by
  rw [exec_stackTempChange, execStackTempChange]
  dsimp only
  rw [if_pos ⟨h, hwas⟩, step_hottest h]
  rfl

/-! CXL.mem (R524, R525). -/

variable {range off : Nat} {caches : Bool}

/-- A device access of the host to a line of a range that is up, where no line must leave the filter first. -/
def HostAccess (s : State) (range off : Nat) (caches : Bool) : Prop :=
  s.hostUp = true ∧ off - off % 64 < hdmSize range ∧ s.partLost (partOf (hdmKey range (off - off % 64))) = false ∧
    s.filterFull (hdmKey range (off - off % 64)) caches = none

theorem exec_hdmRead_of (h : HostAccess s range off caches) (hclean : s.badIn (hdmKey range (off - off % 64)) 64 = []) :
    exec (.hdmRead range off caches) s =
      .next ((if caches then s.filterLine (hdmKey range (off - off % 64)) true else s).emit
        (.memData (s.mbytes (hdmKey range (off - off % 64)) 64))) := by
  obtain ⟨hup, hin, hthere, hroom⟩ := h
  rw [exec_hdmRead, execHdmRead, hup]
  dsimp only
  rw [if_neg (by decide), if_neg (Nat.not_le.mpr hin), hthere, if_neg (by decide), hroom]
  dsimp only
  rw [rdMem_clean hclean]

theorem exec_hdmWrite_of (data : List Byte) (be : Word) (h : HostAccess s range off caches) :
    exec (.hdmWrite range off data be caches) s =
      .next ((s.mputs ((placeAt 0 data).filterMap fun x =>
        if be.getLsbD x.1 then some (hdmKey range (off - off % 64) + x.1, x.2) else none)).filterLine
          (hdmKey range (off - off % 64)) caches) := by
  obtain ⟨hup, hin, hthere, hroom⟩ := h
  rw [exec_hdmWrite, execHdmWrite, hup]
  dsimp only
  rw [if_neg (by decide), if_neg (Nat.not_le.mpr hin), hthere, if_neg (by decide), hroom]

theorem filterLine_eq (s : State) (line : Nat) (caches : Bool) : s.filterLine line caches =
    if caches then { s with snoops := s.snoops.filter (fun x => x.1 != line) ++ [(line, false)] }
    else { s with snoops := s.snoops.filter fun x => x.1 != line } := by
  cases caches <;> rfl

/-- Writing memory and taking note of a snoop's answer do not meet. -/
theorem mputs_biWait (w : List (Nat × Bool)) (ws : Writes) : ∀ s : State,
    ({ s with biWait := w }).mputs ws = { s.mputs ws with biWait := w } := by
  induction ws with
  | nil => intro s; rfl
  | cons x ws ih => intro s; exact ih (s.mput x.1 x.2)

theorem mputs_snoops (s : State) (ws : Writes) : (s.mputs ws).snoops = s.snoops := by rw [mputs_frame]

/-- What the filter holds of a line once a snoop of it is answered. -/
def answeredLines (line : Nat) (inv keep : Bool) (l : List (Nat × Bool)) : List (Nat × Bool) :=
  l.filterMap fun x => if x.1 = line then (if inv || !keep then none else some (x.1, true)) else some x

/-- The data that a snoop's answer brings stands in memory. -/
def broughtBack (s : State) (line : Nat) (data : List Byte) : State := if data = [] then s else s.mputBytes line data

theorem exec_bisnpResponse_of {line : Nat} {inv keep : Bool} {data : List Byte} (hwait : (line, inv) ∈ s.biWait)
    (hdata : data.length = 64 ∨ data = []) :
    exec (.bisnpResponse line inv data keep) s = .next { broughtBack s line data with
      biWait := s.biWait.erase (line, inv)
      snoops := answeredLines line inv keep s.snoops } := by
  have hasked : s.biWait.contains (line, inv) = true := List.contains_iff_mem.mpr hwait
  rw [exec_bisnpResponse, execBisnpResponse, if_pos hasked, broughtBack]
  obtain hfull | rfl := hdata
  · have hsome : data ≠ [] := fun h => by simp [h] at hfull
    dsimp only
    rw [if_pos hfull, if_neg hsome, State.mputBytes, State.mputBytes, mputs_biWait, mputs_snoops]
    rfl
  · rfl

/-- Settles O24. -/
theorem memoryUpkeepAndHost : Obligations.MemoryUpkeepAndHost := by
  constructor
  · intro s n fid d port tag key st temp r
    refine ⟨fun hon hr => ⟨exec_requestTimeout_of hon hr, fun hwho => failReq_core hwho 3⟩,
      fun reader hreads htier hclean => ⟨exec_patrolScrub_of hreads htier hclean 0, exec_patrolScrub_of hreads htier hclean 1,
        exec_patrolScrub_of hreads htier hclean 2⟩,
      fun p errs => ⟨exec_farEccPoll_answers p errs, exec_farEccPoll_silent p errs⟩, ?_, ?_⟩
    · intro row was new hcool hlow hhigh
      exact ⟨exec_stackTempChange_cool st hcool, step_after hlow hhigh⟩
    · intro row
      exact exec_stackTempChange_hot st
  · intro s range off caches data be line inv keep k young
    refine ⟨fun hup hin hthere hroom hclean => ?_, fun hup hin hthere hroom => ?_, ?_⟩
    · exact exec_hdmRead_of ⟨hup, hin, hthere, hroom⟩ hclean
    · rw [exec_hdmWrite_of data be ⟨hup, hin, hthere, hroom⟩, filterLine_eq]
    · intro hwait hdata u
      exact exec_bisnpResponse_of hwait hdata

end Sys2Proof.Machine
end

section
/-! Training of links, and what ends or restarts it (R297, R317 to R330, R707). -/

namespace Sys2Proof.Machine

variable {s : State} {p q j key : Nat}

/-! Training markers (R319 to R321, R324). -/

/-- The module once a marker has fixed lane j's polarity, SNR, plane and peer. -/
def markedLane (s : State) (q j : Nat) (inv : Bool) (snr : Nat) (sat : Bool) (w : Word) : State :=
  let a := (s.rsetBit (Reg.lnkQmap q) (16 + j) inv).rsetFld (Reg.lnkPcnt1 q j) 39 32 snr
  a.setLane q j { a.lane q j with plane := some (fld w 2 0), peerCond := fld w 14 10, sat := sat, peerReady := bit w 22 }

/-- The module once it has answered a marker on lane j with its own. -/
def answeredMarker (b : State) (q j req ack : Nat) (sat : Bool) : State :=
  b.draw.2.emit (.marker q j (b.draw.2.markerOf q j req ack sat))

theorem execTrainingMarker_good {inv sat : Bool} {snr : Nat} {w : Word} (hgood : markerGood w = true) (htrains : s.laneTrains q j = true) :
    ∃ req ack, req < 8 ∧ ack < 3 ∧ execTrainingMarker q j inv snr sat w s = .next
      (if ((markedLane s q j inv snr sat w).laneOrder q).isNone then
        ((markedLane s q j inv snr sat w).quadLinks q).foldl (fun s p =>
          if ((s.link p).phase = .mark ∨ (s.link p).phase = .fmark) ∧ (s.trainLanes p).contains (q, j) = true then s.linkMismatch p 0
          else s) (markedLane s q j inv snr sat w)
      else ((answeredMarker (markedLane s q j inv snr sat w) q j req ack sat).quadLinks q).foldl (fun s p => s.tryAdvance p)
        (answeredMarker (markedLane s q j inv snr sat w) q j req ack sat)) := by
  rw [execTrainingMarker, hgood, htrains]
  refine ⟨if sat || (s.quadLinks q).any fun p => (s.link p).phase == .fmark && (s.trainLanes p).contains (q, j) then 0
      else fld (markedLane s q j inv snr sat w).draw.1 2 0,
    if 1 ≤ fld w 19 16 ∧ fld w 19 16 ≤ 7 then (if bit (markedLane s q j inv snr sat w).draw.1 3 then 2 else 1) else 0, ?_, ?_, ?_⟩
  · split
    · decide
    · exact fld_lt _ 2 0
  · split
    · split <;> decide
    · decide
  · rw [apply_ite Host.Outcome.next]
    rfl

/-! Bring-up (R318, R320, R321, R323, R330). -/

theorem execBringupRetry_on (h : s.quadOn q = true) : execBringupRetry q s = .next ((s.quadLinks q).foldl (fun s p =>
    if (s.link p).blocked = false ∧ (s.link p).phase.serving = false ∧ ¬((s.link p).phase = .down ∧ s.pllLocked p = false)
    then s.startTrain p else s) s) := by
  rw [execBringupRetry, if_pos h]
  refine congrArg Host.Outcome.next (congrArg (fun f => List.foldl f s (s.quadLinks q)) ?_)
  funext s p
  exact ite_congr (by simp [and_assoc, Decidable.or_iff_not_imp_left]) (fun _ => rfl) fun _ => rfl

/-- The links of a quad that still await markers, of which some lane has decoded one. -/
def markingLinks (s : State) (q : Nat) : List Nat := (s.quadLinks q).filter fun p => (s.link p).phase == .mark && s.peerSeen p

/-- The lanes of a quad that have decoded a marker. -/
def seenLanes (s : State) (q : Nat) : List Nat := (upFrom 0 5).filter fun j => (s.lane q j).plane.isSome

/-- A lane that the 300 ms find wanting: no marker decoded, or an SNR below 15.0 dB. -/
def wanting (s : State) (q : Nat) (seen : List Nat) (j : Nat) : Bool :=
  !seen.contains j || decide (s.rfld (Reg.lnkPcnt1 q j) 39 32 < 60)

/-- The 300 ms judge lane j. -/
def judgeLane (q : Nat) (seen : List Nat) (s : State) (j : Nat) : State :=
  s.setLane q j { s.lane q j with
    bringCond := (s.lane q j).bringCond || wanting s q seen j
    peerReady := (s.lane q j).peerReady || !wanting s q seen j
    sat := (s.lane q j).sat || !wanting s q seen j }

theorem judgeLanes_lanes (q : Nat) (seen : List Nat) (l : List Nat) : ∀ s : State,
    l.foldl (judgeLane q seen) s = { s with lanes := (l.foldl (judgeLane q seen) s).lanes } := by
  induction l with
  | nil => intro s; rfl
  | cons j l ih => intro s; exact ih (judgeLane q seen s j)

theorem lane_setLane (h : tabWf (fun _ => laneReset) s.lanes = true) (q j k : Nat) (l : Lane) :
    (s.setLane q j l).lane q k = if k = j then l else s.lane q k := by
  rw [State.lane, State.setLane, tabGet_tabSet h]
  by_cases hk : k = j
  · rw [if_pos hk, if_pos (by rw [hk])]
  · rw [if_neg hk, if_neg (by omega)]
    rfl

/-- Each lane is judged once, as it stood before. -/
theorem judgeLanes_bringCond (q : Nat) (seen : List Nat) (n : Nat) : ∀ (lo : Nat) (s : State),
    tabWf (fun _ => laneReset) s.lanes = true → ∀ j, (((upFrom lo n).foldl (judgeLane q seen) s).lane q j).bringCond =
      ((s.lane q j).bringCond || (decide (lo ≤ j ∧ j < lo + n) && wanting s q seen j)) := by
  induction n with
  | zero =>
    intro lo s _ j
    have hout : ¬(lo ≤ j ∧ j < lo + 0) := by omega
    rw [decide_eq_false hout, Bool.false_and, Bool.or_false]
    rfl
  | succ n ih =>
    intro lo s hwf j
    have hsame : ∀ j, wanting (judgeLane q seen s lo) q seen j = wanting s q seen j := fun _ => rfl
    rw [upFrom, List.foldl_cons, ih (lo + 1) (judgeLane q seen s lo) (tabSet_wf hwf) j, hsame, judgeLane, lane_setLane hwf]
    by_cases hj : j = lo
    · have hout : ¬(lo + 1 ≤ j ∧ j < lo + 1 + n) := by omega
      have hin : lo ≤ j ∧ j < lo + (n + 1) := by omega
      rw [if_pos hj, decide_eq_false hout, decide_eq_true hin, hj]
      simp
    · have hrange : (lo + 1 ≤ j ∧ j < lo + 1 + n) ↔ (lo ≤ j ∧ j < lo + (n + 1)) := by omega
      rw [if_neg hj, decide_eq_decide.mpr hrange]

theorem exec_equaliserTimeout_alone (hsome : markingLinks s q ≠ []) (hone : (seenLanes s q).length = 1) :
    exec (.equaliserTimeout q) s = .next ((markingLinks s q).foldl (fun s p => s.linkMismatch p 0) s) := by
  have hne : ¬(markingLinks s q).isEmpty = true := fun h => hsome (List.isEmpty_iff.mp h)
  exact (exec_equaliserTimeout q s).trans ((if_neg hne).trans (if_pos hone))

theorem exec_equaliserTimeout_several (hsome : markingLinks s q ≠ []) (hone : (seenLanes s q).length ≠ 1) :
    exec (.equaliserTimeout q) s = .next ((markingLinks s q).foldl (fun s p => s.tryAdvance p)
      ((upFrom 0 5).foldl (judgeLane q (seenLanes s q)) s)) := by
  have hne : ¬(markingLinks s q).isEmpty = true := fun h => hsome (List.isEmpty_iff.mp h)
  exact (exec_equaliserTimeout q s).trans ((if_neg hne).trans (if_neg hone))

/-! Fast retrain, and the training of the spare (R324 to R326). -/

theorem exec_fastRetrainTimeout_first (hphase : (s.link p).phase = .fmark ∨ (s.link p).phase = .finit) (h : (s.link p).failed = 0) :
    exec (.fastRetrainTimeout p) s =
      .next ((s.setLink p { s.link p with failed := 1, phase := .live }).fastRetrain p (s.link p).cause) := by
  rw [exec_fastRetrainTimeout, execFastRetrainTimeout]
  dsimp only
  rw [if_pos hphase, if_neg (by omega)]

theorem exec_fastRetrainTimeout_again (hphase : (s.link p).phase = .fmark ∨ (s.link p).phase = .finit) (h : 1 ≤ (s.link p).failed) :
    exec (.fastRetrainTimeout p) s = .next (s.linkDown p (s.link p).cause) := by
  rw [exec_fastRetrainTimeout, execFastRetrainTimeout]
  rw [if_pos hphase, if_pos h]

theorem exec_spareTrainDone_ok {sp : Sparing} (hsp : (s.link p).sparing = some sp) (haccepted : sp.accepted = true) :
    exec (.spareTrainDone p true) s =
      .next ((s.setLink p { s.link p with sparing := some { sp with trained := true } }).trySwitch p) := by
  rw [exec_spareTrainDone, execSpareTrainDone]
  rw [hsp]
  dsimp only
  rw [haccepted]
  rfl

theorem exec_spareTrainDone_fails {sp : Sparing} (hsp : (s.link p).sparing = some sp) (haccepted : sp.accepted = true)
    (hmoved : sp.moved = none) :
    exec (.spareTrainDone p false) s = .next ((s.setLink p { s.link p with sparing := none }).spareOwed p) := by
  rw [exec_spareTrainDone, execSpareTrainDone, State.dropSparing]
  dsimp only
  rw [hsp]
  dsimp only
  rw [haccepted, hmoved]
  rfl

/-! Loss (R317, R318, R707). -/

theorem lossStart_of {lol : Bool} (h : s.rbit (Reg.lnkPcnt1 q j) (if lol then 41 else 40) = false) :
    s.lossStart q j lol = ((s.rsetBit (Reg.lnkPcnt1 q j) (if lol then 41 else 40) true).rcount (Reg.lnkPcnt1 q j)
      (if lol then 31 else 15) (if lol then 16 else 0) 1).lanePoints q j 100 := by
  rw [State.lossStart, h]
  rfl

/-- Lane j's clock recovery unlocks or locks. -/
def cdrAt (s : State) (q j : Nat) (b : Bool) : State := s.setLane q j { s.lane q j with cdr := b }

theorem exec_laneLossEnd_lol_idle (h : (cdrAt s q j false).linkOfLane q j = none) :
    exec (.laneLossEnd q j true) s = .next ((cdrAt s q j false).lossEnd q j true) := by
  rw [exec_laneLossEnd, execLaneLossEnd]
  dsimp only
  rw [if_pos (rfl : true = true), ← cdrAt, h]
  rfl

theorem exec_laneLossEnd_lol_live (h : (cdrAt s q j false).linkOfLane q j = some (p, key))
    (hlive : ((cdrAt s q j false).link p).phase = .live) : exec (.laneLossEnd q j true) s = .next (cdrAt s q j false) := by
  rw [exec_laneLossEnd, execLaneLossEnd]
  dsimp only
  rw [if_pos (rfl : true = true), ← cdrAt, h]
  exact congrArg Host.Outcome.next (if_pos (by dsimp only; rw [hlive]; rfl))

/-- The module with lane j set aside as lost. -/
def goneLane (s : State) (q j : Nat) : State := s.setLane q j { s.lane q j with gone := true }

/-- The module with lane j condemned for this bring-up too. -/
def condemnedLane (s : State) (q j : Nat) : State :=
  (goneLane s q j).setLane q j { (goneLane s q j).lane q j with bringCond := true }

/-- The module once the spare has taken lane j's place. -/
def sparedLane (s : State) (q j key : Nat) : State :=
  let a := goneLane s q j
  ((((a.yieldSpare q).moveTx (((upFrom (4 * q) 4).find? fun k => a.txLane k == j).getD key)).moveRx key).retireLane q j (a.spareLane q))

theorem exec_laneLossPersist_lost (hlossy : s.lossy q j = true) (hlink : (goneLane s q j).linkOfLane q j = some (p, key))
    (hserving : ((goneLane s q j).link p).phase.serving = true) :
    exec (.laneLossPersist q j) s =
      if (goneLane s q j).spareAuto q && (goneLane s q j).spareReady q then
        .next (((sparedLane s q j key).setLink p { (sparedLane s q j key).link p with
          unplanned := ((sparedLane s q j key).link p).unplanned ++ [(q, j, (goneLane s q j).spareLane q)] }).retrainNow p causeSparing)
      else if ((condemnedLane s q j).laneHopes p).isEmpty then .next ((condemnedLane s q j).linkDown p causeLoss)
      else .next ((condemnedLane s q j).retrainNow p causeLoss) := by
  rw [exec_laneLossPersist, execLaneLossPersist, hlossy]
  dsimp only
  rw [← goneLane, hlink]
  dsimp only
  rw [hserving]
  rfl

/-! Clocks (R297, R318, R320). -/

theorem exec_quadPllLock_on (hlol : tabGet (fun _ => false) s.pllLol q = true) (hon : s.quadOn q = true) :
    let u := { s with pllLol := tabSet (fun _ => false) s.pllLol q false }
    exec (.quadPllLock q) s = .next ((u.quadLinks q).foldl (fun s p =>
      if (s.link p).blocked = false ∧ ((s.link p).phase = .down ∨ (s.link p).phase = .lock) then s.startTrain p else s) u) := by
  intro u
  have hstill : u.quadOn q = true := hon
  rw [exec_quadPllLock, execQuadPllLock, if_pos hlol]
  refine congrArg Host.Outcome.next ((if_pos hstill).trans (congrArg (fun f => List.foldl f u (u.quadLinks q)) ?_))
  funext s p
  exact (ite_not _ _ _).symm.trans (ite_congr (by simp [Decidable.or_iff_not_imp_left]) (fun _ => rfl) fun _ => rfl)

/-- The module once a clock mismatch on lane j has been told. -/
def mismatched (s : State) (q j : Nat) : State :=
  { s with quadMis := tabSet (fun _ => 0) s.quadMis q (s.clock + 1) }.raise evCLOCK_MISMATCH sevCONTAINED [(8, q), (8, j)]

theorem exec_clockMismatch_first (h : tabGet (fun _ => 0) s.quadMis q = 0) (hlink : (mismatched s q j).linkOfLane q j = some (p, key)) :
    exec (.clockMismatch q j) s = .next ((mismatched s q j).fastRetrain p causeClock) := by
  rw [exec_clockMismatch, execClockMismatch]
  rw [h, ← mismatched, hlink]
  rfl

theorem exec_clockMismatch_second (h : tabGet (fun _ => 0) s.quadMis q ≠ 0)
    (hsoon : s.clock < tabGet (fun _ => 0) s.quadMis q - 1 + 1600000000) :
    exec (.clockMismatch q j) s = .next (((mismatched s q j).quadLinks q).foldl (fun s p =>
      if (s.link p).phase = .down then s else s.linkDown p causeClock) (mismatched s q j)) := by
  have hsecond : (tabGet (fun _ => 0) s.quadMis q != 0 && decide (s.clock < tabGet (fun _ => 0) s.quadMis q - 1 + 1600000000)) = true := by
    rw [bne_iff_ne.mpr h, decide_eq_true hsoon]
    rfl
  rw [exec_clockMismatch, execClockMismatch]
  exact if_pos hsecond

/-- Settles O29. -/
theorem linkTrainingAndLoss : Obligations.LinkTrainingAndLoss := by
  refine ⟨fun s p q j => ⟨?_, fun hon => (exec_bringupRetry q s).trans (execBringupRetry_on hon), exec_equaliserTimeout_alone,
    fun hphase => ⟨exec_fastRetrainTimeout_first hphase, exec_fastRetrainTimeout_again hphase⟩,
    fun sp hsp haccepted => ⟨exec_spareTrainDone_ok hsp haccepted, exec_spareTrainDone_fails hsp haccepted⟩⟩, ?_, ?_⟩
  · intro inv snr sat w hgood htrains a b
    obtain ⟨req, ack, hreq, hack, hexec⟩ := @execTrainingMarker_good s q j inv sat snr w hgood htrains
    rw [exec_trainingMarker, hexec]
    refine ⟨fun horder => ⟨req, ack, hreq, hack, congrArg Host.Outcome.next (if_neg ?_)⟩, fun horder => congrArg Host.Outcome.next (if_pos ?_)⟩
    · obtain ⟨o, ho⟩ := Option.isSome_iff_exists.mp horder
      exact fun hnone => by rw [show (markedLane s q j inv snr sat w).laneOrder q = some o from ho] at hnone; cases hnone
    · rw [show (markedLane s q j inv snr sat w).laneOrder q = none from horder]
      rfl
  · intro s q ps seen hsome hone
    refine ⟨_, exec_equaliserTimeout_several hsome hone, judgeLanes_lanes q seen _ s, fun hwf j hj => ?_⟩
    refine (judgeLanes_bringCond q seen 5 0 s hwf j).trans ?_
    rw [decide_eq_true (by omega), Bool.true_and, wanting, Bool.or_assoc]
  · intro s p q j key r cdr
    refine ⟨fun hclear => ?_, fun hclear => ?_, exec_laneLossEnd q j false s, exec_laneLossEnd_lol_idle, exec_laneLossEnd_lol_live, ?_, ?_,
      exec_quadPllLock_on, ?_⟩
    · rw [exec_laneLossStart, execLaneLossStart]
      exact congrArg Host.Outcome.next (lossStart_of hclear)
    · rw [exec_laneLossStart, execLaneLossStart]
      exact congrArg Host.Outcome.next (lossStart_of (s := cdr true) hclear)
    · intro hlossy a b hlink hserving
      rw [exec_laneLossPersist_lost hlossy hlink hserving]
      refine ⟨fun hauto hready => if_pos ?_, fun hnot => (if_neg ?_).trans ?_⟩
      · rw [Bool.and_eq_true]
        exact ⟨hauto, hready⟩
      · rw [Bool.and_eq_true]
        rintro ⟨hauto, hready⟩
        obtain h | h := hnot
        · exact absurd (hauto.symm.trans h) (by decide)
        · exact absurd (hready.symm.trans h) (by decide)
      · rw [← apply_ite Host.Outcome.next]
        simp only [List.isEmpty_iff]
        rfl
    · intro u
      exact exec_quadPllUnlock q s
    · intro u
      exact ⟨exec_clockMismatch_first, exec_clockMismatch_second⟩

end Sys2Proof.Machine
end

section
/-! Codewords out and in, and the control slots that they bring (R292, R293, R300 to R311, R320 to R326). -/

namespace Sys2Proof.Machine

variable {s : State} {p q j : Nat}

/-! Codewords. -/

/-- A link that carries codewords. -/
def Carries (s : State) (p : Nat) : Prop := (s.link p).phase = .init ∨ (s.link p).phase = .live ∨ (s.link p).phase = .finit

theorem exec_codewordSend_open (h : Carries s p) :
    exec (.codewordSend p) s = .next ((s.activeKeys p).foldl (fun s k => (s.nextWord p).2.sendWord p k (s.nextWord p).1) s) := by
  rw [exec_codewordSend, execCodewordSend]
  obtain h | h | h := h <;> rw [h]

/-- What the levels of a codeword, as lane j receives them, decode to. -/
def decodedAt (s : State) (q j : Nat) (rx : List Nat) : Option (Nat × Codeword) :=
  receiveLevels (s.precode q) (s.rbit (Reg.lnkQmap q) (16 + j)) (s.lane q j).rxLast rx

/-- The module once lane j's health has taken the codeword's levels into account. -/
def laneHeard (s : State) (q j : Nat) (rx : List Nat) : State :=
  s.laneHears q j ((decodedAt s q j rx).map (·.1)) (if s.rbit (Reg.lnkQmap q) (16 + j) then 3 - rx.getLastD 0 else rx.getLastD 0)

/-- A codeword on a lane of an open link is heard by that link. -/
theorem exec_codewordReceive_open {r0 r1 r2 r3 r4 : List Nat} {u : State}
    (hlink : (laneHeard s q j (r0 ++ r1 ++ r2 ++ r3 ++ r4)).heardLink q j (decodedAt s q j (r0 ++ r1 ++ r2 ++ r3 ++ r4)).isSome = (some p, u))
    (hopen : Carries u p) :
    exec (.codewordReceive q j r0 r1 r2 r3 r4) s =
      .next (u.hearWord p ((decodedAt s q j (r0 ++ r1 ++ r2 ++ r3 ++ r4)).map (·.2))
        (receivedMap (s.precode q) (s.rbit (Reg.lnkQmap q) (16 + j)) (s.lane q j).rxLast (r0 ++ r1 ++ r2 ++ r3 ++ r4))) := by
  rw [laneHeard, decodedAt] at hlink
  rw [exec_codewordReceive, decodedAt]
  unfold execCodewordReceive
  dsimp only
  rw [hlink]
  dsimp only
  obtain h | h | h := hopen <;> rw [h]

theorem hearWord_in_order {c : Codeword} (hdata : c.map ≠ 0x3FF) (hseq : c.seq = (s.link p).rxSeq) (map : Nat) :
    s.hearWord p (some c) map = ((upFrom 0 10).filter fun i => c.map.testBit i).foldl (fun s i => s.queueLcs p (c.slots.getD i []))
      (s.setLink p { s.link p with
        rxSeq := ((s.link p).rxSeq + 1) % 1024, rxAny := true, unacked := true, naking := false, nakDue := false
        rxSlots := (s.link p).rxSlots ++ ((upFrom 0 10).filter fun i => !c.map.testBit i).map fun i => c.slots.getD i [] }) := by
  rw [State.hearWord]
  exact (if_neg hdata).trans (if_pos hseq)

theorem hearWord_out_of_order {c : Codeword} (hdata : c.map ≠ 0x3FF) (hseq : c.seq ≠ (s.link p).rxSeq) (map : Nat) :
    s.hearWord p (some c) map = (s.setLink p { s.link p with naking := true, nakDue := true }).rcount (s.lcntOf p) 63 56
      ((upFrom 0 10).filter fun i => c.map.testBit i).length := by
  rw [State.hearWord]
  exact (if_neg hdata).trans (if_neg hseq)

theorem hearWord_control {c : Codeword} (hcontrol : c.map = 0x3FF) (map : Nat) :
    s.hearWord p (some c) map = c.slots.foldl (fun s w => s.queueLcs p w) s := by
  rw [State.hearWord]
  exact if_pos hcontrol

theorem hearWord_undecoded {map : Nat} (h : map ≠ 0x3FF) :
    s.hearWord p none map = s.setLink p { s.link p with naking := true, nakDue := true } := by
  rw [State.hearWord]
  exact if_neg h

theorem laneHears_undecoded (last : Nat) (h : (s.lane q j).miss ≠ 3) : s.laneHears q j none last =
    (((s.setLane q j { s.lane q j with miss := (s.lane q j).miss + 1, rxLast := last }).rcount (Reg.lnkPcnt0 q j) 63 40 1).lanePoints q j 20) := by
  rw [State.laneHears]
  exact if_neg (by omega)

/-! Control slots. -/

variable {w : List Word} {rest : List (List Word)}

theorem popLcs_of {kind : Nat} (h : (s.link p).lcs = w :: rest) (hkind : lcsKind w = kind) :
    s.popLcs p kind = some (w, s.setLink p { s.link p with lcs := rest }) := by
  rw [State.popLcs]
  rw [h]
  exact if_pos hkind

section

variable (h : (s.link p).lcs = w :: rest)

/-- The module with a link's oldest control slot taken. -/
def slotTaken (s : State) (p : Nat) (rest : List (List Word)) : State := s.setLink p { s.link p with lcs := rest }

/-- The module with the fence mark of the slot w, taken, too. -/
def markTaken (s : State) (p : Nat) (w : List Word) (rest : List (List Word)) : State :=
  (slotTaken s p rest).takeFenceMark p (bit (w.getD 0 0) 16)

include h

theorem exec_lcsInit_init (hkind : lcsKind w = 2) (hphase : ((markTaken s p w rest).link p).phase = .init) :
    exec (.lcsInit p) s = .next (match (markTaken s p w rest).initClash p w with
      | some k => (markTaken s p w rest).linkMismatch p k
      | none =>
        let n := (markTaken s p w rest).notePeer p w
        if bit (w.getD 0 0) 17 then n
        else
          let v := n.goLive p false
          let x := v.setLink p { v.link p with trained := true }
          let y := if (n.link p).trained then (x.rcount (x.lstatOf p) 63 48 1).addPoints (.port p) 200 else x
          let z := if (y.link p).degraded then y.raiseDegraded p else y
          (z.commonLcs p w).spareOwed p) := by
  rw [exec_lcsInit, execLcsInit, popLcs_of h hkind]
  dsimp only
  rw [← slotTaken, ← markTaken, hphase]
  dsimp only
  cases (markTaken s p w rest).initClash p w with
  | some k => rfl
  | none => exact (apply_ite Host.Outcome.next _ _ _).symm

theorem exec_lcsInit_finit (hkind : lcsKind w = 2) (hphase : ((markTaken s p w rest).link p).phase = .finit)
    (hagrees : (markTaken s p w rest).initClash p w = none) :
    exec (.lcsInit p) s = .next (if !bit (w.getD 0 0) 17 then (markTaken s p w rest).linkDown p causeResume
      else
        let v := ((markTaken s p w rest).notePeer p w).goLive p true
        let x := (v.setLink p { v.link p with unplanned := [], narrowing := false }).commonLcs p w
        let y := if (x.link p).kept.isEmpty then x else x.replay p
        let z := (v.link p).unplanned.foldl (fun s x => s.raiseSpared x 1) y
        (if (v.link p).narrowing then z.raiseDegraded p else z).spareOwed p) := by
  rw [exec_lcsInit, execLcsInit, popLcs_of h hkind]
  dsimp only
  rw [← slotTaken, ← markTaken, hphase]
  dsimp only
  rw [hagrees]
  exact (apply_ite Host.Outcome.next _ _ _).symm

/-- A request for a spare that can be had is accepted, and its spare trains. -/
theorem exec_lcsSpare_request {v : State} (hkind : lcsKind w = 3) (hv : v = ((slotTaken s p rest).commonLcs p w).takeNak p w)
    (hreject : bit (w.getD 4 0) 14 = false) (haccept : bit (w.getD 4 0) 13 = false)
    (hfree : (v.link p).sparing = none) (hready : v.spareReady ((p + fld (w.getD 4 0) 2 0) / 4) = true)
    (hactive : (v.activeKeys p).contains (p + fld (w.getD 4 0) 2 0) = true) :
    exec (.lcsSpare p) s = .next ((v.setLink p { v.link p with
      sparing := some { lane := fld (w.getD 4 0) 2 0, seq := fld (w.getD 4 0) 12 3
                        left := 4096 + (fld (w.getD 4 0) 12 3 + 1024 - (v.link p).txSeq) % 1024, mine := false
                        accepted := true, trained := false, moved := none, took := false }
      lcsOut := (v.link p).lcsOut ++ [(3, spareWord (fld (w.getD 4 0) 2 0) (fld (w.getD 4 0) 12 3) true false)] }).trainSpare
        ((p + fld (w.getD 4 0) 2 0) / 4)) := by
  rw [exec_lcsSpare, execLcsSpare, popLcs_of h hkind]
  dsimp only
  rw [← slotTaken, ← hv, hreject, haccept, hfree, hready, hactive]
  rfl

end

/-- Settles O30. -/
theorem codewordsAndControlSlots : Obligations.CodewordsAndControlSlots := by
  constructor
  · intro s p q j r0 r1 r2 r3 r4 rx open_
    refine ⟨exec_codewordSend_open, fun k c => rfl, ?_, laneHears_undecoded, fun w hgood => if_pos hgood, fun w hbad => if_neg ?_⟩
    · intro inv was r a u hlink hopen
      have hexec := exec_codewordReceive_open hlink hopen
      refine ⟨fun n c hr hdata hseq => ?_, fun n c hr hdata hseq => ?_, fun n c hr hcontrol => ?_, fun hr hmap => ?_⟩
      · rw [hexec, show decodedAt s q j rx = _ from hr]
        exact congrArg Host.Outcome.next (hearWord_in_order hdata hseq _)
      · rw [hexec, show decodedAt s q j rx = _ from hr]
        exact congrArg Host.Outcome.next (hearWord_out_of_order hdata hseq _)
      · rw [hexec, show decodedAt s q j rx = _ from hr]
        exact congrArg Host.Outcome.next (hearWord_control hcontrol _)
      · rw [hexec, show decodedAt s q j rx = _ from hr]
        exact congrArg Host.Outcome.next (hearWord_undecoded hmap)
    · rw [hbad]
      decide
  · intro s p w rest h u m
    refine ⟨fun hkind => ?_, fun hkind => ?_, fun hkind hphase => ?_, fun hkind hphase hagrees => ?_,
      fun hkind v hv hreject haccept => ?_⟩
    · rw [exec_lcsIdle, execLcsIdle, popLcs_of h hkind]
    · rw [exec_lcsCtrl, execLcsCtrl, popLcs_of h hkind]
    · rw [exec_lcsInit_init h hkind hphase]
      refine ⟨fun k hk => ?_, fun hagrees hwaits => ?_, fun hagrees hwaits => ?_⟩
      · rw [show (markTaken s p w rest).initClash p w = _ from hk]
        rfl
      · rw [show (markTaken s p w rest).initClash p w = _ from hagrees, hwaits]
        rfl
      · intro v x hfresh hfull
        rw [show (markTaken s p w rest).initClash p w = _ from hagrees, hwaits]
        dsimp only
        rw [show (((markTaken s p w rest).notePeer p w).link p).trained = false from hfresh]
        exact congrArg Host.Outcome.next (congrArg (fun y => State.spareOwed (State.commonLcs y p w) p) (if_neg (ne_true_of_eq_false hfull)))
    · rw [exec_lcsInit_finit h hkind hphase hagrees]
      refine ⟨fun hnew => ?_, ?_⟩
      · rw [hnew]
        rfl
      · intro v x hkept hsame hwide
        rw [hkept]
        refine congrArg Host.Outcome.next ?_
        dsimp only
        rw [if_neg (by decide), show ((((markTaken s p w rest).notePeer p w).goLive p true).link p).unplanned = [] from hsame,
          show ((((markTaken s p w rest).notePeer p w).goLive p true).link p).narrowing = false from hwide]
        rfl
    · intro lane seq hfree hready hactive
      exact exec_lcsSpare_request h hkind hv hreject haccept hfree hready hactive

end Sys2Proof.Machine
end

section
/-! Frames that enter the switch, and what becomes of their headers (R359 to R361, R367 to R376, R389). -/

namespace Sys2Proof.Machine

variable {s : State} {p : Nat}

/-! Arrival. -/

theorem exec_frameArrive_internal {f : Frame} (hport : isLinkPort p = false) (hf : firstFit s p [] (s.injQ p) = some f) :
    let u := { s with inj := tabSet (fun _ => []) s.inj p ((s.injQ p).erase f) }
    let e := u.enter p (frameSlots f)
    exec (.frameArrive p) s = .next (if e.1 then e.2.frameTail s.nextFrame false else e.2) := by
  rw [exec_frameArrive, execFrameArrive, hport]
  dsimp only
  rw [if_neg Bool.false_ne_true, hf]

section

variable {h : List Word} {t : List (List Word)} (hport : isLinkPort p = true) (hcur : ((s.absorb p).link p).cur = none)
  (hskip : ((s.absorb p).link p).skip = 0) (hslots : ((s.absorb p).link p).rxSlots = h :: t)

include hport hcur hskip hslots

/-- The module with the header h of link p entered, and whether its frame is held. -/
def headerIn (s : State) (p : Nat) (h : List Word) (t : List (List Word)) : Bool × State :=
  ((s.absorb p).setLink p { (s.absorb p).link p with rxSlots := t }).enter p [h]

theorem exec_frameArrive_header :
    exec (.frameArrive p) s = .next (if !hcrcGood ⟨h, [], []⟩ then
        ((s.absorb p).countCause .hcrc p 255 ⟨h, [], []⟩ 0).linkDown p causeHeader
      else if slotsNeed h = 1 then (headerIn s p h t).2.settle (s.absorb p).nextFrame
      else ((headerIn s p h t).2.setLink p (if (headerIn s p h t).1 then
          { (headerIn s p h t).2.link p with cur := some (s.absorb p).nextFrame }
        else { (headerIn s p h t).2.link p with skip := slotsNeed h - 1 })).absorb p) := by
  rw [exec_frameArrive, execFrameArrive, if_pos hport]
  dsimp only
  split
  · next h' t' _ _ hslots' =>
    obtain ⟨rfl, rfl⟩ := List.cons.inj (hslots'.symm.trans hslots)
    rw [apply_ite Host.Outcome.next, apply_ite Host.Outcome.next]
    rfl
  · next hother => exact (hother h t hcur hskip hslots).elim

end

theorem exec_frameTail_last {id : Nat} {w : List Word} {t : List (List Word)} {h : Held} (hcur : ((s.absorb p).link p).cur = some id)
    (hslots : ((s.absorb p).link p).rxSlots = w :: t) (hheld : (s.absorb p).held1 id = some h) (hlast : h.slots.length + 1 = h.need) :
    exec (.frameTail p) s = .next ((((s.absorb p).setHeld { h with slots := h.slots ++ [w] }).setLink p
      { (s.absorb p).link p with rxSlots := t, cur := none }).frameTail id false) := by
  rw [exec_frameTail, execFrameTail]
  dsimp only
  rw [hcur, hslots]
  dsimp only
  rw [hheld]
  exact if_pos hlast

/-! What becomes of a header that has passed its check. -/

variable {slots : List (List Word)}

theorem enter_noId (h : s.flatId = 0xFFFF) : s.enter p slots = (false, s.sinkArriving .noId p 255 (slotsFrame slots)) := by
  rw [State.enter]
  exact if_pos h

theorem enter_fenced (hid : s.flatId ≠ 0xFFFF) (h : s.fenced p = true) :
    s.enter p slots = (false, s.sinkArriving .sinkIn p 255 (slotsFrame slots)) := by
  rw [State.enter]
  exact (if_neg hid).trans (if_pos h)

section

variable (hid : s.flatId ≠ 0xFFFF) (hfence : s.fenced p = false)

include hid hfence

theorem enter_malformed (h : malformedHdr (slotsFrame slots) p = true) :
    s.enter p slots = (false, s.sinkArriving .malformed p 255 (slotsFrame slots)) := by
  rw [State.enter]
  exact (if_neg hid).trans ((if_neg (ne_true_of_eq_false hfence)).trans (if_pos h))

variable (hform : malformedHdr (slotsFrame slots) p = false) (huni : fMcast (slotsFrame slots) = false)

include hform huni

theorem enter_sunk {c : Cause} {o : Nat} (hroute : s.routeOf (slotsFrame slots) p = .sink c o) :
    s.enter p slots = (false, s.sinkArriving c p o (slotsFrame slots)) := by
  rw [State.enter]
  dsimp only
  rw [if_neg hid, hfence, if_neg Bool.false_ne_true, hform, if_neg Bool.false_ne_true, huni, if_neg Bool.false_ne_true, hroute]

/-- A frame of n cells on its way to port q, as the buffer takes it. -/
def heldFor (x : Nat × State) (p q v n : Nat) (slots : List (List Word)) : Held :=
  { id := x.2.nextFrame, inPort := p, inVc := fVc (slotsFrame slots), cells := n, shared := x.1, at_ := x.2.clock, slots := slots
    need := slotsNeed (slotsFrame slots).hdr, whole := slotsNeed (slotsFrame slots).hdr == 1, bad := false, sending := 0
    copies := [⟨.port q, v, x.2.nextJoin, x.2.clock⟩] }

/-- The module once the buffer holds a frame for port q, and its copy has joined that port's queue. -/
def queuedFor (x : Nat × State) (p q v n : Nat) (slots : List (List Word)) : State :=
  { x.2 with
    buf := x.2.buf ++ [heldFor x p q v n slots]
    nextFrame := x.2.nextFrame + 1
    nextJoin := x.2.nextJoin + 1 }.onJoin q (fTc (slotsFrame slots))

theorem enter_held {q v : Nat} (hroute : s.routeOf (slotsFrame slots) p = .copies [(.port q, v)])
    (husable : (queuedFor (s.takeCells p (fVc (slotsFrame slots)) (frameCells (fPlen (slotsFrame slots)))) p q v
      (frameCells (fPlen (slotsFrame slots))) slots).usable q = true) :
    s.enter p slots = (true, queuedFor (s.takeCells p (fVc (slotsFrame slots)) (frameCells (fPlen (slotsFrame slots)))) p q v
      (frameCells (fPlen (slotsFrame slots))) slots) := by
  rw [State.enter]
  dsimp only
  rw [if_neg hid, hfence, if_neg Bool.false_ne_true, hform, if_neg Bool.false_ne_true, huni, if_neg Bool.false_ne_true, hroute]
  exact congrArg (Prod.mk true) (if_pos husable)

end

/-- Settles O31. -/
theorem framesEnterSwitch : Obligations.FramesEnterSwitch := by
  constructor
  · intro s p
    refine ⟨fun f => exec_frameArrive_internal, fun h t hport => ?_, fun id w t h => exec_frameTail_last⟩
    intro u hcur hskip hslots
    rw [exec_frameArrive_header hport hcur hskip hslots]
    refine ⟨fun hbad => congrArg Host.Outcome.next (if_pos ?_), fun hgood => ?_⟩
    · rw [hbad]
      rfl
    · rw [hgood]
      exact ⟨fun hone => congrArg Host.Outcome.next (if_pos hone), fun hmore => congrArg Host.Outcome.next (if_neg hmore)⟩
  · intro s p slots f
    refine ⟨enter_noId, enter_fenced, enter_malformed, fun hid hfence hform huni => ⟨fun c o => enter_sunk hid hfence hform huni, ?_⟩⟩
    intro q v hroute n x h t husable
    exact enter_held hid hfence hform huni hroute husable

end Sys2Proof.Machine
end

section
/-! The route of a unicast frame, and the choice of a port for an adaptive copy (R353 to R359). -/

namespace Sys2Proof.Machine

variable {s : State} {f : Frame} {p : Nat}

/-! Steps 1 to 3 of R355. -/

/-- The state of a destination's entry in the route table. -/
def routeState (s : State) (f : Frame) : Nat := s.rfld (Reg.swcRoute (fDst f)) 41 40

theorem routeFirst_here (h : fDst f = s.flatId) : s.routeFirst f = some (.copies [(.port (s.deliverPort f), fVc f)]) := by
  rw [State.routeFirst]
  exact if_pos h

theorem not_noRoute (hst : routeState s f = 1 ∨ routeState s f = 2) (hcoord : s.coord = false ∨ (fDst f).testBit 15 = false) :
    ¬((routeState s f ≠ 1 ∧ routeState s f ≠ 2) ∨ (s.coord ∧ (fDst f).testBit 15)) := by
  rintro (⟨h1, h2⟩ | ⟨h1, h2⟩)
  · exact hst.elim h1 h2
  · obtain h | h := hcoord
    · exact absurd (h.symm.trans h1) Bool.false_ne_true
    · exact absurd (h.symm.trans h2) Bool.false_ne_true

section

variable (hid : fDst f ≠ s.flatId)
include hid

theorem routeFirst_noRoute (h : (routeState s f ≠ 1 ∧ routeState s f ≠ 2) ∨ (s.coord ∧ (fDst f).testBit 15)) :
    s.routeFirst f = some (.sink .noRoute 255) := by
  rw [State.routeFirst]
  exact (if_neg hid).trans (if_pos h)

theorem routeFirst_fenced (hst : routeState s f = 2) (hcoord : s.coord = false ∨ (fDst f).testBit 15 = false) :
    s.routeFirst f = some (.sink .fencedDst 255) := by
  rw [State.routeFirst]
  exact (if_neg hid).trans ((if_neg (not_noRoute (.inr hst) hcoord)).trans (if_pos hst))

theorem routeFirst_none (hst : routeState s f = 1) (hcoord : s.coord = false ∨ (fDst f).testBit 15 = false) :
    s.routeFirst f = none := by
  have h2 : ¬routeState s f = 2 := by omega
  rw [State.routeFirst]
  exact (if_neg hid).trans ((if_neg (not_noRoute (.inl hst) hcoord)).trans (if_neg h2))

end

/-! The route. -/

theorem routeOf_mirror (h : fType f = tyMIRROR) :
    s.routeOf f p = if p = 120 then .copies [(.port (s.deliverPort f), fVc f)] else .copies [(.port 120, fVc f)] := by
  rw [State.routeOf, if_pos (Or.inl h), if_pos (Or.inl h)]

theorem noPort_fenced {d : Nat} (h : s.fenced d = true) : s.noPort d = .sink .sinkOut d := if_pos h

theorem noPort_open {d : Nat} (h : s.fenced d = false) : s.noPort d = .sink .noRoute 255 := if_neg (ne_true_of_eq_false h)

section

variable (hmirror : fType f ≠ tyMIRROR) (hack : fType f ≠ tyMIRRORACK)
include hmirror hack

theorem routeOf_first {r : Routed} (h : s.routeFirst f = some r) : s.routeOf f p = r := by
  rw [State.routeOf, if_neg (not_or_intro hmirror hack), h]

theorem routeOf_adaptive (h : s.routeFirst f = none) (hvc : fVc f = vcREQ ∨ fVc f = vcRSP) :
    s.routeOf f p = if ((s.portsOf (fDst f)).1 :: (s.portsOf (fDst f)).2).any s.usable then .copies [(.adaptive, fVc f)]
      else s.noPort (s.portsOf (fDst f)).1 := by
  rw [State.routeOf, if_neg (not_or_intro hmirror hack), h]
  exact if_pos hvc

theorem routeOf_fixed (h : s.routeFirst f = none) (hvc : ¬(fVc f = vcREQ ∨ fVc f = vcRSP)) :
    s.routeOf f p = if (s.portsOf (fDst f)).1 != 0xFF && s.usable (s.portsOf (fDst f)).1 then
        .copies [(.port (s.portsOf (fDst f)).1, fVc f)] else s.noPort (s.portsOf (fDst f)).1 := by
  rw [State.routeOf, if_neg (not_or_intro hmirror hack), h]
  exact if_neg hvc

end

theorem not_any_usable {l : List Nat} (h : ∀ q ∈ l, s.usable q = false) : ¬l.any s.usable = true := by
  simpa using h

/-! The best candidate (R358). -/

/-- The candidate chosen has the most unconsumed credits, and is the lowest port of those that have as many. -/
theorem bestPort_spec {v : Nat} : ∀ {l : List Nat} {p : Nat}, bestPort s v l = some p → p ∈ l ∧ ∀ q ∈ l,
    unconsumed (s.link q) v ≤ unconsumed (s.link p) v ∧ (unconsumed (s.link q) v = unconsumed (s.link p) v → p ≤ q)
  | [], p, h => by cases h
  | x :: l, p, h => by
    rw [bestPort] at h
    cases hbest : bestPort s v l with
    | none =>
      rw [hbest] at h
      obtain rfl : x = p := Option.some.inj h
      have hnil : l = [] := by
        cases l with
        | nil => rfl
        | cons y l =>
          rw [bestPort] at hbest
          split at hbest
          · cases hbest
          · dsimp only at hbest
            split at hbest <;> cases hbest
      subst hnil
      refine ⟨List.mem_singleton_self x, fun q hq => ?_⟩
      obtain rfl := List.mem_singleton.mp hq
      exact ⟨Nat.le_refl _, fun _ => Nat.le_refl _⟩
    | some b =>
      obtain ⟨hb, hrest⟩ := bestPort_spec hbest
      rw [hbest] at h
      dsimp only at h
      split at h
      · next hx =>
        obtain rfl : x = p := Option.some.inj h
        refine ⟨List.mem_cons_self, fun q hq => ?_⟩
        obtain rfl | hq := List.mem_cons.mp hq
        · exact ⟨Nat.le_refl _, fun _ => Nat.le_refl _⟩
        · obtain ⟨hle, hlow⟩ := hrest q hq
          refine ⟨by omega, fun heq => ?_⟩
          have hlow' := hlow (by omega)
          omega
      · next hx =>
        obtain rfl : b = p := Option.some.inj h
        refine ⟨List.mem_cons_of_mem _ hb, fun q hq => ?_⟩
        obtain rfl | hq := List.mem_cons.mp hq
        · omega
        · exact hrest q hq

theorem bestPort_candidates {v n : Nat} {cs : List Nat}
    (h : bestPort s v (cs.filter fun p => s.usable p && s.hasCredit p v n) = some p) :
    p ∈ cs ∧ s.usable p = true ∧ ∀ q ∈ cs, s.usable q = true → s.hasCredit q v n = true →
      unconsumed (s.link q) v ≤ unconsumed (s.link p) v ∧ (unconsumed (s.link q) v = unconsumed (s.link p) v → p ≤ q) := by
  obtain ⟨hmem, hbest⟩ := bestPort_spec h
  obtain ⟨hcs, hok⟩ := List.mem_filter.mp hmem
  refine ⟨hcs, (Bool.and_eq_true_iff.mp hok).1, fun q hq husable hcredit => hbest q (List.mem_filter.mpr ⟨hq, ?_⟩)⟩
  rw [husable, hcredit]
  rfl

/-! An adaptive copy (R354, R355, R358, R359). -/

section

variable {id : Nat} {h : Held} {c : Copy}

/-- The copy as it joins port p on VC v, unless its frame is bad and that port would have it held whole. -/
def joined (s : State) (h : Held) (c : Copy) (p v : Nat) : State :=
  if h.bad && s.mustHold h ⟨.port p, v, s.nextJoin, s.clock⟩ then s.sinkBad h c
  else ({ s.setHeld { h with copies := h.copies.map fun x => if x = c then ⟨.port p, v, s.nextJoin, s.clock⟩ else x } with
    nextJoin := s.nextJoin + 1 }).onJoin p (fTc (heldFrame h))

/-- D, the candidates, and the best of those that a copy may take. -/
def dPort (s : State) (h : Held) : Nat := (s.portsOf (fDst (heldFrame h))).1
def candidates (s : State) (h : Held) : List Nat := (s.portsOf (fDst (heldFrame h))).2
def bestFor (s : State) (h : Held) (c : Copy) : Option Nat :=
  bestPort s c.vc ((candidates s h).filter fun p => s.usable p && s.hasCredit p c.vc h.cells)

variable (hheld : s.held1 id = some h) (hcopy : h.copies.find? (fun c => c.dest == .adaptive) = some c)
include hheld hcopy

theorem exec_adaptiveChoice_sunk {k : Cause} {o : Nat} (hroute : s.routeFirst (heldFrame h) = some (.sink k o)) :
    exec (.adaptiveChoice id) s = .next (s.dropCopy h c k o) := by
  rw [exec_adaptiveChoice, execAdaptiveChoice, hheld]
  dsimp only
  rw [hcopy]
  dsimp only
  rw [hroute]

theorem exec_adaptiveChoice_best (hroute : s.routeFirst (heldFrame h) = none) (hbest : bestFor s h c = some p) :
    exec (.adaptiveChoice id) s = .next (joined s h c p c.vc) := by
  rw [bestFor, candidates] at hbest
  rw [exec_adaptiveChoice, execAdaptiveChoice, hheld]
  dsimp only
  rw [hcopy]
  dsimp only
  rw [hroute]
  dsimp only
  rw [hbest]
  rfl

theorem exec_adaptiveChoice_noBest (hroute : s.routeFirst (heldFrame h) = none) (hbest : bestFor s h c = none) :
    exec (.adaptiveChoice id) s =
      if dPort s h ≠ 0xFF ∧ s.usable (dPort s h) = true ∧ s.hasCredit (dPort s h) (escVc c.vc) h.cells = true then
        .next (joined s h c (dPort s h) (escVc c.vc))
      else if (dPort s h :: candidates s h).any s.usable then .next s
      else match s.noPort (dPort s h) with
        | .sink k o => .next (s.dropCopy h c k o)
        | .copies _ => .next s := by
  rw [bestFor, candidates] at hbest
  rw [exec_adaptiveChoice, execAdaptiveChoice, hheld]
  dsimp only
  rw [hcopy]
  dsimp only
  rw [hroute]
  dsimp only
  rw [hbest]
  rfl

end

/-- Settles O32. -/
theorem routingDecides : Obligations.RoutingDecides := by
  constructor
  · intro s f p dst st d
    refine ⟨fun hmirror => ⟨fun hp => ?_, fun hp => ?_⟩, fun hmirror hack => ⟨fun hid => ?_, fun hid hst => ?_, fun hid hcoord hbit => ?_,
      fun hid hst hcoord => ?_, fun hid hst hcoord => ⟨fun hvc hany => ?_, fun hvc hnone hfenced => ?_, fun hreq hrsp hd husable => ?_,
        fun hreq hrsp hd husable hfenced => ?_, fun hreq hrsp husable hfenced => ?_⟩⟩⟩
    · rw [routeOf_mirror hmirror, if_pos hp]
    · rw [routeOf_mirror hmirror, if_neg hp]
    · exact routeOf_first hmirror hack (routeFirst_here hid)
    · refine routeOf_first hmirror hack (routeFirst_noRoute hid (.inl ?_))
      have hst' : routeState s f = 0 ∨ routeState s f = 3 := hst
      omega
    · exact routeOf_first hmirror hack (routeFirst_noRoute hid (.inr ⟨hcoord, hbit⟩))
    · exact routeOf_first hmirror hack (routeFirst_fenced hid hst hcoord)
    · rw [routeOf_adaptive hmirror hack (routeFirst_none hid hst hcoord) hvc]
      exact if_pos (List.any_eq_true.mpr hany)
    · rw [routeOf_adaptive hmirror hack (routeFirst_none hid hst hcoord) hvc]
      exact (if_neg (not_any_usable hnone)).trans (noPort_fenced hfenced)
    · rw [routeOf_fixed hmirror hack (routeFirst_none hid hst hcoord) (not_or_intro hreq hrsp)]
      exact if_pos (Bool.and_eq_true_iff.mpr ⟨bne_iff_ne.mpr hd, husable⟩)
    · rw [routeOf_fixed hmirror hack (routeFirst_none hid hst hcoord) (not_or_intro hreq hrsp), show s.usable _ = false from husable,
        Bool.and_false]
      exact noPort_fenced hfenced
    · rw [routeOf_fixed hmirror hack (routeFirst_none hid hst hcoord) (not_or_intro hreq hrsp), show s.usable _ = false from husable,
        Bool.and_false]
      exact noPort_open hfenced
  · intro s id h c hheld hcopy f d cs best copy join
    refine ⟨fun k o => exec_adaptiveChoice_sunk hheld hcopy, fun hroute => ⟨fun p hbest => ?_, fun hbest hd husable hcredit => ?_,
      fun hbest hnot hany => ?_, fun hbest hnone hfenced => ?_⟩⟩
    · exact ⟨exec_adaptiveChoice_best hheld hcopy hroute hbest, bestPort_candidates hbest⟩
    · exact (exec_adaptiveChoice_noBest hheld hcopy hroute hbest).trans (if_pos ⟨hd, husable, hcredit⟩)
    · refine (exec_adaptiveChoice_noBest hheld hcopy hroute hbest).trans ((if_neg ?_).trans (if_pos (List.any_eq_true.mpr hany)))
      rintro ⟨hd, _, hcredit⟩
      exact hnot.elim hd fun hno => Bool.false_ne_true (hno.symm.trans hcredit)
    · refine (exec_adaptiveChoice_noBest hheld hcopy hroute hbest).trans ((if_neg ?_).trans ((if_neg (not_any_usable hnone)).trans ?_))
      · rintro ⟨_, husable, _⟩
        exact Bool.false_ne_true ((hnone d List.mem_cons_self).symm.trans husable)
      · rw [show s.noPort (dPort s h) = _ from noPort_open hfenced]

end Sys2Proof.Machine
end

section
/-! Chunks that reach a slot, and the work of a SUM slot (R433 to R437, R444 to R447, R491, R503). -/

namespace Sys2Proof.Machine

variable {s v : State} {u n : Nat} {f : Frame} {x : Slot}

/-! Arrival. -/

theorem exec_chunk_arrives {d : Delivered} (hs : s.snoops = [])
    (hd : s.takeDeliv (fun d => d.port == 144 + u && fType d.frame == tyCHUNK) = some (d, v)) :
    exec (.chunk u) s = .next (v.chunkArrive u d.frame) := by
  rw [exec_chunk, execChunk, gatedColl_free hs, hd]

theorem chunkArrive_stale (h : v.genCurrent f = false) : v.chunkArrive u f = v.countStale := by
  rw [State.chunkArrive, h]
  rfl

section

variable (hgen : v.genCurrent f = true)
include hgen

theorem chunkArrive_noSlot (h : v.slot1 (chunkSlot f) = none) : v.chunkArrive u f = v.stuDrop u dropNOSLOT (ckColl f) := by
  rw [State.chunkArrive, hgen, h]
  rfl

variable (hslot : v.slot1 (chunkSlot f) = some x)
include hslot

theorem chunkArrive_otherColl (h : ckColl f ≠ x.coll) : v.chunkArrive u f = v.stuDrop u dropNOSLOT (ckColl f) := by
  rw [State.chunkArrive, hgen, hslot]
  exact if_pos h

variable (hcoll : ckColl f = x.coll)
include hcoll

theorem chunkArrive_oldAttempt (h : argAttempt (fArg f 2) < argAttempt x.arg2) : v.chunkArrive u f = v := by
  rw [State.chunkArrive, hgen, hslot]
  exact (if_neg (not_not_intro hcoll)).trans (if_pos h)

/-- A chunk of the slot's collective and attempt joins it, or is another sender's. -/
theorem chunkArrive_ours (h : argAttempt x.arg2 ≤ argAttempt (fArg f 2)) :
    v.chunkArrive u f = if ckRank f < x.nin ∧ x.src.getD (ckRank f) 0x10000 = fSrc f then
        { v.setSlot (chunkSlot f) (some { x with inbox := x.inbox ++ [(v.nextJoin, f)] }) with nextJoin := v.nextJoin + 1 }
      else v.stuDrop u dropBADCHUNK (ckColl f) := by
  rw [State.chunkArrive, hgen, hslot]
  exact (if_neg (not_not_intro hcoll)).trans (if_neg (Nat.not_lt.mpr h))

end

/-! SUM (R445 to R447). -/

theorem inputTest_fst (s : State) (n : Nat) (f : Frame) : (s.inputTest n f).1 = decide (ckPayloadCheck f ≠ ckCheck f) := by
  rw [State.inputTest]
  split
  · next h => exact (decide_eq_false (not_not_intro h)).symm
  · next h => exact (decide_eq_true h).symm

/-- A chunk of a SUM slot that is neither sent nor held already. -/
def fresh (x : Slot) (f : Frame) : Prop :=
  x.low ≤ ckNo f ∧ ckNo f ∉ x.sentUp ∧ (x.held.any fun i => i.j == ckNo f && i.rank == ckRank f) = false

/-- A SUM slot that has taken its next chunk f and holds it. -/
def sumHolds (x : Slot) (f : Frame) (t : List (Nat × Frame)) (ue : Option Nat) : Slot :=
  { x with
    inbox := t
    held := x.held ++ [⟨ckNo f, ckRank f, f, ckGood f && ckFmt f != 0xD, decide (ckPayloadCheck f ≠ ckCheck f)⟩]
    badAt := if ue.isSome then ckNo f :: x.badAt else x.badAt }

section

variable {ce : Nat} {ue : Option Nat} {wrong : Bool} {t : List (Nat × Frame)} (hs : s.snoops = []) (ht : Takes s n .sum x f t)
include hs ht

theorem exec_stuSum_again
    (h : ckNo f < x.low ∨ ckNo f ∈ x.sentUp ∨ (x.held.any fun i => i.j == ckNo f && i.rank == ckRank f) = true) :
    exec (.stuSum n ce ue wrong) s =
      .next ((s.setSlot n (some { x with inbox := t })).stuDrop (unitNow s n x t) dropDUP x.coll) := by
  rw [exec_stuSum, execStuSum, gatedColl_free hs, nextChunk_of ht]
  exact if_pos (h.imp_right (Or.imp_left List.contains_iff_mem.mpr))

theorem exec_stuSum_fresh (h : fresh x f) :
    exec (.stuSum n ce ue wrong) s =
      if x.low + x.w ≤ ckNo f then .next ((s.setSlot n (some { x with inbox := t })).stuDrop (unitNow s n x t) dropWINDOW x.coll)
      else if ((sumHolds x f t ue).held.filter fun i => i.j == ckNo f).length = x.nin then
        .next ((testedIn (workedOn s n ce ue x t) (unitNow s n x t) n (ckGood f && ckFmt f != 0xD) x f).sumSend n (sumHolds x f t ue)
          (ckNo f) wrong)
      else .next ((testedIn (workedOn s n ce ue x t) (unitNow s n x t) n (ckGood f && ckFmt f != 0xD) x f).setSlot n
        (some (sumHolds x f t ue))) := by
  obtain ⟨hlow, hsent, hheld⟩ := h
  have hnew : ¬(ckNo f < x.low ∨ x.sentUp.contains (ckNo f) = true ∨
      (x.held.any fun i => i.j == ckNo f && i.rank == ckRank f) = true) := by
    rintro (h | h | h)
    · omega
    · exact hsent (List.contains_iff_mem.mp h)
    · exact Bool.false_ne_true (hheld.symm.trans h)
  rw [exec_stuSum, execStuSum, gatedColl_free hs, nextChunk_of ht]
  dsimp only
  rw [if_neg hnew]
  simp only [inputTest_fst]
  rfl

end

/-- Settles O35. -/
theorem chunksReachSlots : Obligations.ChunksReachSlots := by
  constructor
  · intro s v u d hs hd f
    rw [exec_chunk_arrives hs hd]
    refine ⟨fun hgen => congrArg _ (chunkArrive_stale hgen), fun hgen hnone => congrArg _ (chunkArrive_noSlot hgen hnone),
      fun x hgen hslot => ⟨fun hcoll => congrArg _ (chunkArrive_otherColl hgen hslot hcoll),
        fun hcoll hold => congrArg _ (chunkArrive_oldAttempt hgen hslot hcoll hold), fun hcoll hnew => ?_⟩⟩
    rw [show v.chunkArrive u d.frame = _ from chunkArrive_ours hgen hslot hcoll hnew]
    refine ⟨fun hrank hsrc => congrArg _ (if_pos ⟨hrank, hsrc⟩), fun hother => congrArg _ (if_neg ?_)⟩
    rintro ⟨hrank, hsrc⟩
    exact hother.elim (Nat.not_le.mpr hrank) fun hne => hne hsrc
  · intro s n ce ue wrong x f t hs ht j u good w v y
    refine ⟨exec_stuSum_again hs ht, fun hlow hsent hheld => ?_⟩
    rw [exec_stuSum_fresh hs ht ⟨hlow, hsent, hheld⟩]
    refine ⟨fun hwindow => if_pos hwindow, fun hwindow => ?_⟩
    rw [if_neg (Nat.not_le.mpr hwindow)]
    exact ⟨fun hfull => if_pos hfull, fun hmore => if_neg hmore⟩

end Sys2Proof.Machine
end

section
/-! The work of GATHER_FIXED, sort, merge, filter and GATHER_LANES slots (R449 to R452, R462 to R469). -/

namespace Sys2Proof.Machine

variable {s : State} {n ce : Nat} {ue : Option Nat} {wrong : Bool} {x : Slot} {f : Frame} {t : List (Nat × Frame)}

/-- The module once slot n's next chunk, of records, has been taken and tested. -/
@[reducible] def recTested (s : State) (n ce : Nat) (ue : Option Nat) (x : Slot) (f : Frame) (t : List (Nat × Frame)) : State :=
  testedIn (workedOn s n ce ue x t) (unitNow s n x t) n (recGood x f) x f

/-- The slot once the records of that chunk have joined their input. -/
@[reducible] def recJoined (s : State) (n ce : Nat) (ue : Option Nat) (x : Slot) (f : Frame) (t : List (Nat × Frame)) : Slot :=
  addRecs (recSlot x f t ue) f ((recTested s n ce ue x f t).keyed (recSlot x f t ue) f (recsIn x f))

section

variable (hs : s.snoops = [])
include hs

theorem exec_stuGatherFixed_of (ht : Takes s n .gatherFixed x f t) (hout : x.outs.getD 0 .unset ≠ .unset) :
    let w := workedOn s n ce ue x t
    let g := (testedIn w (unitNow s n x t) n (ckGood f) x f).garbleIf (wrong || ue.isSome) f.payload
    exec (.stuGatherFixed n ce ue wrong) s = .next (g.2.inject (144 + unitNow s n x t)
      (gatherFrame g.2.flatId { x with inbox := t } f (!ckGood f || ue.isSome) g.1)) := by
  rw [exec_stuGatherFixed, execStuGatherFixed, gatedColl_free hs, nextChunk_of ht]
  exact congrArg Host.Outcome.next (if_neg hout)

theorem exec_stuSortLocal_of (ht : Takes s n .sortLocal x f t) (hrun : x.finished = false)
    (hfits : ((recJoined s n ce ue x f t).ins.map (·.seen)).sum * slotRecBytes (recJoined s n ce ue x f t) ≤
      (recJoined s n ce ue x f t).pages * 4096) :
    let v := recTested s n ce ue x f t
    let a := recJoined s n ce ue x f t
    let p := v.packAll n { a with ins := a.ins.map fun i => { i with recs := [] } } 0 wrong
      ((sortRecs a.desc (a.ins.flatMap (·.recs))).map (·.2))
    let e := p.2.packEnd n p.1 (ckNo f)
    exec (.stuSortLocal n ce ue wrong) s = if allEnded a then .next (e.2.setSlot n (some e.1)) else .next (v.setSlot n (some a)) := by
  have hgoes : ¬(recSlot x f t ue).finished = true := ne_true_of_eq_false hrun
  intros
  rw [exec_stuSortLocal, execStuSortLocal, gatedColl_free hs, recChunk_of ht]
  dsimp only
  rw [if_neg hgoes, if_neg (Nat.not_lt.mpr hfits)]

theorem exec_stuSortMerge_of (ht : Takes s n .sortMerge x f t) :
    let v := recTested s n ce ue x f t
    let y := recSlot x f t ue
    let ks := v.keyed y f (recsIn x f)
    let a := addRecs y f ks
    let o := inOrder y.desc (slotIn y (ckRank f)).prev (ks.map (·.1))
    let b := { setIn a (ckRank f) { slotIn a (ckRank f) with prev := o.2 } with bad := a.bad || !o.1 }
    let m := mergeGo b.desc ((b.ins.map fun i => i.recs.length).sum) b.ins
    let p := v.packAll n { b with ins := m.2 } 0 wrong m.1
    let e := p.2.packEnd n p.1 (ckNo f)
    exec (.stuSortMerge n ce ue wrong) s = .next (if allEnded p.1 && (p.1.ins.all fun i => i.recs.isEmpty) && !p.1.finished then
      e.2.setSlot n (some e.1) else p.2.setSlot n (some p.1)) := by
  intros
  rw [exec_stuSortMerge, execStuSortMerge, gatedColl_free hs, recChunk_of ht, apply_ite Host.Outcome.next]

theorem exec_stuFilter_of (ht : Takes s n .filter x f t) :
    let v := recTested s n ce ue x f t
    let y := recSlot x f t ue
    let p := v.filterAll n y (v.kernelWords y.kernel) wrong (ckOffset f) (recsIn x f)
    let e := p.2.packEnd n p.1 (ckNo f)
    exec (.stuFilter n ce ue wrong) s = .next (if ckLast f && !p.1.finished then
      ((e.2.setSlot n (some e.1)).filterDone e.1.h e.1.dropped).admitColls else p.2.setSlot n (some p.1)) := by
  intros
  rw [exec_stuFilter, execStuFilter, gatedColl_free hs, recChunk_of ht, apply_ite Host.Outcome.next]

theorem exec_stuGatherLanes_of (ht : Takes s n .gatherLanes x f t) :
    let v := recTested s n ce ue x f t
    let b := laneAdd (recSlot x f t ue) f (recsIn x f)
    exec (.stuGatherLanes n ce ue wrong) s =
      .next (if allEnded b && !b.finished then (v.lanesEnd n b wrong).admitColls else v.setSlot n (some b)) := by
  intros
  rw [exec_stuGatherLanes, execStuGatherLanes, gatedColl_free hs, recChunk_of ht, apply_ite Host.Outcome.next]

end

/-- Settles O39. -/
theorem recordSlotsWork : Obligations.RecordSlotsWork := by
  intro s n ce ue wrong x f t hs w
  refine ⟨exec_stuGatherFixed_of hs, ?_⟩
  intro v y ks a
  refine ⟨fun ht hrun hfits => ⟨fun hmore => ?_, fun hended => ?_⟩, exec_stuSortMerge_of hs, exec_stuFilter_of hs, exec_stuGatherLanes_of hs⟩
  · exact (exec_stuSortLocal_of hs ht hrun hfits).trans (if_neg (ne_true_of_eq_false hmore))
  · exact (exec_stuSortLocal_of hs ht hrun hfits).trans (if_pos hended)

end Sys2Proof.Machine
end

section
/-! Results of sums, what waits for them, and the end of a collective (R493, R499 to R503). -/

namespace Sys2Proof.Machine

variable {s u : State} {c : Coll} {f : Frame}

/-! RESULT of a sum (R499, R502). -/

/-- RESULT of a sum acts on the collective that it names. -/
theorem exec_result_sum (hs : s.snoops = []) (hn : Names s u tyRESULT c f) (hsum : dSum c.desc = true) :
    exec .result s = .next ((u.sumResult c f).admitColls) := by
  rw [exec_result, execResult, gatedColl_free hs, takeColl_of hn, if_pos hsum]

/-- A chunk of a sum that the module awaits: past none of the stripe's chunks, and not passed yet. -/
def awaited (c : Coll) (f : Frame) : Prop :=
  fld (hw f 2) 31 16 < stripeChunks c (frStripe f) ∧ frStripe f < dS c.desc ∧ (frStripe f, fld (hw f 2) 31 16) ∉ c.passed

/-- A chunk of a sum that its own check confirms. -/
def confirmed (f : Frame) : Bool := ckGood f && ckFmt f == 0xB && checkOf (ckElems f) == ckCheck f

theorem sumResult_awaited (h : awaited c f) : u.sumResult c f =
    if ckBad f then u.failColl c.h 3 5 0xFFFF
    else if confirmed f then (u.passResult c.h (frStripe f) f).push c.h (frStripe f)
    else if collRoot c (frStripe f) = c.me then u.failColl c.h 3 3 0xFFFF
    else u.missResult c (frStripe f) (fld (hw f 2) 31 16) := by
  obtain ⟨hchunk, hstripe, hnew⟩ := h
  rw [State.sumResult]
  refine if_neg ?_
  rintro (h | h | h)
  · omega
  · omega
  · exact hnew (List.contains_iff_mem.mp h)

/-! What waits for a result (R501, R502). -/

section

variable {h stripe k : Nat} (hs : s.snoops = []) (hc : s.coll h = some c)
include hs hc

theorem exec_resultVisible_of (hpassed : (stripe, k) ∈ c.passed) (hnew : (stripe, k) ∉ c.visible) :
    exec (.resultVisible h stripe k) s =
      .next (((s.setColl { c with visible := (stripe, k) :: c.visible }).push h stripe).admitColls) := by
  rw [exec_resultVisible, execResultVisible, gatedColl_free hs, hc]
  refine if_pos ?_
  rw [Bool.and_eq_true, Bool.not_eq_true', ← Bool.not_eq_true, List.contains_iff_mem, List.contains_iff_mem]
  exact ⟨hpassed, hnew⟩

theorem exec_retxRepeat_of (hmissed : ∃ x ∈ c.misses, x.1 = (stripe, k)) (hnew : (stripe, k) ∉ c.passed) :
    let v := (s.setColl { c with retx := c.retx + 1 }).rcount Reg.stuCollStat 47 32 1
    exec (.retxRepeat h stripe k) s = .next
      ((v.sendCtl h stripe (ctlFrame v c tyRETX (gId c.grp (collRoot c stripe)) stripe (noWord c k) 0 0)).admitColls) := by
  rw [exec_retxRepeat, execRetxRepeat, gatedColl_free hs, hc]
  refine if_pos ?_
  obtain ⟨x, hx, hname⟩ := hmissed
  rw [Bool.and_eq_true, Bool.not_eq_true', ← Bool.not_eq_true, List.contains_iff_mem, List.any_eq_true]
  exact ⟨⟨x, hx, beq_iff_eq.mpr hname⟩, hnew⟩

end

/-! The end of a collective (R493). -/

theorem mputs_colls (s : State) (ws : Writes) : (s.mputs ws).colls = s.colls := by rw [mputs_frame]

/-- The module once a collective has left its table with its requests. -/
def leftTable (s : State) (h : Nat) : State :=
  { s with colls := s.colls.filter fun x => x.h != h, reqs := s.reqs.filter fun r => !(r.who == Requester.coll h) }

/-- The module once the collective's completion record stands, and COUNT follows. -/
def recorded (s : State) (h code cause lost : Nat) (c : Coll) : State :=
  ((leftTable s h).mputBytes c.record (wordsBytes (recordWords c code cause lost))).rsetFld Reg.stuCollStat 10 0 (leftTable s h).colls.length

theorem finish_of {h id code cause lost : Nat} (hc : s.coll h = some c) (hwho : c.who = .work id) (hroles : c.roles = [])
    (hunsent : s.unsent = []) :
    s.finish h code cause lost = (if code = 0 then recorded s h code cause lost c
      else (recorded s h code cause lost c).rcount Reg.stuCollStat 31 16 1).tellLauncher (.work id) code cause := by
  have hpump : ({ s with colls := s.colls.filter (fun x => x.h != h), reqs := s.reqs.filter (fun r => !(r.who == Requester.coll h))
                         unsent := s.unsent.filter (fun u => !(u.req.who == Requester.coll h)) }).pump = leftTable s h := by
    rw [State.pump, leftTable]
    rw [hunsent]
    rfl
  have hslots : (leftTable s h).dropSlots c = leftTable s h := by
    rw [State.dropSlots, hroles]
    rfl
  rw [State.finish, hc]
  dsimp only
  rw [hpump, hslots, show ((leftTable s h).mputBytes c.record _).colls = _ from mputs_colls _ _, hwho]
  rfl

/-- Settles O42. -/
theorem resultsAndEnds : Obligations.ResultsAndEnds := by
  constructor
  · intro s u c f hs st j good
    refine ⟨fun hn hsum hchunk hstripe hnew => ?_, fun h stripe k hc => ⟨exec_resultVisible_of hs hc, exec_retxRepeat_of hs hc, ?_⟩⟩
    · rw [exec_result_sum hs hn hsum, sumResult_awaited ⟨hchunk, hstripe, hnew⟩]
      refine ⟨fun hbad => ?_, fun hbad hgood => ?_, fun hbad hgood hroot => ?_, fun hbad hgood hroot => ?_⟩
      · rw [if_pos hbad]
      · rw [if_neg (ne_true_of_eq_false hbad)]
        exact congrArg (fun v => Host.Outcome.next (State.admitColls v)) (if_pos hgood)
      · rw [if_neg (ne_true_of_eq_false hbad), show confirmed f = false from hgood, if_neg Bool.false_ne_true, if_pos hroot]
      · rw [if_neg (ne_true_of_eq_false hbad), show confirmed f = false from hgood, if_neg Bool.false_ne_true, if_neg hroot]
    · rw [exec_reserveRetry, execReserveRetry, gatedColl_free hs]
  · intro s h code cause lost id c hc hwho hroles hunsent t r
    rw [finish_of hc hwho hroles hunsent, State.tellLauncher]
    refine ⟨fun hcode => ?_, fun hcode => ?_⟩
    · rw [if_pos hcode, if_pos hcode]
      rfl
    · rw [if_neg hcode, if_neg hcode]
      rfl

end Sys2Proof.Machine
end

section
/-! Descriptors: turned away, or acting on rings and flows (R538 to R541, R548, R551, R554). -/

namespace Sys2Proof.Machine

variable {s u : State} {n op : Nat} {d : List Word}

/-! The row of a descriptor. -/

theorem runDesc_none (h : s.takeDesc op = none) (act : Nat → List Word → State → State) : runDesc s op act = .next s := by
  rw [runDesc, h]

theorem runDesc_refused {st det : Nat} {res : Word} (h : s.takeDesc op = some (n, d, u)) (hjudge : s.judge n d = some (st, res, det))
    (act : Nat → List Word → State → State) : runDesc s op act = .next (u.complete n d st res det false) := by
  rw [runDesc, h]
  dsimp only
  rw [hjudge]

theorem runDesc_served (h : Served s op n d u) (act : Nat → List Word → State → State) : runDesc s op act = .next (act n d u) := by
  rw [runDesc, h.1]
  dsimp only
  rw [h.2]

theorem execColl_runs (hs : s.snoops = []) : execColl s = runDesc s opCOLL fun n d s =>
    match (s.startWork n d).2.localKey (wkSource d) 192 with
    | some k => (s.startWork n d).2.askColl (.work (s.startWork n d).1.id) (wkFlow d) k ((s.startWork n d).2.physOf (wkCore d))
    | none => (s.startWork n d).2 := by
  rw [execColl]
  exact gated_free hs

/-- Every operation of R540 has a row that acts on a descriptor that runs. -/
theorem descRow_runs (hs : s.snoops = []) {data : List Byte} {fail : Option Nat} {x : Nat × Instr} (hx : x ∈ descRow data fail) :
    ∃ act, exec x.2 s = runDesc s x.1 act := by
  simp only [descRow, List.mem_cons, List.not_mem_nil, or_false] at hx
  obtain rfl | rfl | rfl | rfl | rfl | rfl | rfl | rfl | rfl | rfl | rfl | rfl | rfl := hx
  · exact ⟨_, exec_nop s⟩
  · exact ⟨_, exec_launch s⟩
  · exact ⟨_, exec_pload data fail s⟩
  · exact ⟨_, exec_copy data fail s⟩
  · exact ⟨_, (exec_coll s).trans (execColl_runs hs)⟩
  · exact ⟨_, exec_flowsend data fail s⟩
  · exact ⟨_, exec_createSq s⟩
  · exact ⟨_, exec_createCq s⟩
  · exact ⟨_, exec_deleteSq s⟩
  · exact ⟨_, exec_deleteCq s⟩
  · exact ⟨_, exec_openFlow s⟩
  · exact ⟨_, exec_closeFlow s⟩
  · exact ⟨_, exec_resetFlow s⟩

/-! Work that starts. -/

theorem startWork_eq (u : State) (n : Nat) (d : List Word) : u.startWork n d = (newWork u.nextWork n d, started u n d) := rfl

theorem started_sqs (u : State) (n : Nat) (d : List Word) : (started u n d).sqs = u.sqs := by
  unfold started
  dsimp only
  split <;> rfl

/-- Settles O44. -/
theorem ringCommandsAct : Obligations.RingCommandsAct := by
  intro s u n d hs w3
  refine ⟨fun data fail x hx st res det htake hjudge => ?_, fun data fail x hx htake => ?_, fun h => ?_, fun h => ?_, fun h hop => ?_,
    fun h hop q hq => ?_, fun h => ?_, fun h => ?_, fun h => ⟨fun hidle => ?_, fun hbusy hop => ?_⟩, fun h => ?_⟩
  · obtain ⟨act, hact⟩ := descRow_runs hs hx
    exact hact.trans (runDesc_refused htake hjudge act)
  · obtain ⟨act, hact⟩ := descRow_runs hs hx
    exact hact.trans (runDesc_none htake act)
  · exact (exec_nop s).trans (runDesc_served h _)
  · exact (exec_createCq s).trans (runDesc_served h _)
  · rw [exec_createSq, execCreateSq, runDesc_served h, startWork_eq]
    dsimp only
    rw [started_sqs]
    rfl
  · rw [exec_deleteSq, execDeleteSq, runDesc_served h, startWork_eq]
    dsimp only
    rw [State.sq, started_sqs, show u.sqs.find? _ = some q from hq]
    rfl
  · exact (exec_deleteCq s).trans (runDesc_served h _)
  · exact (exec_openFlow s).trans (runDesc_served h _)
  · refine (exec_closeFlow s).trans ((runDesc_served h _).trans ?_)
    exact congrArg Host.Outcome.next (if_pos hidle)
  · refine (exec_closeFlow s).trans ((runDesc_served h _).trans ?_)
    exact congrArg Host.Outcome.next (if_neg hbusy)
  · exact (exec_resetFlow s).trans (runDesc_served h _)

end Sys2Proof.Machine
end

section
/-! LAUNCH, COLL, PLOAD, COPY and FLOWSEND start (R518, R540, R543 to R547). -/

namespace Sys2Proof.Machine

variable {s u : State} {n : Nat} {d : List Word}

theorem runData_served {op : Nat} (h : Served s op n d u) (data : List Byte) (fail : Option Nat) :
    runData s op data fail = .next ((started u n d).beginWork (newWork u.nextWork n d) data fail) := by
  rw [runData, runDesc_served h, startWork_eq]

/-- Work that a descriptor of operations 1 to 5 starts counts with its flow. -/
theorem started_flows (h : 1 ≤ wkOp d ∧ wkOp d ≤ 5) :
    (started u n d).flows = (u.setFlow (wkFlow d) { u.flow (wkFlow d) with work := (u.flow (wkFlow d)).work + 1 }).flows := by
  rw [started, if_pos h]

/-- Host memory is out of reach without full operation. -/
theorem beginWork_unreached {v : State} {w : Work} (data : List Byte) (fail : Option Nat) (hsrc : wkSrcHost w.desc = true)
    (hdst : wkOp w.desc ≠ opCOPY ∨ wkDstHost w.desc = true) (hdown : v.hostUp = false) :
    v.beginWork w data fail = (v.setWork { w with formed := true, bytes := [] }).boundsWork w.id (wkSource w.desc) 3 := by
  have hlocal : ¬(wkOp w.desc = opCOPY ∧ wkDstHost w.desc = false) := by
    rintro ⟨hcopy, hhere⟩
    exact hdst.elim (fun h => h hcopy) fun h => Bool.false_ne_true (hhere.symm.trans h)
  rw [State.beginWork]
  dsimp only
  rw [if_neg hlocal, hsrc, hdown]
  rfl

/-- Settles O45. -/
theorem workDescriptorsStart : Obligations.WorkDescriptorsStart := by
  intro s u n d hs
  refine ⟨fun h hop => ?_, fun h k hk => ?_, fun data fail => ⟨fun h => ?_, fun h => ?_, fun h => ?_⟩,
    fun v w data fail => beginWork_unreached data fail⟩
  · intro v x
    refine ⟨(exec_launch s).trans (runDesc_served h _), ?_⟩
    rw [State.flow, State.flow, show v.flows = _ from started_flows (by rw [hop]; decide)]
  · rw [exec_coll, execColl_runs hs, runDesc_served h]
    simp only [startWork_eq]
    rw [hk]
    rfl
  · exact (exec_pload data fail s).trans (runData_served h data fail)
  · exact (exec_copy data fail s).trans (runData_served h data fail)
  · exact (exec_flowsend data fail s).trans (runData_served h data fail)

end Sys2Proof.Machine
end

section
/-! The host link, its resets, and the set-up lock (R518, R559 to R569, R594, R632, R712). -/

namespace Sys2Proof.Machine

variable {s : State}

/-! Training and ENABLE. -/

/-- The link can train: its reset is off, its island works and is clocked, the module is out of reset. -/
theorem execHostLinkTrain_ready {w r : Nat} {tail : Bool} (hperst : s.perst = false) (hisland : s.partLost 48 = false)
    (hclk : s.mg.pins.hostClk = true) (hrst : s.mg.pins.modRst = false) :
    let u := s.rsetFld Reg.hifStatus 4 0 w
    let v := u.rsetBit Reg.hifStatus 5 true
    let v := if w = 16 then v else v.raise evHOST_LINK_DEGRADED sevINFO [(8, w), (8, r)]
    execHostLinkTrain w r s tail = if r == 64 && (w == 16 || w == 8 || w == 4) then
        .next (if v.rbit Reg.hifStatus 6 then v else v.resumeRings tail)
      else .next ((u.rsetFld Reg.hifStatus 6 5 0).raise evHOST_LINK_DEGRADED sevCONTAINED [(8, w), (8, r)]) := by
  intro u v v'
  have hgo : (s.perst || s.partLost 48 || !s.mg.pins.hostClk || s.mg.pins.modRst) = false := by
    rw [hperst, hisland, hclk, hrst]
    rfl
  rw [execHostLinkTrain, hgo]
  rfl

theorem fullOperation_iff (w r : Nat) : (r == 64 && (w == 16 || w == 8 || w == 4)) = true ↔ r = 64 ∧ (w = 16 ∨ w = 8 ∨ w = 4) := by
  simp [or_assoc]

theorem writeEnable_same {v : Bool} (h : v = s.rbit Reg.hifCtrl 0) (tail : Bool) : s.writeEnable v tail = s := by
  rw [State.writeEnable, ← h]
  cases v <;> rfl

/-! The host-interface reset (R559, R560). -/

theorem mputWord_works (s : State) (k : Nat) (w : Word) : (s.mputWord k w).works = s.works := by rw [mputWord_frame]

theorem freeBuffer_works (s : State) (set k j : Nat) : (freeBuffer s set k j).works = s.works := by
  rw [freeBuffer, setPool_works, mputWord_works]

theorem dropStage_works (s : State) (a : Nat) : (s.dropStage a).works = s.works := by
  rw [State.dropStage]
  split
  · exact (freeBuffer_works _ _ _ _).trans (mputWord_works s _ _)
  · rfl

theorem dropLine_works (s : State) (k : Nat) : (s.dropLine k).works = s.works := by
  rw [State.dropLine]
  split <;> rfl

/-- A fold whose every step leaves the work list alone leaves it alone. -/
theorem foldl_works {α : Type} {f : State → α → State} (h : ∀ s x, (f s x).works = s.works) (l : List α) :
    ∀ s : State, (l.foldl f s).works = s.works := by
  induction l with
  | nil => intro s; rfl
  | cons x l ih => intro s; exact (ih (f s x)).trans (h s x)

/-- The staging buffers of an SQ are freed. -/
def dropStages (s : State) (q : Sq) : State := q.staged.foldl (fun s x => s.dropStage x.buf) s

theorem dropStages_works (s : State) (q : Sq) : (dropStages s q).works = s.works :=
  foldl_works (f := fun (s : State) (x : Staged) => s.dropStage x.buf) (fun s x => dropStage_works s x.buf) q.staged s

theorem dropRings_works (s : State) : s.dropRings.works = s.works :=
  calc s.dropRings.works
    _ = ((s.sqs.foldl dropStages s).lines.foldl (fun (s : State) (x : Nat × Bool) => s.dropLine x.1) (s.sqs.foldl dropStages s)).works := rfl
    _ = (s.sqs.foldl dropStages s).works :=
      foldl_works (f := fun (s : State) (x : Nat × Bool) => s.dropLine x.1) (fun s x => dropLine_works s x.1) _ _
    _ = s.works := foldl_works dropStages_works s.sqs s

theorem hifReset_works (s : State) : s.hifReset.works = s.works.map cutWork := by
  rw [← dropRings_works s]
  rfl

/-! The set-up lock (R565 to R567, R632). -/

theorem exec_request_locked (hlocked : s.rbit Reg.hifSetupLock 1 = true) (hidle : s.rfld Reg.hifSetupUnlock 2 1 ≠ 1) :
    exec .request s = .next (if s.rfld Reg.fuseSec 13 12 = 0 then s.unlock 0
      else if s.rfld Reg.fuseSec 13 12 = 3 then s.rsetFld Reg.hifSetupUnlock 2 1 3 else s.rsetFld Reg.hifSetupUnlock 2 1 1) := by
  have hgo : (s.rbit Reg.hifSetupLock 1 && s.rfld Reg.hifSetupUnlock 2 1 != 1) = true := by
    rw [hlocked, bne_iff_ne.mpr hidle]
    rfl
  rw [exec_request, execRequest, if_pos hgo]

theorem exec_request_ignored (h : s.rbit Reg.hifSetupLock 1 = false ∨ s.rfld Reg.hifSetupUnlock 2 1 = 1) : exec .request s = .next s := by
  rw [exec_request, execRequest]
  refine if_neg ?_
  rw [Bool.and_eq_true, bne_iff_ne]
  rintro ⟨hlocked, hidle⟩
  exact h.elim (fun hopen => Bool.false_ne_true (hopen.symm.trans hlocked)) hidle

/-- Settles O47. -/
theorem hostLinkAndLock : Obligations.HostLinkAndLock := by
  constructor
  · intro s w r b tail
    refine ⟨fun hperst hisland hclk hrst => ?_, exec_hostFullOperationLoss s, exec_perstN s, exec_perstNDeassert s, exec_hotReset s,
      exec_linkDisable s, exec_functionLevelReset s, exec_hifReset s, ?_, exec_hostInterfaceIslandFails s, rfl, hifReset_works s⟩
    · intro u v v'
      have htrain := @execHostLinkTrain_ready s w r tail hperst hisland hclk hrst
      exact ⟨fun hr hw => (exec_hostLinkTrain w r tail s).trans (htrain.trans (if_pos ((fullOperation_iff w r).mpr ⟨hr, hw⟩))),
        fun hless => (exec_hostLinkTrain w r tail s).trans (htrain.trans (if_neg fun h => hless ((fullOperation_iff w r).mp h)))⟩
    · intro was u
      refine ⟨fun hb hwas => ?_, fun hb hwas => ?_, fun hb => ?_⟩
      · rw [exec_hifEnable, execHifEnable, State.writeEnable, hb, show s.rbit Reg.hifCtrl 0 = false from hwas]
        rfl
      · rw [exec_hifEnable, execHifEnable, State.writeEnable, hb, show s.rbit Reg.hifCtrl 0 = true from hwas]
        rfl
      · rw [exec_hifEnable, execHifEnable, writeEnable_same hb]
  · intro s
    refine ⟨⟨exec_lock s, fun v => rfl⟩, fun hlocked hidle => ?_, exec_request_ignored, fun hwaits => ?_⟩
    · rw [exec_request_locked hlocked hidle]
      refine ⟨fun hfree => ?_, fun hnone => ?_, fun hfree hnone => ?_⟩
      · rw [if_pos hfree]
        rfl
      · rw [if_neg (by omega), if_pos hnone]
      · rw [if_neg hfree, if_neg hnone]
    · rw [exec_unlockAuthTimeout, execUnlockAuthTimeout, if_pos hwaits]

end Sys2Proof.Machine
end

section
/-! Commits, their mirror to the twin, and the twin's side (R577 to R583). -/

namespace Sys2Proof.Machine

variable {s u : State} {step : Word} {x : MirrorTx}

/-! TWN_COMMIT (R578, R581). -/

theorem exec_twnCommit_idle (hidle : s.rfld Reg.twnStatus 2 0 ≠ 1) :
    exec (.twnCommit step) s = if s.commitReason step ≠ 0 then
        .next (((s.rsetFld Reg.twnStatus 2 0 3).rsetFld Reg.twnStatus 7 4 (s.commitReason step)).raise evCOMMIT_REFUSED sevCONTAINED
          [(64, step.toNat), (8, s.commitReason step)])
      else if s.rbit Reg.twnCfg 2 || s.regions.isEmpty then .next (mirrorAt (({ s with mirrorStep := step }).committed step) none)
      else .next (mirrorAt ((({ s with mirrorStep := step }).rsetFld Reg.twnStatus 2 0 1).rsetFld Reg.twnStatus 7 4 0)
        (some ⟨step, 0, 0, 0, [], false⟩)) := by
  rw [exec_twnCommit, execTwnCommit, if_neg hidle]
  rfl

/-! The mirror engine (R581, R583). -/

theorem engine_runs (h : Mirrors s x) : ¬(x.done || s.rfld Reg.twnStatus 2 0 != 1) = true := by
  obtain ⟨-, hdone, hbusy⟩ := h
  rw [hdone, hbusy]
  decide

theorem exec_mirrorInject_seal (h : Mirrors s x) (hall : s.regions.length ≤ x.region) :
    exec .mirrorInject s =
      .next (mirrorAt (s.inject 143 (s.mirrorFrame x 0 (1 <<< 9) 0 (manifestBytes x.manifest))) (some { x with done := true })) := by
  rw [exec_mirrorInject, execMirrorInject, h.1]
  exact (if_neg (engine_runs h)).trans (if_pos hall)

/-- The 4 KiB of region x.region that the engine sends next go out, and x follows. -/
theorem exec_mirrorInject_page {k : Nat} (hs : s.snoops = []) (h : Mirrors s x) (hmore : x.region < s.regions.length)
    (hk : s.localKey (s.rgnBase x.region + x.step.toNat % 2 * s.rgnBytes x.region + x.off) 4096 = some k)
    (hclean : s.badIn k 4096 = []) :
    let addr := s.rfld (s.lstatOf 120) 23 8 <<< 48 + 2 <<< 46 + s.rgnHold x.region + x.step.toNat % 2 * s.rgnBytes x.region + x.off
    let sum := (x.sum + mulMod (powMod (x.off / 4)) (checkBytes (s.mbytes k 4096))) % chkP
    exec .mirrorInject s = .next (mirrorAt (s.inject 143 (s.mirrorFrame x addr x.region x.off (s.mbytes k 4096)))
      (some (if s.rgnBytes x.region ≤ x.off + 4096
        then { x with region := x.region + 1, off := 0, sum := 0, manifest := x.manifest ++ [(sum, s.rgnBytes x.region)] }
        else { x with off := x.off + 4096, sum := sum }))) := by
  have hstill : ¬s.rfld Reg.twnStatus 2 0 ≠ 1 := not_not_intro h.2.2
  rw [exec_mirrorInject, execMirrorInject, h.1]
  dsimp only
  rw [if_neg (engine_runs h), if_neg (Nat.not_le.mpr hmore), hk]
  dsimp only
  rw [gated_free hs, rdMem_clean hclean]
  dsimp only
  rw [if_neg hstill]
  rfl

theorem exec_mirrorack_of {d : Delivered} (hd : s.takeDeliv (fun d => fType d.frame == tyMIRRORACK) = some (d, u)) (hx : u.mg.mirror = some x)
    (hdone : x.done = true) (hbusy : u.rfld Reg.twnStatus 2 0 = 1) (hstep : fArg d.frame 0 = x.step)
    (hbank : (bit (hw d.frame 3) 40).toNat = x.step.toNat % 2) :
    exec .mirrorack s = .next (if fld (hw d.frame 3) 39 32 = 0 then u.committed x.step else u.mirrorFail (fld (hw d.frame 3) 39 32)) := by
  have hours : (x.done && u.rfld Reg.twnStatus 2 0 == 1 && fArg d.frame 0 == x.step &&
      (bit (hw d.frame 3) 40).toNat == x.step.toNat % 2) = true := by
    simp [hdone, hbusy, hstep, hbank]
  rw [exec_mirrorack, execMirrorack, hd]
  dsimp only
  rw [hx]
  exact if_pos hours

theorem exec_mirrorAckTimeout_of (hx : s.mg.mirror = some x) (hdone : x.done = true) :
    exec .mirrorAckTimeout s = .next (s.mirrorFail 5) := by
  rw [exec_mirrorAckTimeout, execMirrorAckTimeout, hx]
  exact congrArg Host.Outcome.next (if_pos hdone)

/-! The twin's side (R577, R581, R583). -/

section

variable {d : Delivered} {f : Frame}

theorem twinFor_first (h : mirrorFirst f = true) : u.twinFor f = (⟨fArg f 0, (bit (hw f 3) 40).toNat, [], false, none, fSrc f⟩,
    u.rput (Reg.twnHeld (bit (hw f 3) 40).toNat) (BitVec.allOnes 64)) := by
  rw [State.twinFor]
  split
  · exact if_neg fun hgoes => Bool.false_ne_true (hgoes.2.2.symm.trans h)
  · rfl

/-- The address of byte o of the hold area. -/
def holdAddr (u : State) (o : Nat) : Nat := u.flatId <<< 48 + 2 <<< 46 + u.rfld Reg.twnHoldBase 39 12 * 4096 + o

/-- Offset of a MIRROR frame's bytes in the hold area. -/
def mirrorOff (f : Frame) : Nat := bitsN (fAddr f).toNat 45 0

variable (hs : s.snoops = []) (hd : s.mirrorIn false = some (d, u))
include hd

theorem exec_mirror_unready (hready : u.twinReady = false) : exec .mirror s = .next u := by
  rw [exec_mirror, execMirror, hd]
  dsimp only
  rw [hready]
  rfl

variable (hready : u.twinReady = true)
include hs hready

theorem exec_mirror_placed {k : Nat} (hin : mirrorOff d.frame + d.frame.payload.length ≤ u.holdBytes)
    (hk : u.localKey (holdAddr u (mirrorOff d.frame)) d.frame.payload.length = some k) :
    let x := (u.twinFor d.frame).1
    let r := fld (hw d.frame 3) 39 32
    let sum := (tabGet (fun _ => 0) x.checks r + mulMod (powMod ((fArg d.frame 1).toNat / 4)) (checkBytes d.frame.payload)) % chkP
    exec .mirror s = .next (twinAt ((u.twinFor d.frame).2.mputBytes k d.frame.payload)
      (some { x with checks := tabSet (fun _ => 0) x.checks r sum })) := by
  rw [mirrorOff] at hin
  rw [holdAddr, mirrorOff] at hk
  rw [exec_mirror, execMirror, hd]
  dsimp only
  rw [hready, gated_free hs, if_pos hin, hk]
  rfl

theorem exec_mirror_outside (hout : u.holdBytes < mirrorOff d.frame + d.frame.payload.length) :
    exec .mirror s = .next (twinAt (u.twinFor d.frame).2 (some { (u.twinFor d.frame).1 with bounds := true })) := by
  have hnot : ¬(bitsN (fAddr d.frame).toNat 45 0 + d.frame.payload.length ≤ u.holdBytes) := Nat.not_le.mpr hout
  rw [exec_mirror, execMirror, hd]
  dsimp only
  rw [hready, gated_free hs, if_neg hnot]
  rfl

end

theorem exec_twnSeal_of {d : Delivered} (hd : s.mirrorIn true = some (d, u)) :
    exec .twnSeal s = .next (twinAt (u.twinFor d.frame).2
      (some { (u.twinFor d.frame).1 with manifest := some d.frame.payload, src := fSrc d.frame })) := by
  rw [exec_twnSeal, execSeal, hd]
  rfl

/-- The module once the step that has been sealed is held, where its checks agree. -/
def sealedAt (s : State) (y : TwinRx) (man : List Byte) : State :=
  twinAt (if s.sealStatus y man = 0 then s.rput (Reg.twnHeld y.bank) y.step else s) none

theorem exec_sealVerify_of {y : TwinRx} {man : List Byte} (hy : s.mg.twinIn = some y) (hman : y.manifest = some man)
    (hvisible : ∀ d ∈ s.deliv, fType d.frame ≠ tyMIRROR) :
    exec .sealVerify s = .next ((sealedAt s y man).askClass0 1 143 (mkFrame {
      dst := y.src, src := (sealedAt s y man).flatId, tc := 0, vc := vcGUAR, ty := tyMIRRORACK, flow := 0, tag := 0, addr := 0
      aux := s.sealStatus y man + y.bank <<< 8, arg0 := y.step })).2 := by
  have hnone : ¬s.deliv.any (fun d => fType d.frame == tyMIRROR) = true := by
    rw [List.any_eq_true]
    rintro ⟨d, hd, htype⟩
    exact hvisible d hd (beq_iff_eq.mp htype)
  rw [exec_sealVerify, execSealVerify, hy]
  dsimp only
  rw [hman]
  dsimp only
  rw [if_neg hnone]
  rfl

/-- Settles O48. -/
theorem twinMirrors : Obligations.TwinMirrors := by
  constructor
  · intro s step x hs setRes begun
    refine ⟨fun hbusy => ?_, fun hidle => ?_, exec_mirrorInject_seal, ?_, fun d u => exec_mirrorack_of, exec_mirrorAckTimeout_of⟩
    · rw [exec_twnCommit, execTwnCommit, if_pos hbusy]
    · rw [exec_twnCommit_idle hidle]
      refine ⟨fun hwhy => if_pos hwhy, fun hgood hdone => ?_, fun hgood htwin hregions => ?_⟩
      · rw [if_neg (not_not_intro hgood)]
        refine if_pos ?_
        rw [Bool.or_eq_true, List.isEmpty_iff]
        exact hdone
      · rw [if_neg (not_not_intro hgood)]
        refine if_neg ?_
        rw [htwin, Bool.false_or, List.isEmpty_iff]
        exact hregions
    · intro hm hmore k hk hclean bytes v addr sum
      have hgood : s.badIn k 4096 = [] := badIn_clean hclean k 4096
      have hread : s.rdMem k 4096 = (s.mbytes k 4096, s) := rdMem_clean hgood
      have hv : v = s := congrArg Prod.snd hread
      have hbytes : bytes = s.mbytes k 4096 := congrArg Prod.fst hread
      refine ⟨hv, ?_⟩
      simp only [addr, sum, hv, hbytes]
      exact exec_mirrorInject_page hs hm hmore hk hgood
  · intro s u d hs f n o x v hold
    refine ⟨rfl, fun hfirst => ?_, fun hd hready => ⟨fun hin k hk => ?_, fun hout => ?_⟩, fun hd hready => exec_mirror_unready hd hready,
      fun hd => exec_twnSeal_of hd, fun y man hy hman hvisible => ?_⟩
    · exact ⟨congrArg Prod.fst (twinFor_first hfirst), congrArg Prod.snd (twinFor_first hfirst)⟩
    · exact exec_mirror_placed hs hd hready hin hk
    · exact exec_mirror_outside hs hd hready hout
    · exact exec_sealVerify_of hy hman hvisible

end Sys2Proof.Machine
end

section
/-! Cross-checks by spare cores, capture slots, and replays (R606 to R609, R613). -/

namespace Sys2Proof.Machine

variable {s : State} {k : Nat} {c : Capture} {bytes : List Byte}

/-! XCHK_SPARE_DONE (R606). -/

/-- The capture with what its first spare has written. -/
def withResult (c : Capture) (bytes : List Byte) : Capture := { c with result := (c.expect.map (·.1)).zip bytes }

/-- The spare that runs a capture's command second. -/
def secondSpare (s : State) (c : Capture) : Option Nat := (upFrom 0 192).find? fun n => n != c.check1 && s.spareFree n

section

variable (hc : s.capture k = some c) (hopen : c.kept = false)
include hc hopen

theorem exec_xchkSpareDone_first (hfirst : c.check2 = 0xFF) :
    exec (.xchkSpareDone k bytes) s = if bytes = c.expect.map (·.2) then .next (s.setCapture k none)
      else match secondSpare s c with
        | none => .next (s.verdict k (withResult c bytes) 2)
        | some sp => .next (((s.setCapture k (some { withResult c bytes with check2 := sp })).clearPewter sp).mputs
            ((s.mem.filter fun x => decide (x.1 / 2 ^ 23 = c.check1)).map fun x => (pewKey sp (x.1 % 2 ^ 23), x.2))) := by
  rw [exec_xchkSpareDone, execXchkSpareDone, hc]
  dsimp only
  rw [if_neg (ne_true_of_eq_false hopen), if_pos hfirst]
  rfl

theorem exec_xchkSpareDone_second (hsecond : c.check2 ≠ 0xFF) :
    exec (.xchkSpareDone k bytes) s =
      .next (s.verdict k c (if bytes = c.expect.map (·.2) then 0 else if bytes = c.result.map (·.2) then 1 else 2)) := by
  rw [exec_xchkSpareDone, execXchkSpareDone, hc]
  dsimp only
  rw [if_neg (ne_true_of_eq_false hopen), if_neg hsecond]

end

theorem secondSpare_none (h : ∀ n < 192, n ≠ c.check1 → s.spareFree n = false) : secondSpare s c = none := by
  refine List.find?_eq_none.mpr fun n hn => ?_
  rw [Bool.and_eq_true, bne_iff_ne]
  rintro ⟨hother, hfree⟩
  have hlt : n < 192 := by
    have := (mem_upFrom 192 0 n).mp hn
    omega
  exact Bool.false_ne_true ((h n hlt hother).symm.trans hfree)

/-! Capture slots and replays (R608, R609). -/

theorem exec_free_of (hc : s.capture k = some c) : exec (.free k) s =
    .next (if c.kept then (s.rsetFld Reg.twnReplay 3 0 k).setCapture k none else s.rsetFld Reg.twnReplay 3 0 k) := by
  have hstill : (s.rsetFld Reg.twnReplay 3 0 k).capture k = some c := hc
  rw [exec_free, execFree]
  rw [hstill]

/-- The module with a replay asked for: its slot and count. -/
def replayAsked (s : State) (k count : Nat) : State := (s.rsetFld Reg.twnReplay 3 0 k).rsetFld Reg.twnReplay 19 4 count

theorem exec_go_of {count key : Nat} (hc : s.capture k = some c) (hkey : (replayAsked s k count).captureKey k = some key)
    (hkept : c.kept = true) (hboundary : (replayAsked s k count).boundaryOk = true)
    (hst : (replayAsked s k count).rfld Reg.twnReplay 23 22 = 0 ∨ (replayAsked s k count).rfld Reg.twnReplay 23 22 = 3) :
    let u := replayAsked s k count
    let v := (u.setMg fun m => { m with replayHalf := c.phys / 96, replayClk := u.clockOf (c.phys / 96) }).setClock (c.phys / 96)
      (fld (u.mword (key + 4 * 2 ^ 20 + 16)) 43 32 / 50)
    exec (.go k count) s = .next ((v.rsetFld Reg.twnReplay 23 22 1).rsetBit Reg.twnReplay 24 false) := by
  have hstill : (replayAsked s k count).capture k = some c := hc
  have hgo : (c.kept && (replayAsked s k count).boundaryOk && ((replayAsked s k count).rfld Reg.twnReplay 23 22 == 0 ||
      (replayAsked s k count).rfld Reg.twnReplay 23 22 == 3)) = true := by
    rw [hkept, hboundary, Bool.true_and, Bool.true_and, Bool.or_eq_true, beq_iff_eq, beq_iff_eq]
    exact hst
  rw [exec_go, execGo]
  dsimp only
  rw [← replayAsked, hstill, hkey]
  exact if_pos hgo

/-- Settles O50. -/
theorem crossChecksJudge : Obligations.CrossChecksJudge := by
  intro s k c bytes hc
  refine ⟨fun hopen hfirst hagrees => ?_, fun hopen hfirst hdiffers hnone => ?_, fun sp hopen hfirst hdiffers hsp => ?_,
    exec_xchkSpareDone_second hc, exec_free_of hc, fun count key => exec_go_of hc,
    fun m t v => ⟨fun hheat => ⟨?_, ?_⟩, fun hrun => ?_⟩, exec_fatalClear s⟩
  · rw [exec_xchkSpareDone_first hc hopen hfirst, if_pos hagrees]
  · rw [exec_xchkSpareDone_first hc hopen hfirst, if_neg hdiffers, secondSpare_none hnone]
    rfl
  · rw [exec_xchkSpareDone_first hc hopen hfirst, if_neg hdiffers, show secondSpare s c = some sp from hsp]
    rfl
  · rw [exec_replayHeatDone, execReplayHeatDone, if_pos hheat]
  · rw [exec_replayHeatTimeout, execReplayHeatTimeout, if_pos hheat]
  · rw [exec_replayRunDone, execReplayRunDone, if_pos hrun]

end Sys2Proof.Machine
end

section
/-! Fence commands (R585 to R588). -/

namespace Sys2Proof.Machine

variable {s u : State} {via : Nat} {sess : Option Nat} {msg : List Word} {r : MgReq} {b : List Byte}

/-- The row of a command's OP handles it, and answers with its acknowledgment. -/
theorem fenceRow_of (h : Handles s u opFENCE via sess msg r (fun b => b.length == 64)) {fop : Nat} (hop : fcOp (mgBody r.bytes) = fop) :
    fenceRow fop via sess msg s =
      .next ((u.fenceCommand (mgBody r.bytes)).2.mgAnswer r mgOK (u.fenceCommand (mgBody r.bytes)).1) := by
  have hdue : (fcOp (mgBody r.bytes) == fop || fcOp (mgBody r.bytes) == 0 || decide (7 < fcOp (mgBody r.bytes)) ||
      decide (mgLen r.bytes ≠ 64)) = true := by
    rw [beq_iff_eq.mpr hop]
    rfl
  rw [fenceRow, h.1]
  exact (if_pos hdue).trans (mgHandle_of h)

/-! Applied or rejected (R586, R588). -/

theorem fcSend_unasked {n : Nat} (h : fcAck b = 0) : s.fcSend b n = (false, s) := by
  rw [State.fcSend, if_pos (Or.inl h)]

theorem fenceCommand_applied (hack : fcAck b = 0) (hok : fcRejected b = false) (hepoch : u.rfld Reg.twnFence 31 0 ≤ fcEpoch b) :
    let v := (((u.fcEffect b).rsetFld Reg.twnFence 31 0 (fcEpoch b)).rcount Reg.twnFence 47 32 1).raise evFENCE_APPLIED sevINFO []
    u.fenceCommand b = (v.fcAckBytes b 0, v) := by
  intro v
  have hresult : (if fcRejected b then 1 else if fcEpoch b < u.rfld Reg.twnFence 31 0 then 2 else 0) = 0 := by
    rw [if_neg (ne_true_of_eq_false hok), if_neg (Nat.not_lt.mpr hepoch)]
  rw [State.fenceCommand]
  dsimp only
  rw [hresult, if_pos rfl, fcSend_unasked hack]
  rfl

theorem fenceCommand_rejected (hack : fcAck b = 0) (hno : fcRejected b = true ∨ fcEpoch b < u.rfld Reg.twnFence 31 0) :
    let v := (u.rcount Reg.twnFence 63 48 1).raise evFENCE_REJECTED sevCONTAINED []
    u.fenceCommand b = (v.fcAckBytes b (if fcRejected b then 1 else 2), v) := by
  intro v
  have hresult : (if fcRejected b then 1 else if fcEpoch b < u.rfld Reg.twnFence 31 0 then 2 else 0) = (if fcRejected b then 1 else 2) := by
    by_cases hbad : fcRejected b = true
    · rw [if_pos hbad, if_pos hbad]
    · rw [if_neg hbad, if_neg hbad, if_pos (hno.resolve_left hbad)]
  have hne : (if fcRejected b then 1 else 2) ≠ 0 := by split <;> decide
  rw [State.fenceCommand]
  dsimp only
  rw [hresult, if_neg hne, fcSend_unasked hack]
  dsimp only
  rw [if_neg fun h => hne h.1]

/-- Settles O52. -/
theorem fenceCommandsApply : Obligations.FenceCommandsApply := by
  intro s u via sess msg r h b done
  refine ⟨fun hop => ?_, fun hop => ?_, fun hop => ?_, fun hop => ?_, fun hop => ?_, fun hop => ?_, fun hop => ?_,
    fun hack => ⟨fenceCommand_applied hack, fenceCommand_rejected hack⟩, fun hop => ?_, fun hop => ?_, fun hop hmarked => ?_,
    fun hop => ?_, fun hop => ?_, fun hop => ?_, fun hop => ?_⟩
  · exact (exec_fencePorts via sess msg s).trans (fenceRow_of h hop)
  · exact (exec_unfencePorts via sess msg s).trans (fenceRow_of h hop)
  · exact (exec_markFenced via sess msg s).trans (fenceRow_of h hop)
  · exact (exec_markValid via sess msg s).trans (fenceRow_of h hop)
  · exact (exec_soloOn via sess msg s).trans (fenceRow_of h hop)
  · exact (exec_soloOff via sess msg s).trans (fenceRow_of h hop)
  · exact (exec_enterTungsten via sess msg s).trans (fenceRow_of h hop)
  · rw [State.fcEffect, hop]
    rfl
  · rw [State.fcEffect, hop]
    rfl
  · rw [State.fcEffect, hop]
    exact if_pos hmarked
  · rw [State.fcEffect, hop]
    rfl
  · rw [State.fcEffect, hop]
    rfl
  · rw [State.fcEffect, hop]
    rfl
  · rw [State.fcEffect, hop]
    rfl

end Sys2Proof.Machine
end

section
/-! Management messages that may not be had, and who may have which (R617 to R625). -/

namespace Sys2Proof.Machine

variable {s u : State} {op via : Nat} {sess : Option Nat} {msg : List Word} {r : MgReq} {fits : List Byte → Bool}
  {act : State → MgReq → List Byte → State}

/-! The row of a message. -/

theorem mgHandle_stray {id : Nat} (ht : s.mgTake op via (some id) msg = some (r, u)) (hnone : s.session (viaIface via) id = none) :
    mgHandle s op via (some id) msg fits act = .next (u.sessionFail (viaIface via) spdmInvalidSession) := by
  rw [mgHandle, ht]
  dsimp only
  rw [hnone]
  rfl

/-- What becomes of a message whose session, if it names one, is there. -/
theorem mgHandle_known (ht : s.mgTake op via sess msg = some (r, u))
    (hknown : ∀ id, sess = some id → (s.session (viaIface via) id).isSome = true) :
    mgHandle s op via sess msg fits act = if mgOp r.bytes ≠ op then .next (u.mgAnswer r mgBAD_MSG [])
      else if !u.mgAllowed (viaIface via) op r.owner then .next (u.mgRefuse r)
      else if mgFormed r.bytes && fits (mgBody r.bytes) then .next (act u r (mgBody r.bytes))
      else .next (u.mgAnswer r mgBAD_MSG []) := by
  rw [mgHandle, ht]
  cases sess with
  | none => rfl
  | some id =>
    dsimp only
    rw [hknown id rfl]
    rfl

/-- Every operation of R622 but FENCE and MODULE_RESET has a row that handles its message. -/
theorem mgRow_handles {x : Nat × Instr} (hx : x ∈ mgRow via sess msg) :
    ∃ fits act, exec x.2 s = mgHandle s x.1 via sess msg fits act := by
  simp only [mgRow, List.mem_cons, List.not_mem_nil, or_false] at hx
  obtain rfl | rfl | rfl | rfl | rfl | rfl | rfl | rfl | rfl | rfl | rfl | rfl | rfl := hx
  · exact ⟨_, _, exec_readReg via sess msg s⟩
  · exact ⟨_, _, exec_writeReg via sess msg s⟩
  · exact ⟨_, _, exec_profileWrite via sess msg s⟩
  · exact ⟨_, _, exec_kernelCommit via sess msg s⟩
  · exact ⟨_, _, exec_throttleCap via sess msg s⟩
  · exact ⟨_, _, exec_logRead via sess msg s⟩
  · exact ⟨_, _, exec_sensorRead via sess msg s⟩
  · exact ⟨_, _, exec_repairRead via sess msg s⟩
  · exact ⟨_, _, exec_unlockAuth via sess msg s⟩
  · exact ⟨_, _, exec_fwCommitSvn via sess msg s⟩
  · exact ⟨_, _, exec_fuseBlowMap via sess msg s⟩
  · exact ⟨_, _, exec_fuseBlowOwner via sess msg s⟩
  · exact ⟨_, _, exec_profileRoute via sess msg s⟩

/-! Who may have an operation (R625). -/

theorem mgAllowed_anyone {i : Nat} {own : Bool} (h : mgClass op = some 0 ∨ mgClass op = some 1) : s.mgAllowed i op own = true := by
  rw [State.mgAllowed]
  obtain h | h := h
  · rw [h]
    rfl
  · rw [h]
    rfl

theorem mgAllowed_setUp {i : Nat} {own : Bool} (h : mgClass op = some 2) : s.mgAllowed i op own =
    if i = 1 then !s.rbit Reg.fuseSec 15 else !s.rbit Reg.fuseSec (if i = 0 then 16 else 17) && (!s.rbit Reg.fuseSec 14 || own) := by
  rw [State.mgAllowed, h]
  rfl

theorem mgAllowed_secure {i : Nat} {own : Bool} (h : mgClass op = some 3) : s.mgAllowed i op own =
    if i = 1 then false else if i = 0 then own || (op == 0x0E && !s.rbit Reg.fuseSec 19) else own && op != 0x0E := by
  rw [State.mgAllowed, h]
  rfl

/-- Settles O53. -/
theorem messagesRefused : Obligations.MessagesRefused := by
  constructor
  · intro s u via sess msg r x hx ht
    obtain ⟨fits, act, hrow⟩ := mgRow_handles (s := s) hx
    refine ⟨fun id hid hnone => ?_, fun hknown => ?_⟩
    · subst hid
      exact hrow.trans (mgHandle_stray ht hnone)
    · rw [hrow, mgHandle_known ht hknown]
      refine ⟨fun hop => if_pos hop, fun hop hno => ?_, fun hop hyes hbad => ?_⟩
      · rw [if_neg (not_not_intro hop), hno]
        rfl
      · rw [if_neg (not_not_intro hop), hyes, hbad]
        rfl
  · intro s i op own
    refine ⟨mgAllowed_anyone, fun h => ⟨?_, ?_, ?_⟩, fun h => ⟨?_, ?_, ?_⟩⟩
    · exact (mgAllowed_setUp h).trans (if_pos rfl)
    · exact (mgAllowed_setUp h).trans (if_neg (by decide))
    · exact (mgAllowed_setUp h).trans (if_neg (by decide))
    · exact (mgAllowed_secure h).trans (if_pos rfl)
    · exact (mgAllowed_secure h).trans ((if_neg (by decide)).trans (if_pos rfl))
    · exact (mgAllowed_secure h).trans ((if_neg (by decide)).trans (if_neg (by decide)))

end Sys2Proof.Machine
end

section
/-! The MCTP endpoint, the SPDM connection and its sessions, and the IDE keys (R617, R618, R638, R659 to R664). -/

namespace Sys2Proof.Machine

variable {s u : State} {i id : Nat} {sess : Option Nat} {d : Option Delivered}

/-! MCTP control (R617, R618, R638). -/

section

variable {b : Nat}

theorem mctpRuns_host_recovery (h : s.mg.recovery = true) : s.mctpRuns 1 = false := by
  rw [State.mctpRuns, State.mgRuns, h]
  simp

variable (hruns : s.mctpRuns b = true)
include hruns

theorem exec_setEndpointId_given {e : Nat} (hzero : e ≠ 0) (hall : e ≠ 0xFF) : exec (.setEndpointId b e) s =
    .next ((s.setMg fun m => { m with eids := tabSet (fun _ => 0) m.eids b e }).emit (.mctpRsp b 0x01 [0, 0, BitVec.ofNat 8 e, 0])) := by
  rw [exec_setEndpointId, execSetEndpointId, hruns]
  exact if_neg (not_or_intro hzero hall)

theorem exec_setEndpointId_none {e : Nat} (h : e = 0 ∨ e = 0xFF) :
    exec (.setEndpointId b e) s = .next (s.emit (.mctpRsp b 0x01 [2])) := by
  rw [exec_setEndpointId, execSetEndpointId, hruns]
  exact if_pos h

theorem exec_getEndpointId_runs : exec (.getEndpointId b) s =
    .next (s.emit (.mctpRsp b 0x02 [0, BitVec.ofNat 8 (tabGet (fun _ => 0) s.mg.eids b), 0, 0])) := by
  rw [exec_getEndpointId, execGetEndpointId, hruns]
  rfl

theorem exec_getMctpVersionSupport_known {ty : Nat} (h : ty = 0xFF ∨ BitVec.ofNat 8 ty ∈ s.mctpTypes b) :
    exec (.getMctpVersionSupport b ty) s = .next ((s.drawBytes 4).2.emit (.mctpRsp b 0x04 ([0, 1] ++ (s.drawBytes 4).1))) := by
  rw [exec_getMctpVersionSupport, execGetMctpVersionSupport, hruns]
  exact if_pos (h.imp_right List.contains_iff_mem.mpr)

theorem exec_getMctpVersionSupport_unknown {ty : Nat} (hall : ty ≠ 0xFF) (hnot : BitVec.ofNat 8 ty ∉ s.mctpTypes b) :
    exec (.getMctpVersionSupport b ty) s = .next (s.emit (.mctpRsp b 0x04 [0x80])) := by
  rw [exec_getMctpVersionSupport, execGetMctpVersionSupport, hruns]
  exact if_neg (not_or_intro hall fun h => hnot (List.contains_iff_mem.mp h))

theorem exec_getMessageTypeSupport_runs : exec (.getMessageTypeSupport b) s =
    .next (s.emit (.mctpRsp b 0x05 ([0, BitVec.ofNat 8 (s.mctpTypes b).length] ++ s.mctpTypes b))) := by
  rw [exec_getMessageTypeSupport, execGetMessageTypeSupport, hruns]
  rfl

theorem exec_getVendorDefinedMessageSupport_first {sel : Nat} (h : sel = 0) :
    exec (.getVendorDefinedMessageSupport b sel) s = .next ((s.drawBytes 2).2.emit (.mctpRsp b 0x06
      ([0, 0xFF, 1] ++ (leBytes 4 (s.rfld Reg.fuseSec 63 32)).reverse ++ (s.drawBytes 2).1))) := by
  rw [exec_getVendorDefinedMessageSupport, execGetVendorDefinedMessageSupport, hruns]
  exact if_pos h

theorem exec_getVendorDefinedMessageSupport_other {sel : Nat} (h : sel ≠ 0) :
    exec (.getVendorDefinedMessageSupport b sel) s = .next (s.emit (.mctpRsp b 0x06 [2])) := by
  rw [exec_getVendorDefinedMessageSupport, execGetVendorDefinedMessageSupport, hruns]
  exact if_neg h

end

/-! The connection (R659, R660, R663, R664). -/

/-- A request that comes before the connection has come as far as it needs. -/
theorem spdmHandle_early {code need : Nat} (ht : s.spdmTake i code none = some (d, u)) (hearly : u.spdmAt i < need)
    (act : State → Option Delivered → State) :
    spdmHandle s i code none need act = .next (u.spdmError i none d spdmUnexpectedRequest) := by
  rw [spdmHandle, ht]
  exact if_pos hearly

/-- The measurements that an answer for block op carries. -/
def measurement (u : State) (op : Nat) : List Byte :=
  spdmMsg 0x60 0 0 ([1] ++ leBytes 3 (u.measureBlock op).length ++ u.measureBlock op ++ (u.drawBytes 32).1 ++ leBytes 2 0)

section

variable {op restarts : Nat} {nonce : List Byte} (h : Asked s u i 0xE0 sess 3 d) (hlow : 1 ≤ op) (hhigh : op ≤ 9)
include h hlow hhigh

/-- GET_MEASUREMENTS of one block. -/
theorem exec_getMeasurements_one (sign : Bool) :
    exec (.getMeasurements i sess op sign nonce restarts) s = .next (if 8 < restarts ∧ op = 9 then u.spdmError i sess d spdmBusy
      else (u.drawBytes 32).2.spdmAnswer i sess d
        (if sign then measurement u op ++ Config.deviceSign (nonce ++ measurement u op) else measurement u op)) := by
  have hzero : ¬op = 0 := by omega
  have hone : (if op = 0xFF then upFrom 1 9 else if 1 ≤ op ∧ op ≤ 9 then [op] else []) = [op] := by
    rw [if_neg (by omega), if_pos ⟨hlow, hhigh⟩]
  have hsome : ¬(op ≠ 0 ∧ [op].isEmpty = true) := by simp
  have hbusy : (8 < restarts ∧ [op].contains 9 = true) ↔ (8 < restarts ∧ op = 9) := by
    rw [List.contains_iff_mem, List.mem_singleton, eq_comm]
  have hblock : [op].flatMap u.measureBlock = u.measureBlock op := by
    rw [List.flatMap_singleton]
  rw [exec_getMeasurements, execGetMeasurements, spdmHandle_of h]
  dsimp only
  rw [hone, if_neg hsome, if_neg hzero, hblock]
  exact congrArg Host.Outcome.next (ite_congr (propext hbusy) (fun _ => rfl) fun _ => rfl)

end

/-! Sessions (R661). -/

section

variable {x : Session} {root : List Byte} (ht : s.spdmTake i 0xE5 (some id) = some (d, u)) (hx : u.openSession i id = some x)
include ht hx

theorem exec_finish_good : exec (.finish i id root true) s = .next ((u.setSessions fun l => l.map fun y =>
    if y.id = id then { y with est := true, owner := x.mutAuth && u.ownerRoot root } else y).spdmAnswer i (some id) d (spdmMsg 0x65 0 0 [])) := by
  rw [exec_finish, execFinish, ht]
  dsimp only
  rw [hx]
  rfl

theorem exec_finish_bad : exec (.finish i id root false) s =
    .next (((u.setSessions fun l => l.filter fun y => y.id != id).sessionFail i spdmDecryptError).spdmError i none d spdmDecryptError) := by
  rw [exec_finish, execFinish, ht]
  dsimp only
  rw [hx]
  rfl

end

theorem exec_keyExchange_good {mu : Bool} (h : Asked s u i 0xE4 none 3 d) (hroom : u.mg.sessions.length < 4) :
    let k := u.mg.nextSession
    let m := spdmMsg 0x64 0 0 (leBytes 2 k ++ [BitVec.ofNat 8 mu.toNat, 0] ++ (u.drawBytes 128).1)
    exec (.keyExchange i mu true) s = .next (((u.drawBytes 128).2.setMg fun g =>
      { g with sessions := g.sessions ++ [⟨k, i, mu, false, false, 0⟩], nextSession := k + 1 }).spdmAnswer i none d (m ++ Config.deviceSign m)) := by
  intro k m
  have hfree : ¬4 ≤ u.mg.sessions.length := Nat.not_le.mpr hroom
  rw [exec_keyExchange, execKeyExchange, spdmHandle_of h]
  dsimp only
  rw [if_neg (by decide), if_neg hfree]

theorem sessionRow_good {code : Nat} (h : Asked s u i code (some id) 0 d) (act : State → State) :
    sessionRow s i id code true act = .next ((act u).spdmAnswer i (some id) d (spdmMsg (code - 0x80) 0 0 [])) := by
  rw [sessionRow, spdmHandle_of h, if_pos rfl]

theorem sessionRow_bad {code : Nat} (h : Asked s u i code (some id) 0 d) (act : State → State) :
    sessionRow s i id code false act = .next ((u.sessionFail i spdmDecryptError).spdmError i none d spdmDecryptError) := by
  rw [sessionRow, spdmHandle_of h, if_neg Bool.false_ne_true]

/-! IDE keys (R662). -/

theorem ide_inSession : ¬((1 : Nat) ≠ 1 ∨ some id = none) := by simp

/-- Settles O55. -/
theorem mctpAndSpdmAnswer : Obligations.MctpAndSpdmAnswer := by
  refine ⟨fun s b e ty sel => ⟨fun hruns => ⟨exec_setEndpointId_given hruns, exec_setEndpointId_none hruns, exec_getEndpointId_runs hruns,
    exec_getMctpVersionSupport_known hruns, exec_getMctpVersionSupport_unknown hruns, exec_getMessageTypeSupport_runs hruns,
    exec_getVendorDefinedMessageSupport_first hruns, exec_getVendorDefinedMessageSupport_other hruns⟩, fun hoff => ?_,
    mctpRuns_host_recovery⟩, ?_, ?_⟩
  · refine ⟨?_, ?_, ?_, ?_, ?_⟩
    · rw [exec_setEndpointId, execSetEndpointId, hoff]
      rfl
    · rw [exec_getEndpointId, execGetEndpointId, hoff]
      rfl
    · rw [exec_getMctpVersionSupport, execGetMctpVersionSupport, hoff]
      rfl
    · rw [exec_getMessageTypeSupport, execGetMessageTypeSupport, hoff]
      rfl
    · rw [exec_getVendorDefinedMessageSupport, execGetVendorDefinedMessageSupport, hoff]
      rfl
  · intro s u i sess d nonce
    refine ⟨fun h => ?_, fun h => ?_, fun h => ⟨?_, ?_⟩, fun h => ?_, fun h off len => ?_, fun h => ?_, fun h op restarts hlow hhigh => ?_,
      fun ht hearly m ok => ?_⟩
    · rw [exec_getVersion, execGetVersion, spdmHandle_of h]
    · intro v
      rw [exec_getCapabilities, execGetCapabilities, spdmHandle_of h]
    · rw [exec_negotiateAlgorithms, execNegotiateAlgorithms, spdmHandle_of h, if_pos rfl]
    · rw [exec_negotiateAlgorithms, execNegotiateAlgorithms, spdmHandle_of h, if_neg Bool.false_ne_true]
    · rw [exec_getDigests, execGetDigests, spdmHandle_of h]
    · intro part
      rw [exec_getCertificate, exec_getCertificate, execGetCertificate, execGetCertificate, spdmHandle_of h, spdmHandle_of h,
        if_neg (not_not_intro rfl), if_pos Nat.one_ne_zero]
      exact ⟨rfl, rfl⟩
    · intro body
      rw [exec_challenge, execChallenge, spdmHandle_of h, if_neg (not_not_intro rfl)]
    · intro m
      refine ⟨fun hgoes => ?_, fun hnine hbusy => ?_⟩
      · have hnot : ¬(8 < restarts ∧ op = 9) := by omega
        rw [exec_getMeasurements_one h hlow hhigh, exec_getMeasurements_one h hlow hhigh, if_neg hnot, if_neg hnot]
        exact ⟨rfl, rfl⟩
      · rw [exec_getMeasurements_one h hlow hhigh, if_pos ⟨hbusy, hnine⟩]
    · rw [exec_keyExchange, execKeyExchange, spdmHandle_early ht hearly]
  · intro s u i id sess d
    refine ⟨fun h mu => ⟨exec_keyExchange_good h, fun hfull => ?_, ?_⟩, fun ht x root hx => ⟨exec_finish_good ht hx, exec_finish_bad ht hx⟩,
      fun h => ⟨?_, ?_⟩, fun h => ?_, fun h => ?_, fun h data => ⟨?_, ?_, ?_⟩, fun h hout => ⟨?_, fun obj data => ?_⟩⟩
    · rw [exec_keyExchange, execKeyExchange, spdmHandle_of h, if_neg (by decide), if_pos hfull]
    · rw [exec_keyExchange, execKeyExchange, spdmHandle_of h]
      rfl
    · exact (exec_heartbeat i id true s).trans (sessionRow_good h _)
    · exact (exec_heartbeat i id false s).trans (sessionRow_bad h _)
    · exact (exec_keyUpdate i id true s).trans (sessionRow_good h _)
    · exact (exec_endSession i id true s).trans (sessionRow_good h _)
    · rw [exec_vendorDefinedRequest, execVendorDefinedRequest, spdmHandle_of h, if_neg ide_inSession, if_neg (by decide), if_pos rfl]
    · rw [exec_vendorDefinedRequest, execVendorDefinedRequest, spdmHandle_of h, if_neg ide_inSession, if_neg (by decide),
        if_neg (by decide), if_pos rfl]
    · rw [exec_kSetGo, execKSetGo, spdmHandle_of h, if_neg ide_inSession]
    · rw [exec_kSetGo, execKSetGo, spdmHandle_of h, if_pos hout]
    · rw [exec_vendorDefinedRequest, execVendorDefinedRequest, spdmHandle_of h, if_pos hout]

end Sys2Proof.Machine
end
